-- ==== Sys2Proof/Word.lean ====
section
/-! DEFINITION. The word types of the Kelong: 64-bit scalars and symbol words, 32-bit lanes and masks, bytes,
and the vector register as its 32 lanes (00 R4, 04 R71). -/

namespace Sys2Proof

/-- A scalar register, an address, an instruction word or a symbol word. -/
abbrev Word := BitVec 64

/-- A lane, a lane mask, an FP32 image. -/
abbrev W32 := BitVec 32

abbrev Byte := BitVec 8

/-- A vector register: 32 lanes of 32 bits, lane 0 first (04 R71, 07 R129). -/
abbrev Lanes := Vector W32 32

/-- A cause code, 9 bits (12 R216). -/
abbrev Cause := BitVec 9

/-- A table of the model: keys with values, sorted by key where it is built by `Tbl.put`. -/
abbrev Tbl (α : Type) := List (Nat × α)

end Sys2Proof
end

