-- ==== Sys2Proof/Config.lean ====
section
/-! DEFINITION. What stepping A1 fixes, and the free values: constants without a body, so that nothing can be
proved of them beyond their type. Each free value is named in a log entry. -/

namespace Sys2Proof.Config

/-- The encoding hash of stepping A1 (00 R15, 05 R109). -/
def encodingHash : Word := 0x6C3E91D40A7F2B58#64

def cores : Nat := 4096
def dies : Nat := 4
def cellsPerCore : Nat := 64
def cells : Nat := 262144
def scratchBytes : Nat := 0x100000
/-- Tile slots end here; general scratchpad begins (09 R160). -/
def slotsEnd : Nat := 0x40000
def hbmBytes : Nat := 549755813888
def lpddrBytes : Nat := 1649267441664
def engines : Nat := 64
def contexts : Nat := 64
def ringers : Nat := 12
/-- Armed reads a channel's deferral table holds (09 R171). -/
def deferralLimit : Nat := 4096
/-- Core clock periods in 1 us at 2.1 GHz (00 R2). -/
def cyclesPerUs : Nat := 2100

/-- FREE VALUE (log 2): the cycles that the n-th access, message or answer takes, beyond the first. The spec fixes
no latency of memory, mesh, engine or link port (02 R49, 04 R90, 10 R187, 15 R273). -/
opaque latency : Nat → Nat

/-- FREE VALUE (log 13): the entry of a full translation cache that the n-th refill replaces (09 R167). -/
opaque tlbVictim : Nat → Nat

/-- FREE VALUE (log 11): SHAKE256 to 64 bytes, the published function that 16 R295 names. -/
opaque shake256 : List Byte → List Byte
/-- FREE VALUE (log 11): the Ed448 check of a signature over a digest with the vendor key (16 R295). -/
opaque ed448Verify : List Byte → List Byte → Bool
/-- FREE VALUE (log 11): the Ed448 signature made with the module's identity key (16 R295). -/
opaque ed448Sign : List Byte → List Byte
/-- FREE VALUE (log 11): the identity key published in the capability block (16 R292). -/
opaque identityKey : List Byte
/-- FREE VALUE (log 11): the firmware image in flash and its signature (16 R295). -/
opaque firmware : List Byte
opaque firmwareSignature : List Byte

/-- FREE VALUE (log 14): whether every HBM and LPDDR channel trains at bring-up (16 R296 step 2). -/
opaque memoryTrains : Bool
/-- FREE VALUE (log 14): whether a host link trains (16 R296 step 3). -/
opaque hostTrains : Nat → Bool
/-- FREE VALUE (log 14): whether the fault map loads at bring-up (16 R296 step 6). -/
opaque faultMapLoads : Bool
/-- FREE VALUE (log 14): units found lasting by the power-on self-test, and the fault map held in non-volatile
memory, as hop identifiers (16 R296 steps 5 and 6, 11 R208). -/
opaque powerOnFaults : List W32
opaque storedFaultMap : List W32
/-- FREE VALUE (log 14): failing 64 KiB pages of HBM and LPDDR held with it, and those whose rows the n-th lasting
channel fault takes, as keys of the memory list divided by 65,536 (11 R209). -/
opaque storedPages : List Nat
opaque failingPages : Nat → List Nat

/-- FREE VALUE (log 14): the device identifier, the route table by device identifier and the time leader that the
management plane assigns (14 R249, R253, 16 R290, R291). -/
opaque deviceId : BitVec 16
opaque routeTable : List (Nat × Nat)
opaque timeLeader : BitVec 16

/-- FREE VALUE (log 14): the bases of the error log, the trace and the profile buffer in tier 0, and the capacity in
records that the management plane gives the two buffers (11 R207, 16 R292, 17 R301). -/
opaque logBase : Word
opaque traceBase : Word
opaque profBase : Word
opaque bufferRecords : Nat

/-- FREE VALUE (log 3): what a byte of a peer's memory reads as, by cycle, counter, peer slot and address. -/
opaque peerByte (cycle n slot pa : Nat) : Byte

/-- FREE VALUE (log 18): what a ring slot that a program itself has marked condemned is blamed on, by cycle, core and local offset. -/
opaque slotBlame (cycle core off : Nat) : Word

/-- FREE VALUE (log 17): the output port of a mesh router towards its own core (0), along +x, -x, +y, -y (1 to 4) and towards a unit
of its die (5 and up); 11 R204 gives ports 0 to 7 and no numbering. -/
opaque routerPort : Nat → BitVec 3

/-- FREE VALUE (log 17): the bank of the memory-side cache of a line's die that keeps the line, by its 64-byte line number in HBM, or in
LPDDR; 11 R204 gives banks 0 to 255 and no map. -/
opaque cacheBank (lpddr : Bool) (line : Nat) : BitVec 8

/-- FREE VALUE (log 19): the SRAM or memory row of a byte, by its key in the memory list (11 R207). -/
opaque memoryRow : Nat → Word

/-- FREE VALUE (log 15): the n-th free word, for results the spec does not state. -/
opaque freeWord : Nat → Word

end Sys2Proof.Config
end

