-- ==== Sys2Proof/Syntax.lean ====
section
/-! DEFINITION. The steps of the Kelong: every row of spec/opcode_table.json is one constructor of `Instr`.
Rows with an instruction word carry the operands of its entry (05 R102-R106, R177, R259); the guard of an agent
instruction (05 R93) is no part of it, since a false guard drops the instruction before issue (04 R82). Rows that
are events of a unit carry what names the unit, and what arrives from outside the module. -/

namespace Sys2Proof

/-! ## Operands -/

/-- Scalar register s0-s31. -/
abbrev Reg := Fin 32
/-- Predicate p0-p7. -/
abbrev PReg := Fin 8
/-- Lane mask k0-k7. -/
abbrev KReg := Fin 8
/-- Vector register v0-v63. -/
abbrev VNum := Fin 64
/-- Accumulator tile c0-c7. -/
abbrev Acc := Fin 8
/-- Operand format code 0-27 (06 R111). -/
abbrev Fmt := Fin 28

/-- The guard field [55:52] (05 R93). -/
structure Guard where
  neg : Bool
  p : PReg
  deriving DecidableEq, Repr

def Guard.always : Guard := ⟨false, 0⟩

/-- A memory operand of the M format (04 R84, 05 R94). -/
structure MemOp where
  base : Reg
  idx : Reg
  off : BitVec 26
  deriving DecidableEq, Repr

/-- Comparison codes (05 R100). -/
inductive Cmp where
  | eq | ne | lt | le | gt | ge | ltu | leu | gtu | geu
  deriving DecidableEq, Repr

/-- Rounding field (05 R99). -/
inductive Rm where
  | rne | rtz | rdn | rup | rna | sr | dyn
  deriving DecidableEq, Repr

/-- Scope field (05 R98). -/
inductive Scope where
  | core | dev | sys
  deriving DecidableEq, Repr

/-- Order field (05 R97). -/
inductive Order where
  | plain | acq | rel | ar
  deriving DecidableEq, Repr

/-- Branch hint (05 R94): no architectural effect. -/
inductive Hint where
  | none | likely | unlikely
  deriving DecidableEq, Repr

/-- Load sizes (05 R96). -/
inductive LdSize where
  | u8 | u16 | u32 | d64 | s8 | s16 | s32
  deriving DecidableEq, Repr

/-- Store sizes (05 R96). -/
inductive StSize where
  | u8 | u16 | u32 | d64
  deriving DecidableEq, Repr

inductive MulFn where
  | low | hi | hiu
  deriving DecidableEq, Repr

/-- ATOM functions (05 R104). -/
inductive AtomFn where
  | add | and | or | xor | smin | smax | umin | umax | swap | cas | fadd
  deriving DecidableEq, Repr

/-- Integer types of FCVT (05 R103). -/
inductive IntTy where
  | sint32 | uint32 | sint64 | uint64
  deriving DecidableEq, Repr

/-- Conversions of FCVT and VCVT (19 R357). -/
inductive Cvt where
  | toFmt (f : Fin 16)
  | fromFmt (f : Fin 16)
  | toInt (t : IntTy)
  | fromInt (t : IntTy)
  deriving DecidableEq, Repr

/-- Special functions of FSF and VSF. -/
inductive SpecFn where
  | exp2 | log2 | rcp | rsq
  deriving DecidableEq, Repr

inductive PMove where
  | pp (d a : PReg)
  | toS (d : Reg)
  | fromS (a : Reg)
  deriving DecidableEq, Repr

inductive KMove where
  | kk (d a : KReg)
  | toS (d : Reg) (a : KReg)
  | fromS (d : KReg) (a : Reg)
  deriving DecidableEq, Repr

/-- Floating lane formats of lane mode 0 (05 R105). -/
inductive VFmt where
  | f32 | bf16 | f16
  deriving DecidableEq, Repr

/-- Lane modes of vector arithmetic (05 R105). -/
inductive LMode where
  | fp (f : VFmt) (rm : Rm)
  | iw
  | is
  deriving DecidableEq, Repr

/-- Lane modes of VRED, which always rounds RNE (21 R428). -/
inductive RMode where
  | fp (f : VFmt)
  | iw
  | is
  deriving DecidableEq, Repr

/-- The mod field of a vector instruction: the lane mask and `.z` (05 R105). -/
structure VMask where
  k : KReg
  z : Bool
  deriving DecidableEq, Repr

inductive RedOp where
  | add | min | max | and | or | xor
  deriving DecidableEq, Repr

/-- Operations of TRED and TSCAN (21 R417). -/
inductive TreeOp where
  | add | fadd | min | max | fmin | fmax | and | or | xor
  deriving DecidableEq, Repr

inductive SymQ where
  | kind | depth | endc | bytes
  deriving DecidableEq, Repr

/-- The source of TMSET (08 R146). -/
inductive TmSrc where
  | imm (v : W32)
  | reg (a : Reg)
  deriving DecidableEq, Repr

/-- The shared payload of the element commands of a ringer (14 R260). -/
structure CPay where
  na : Fin 4
  nb : Fin 4
  ni : Fin 4
  ix : Bool
  dm : Bool
  fold : Bool
  dot : Bool
  larg : Bool
  tag : Byte
  bf16 : Bool
  cnt : BitVec 24
  deriving DecidableEq, Repr

/-- What a ringer message carries (14 R258, 19 R320). -/
inductive MsgMode where
  | plain | det | arr | table | rows
  deriving DecidableEq, Repr

/-- One entry of an exponent table: the exponent, or none, and the flags N, P, M (14 R263). -/
structure XEntry where
  e : Option Int
  n : Bool
  p : Bool
  m : Bool
  deriving DecidableEq, Repr

/-- A ringer message: header and data (14 R258). `words` are wire words or element images; `counts` and `rows` are
those of CSENDV; `table` that of CMAXE. -/
structure Msg where
  coll : BitVec 16
  src : Nat
  dest : Nat
  tag : Byte
  mode : MsgMode
  fold : Bool
  dot : Bool
  bf16 : Bool
  count : Nat
  width : Nat
  words : List Word
  counts : List W32
  rows : List Byte
  table : List XEntry
  /-- its chime word (11 R199, 14 R264) -/
  chime : Word
  deriving DecidableEq, Repr

/-- An access that a peer sends to this module's home (14 R251), or a flit to be forwarded (14 R249). `pa` is the
43-bit address of 09 R162: bit 43 selects LPDDR. -/
inductive PeerAcc where
  /-- `sa` says that the peer's page is single-assignment, so that an EMPTY word reads as 0 (R170) -/
  | load (pa n : Nat) (sa : Bool)
  | store (pa : Nat) (bytes : List Byte)
  | atom (fn : AtomFn) (is64 : Bool) (pa : Nat) (b c : Word)
  | ldp (pa : Nat)
  | stp (pa : Nat) (v : Word)
  | pset (pa : Nat) (poison : Option Word)
  | tlinc (pa : Nat) (v : Word)
  | raise (max : Bool) (pa : Nat) (v : Word)
  | poisonEmpty (pa : Nat) (v : Word)
  | forward (dev : BitVec 16) (flit : List Byte)
  deriving DecidableEq, Repr

/-- Who asked for a presence read or another access that is answered later: an agent's access by core, slot (0-63
a cell agent, 64 the service agent) and number; a record's PROM symbol by partition, record and position; a peer's
request by its port and number. -/
inductive Asker where
  | agent (core slot id : Nat)
  | record (part rec idx : Nat)
  | peer (port id : Nat)
  deriving DecidableEq, Repr

/-- Whose translation the die walker answers (09 R167). -/
inductive Walker where
  | agent (core slot id : Nat)
  | context (engine ctx : Nat)
  deriving DecidableEq, Repr

/-- Whose wait the 1 us poll re-reads (20 R378, 21 R410). -/
inductive Poller where
  | agent (core slot : Nat)
  | context (engine ctx : Nat)
  | ringer (g : Nat)
  deriving DecidableEq, Repr

/-- Who makes a register write, and to what (16 R290, R294): eight bytes at a BAR0 offset from a host link or from the management
plane; the management plane clears the error-log entry of a number (00 R10) and arms injection v of a hop identifier (11 R215);
the host resizes BAR2 of a link to 2^v bytes (16 R288). -/
inductive RegTarget where
  | host (link : Fin 2) (off : Nat)
  | management (off : Nat)
  | clearEntry (entry : Nat)
  | inject (hop : Nat)
  | resize (link : Fin 2)
  deriving DecidableEq, Repr

/-- One row of spec/opcode_table.json per constructor. -/
inductive Instr where
  -- units' events
  | expressionLaunch (hdr : Word)
  | streamLaunch (hdr : Word)
  | collectiveLaunch (hdr : Word)
  | detectionSweep (part : Nat)
  | sweepComplete (part : Nat)
  | presenceAnswer (part rec idx : Nat) (val : Word)
  | deferralRetry (who : Asker)
  | admission (part : Nat)
  | loadComplete (part rec : Nat)
  | storageStep (part : Nat)
  | stepRetryAfterFixed (part : Nat)
  | storageStepComplete (part : Nat)
  | cancelEffect (part rec : Nat)
  | trapEnqueue (part : Nat)
  | handlerRunStart (part : Nat)
  | lateFaultRaise (core slot : Nat)
  | chunkHop (transfer : Nat)
  | selfTestComplete (unit : W32) (pass : Bool)
  | mswpEffect (core : Nat)
  | mldbLand (core : Nat)
  | mmaStart (core : Nat)
  | mmaRowWrite (core : Nat)
  | mmaComplete (core : Nat)
  | mzeroEffect (core : Nat)
  | mstLand (core id : Nat)
  | mldcLand (core id : Nat)
  | mrelEffect (core : Nat) (c : Acc)
  | tmldLand (core slot : Nat)
  | loadDataReturn (core slot id : Nat)
  | translationWalkDone (who : Walker)
  | granuleDrowsy (core slot : Nat)
  | treeJoinComplete (part rec k : Nat)
  | vchainRow (core slot : Nat)
  | xmeanRow (core slot : Nat)
  | engineFillLand (engine ctx : Nat)
  | postedWriteAck (core slot id : Nat) (arrives : Bool)
  | peerAnswer (core slot id : Nat) (data : List Byte)
  | monitorPoll (who : Poller)
  | ringerMessageArrival (g : Nat) (msg : Msg)
  | ctimeFire (g : Nat)
  | preemptMarkerArrival (part : Nat)
  | cutComplete (part : Nat)
  | imageValid (part : Nat)
  | restorePlacementEnd (part : Nat)
  | pcbCancelRecord (block : Nat)
  | pcbCancelPartition (block : Nat)
  | pcbPreempt (block : Nat)
  | pcbRestore (block : Nat)
  | pcbExtend (block : Nat)
  | pcbRelease (block : Nat)
  | idtabWrite (v : Word)
  | apertureBaseWrite (link : Fin 2) (v : Word)
  | fcntWrite
  | attestRequest (addr : Word)
  | peerSlotWrite (slot : Fin 16) (v : W32)
  | arbitrationWrite (idx : Nat) (v : W32)
  | registerWrite (dest : RegTarget) (v : Word)
  | bar2Read (link : Fin 2) (off n : Nat)
  | bar2Write (link : Fin 2) (off : Nat) (bytes : List Byte)
  | moduleReset
  | linkResetExpiry (port : Nat)
  | partnerDetect (port lanes : Nat)
  | laneAlign (port : Nat)
  | equalizeAgree (port : Nat)
  | rateSelect (port : Nat)
  | verifyDone (port failing : Nat)
  | identityExchange (port : Nat) (dev : BitVec 16) (hash : Word)
  | linkTrainingTimeout (port : Nat)
  | linkRetryWaitExpiry (port : Nat)
  | linkDown (port : Nat)
  | timebaseSyncGain (leader : Word)
  | droopDetect (v : Nat)
  | profileSample (part : Nat)
  | genChange (part : Nat)
  | preciseStop (core slot stop : Nat)
  | partitionWideStop (part : Nat)
  | goContinue (part seq : Nat)
  | goStep (part seq count : Nat)
  | goReload (part seq : Nat)
  | supplyRecovers (v : Nat)
  | timebaseWithinTolerance
  | peerAccessArrival (port id : Nat) (acc : PeerAcc)
  | storePerformed (core slot id : Nat)
  | streamCommandComplete (engine ctx : Nat)
  | collectiveCommandComplete (g : Nat)
  -- every executor
  | nop
  -- scalar integer
  | add (d a b : Reg)
  | addi (d a : Reg) (imm : BitVec 40)
  | sub (d a b : Reg)
  | mul (f : MulFn) (d a b : Reg)
  | div (u : Bool) (d a b : Reg)
  | rem (u : Bool) (d a b : Reg)
  | and (d a b : Reg)
  | andi (d a : Reg) (imm : BitVec 40)
  | or (d a b : Reg)
  | ori (d a : Reg) (imm : BitVec 40)
  | xor (d a b : Reg)
  | xori (d a : Reg) (imm : BitVec 40)
  | shl (d a b : Reg)
  | shli (d a : Reg) (n : BitVec 6)
  | shr (ar : Bool) (d a b : Reg)
  | shri (ar : Bool) (d a : Reg) (n : BitVec 6)
  | min (u : Bool) (d a b : Reg)
  | max (u : Bool) (d a b : Reg)
  | clz (d a : Reg)
  | popc (d a : Reg)
  | bfx (d a : Reg) (pos lenm1 : BitVec 6)
  | bfi (d a : Reg) (pos lenm1 : BitVec 6)
  | sel (d a b : Reg) (p : PReg)
  | cmp (c : Cmp) (d : PReg) (a b : Reg)
  | cmpi (c : Cmp) (d : PReg) (a : Reg) (imm : BitVec 36)
  | lea (d a b : Reg) (sh : Fin 8)
  | movi (d : Reg) (imm : BitVec 40)
  | movhi (d : Reg) (imm : BitVec 24)
  -- scalar float
  | fadd (rm : Rm) (d a b : Reg)
  | fsub (rm : Rm) (d a b : Reg)
  | fmul (rm : Rm) (d a b : Reg)
  | fdiv (rm : Rm) (d a b : Reg)
  | ffma (rm : Rm) (d a b c : Reg)
  | fsqrt (rm : Rm) (d a : Reg)
  | fmin (d a b : Reg)
  | fmax (d a b : Reg)
  | fcmp (c : Cmp) (d : PReg) (a b : Reg)
  | fcvt (cv : Cvt) (rm : Rm) (d a : Reg)
  | fclass (d a : Reg)
  | fsf (f : SpecFn) (rm : Rm) (d a : Reg)
  -- control
  | br (h : Hint) (off : BitVec 44)
  | brx (a : Reg)
  | call (h : Hint) (link : Reg) (off : BitVec 44)
  | ret (a : Reg)
  | loop (h : Hint) (n : Fin 4) (off : BitVec 44)
  | plog (d a b : PReg) (t : BitVec 4)
  | pmov (m : PMove)
  | yield
  | done
  -- memory
  | ld (size : LdSize) (acq : Bool) (sc : Scope) (d : Reg) (m : MemOp)
  | st (size : StSize) (rel : Bool) (sc : Scope) (m : MemOp) (d : Reg)
  | atom (fn : AtomFn) (is64 : Bool) (o : Order) (sc : Scope) (d base b c : Reg) (off : BitVec 16)
  | fence (o : Order) (sc : Scope)
  | ldp (d : Reg) (m : MemOp)
  | stp (m : MemOp) (d : Reg)
  | psetEmpty (m : MemOp)
  | psetPoison (d : Reg) (m : MemOp)
  | monw (is64 : Bool) (d : Reg) (m : MemOp)
  -- vector
  | vadd (md : LMode) (k : VMask) (d a b : VNum)
  | vsub (md : LMode) (k : VMask) (d a b : VNum)
  | vmul (md : LMode) (k : VMask) (d a b : VNum)
  | vfma (md : LMode) (k : VMask) (d a b c : VNum)
  | vmin (md : LMode) (k : VMask) (d a b : VNum)
  | vmax (md : LMode) (k : VMask) (d a b : VNum)
  | vand (k : VMask) (d a b : VNum)
  | vor (k : VMask) (d a b : VNum)
  | vxor (k : VMask) (d a b : VNum)
  | vshl (k : VMask) (d a b : VNum)
  | vshr (ar : Bool) (k : VMask) (d a b : VNum)
  | vcmp (c : Cmp) (iw : Bool) (k : VMask) (d : KReg) (a b : VNum)
  | vsel (k : KReg) (d a b : VNum)
  | vcvt (cv : Cvt) (rm : Rm) (k : VMask) (d a : VNum)
  | vsf (f : SpecFn) (rm : Rm) (k : VMask) (d a : VNum)
  | vred (op : RedOp) (md : RMode) (k : KReg) (d : Reg) (a : VNum)
  | vperm (k : VMask) (d a b : VNum)
  | vshuf (k : VMask) (d a : VNum) (b : Reg)
  | vbc (k : VMask) (d : VNum) (a : Reg)
  | vidx (k : VMask) (d : VNum)
  | vld (acq : Bool) (sc : Scope) (d : VNum) (m : MemOp)
  | vst (rel : Bool) (sc : Scope) (m : MemOp) (d : VNum)
  | vgath (sc : Scope) (d : VNum) (base : Reg) (idx : VNum) (off : BitVec 26)
  | vscat (sc : Scope) (base : Reg) (idx : VNum) (off : BitVec 26) (d : VNum)
  | vchain (a : Reg) (n : Fin 8)
  | klog (d a b : KReg) (t : BitVec 4)
  | kmov (m : KMove)
  -- matrix and transformed mean
  | mma (chk : Bool) (c : Acc) (a b m n k : Reg) (fa fb : Fmt)
  | mldb (f : Fmt) (tr : Bool) (m : MemOp)
  | mzero (c : Acc)
  | mst (m : MemOp) (c : Acc)
  | mldc (c : Acc) (m : MemOp)
  | macq (c : Acc)
  | mrel (c : Acc)
  | tmset (src : TmSrc)
  | tmld (m : MemOp) (n : Fin 8)
  | vmean (k : KReg) (d : Reg) (a : VNum)
  | xmean (ring : Bool) (d : VNum) (a b : Reg)
  | tmean (d a : Reg)
  -- symbols and tree
  | symr (d b : Reg) (imm : BitVec 28)
  | symq (q : SymQ) (d b : Reg) (imm : BitVec 28)
  | emit (a : Reg)
  | emitt (a b : Reg)
  | tbc (d a : Reg) (imm : BitVec 28)
  | tred (op : TreeOp) (d a : Reg)
  | tscan (op : TreeOp) (ex : Bool) (d a : Reg)
  | tdesc (d a : Reg) (imm : BitVec 28)
  | cancel (a : Reg)
  | chime (lin : Bool) (f : Fmt) (sc : Bool) (d a b : Reg)
  -- rings, timelines, system
  | rinit (m : MemOp)
  | acqs (d : Reg) (m : MemOp)
  | fill (m : MemOp) (a : Reg)
  | awaitf (d : Reg) (m : MemOp)
  | rels (m : MemOp)
  | wait (l s c x : BitVec 6)
  | tlwait (d : Reg) (m : MemOp)
  | tlinc (m : MemOp) (d : Reg)
  | mfs (d : Reg) (n : BitVec 6)
  | mts (n : BitVec 6) (a : Reg)
  | trap (n : Fin 32)
  | rftResume
  | rftSkip
  | rftRetry
  | rftPoison
  | rftAbort
  | sqput (sys : Bool) (a : Reg) (m : MemOp)
  | invtlbAsid (a : Reg)
  | invtlbPage (a : Reg)
  | invtlbAll
  | errinj (kind : Fin 16) (a b : Reg)
  -- Tabor commands
  | spat (n : Fin 2) (desc : Word)
  | spush (rows : W32) (ring : Word)
  | spull (rows : W32) (ring : Word)
  | scopy (rows : W32)
  | sgath (rows : W32) (list : Word)
  | sroute (desc : Word)
  | sloopSet (n : Fin 4) (c : W32)
  | sloop (n : Fin 4) (off : W32)
  | swait (v : BitVec 40) (addr : Word)
  | ssigSt (v : BitVec 40) (addr : Word)
  | ssigAdd (v : BitVec 40) (addr : Word)
  | ssigMax (v : BitVec 40) (addr : Word)
  | schk (flags : BitVec 3) (tensor : Option Word)
  -- ringer commands
  | csend (p : CPay) (addr : Word)
  | crecv (p : CPay) (addr : Word)
  | crrs (p : CPay) (addr : Word)
  | crrl (all : Bool) (p : CPay) (addr : Word)
  | ccopy (p : CPay) (addr : Word)
  | cwait (v : BitVec 40) (addr : Word)
  | csigSt (v : BitVec 40) (addr : Word)
  | csigAdd (v : BitVec 40) (addr : Word)
  | csigMax (v : BitVec 40) (addr : Word)
  | cloopSet (n : Fin 4) (c : W32)
  | cloop (n : Fin 4) (off : W32)
  | cpeer (k : Fin 4) (lp add : Bool) (j : Fin 4) (abs : Bool) (d : W32)
  | ctime (slot : W32) (t : Word)
  | csendv (tag : Byte) (desc : Word)
  | crecvv (tag : Byte) (desc : Word)
  | cmaxe (p : CPay) (addr : Word)
  | cstop
  -- rows without operands, last
  | mswp
  | tbar
  | ebrk
  | sstop
  deriving DecidableEq, Repr

end Sys2Proof
end

