-- ==== Sys2Proof/WellFormed.lean ====
section
/-! DEFINITION. The well-formedness checks of instructions: what the field types alone do not say (05 R95-R106 and
the entries of 19-21). An ill-formed term has no encoding. -/

namespace Sys2Proof

/-- Formats whose elements carry block scales: 16-26 (01 R24). -/
def Fmt.blockScaled (f : Fmt) : Bool := 16 ≤ f.val && f.val ≤ 26

/-- Formats whose chime uses linear mode (11 R201). -/
def Fmt.linear (f : Fmt) : Bool := (9 ≤ f.val && f.val ≤ 13) || f.val == 21 || f.val == 23 || f.val == 27

/-- The comparisons that floating comparisons accept: codes 0 to 5 (05 R100). -/
def Cmp.floating : Cmp → Bool
  | .eq | .ne | .lt | .le | .gt | .ge => true
  | .ltu | .leu | .gtu | .geu => false

/-- 19 R328, R329: pos + len at most 64. -/
def fieldFits (pos lenm1 : BitVec 6) : Bool := pos.toNat + lenm1.toNat + 1 ≤ 64

/-- 21 R419: rm is 0 where a floating lane instruction does not round. -/
def LMode.unrounded : LMode → Bool
  | .fp _ rm => rm = .rne
  | .iw | .is => true

def IntTy.is32 : IntTy → Bool
  | .sint32 | .uint32 => true
  | .sint64 | .uint64 => false

/-- 21 R425: VCVT has no 64-bit integer types. -/
def Cvt.lane : Cvt → Bool
  | .toInt t | .fromInt t => t.is32
  | .toFmt _ | .fromFmt _ => true

/-- 21 R428: and, or, xor reduce in lane mode 1 only. -/
def redFits (op : RedOp) (md : RMode) : Bool :=
  match op with
  | .add | .min | .max => true
  | .and | .or | .xor => md = .iw

/-- 14 R260: dot requires fold and fmt 0. -/
def CPay.dotFits (p : CPay) : Bool := !p.dot || (p.fold && !p.bf16)

def Instr.wf : Instr → Bool
  | .bfx _ _ pos l | .bfi _ _ pos l => fieldFits pos l
  | .fcmp c _ _ _ => c.floating
  | .atom fn is64 _ _ _ _ _ c _ => (fn = .cas || c = 0) && !(fn = .fadd && is64)
  | .fence o _ => o ≠ .plain
  | .vmin md _ _ _ _ | .vmax md _ _ _ _ => md.unrounded
  | .vcmp c iw _ _ _ _ => iw || c.floating
  | .vcvt cv _ _ _ _ => cv.lane
  | .vred op md _ _ _ => redFits op md
  | .mldb f tr _ => !f.blockScaled || tr
  | .tmset (.reg a) => a ≠ 0
  | .chime lin f sc _ _ _ => (!lin || f.linear) && (!sc || f.blockScaled)
  | .csend p _ => p.nb = 0 && p.dotFits
  | .crecv p _ => p.nb = 0 && !p.dm && !p.fold && !p.dot
  | .crrs p _ => p.dotFits
  | .crrl all p _ => p.nb = 0 && p.dotFits && (!all || p.na = 0)
  | .ccopy p _ => p.na = 0 && p.ix && !p.dm && !p.fold && !p.dot && p.tag = 0
  | .cmaxe p _ => p.na = 0 && p.nb = 0 && !p.dm && p.dotFits
  | .cpeer _ lp ad j ab _ => (lp || (!ad && j = 0)) && !(ab && lp)
  | _ => true

/-- The rows that are events of a unit: they have no instruction word. -/
def Instr.isEvent : Instr → Bool
  | .expressionLaunch _ | .streamLaunch _ | .collectiveLaunch _ | .detectionSweep _ | .sweepComplete _
  | .presenceAnswer _ _ _ _ | .deferralRetry _ | .admission _ | .loadComplete _ _ | .storageStep _
  | .stepRetryAfterFixed _ | .storageStepComplete _ | .cancelEffect _ _ | .trapEnqueue _ | .handlerRunStart _
  | .lateFaultRaise _ _ | .chunkHop _ | .selfTestComplete _ _ | .mswpEffect _ | .mldbLand _ | .mmaStart _
  | .mmaRowWrite _ | .mmaComplete _ | .mzeroEffect _ | .mstLand _ _ | .mldcLand _ _ | .mrelEffect _ _
  | .tmldLand _ _ | .loadDataReturn _ _ _ | .translationWalkDone _ | .granuleDrowsy _ _
  | .treeJoinComplete _ _ _ | .vchainRow _ _ | .xmeanRow _ _ | .engineFillLand _ _ | .postedWriteAck _ _ _ _
  | .peerAnswer _ _ _ _ | .monitorPoll _ | .ringerMessageArrival _ _ | .ctimeFire _ | .preemptMarkerArrival _
  | .cutComplete _ | .imageValid _ | .restorePlacementEnd _ | .pcbCancelRecord _ | .pcbCancelPartition _
  | .pcbPreempt _ | .pcbRestore _ | .pcbExtend _ | .pcbRelease _ | .idtabWrite _ | .apertureBaseWrite _ _
  | .fcntWrite | .attestRequest _ | .peerSlotWrite _ _ | .arbitrationWrite _ _ | .registerWrite _ _
  | .bar2Read _ _ _ | .bar2Write _ _ _ | .moduleReset | .linkResetExpiry _ | .partnerDetect _ _ | .laneAlign _
  | .equalizeAgree _ | .rateSelect _ | .verifyDone _ _ | .identityExchange _ _ _ | .linkTrainingTimeout _
  | .linkRetryWaitExpiry _ | .linkDown _ | .timebaseSyncGain _ | .droopDetect _ | .profileSample _ | .genChange _
  | .preciseStop _ _ _ | .partitionWideStop _ | .goContinue _ _ | .goStep _ _ _ | .goReload _ _
  | .supplyRecovers _ | .timebaseWithinTolerance | .peerAccessArrival _ _ _ | .storePerformed _ _ _
  | .streamCommandComplete _ _ | .collectiveCommandComplete _ => true
  | _ => false

end Sys2Proof
end

