-- ==== Sys2Proof/Decode.lean ====
section
/-! DEFINITION. The decoder, total on every pair of words, and the encoder, both from 05_encoding.md (R92-R107,
R177, R259, R260) and the entries of 19-21. A word is decided in the order of R107: all-ones, NOP, an unallocated
cell of the map, a reserved value, an instruction. Privilege and the executor's kind are decided by
Machine/Fetch.lean, which knows who fetched. -/

namespace Sys2Proof

/-! ## Fields of a word -/

/-- Bits [lo + n - 1 : lo]. -/
def fld (w : Word) (lo n : Nat) : BitVec n := w.extractLsb' lo n

def major (w : Word) : BitVec 8 := fld w 56 8
def rowOf (w : Word) : Nat := (fld w 60 4).toNat
def colOf (w : Word) : Nat := (fld w 56 4).toNat
def fD (w : Word) : BitVec 6 := fld w 46 6
def fA (w : Word) : BitVec 6 := fld w 40 6
def fB (w : Word) : BitVec 6 := fld w 34 6
def fC (w : Word) : BitVec 6 := fld w 28 6
def fFn (w : Word) : BitVec 12 := fld w 16 12
def fFmt (w : Word) : BitVec 5 := fld w 11 5
def fRm (w : Word) : BitVec 3 := fld w 8 3
def fMod (w : Word) : BitVec 8 := fld w 0 8
def fImm40 (w : Word) : BitVec 40 := fld w 0 40
def fSize (w : Word) : BitVec 3 := fld w 31 3
def fOrder (w : Word) : BitVec 3 := fld w 28 3
def fScope (w : Word) : BitVec 2 := fld w 26 2
def fOff26 (w : Word) : BitVec 26 := fld w 0 26
def fKind (w : Word) : BitVec 2 := fld w 44 2
def fOff44 (w : Word) : BitVec 44 := fld w 0 44
def fSFn (w : Word) : BitVec 6 := fld w 28 6
def fImm28 (w : Word) : BitVec 28 := fld w 0 28

/-- The guard field (R93). -/
def guardOf (w : Word) : Guard := ⟨(fld w 55 1) = 1#1, (fld w 52 3).toFin⟩

/-! ## Codes of shared fields: each code with its inverse -/

/-- A field that an instruction does not use must be 0 (R95). -/
def unused {n : Nat} (x : BitVec n) : Option Unit := if x = 0#n then some () else none

/-- Scalar fields take 0 to 31 (R95). -/
def sreg (x : BitVec 6) : Option Reg := if h : x.toNat < 32 then some ⟨x.toNat, h⟩ else none

def vreg (x : BitVec 6) : Option VNum := some ⟨x.toNat, x.isLt⟩

/-- Predicates, masks and accumulators use bits [2:0], and bits [5:3] must be 0 (R95). -/
def low3 (x : BitVec 6) : Option (Fin 8) := if h : x.toNat < 8 then some ⟨x.toNat, h⟩ else none

def low2 (x : BitVec 6) : Option (Fin 4) := if h : x.toNat < 4 then some ⟨x.toNat, h⟩ else none

def fmtOf (x : BitVec 5) : Option Fmt := if h : x.toNat < 28 then some ⟨x.toNat, h⟩ else none

def encReg {n : Nat} (r : Fin n) : BitVec 6 := BitVec.ofNat 6 r.val

def flag {n : Nat} (x : BitVec n) : Option Bool :=
  if x = 0#n then some false else if x = 1#n then some true else none

def encFlag (n : Nat) (b : Bool) : BitVec n := if b then 1#n else 0#n

def cmpOf (n : Nat) : Option Cmp :=
  match n with
  | 0 => some .eq | 1 => some .ne | 2 => some .lt | 3 => some .le | 4 => some .gt | 5 => some .ge
  | 6 => some .ltu | 7 => some .leu | 8 => some .gtu | 9 => some .geu | _ => none

def Cmp.code : Cmp → Nat
  | .eq => 0 | .ne => 1 | .lt => 2 | .le => 3 | .gt => 4 | .ge => 5 | .ltu => 6 | .leu => 7 | .gtu => 8 | .geu => 9

def rmOf (n : Nat) : Option Rm :=
  match n with
  | 0 => some .rne | 1 => some .rtz | 2 => some .rdn | 3 => some .rup | 4 => some .rna | 5 => some .sr
  | 6 => some .dyn | _ => none

def Rm.code : Rm → Nat
  | .rne => 0 | .rtz => 1 | .rdn => 2 | .rup => 3 | .rna => 4 | .sr => 5 | .dyn => 6

def scopeOf (n : Nat) : Option Scope :=
  match n with
  | 0 => some .core | 1 => some .dev | 2 => some .sys | _ => none

def Scope.code : Scope → Nat
  | .core => 0 | .dev => 1 | .sys => 2

def orderOf (n : Nat) : Option Order :=
  match n with
  | 0 => some .plain | 1 => some .acq | 2 => some .rel | 3 => some .ar | _ => none

def Order.code : Order → Nat
  | .plain => 0 | .acq => 1 | .rel => 2 | .ar => 3

def hintOf (n : Nat) : Option Hint :=
  match n with
  | 0 => some .none | 1 => some .likely | 2 => some .unlikely | _ => none

def Hint.code : Hint → Nat
  | .none => 0 | .likely => 1 | .unlikely => 2

def ldSizeOf (n : Nat) : Option LdSize :=
  match n with
  | 0 => some .u8 | 1 => some .u16 | 2 => some .u32 | 3 => some .d64 | 4 => some .s8 | 5 => some .s16
  | 6 => some .s32 | _ => none

def LdSize.code : LdSize → Nat
  | .u8 => 0 | .u16 => 1 | .u32 => 2 | .d64 => 3 | .s8 => 4 | .s16 => 5 | .s32 => 6

def stSizeOf (n : Nat) : Option StSize :=
  match n with
  | 0 => some .u8 | 1 => some .u16 | 2 => some .u32 | 3 => some .d64 | _ => none

def StSize.code : StSize → Nat
  | .u8 => 0 | .u16 => 1 | .u32 => 2 | .d64 => 3

/-- Sizes 2 and 3 of ATOM and MONW. -/
def is64Of (n : Nat) : Option Bool :=
  match n with
  | 2 => some false | 3 => some true | _ => none

def mulOf (n : Nat) : Option MulFn :=
  match n with
  | 0 => some .low | 1 => some .hi | 2 => some .hiu | _ => none

def MulFn.code : MulFn → Nat
  | .low => 0 | .hi => 1 | .hiu => 2

def atomOf (n : Nat) : Option AtomFn :=
  match n with
  | 0 => some .add | 1 => some .and | 2 => some .or | 3 => some .xor | 4 => some .smin | 5 => some .smax
  | 6 => some .umin | 7 => some .umax | 8 => some .swap | 9 => some .cas | 10 => some .fadd | _ => none

def AtomFn.code : AtomFn → Nat
  | .add => 0 | .and => 1 | .or => 2 | .xor => 3 | .smin => 4 | .smax => 5 | .umin => 6 | .umax => 7 | .swap => 8
  | .cas => 9 | .fadd => 10

def specOf (n : Nat) : Option SpecFn :=
  match n with
  | 0 => some .exp2 | 1 => some .log2 | 2 => some .rcp | 3 => some .rsq | _ => none

def SpecFn.code : SpecFn → Nat
  | .exp2 => 0 | .log2 => 1 | .rcp => 2 | .rsq => 3

def intTyOf (n : Nat) : Option IntTy :=
  match n with
  | 0 => some .sint32 | 1 => some .uint32 | 2 => some .sint64 | 3 => some .uint64 | _ => none

def IntTy.code : IntTy → Nat
  | .sint32 => 0 | .uint32 => 1 | .sint64 => 2 | .uint64 => 3

/-- fn[3:2] type, fn[1] integer, fn[0] from; with fmt (19 R357). -/
def cvtOf (fn : BitVec 12) (fmt : BitVec 5) : Option Cvt :=
  if fn = 0#12 then (if h : fmt.toNat < 16 then some (.toFmt ⟨fmt.toNat, h⟩) else none)
  else if fn = 1#12 then (if h : fmt.toNat < 16 then some (.fromFmt ⟨fmt.toNat, h⟩) else none)
  else if fmt ≠ 0#5 then none
  else if fn.toNat < 16 ∧ fn.toNat % 4 = 2 then (intTyOf (fn.toNat / 4)).map .toInt
  else if fn.toNat < 16 ∧ fn.toNat % 4 = 3 then (intTyOf (fn.toNat / 4)).map .fromInt
  else none

def Cvt.encFn : Cvt → BitVec 12
  | .toFmt _ => 0#12
  | .fromFmt _ => 1#12
  | .toInt t => BitVec.ofNat 12 (4 * t.code + 2)
  | .fromInt t => BitVec.ofNat 12 (4 * t.code + 3)

def Cvt.encFmt : Cvt → BitVec 5
  | .toFmt f | .fromFmt f => BitVec.ofNat 5 f.val
  | .toInt _ | .fromInt _ => 0#5

def vfmtOf (n : Nat) : Option VFmt :=
  match n with
  | 0 => some .f32 | 2 => some .bf16 | 3 => some .f16 | _ => none

def VFmt.code : VFmt → Nat
  | .f32 => 0 | .bf16 => 2 | .f16 => 3

/-- Lane mode with its fmt and rm (R105, 21 R419). -/
def lmodeOf (mode : Nat) (fmt : BitVec 5) (rm : BitVec 3) : Option LMode :=
  match mode with
  | 0 => do let f ← vfmtOf fmt.toNat; let r ← rmOf rm.toNat; some (.fp f r)
  | 1 => do unused fmt; unused rm; some .iw
  | 2 => do unused fmt; unused rm; some .is
  | _ => none

def LMode.encMode : LMode → Nat
  | .fp _ _ => 0 | .iw => 1 | .is => 2

def LMode.encFmt : LMode → BitVec 5
  | .fp f _ => BitVec.ofNat 5 f.code | .iw | .is => 0#5

def LMode.encRm : LMode → BitVec 3
  | .fp _ r => BitVec.ofNat 3 r.code | .iw | .is => 0#3

def rmodeOf (mode : Nat) (fmt : BitVec 5) : Option RMode :=
  match mode with
  | 0 => do let f ← vfmtOf fmt.toNat; some (.fp f)
  | 1 => do unused fmt; some .iw
  | 2 => do unused fmt; some .is
  | _ => none

def RMode.encMode : RMode → Nat
  | .fp _ => 0 | .iw => 1 | .is => 2

def RMode.encFmt : RMode → BitVec 5
  | .fp f => BitVec.ofNat 5 f.code | .iw | .is => 0#5

/-- mod: [2:0] mask, [3] zeroing, [7:4] zero (R105). -/
def vmaskOf (m : BitVec 8) : Option VMask :=
  if m.toNat < 16 then some ⟨(m.extractLsb' 0 3).toFin, m.extractLsb' 3 1 = 1#1⟩ else none

def VMask.enc (m : VMask) : BitVec 8 := BitVec.ofNat 8 (m.k.val + if m.z then 8 else 0)

def redOf (n : Nat) : Option RedOp :=
  match n with
  | 0 => some .add | 1 => some .min | 2 => some .max | 3 => some .and | 4 => some .or | 5 => some .xor | _ => none

def RedOp.code : RedOp → Nat
  | .add => 0 | .min => 1 | .max => 2 | .and => 3 | .or => 4 | .xor => 5

def treeOf (n : Nat) : Option TreeOp :=
  match n with
  | 0 => some .add | 1 => some .fadd | 2 => some .min | 3 => some .max | 4 => some .fmin | 5 => some .fmax
  | 6 => some .and | 7 => some .or | 8 => some .xor | _ => none

def TreeOp.code : TreeOp → Nat
  | .add => 0 | .fadd => 1 | .min => 2 | .max => 3 | .fmin => 4 | .fmax => 5 | .and => 6 | .or => 7 | .xor => 8

def symqOf (n : Nat) : Option SymQ :=
  match n with
  | 0 => some .kind | 1 => some .depth | 2 => some .endc | 3 => some .bytes | _ => none

def SymQ.code : SymQ → Nat
  | .kind => 0 | .depth => 1 | .endc => 2 | .bytes => 3

/-! ## Formats (R94): the words an instruction's fields make -/

def Guard.enc (g : Guard) : BitVec 4 := (encFlag 1 g.neg) ++ (BitVec.ofNat 3 g.p.val)

def wR (mj : BitVec 8) (g : Guard) (d a b c : BitVec 6) (fn : BitVec 12) (fmt : BitVec 5) (rm : BitVec 3)
    (md : BitVec 8) : Word :=
  (mj ++ g.enc ++ d ++ a ++ b ++ c ++ fn ++ fmt ++ rm ++ md : BitVec (8 + 4 + 6 + 6 + 6 + 6 + 12 + 5 + 3 + 8))

def wI (mj : BitVec 8) (g : Guard) (d a : BitVec 6) (imm : BitVec 40) : Word :=
  (mj ++ g.enc ++ d ++ a ++ imm : BitVec (8 + 4 + 6 + 6 + 40))

def wM (mj : BitVec 8) (g : Guard) (d base idx : BitVec 6) (size order : BitVec 3) (scope : BitVec 2)
    (off : BitVec 26) : Word :=
  (mj ++ g.enc ++ d ++ base ++ idx ++ size ++ order ++ scope ++ off : BitVec (8 + 4 + 6 + 6 + 6 + 3 + 3 + 2 + 26))

def wA (mj : BitVec 8) (g : Guard) (d base b c : BitVec 6) (scope : BitVec 2) (order size : BitVec 3) (fn : BitVec 4)
    (off : BitVec 16) : Word :=
  (mj ++ g.enc ++ d ++ base ++ b ++ c ++ scope ++ order ++ size ++ fn ++ off :
    BitVec (8 + 4 + 6 + 6 + 6 + 6 + 2 + 3 + 3 + 4 + 16))

def wB (mj : BitVec 8) (g : Guard) (l : BitVec 6) (kind : BitVec 2) (off : BitVec 44) : Word :=
  (mj ++ g.enc ++ l ++ kind ++ off : BitVec (8 + 4 + 6 + 2 + 44))

def wX (mj : BitVec 8) (g : Guard) (acc : BitVec 3) (a b m n k : BitVec 6) (fa fb : BitVec 5) (md : BitVec 9) : Word :=
  (mj ++ g.enc ++ acc ++ a ++ b ++ m ++ n ++ k ++ fa ++ fb ++ md :
    BitVec (8 + 4 + 3 + 6 + 6 + 6 + 6 + 6 + 5 + 5 + 9))

def wS (mj : BitVec 8) (g : Guard) (d a b fn : BitVec 6) (imm : BitVec 28) : Word :=
  (mj ++ g.enc ++ d ++ a ++ b ++ fn ++ imm : BitVec (8 + 4 + 6 + 6 + 6 + 6 + 28))

def wQ (mj : BitVec 8) (two : Bool) (pay : BitVec 52) : Word :=
  (mj ++ encFlag 1 two ++ 0#3 ++ pay : BitVec (8 + 1 + 3 + 52))

/-! ## The rows of the opcode map (R101) -/

/-- What a word is, its executor aside (R107). -/
inductive Parse where
  | undefined
  | reserved
  | ok (i : Instr)
  deriving DecidableEq, Repr

def Parse.of : Option Instr → Parse
  | some i => .ok i
  | none => .reserved

/-- R format with fn, fmt, rm, mod all zero and c zero. -/
def plain3 (w : Word) (k : Reg → Reg → Reg → Instr) : Option Instr := do
  unused (fC w); unused (fFn w); unused (fFmt w); unused (fRm w); unused (fMod w)
  let d ← sreg (fD w); let a ← sreg (fA w); let b ← sreg (fB w)
  some (k d a b)

/-- R format, three scalars, a function code. -/
def fn3 (w : Word) (k : Reg → Reg → Reg → Nat → Option Instr) : Option Instr := do
  unused (fC w); unused (fFmt w); unused (fRm w); unused (fMod w)
  let d ← sreg (fD w); let a ← sreg (fA w); let b ← sreg (fB w)
  k d a b (fFn w).toNat

def imm2 (w : Word) (k : Reg → Reg → BitVec 40 → Option Instr) : Option Instr := do
  let d ← sreg (fD w); let a ← sreg (fA w)
  k d a (fImm40 w)

/-- 0x00-0x0F (R102). -/
def row0 (w : Word) : Parse :=
  match colOf w with
  | 0x0 => .of (plain3 w .add)
  | 0x1 => .of (plain3 w .sub)
  | 0x2 => .of (fn3 w fun d a b f => (mulOf f).map (.mul · d a b))
  | 0x3 => .of (fn3 w fun d a b f =>
      match f with
      | 0 => some (.div false d a b) | 1 => some (.div true d a b)
      | 2 => some (.rem false d a b) | 3 => some (.rem true d a b) | _ => none)
  | 0x4 => .of (plain3 w .and)
  | 0x5 => .of (plain3 w .or)
  | 0x6 => .of (plain3 w .xor)
  | 0x7 => .of (plain3 w .shl)
  | 0x8 => .of (fn3 w fun d a b f =>
      match f with
      | 0 => some (.shr false d a b) | 1 => some (.shr true d a b) | _ => none)
  | 0x9 => .of (fn3 w fun d a b f =>
      match f with
      | 0 => some (.min false d a b) | 1 => some (.min true d a b)
      | 2 => some (.max false d a b) | 3 => some (.max true d a b) | _ => none)
  | 0xA => .of (fn3 w fun d a b f =>
      if b ≠ 0 then none else
      match f with
      | 0 => some (.clz d a) | 1 => some (.popc d a) | _ => none)
  | 0xB => .of (fn3 w fun d a b _ =>
      if b = 0 ∧ fieldFits ((fFn w).extractLsb' 6 6) ((fFn w).extractLsb' 0 6) then
        some (.bfx d a ((fFn w).extractLsb' 6 6) ((fFn w).extractLsb' 0 6)) else none)
  | 0xC => .of (fn3 w fun d a b _ =>
      if b = 0 ∧ fieldFits ((fFn w).extractLsb' 6 6) ((fFn w).extractLsb' 0 6) then
        some (.bfi d a ((fFn w).extractLsb' 6 6) ((fFn w).extractLsb' 0 6)) else none)
  | 0xD => .of (do
      unused (fFn w); unused (fFmt w); unused (fRm w); unused (fMod w)
      let d ← sreg (fD w); let a ← sreg (fA w); let b ← sreg (fB w); let p ← low3 (fC w)
      some (.sel d a b p))
  | 0xE => .of (do
      unused (fC w); unused (fFmt w); unused (fRm w); unused (fMod w)
      let d ← low3 (fD w); let a ← sreg (fA w); let b ← sreg (fB w); let c ← cmpOf (fFn w).toNat
      some (.cmp c d a b))
  | 0xF => .of (fn3 w fun d a b f => if h : f < 8 then some (.lea d a b ⟨f, h⟩) else none)
  | _ => .undefined

/-- 0x10-0x18 (R102). -/
def row1 (w : Word) : Parse :=
  match colOf w with
  | 0x0 => .of (imm2 w fun d a i => some (.addi d a i))
  | 0x1 => .of (imm2 w fun d a i => some (.andi d a i))
  | 0x2 => .of (imm2 w fun d a i => some (.ori d a i))
  | 0x3 => .of (imm2 w fun d a i => some (.xori d a i))
  | 0x4 => .of (imm2 w fun d a i =>
      if i.extractLsb' 6 34 = 0#34 then some (.shli d a (i.extractLsb' 0 6)) else none)
  | 0x5 => .of (imm2 w fun d a i =>
      if i.extractLsb' 7 33 = 0#33 then some (.shri (i.extractLsb' 6 1 = 1#1) d a (i.extractLsb' 0 6)) else none)
  | 0x6 => .of (do
      let d ← low3 (fD w); let a ← sreg (fA w); let c ← cmpOf (fld w 36 4).toNat
      some (.cmpi c d a (fld w 0 36)))
  | 0x7 => .of (do unused (fA w); let d ← sreg (fD w); some (.movi d (fImm40 w)))
  | 0x8 => .of (do
      unused (fA w); unused (fld w 24 16); let d ← sreg (fD w); some (.movhi d (fld w 0 24)))
  | _ => .undefined

/-- R format float with rm: fmt 0, fn 0, mod 0 (R103, 19 R319). -/
def float3 (w : Word) (k : Rm → Reg → Reg → Reg → Instr) : Option Instr := do
  unused (fC w); unused (fFn w); unused (fFmt w); unused (fMod w)
  let r ← rmOf (fRm w).toNat
  let d ← sreg (fD w); let a ← sreg (fA w); let b ← sreg (fB w)
  some (k r d a b)

/-- 0x20-0x2B (R103). -/
def row2 (w : Word) : Parse :=
  match colOf w with
  | 0x0 => .of (float3 w .fadd)
  | 0x1 => .of (float3 w .fsub)
  | 0x2 => .of (float3 w .fmul)
  | 0x3 => .of (do
      unused (fFn w); unused (fFmt w); unused (fMod w)
      let r ← rmOf (fRm w).toNat
      let d ← sreg (fD w); let a ← sreg (fA w); let b ← sreg (fB w); let c ← sreg (fC w)
      some (.ffma r d a b c))
  | 0x4 => .of (float3 w .fdiv)
  | 0x5 => .of (do
      unused (fB w); unused (fC w); unused (fFn w); unused (fFmt w); unused (fMod w)
      let r ← rmOf (fRm w).toNat; let d ← sreg (fD w); let a ← sreg (fA w)
      some (.fsqrt r d a))
  | 0x6 => .of (plain3 w .fmin)
  | 0x7 => .of (plain3 w .fmax)
  | 0x8 => .of (do
      unused (fC w); unused (fFmt w); unused (fRm w); unused (fMod w)
      let d ← low3 (fD w); let a ← sreg (fA w); let b ← sreg (fB w); let c ← cmpOf (fFn w).toNat
      if c.floating then some (.fcmp c d a b) else none)
  | 0x9 => .of (do
      unused (fB w); unused (fC w); unused (fMod w)
      let cv ← cvtOf (fFn w) (fFmt w); let r ← rmOf (fRm w).toNat
      let d ← sreg (fD w); let a ← sreg (fA w)
      some (.fcvt cv r d a))
  | 0xA => .of (do
      unused (fB w); unused (fC w); unused (fFn w); unused (fFmt w); unused (fRm w); unused (fMod w)
      let d ← sreg (fD w); let a ← sreg (fA w)
      some (.fclass d a))
  | 0xB => .of (do
      unused (fB w); unused (fC w); unused (fFmt w); unused (fMod w)
      let f ← specOf (fFn w).toNat; let r ← rmOf (fRm w).toNat
      let d ← sreg (fD w); let a ← sreg (fA w)
      some (.fsf f r d a))
  | _ => .undefined

/-- R format with only `a` used. -/
def onlyA (w : Word) (k : Reg → Instr) : Option Instr := do
  unused (fD w); unused (fB w); unused (fC w); unused (fFn w); unused (fFmt w); unused (fRm w); unused (fMod w)
  let a ← sreg (fA w)
  some (k a)

/-- Every field below the guard is 0. -/
def bare (w : Word) (i : Instr) : Option Instr := do
  unused (fld w 0 52); some i

/-- 0x30-0x38 (R104). -/
def row3 (w : Word) : Parse :=
  match colOf w with
  | 0x0 => .of (do unused (fD w); let h ← hintOf (fKind w).toNat; some (.br h (fOff44 w)))
  | 0x1 => .of (onlyA w .brx)
  | 0x2 => .of (do let l ← sreg (fD w); let h ← hintOf (fKind w).toNat; some (.call h l (fOff44 w)))
  | 0x3 => .of (onlyA w .ret)
  | 0x4 => .of (do let n ← low2 (fD w); let h ← hintOf (fKind w).toNat; some (.loop h n (fOff44 w)))
  | 0x5 => .of (do
      unused (fC w); unused (fFmt w); unused (fRm w); unused (fMod w); unused ((fFn w).extractLsb' 4 8)
      let d ← low3 (fD w); let a ← low3 (fA w); let b ← low3 (fB w)
      some (.plog d a b ((fFn w).extractLsb' 0 4)))
  | 0x6 => .of (do
      unused (fB w); unused (fC w); unused (fFmt w); unused (fRm w); unused (fMod w)
      match (fFn w).toNat with
      | 0 => do let d ← low3 (fD w); let a ← low3 (fA w); some (.pmov (.pp d a))
      | 1 => do unused (fA w); let d ← sreg (fD w); some (.pmov (.toS d))
      | 2 => do unused (fD w); let a ← sreg (fA w); some (.pmov (.fromS a))
      | _ => none)
  | 0x7 => .of (bare w .yield)
  | 0x8 => .of (bare w .done)
  | _ => .undefined

def memOp (w : Word) : Option MemOp := do
  let b ← sreg (fA w); let i ← sreg (fB w); some ⟨b, i, fOff26 w⟩

/-- M format with a fixed size, order 0 and scope 0. -/
def fixedM (w : Word) (size : Nat) (k : MemOp → Option Instr) : Option Instr := do
  if (fSize w).toNat ≠ size then none
  unused (fOrder w); unused (fScope w)
  let m ← memOp w
  k m

/-- 0x40-0x47 (R104). -/
def row4 (w : Word) : Parse :=
  match colOf w with
  | 0x0 => .of (do
      let z ← ldSizeOf (fSize w).toNat; let q ← flag (fOrder w); let s ← scopeOf (fScope w).toNat
      let d ← sreg (fD w); let m ← memOp w
      some (.ld z q s d m))
  | 0x1 => .of (do
      let z ← stSizeOf (fSize w).toNat
      let r ← (match (fOrder w).toNat with | 0 => some false | 2 => some true | _ => none)
      let s ← scopeOf (fScope w).toNat
      let d ← sreg (fD w); let m ← memOp w
      some (.st z r s m d))
  | 0x2 => .of (do
      let f ← atomOf (fld w 16 4).toNat; let z ← is64Of (fld w 20 3).toNat
      let o ← orderOf (fld w 23 3).toNat; let s ← scopeOf (fScope w).toNat
      let d ← sreg (fD w); let base ← sreg (fA w); let b ← sreg (fB w); let c ← sreg (fC w)
      if (f = .cas ∨ c = 0) ∧ ¬ (f = .fadd ∧ z = true) then some (.atom f z o s d base b c (fld w 0 16)) else none)
  | 0x3 => .of (do
      unused (fD w); unused (fA w); unused (fB w); unused (fSize w); unused (fOff26 w)
      let o ← orderOf (fOrder w).toNat; let s ← scopeOf (fScope w).toNat
      if o = .plain then none else some (.fence o s))
  | 0x4 => .of (fixedM w 3 fun m => do let d ← sreg (fD w); some (.ldp d m))
  | 0x5 => .of (fixedM w 3 fun m => do let d ← sreg (fD w); some (.stp m d))
  | 0x6 => .of (
      if (fSize w).toNat = 0 then fixedM w 0 fun m => do unused (fD w); some (.psetEmpty m)
      else fixedM w 1 fun m => do let d ← sreg (fD w); some (.psetPoison d m))
  | 0x7 => .of (do
      unused (fOrder w); unused (fScope w)
      let z ← is64Of (fSize w).toNat; let d ← sreg (fD w); let m ← memOp w
      some (.monw z d m))
  | _ => .undefined

/-- Vector R format with a mask; c must be 0. -/
def vec3 (w : Word) (k : LMode → VMask → VNum → VNum → VNum → Option Instr) : Option Instr := do
  unused (fC w); unused ((fFn w).extractLsb' 2 10)
  let md ← lmodeOf ((fFn w).extractLsb' 0 2).toNat (fFmt w) (fRm w)
  let m ← vmaskOf (fMod w)
  let d ← vreg (fD w); let a ← vreg (fA w); let b ← vreg (fB w)
  k md m d a b

def vbit3 (w : Word) (k : VMask → VNum → VNum → VNum → Instr) : Option Instr := do
  unused (fC w); unused (fFn w); unused (fFmt w); unused (fRm w)
  let m ← vmaskOf (fMod w)
  let d ← vreg (fD w); let a ← vreg (fA w); let b ← vreg (fB w)
  some (k m d a b)

/-- 0x50-0x5F (R105). -/
def row5 (w : Word) : Parse :=
  match colOf w with
  | 0x0 => .of (vec3 w fun md m d a b => some (.vadd md m d a b))
  | 0x1 => .of (vec3 w fun md m d a b => some (.vsub md m d a b))
  | 0x2 => .of (vec3 w fun md m d a b => some (.vmul md m d a b))
  | 0x3 => .of (do
      unused ((fFn w).extractLsb' 2 10)
      let md ← lmodeOf ((fFn w).extractLsb' 0 2).toNat (fFmt w) (fRm w)
      let m ← vmaskOf (fMod w)
      let d ← vreg (fD w); let a ← vreg (fA w); let b ← vreg (fB w); let c ← vreg (fC w)
      some (.vfma md m d a b c))
  | 0x4 => .of (vec3 w fun md m d a b => if md.unrounded then some (.vmin md m d a b) else none)
  | 0x5 => .of (vec3 w fun md m d a b => if md.unrounded then some (.vmax md m d a b) else none)
  | 0x6 => .of (vbit3 w .vand)
  | 0x7 => .of (vbit3 w .vor)
  | 0x8 => .of (vbit3 w .vxor)
  | 0x9 => .of (vbit3 w .vshl)
  | 0xA => .of (do
      unused (fC w); unused (fFmt w); unused (fRm w)
      let ar ← flag (fFn w); let m ← vmaskOf (fMod w)
      let d ← vreg (fD w); let a ← vreg (fA w); let b ← vreg (fB w)
      some (.vshr ar m d a b))
  | 0xB => .of (do
      unused (fC w); unused (fFmt w); unused (fRm w); unused ((fFn w).extractLsb' 6 6)
      let iw ← flag ((fFn w).extractLsb' 4 2); let c ← cmpOf ((fFn w).extractLsb' 0 4).toNat
      let m ← vmaskOf (fMod w)
      let d ← low3 (fD w); let a ← vreg (fA w); let b ← vreg (fB w)
      if iw || c.floating then some (.vcmp c iw m d a b) else none)
  | 0xC => .of (do
      unused (fC w); unused (fFn w); unused (fFmt w); unused (fRm w)
      let m ← vmaskOf (fMod w)
      let d ← vreg (fD w); let a ← vreg (fA w); let b ← vreg (fB w)
      if m.z then none else some (.vsel m.k d a b))
  | 0xD => .of (do
      unused (fB w); unused (fC w)
      let cv ← cvtOf (fFn w) (fFmt w); let r ← rmOf (fRm w).toNat; let m ← vmaskOf (fMod w)
      let d ← vreg (fD w); let a ← vreg (fA w)
      if cv.lane then some (.vcvt cv r m d a) else none)
  | 0xE => .of (do
      unused (fB w); unused (fC w); unused (fFmt w)
      let f ← specOf (fFn w).toNat; let r ← rmOf (fRm w).toNat; let m ← vmaskOf (fMod w)
      let d ← vreg (fD w); let a ← vreg (fA w)
      some (.vsf f r m d a))
  | 0xF => .of (do
      unused (fB w); unused (fC w); unused (fRm w); unused ((fFn w).extractLsb' 6 6)
      let op ← redOf ((fFn w).extractLsb' 0 4).toNat
      let md ← rmodeOf ((fFn w).extractLsb' 4 2).toNat (fFmt w)
      let m ← vmaskOf (fMod w); let d ← sreg (fD w); let a ← vreg (fA w)
      if redFits op md && !m.z then some (.vred op md m.k d a) else none)
  | _ => .undefined

/-- 0x60-0x6A (R105). -/
def row6 (w : Word) : Parse :=
  match colOf w with
  | 0x0 => .of (vbit3 w .vperm)
  | 0x1 => .of (do
      unused (fC w); unused (fFn w); unused (fFmt w); unused (fRm w)
      let m ← vmaskOf (fMod w)
      let d ← vreg (fD w); let a ← vreg (fA w); let b ← sreg (fB w)
      some (.vshuf m d a b))
  | 0x2 => .of (do
      unused (fB w); unused (fC w); unused (fFn w); unused (fFmt w); unused (fRm w)
      let m ← vmaskOf (fMod w); let d ← vreg (fD w); let a ← sreg (fA w)
      some (.vbc m d a))
  | 0x3 => .of (do
      unused (fA w); unused (fB w); unused (fC w); unused (fFn w); unused (fFmt w); unused (fRm w)
      let m ← vmaskOf (fMod w); let d ← vreg (fD w)
      some (.vidx m d))
  | 0x4 => .of (do
      unused (fSize w)
      let q ← flag (fOrder w); let s ← scopeOf (fScope w).toNat; let d ← vreg (fD w); let m ← memOp w
      some (.vld q s d m))
  | 0x5 => .of (do
      unused (fSize w)
      let r ← (match (fOrder w).toNat with | 0 => some false | 2 => some true | _ => none)
      let s ← scopeOf (fScope w).toNat; let d ← vreg (fD w); let m ← memOp w
      some (.vst r s m d))
  | 0x6 => .of (do
      unused (fOrder w)
      if (fSize w).toNat ≠ 2 then none
      let s ← scopeOf (fScope w).toNat
      let d ← vreg (fD w); let b ← sreg (fA w); let i ← vreg (fB w)
      some (.vgath s d b i (fOff26 w)))
  | 0x7 => .of (do
      unused (fOrder w)
      if (fSize w).toNat ≠ 2 then none
      let s ← scopeOf (fScope w).toNat
      let d ← vreg (fD w); let b ← sreg (fA w); let i ← vreg (fB w)
      some (.vscat s b i (fOff26 w) d))
  | 0x8 => .of (do
      unused (fD w); unused (fB w); unused (fC w); unused (fFmt w); unused (fRm w); unused (fMod w)
      unused ((fFn w).extractLsb' 3 9)
      let a ← sreg (fA w)
      some (.vchain a ((fFn w).extractLsb' 0 3).toFin))
  | 0x9 => .of (do
      unused (fC w); unused (fFmt w); unused (fRm w); unused (fMod w); unused ((fFn w).extractLsb' 4 8)
      let d ← low3 (fD w); let a ← low3 (fA w); let b ← low3 (fB w)
      some (.klog d a b ((fFn w).extractLsb' 0 4)))
  | 0xA => .of (do
      unused (fB w); unused (fC w); unused (fFmt w); unused (fRm w); unused (fMod w)
      match (fFn w).toNat with
      | 0 => do let d ← low3 (fD w); let a ← low3 (fA w); some (.kmov (.kk d a))
      | 1 => do let d ← sreg (fD w); let a ← low3 (fA w); some (.kmov (.toS d a))
      | 2 => do let d ← low3 (fD w); let a ← sreg (fA w); some (.kmov (.fromS d a))
      | _ => none)
  | _ => .undefined

/-- R format with only the accumulator field used. -/
def onlyAcc (w : Word) (k : Acc → Instr) : Option Instr := do
  unused (fA w); unused (fB w); unused (fC w); unused (fFn w); unused (fFmt w); unused (fRm w); unused (fMod w)
  let c ← low3 (fD w)
  some (k c)

/-- 0x70-0x7C (R104). -/
def row7 (w : Word) : Parse :=
  match colOf w with
  | 0x0 => .of (do
      let chk ← flag (fld w 0 9)
      let fa ← fmtOf (fld w 14 5); let fb ← fmtOf (fld w 9 5)
      let a ← sreg (fld w 43 6); let b ← sreg (fld w 37 6); let m ← sreg (fld w 31 6)
      let n ← sreg (fld w 25 6); let k ← sreg (fld w 19 6)
      some (.mma chk (fld w 49 3).toFin a b m n k fa fb))
  | 0x1 => .of (fixedM w 0 fun m => do
      let f ← fmtOf ((fD w).extractLsb' 0 5)
      if !f.blockScaled || (fD w).extractLsb' 5 1 = 1#1 then some (.mldb f ((fD w).extractLsb' 5 1 = 1#1) m)
      else none)
  | 0x2 => .of (bare w .mswp)
  | 0x3 => .of (onlyAcc w .mzero)
  | 0x4 => .of (fixedM w 2 fun m => do let c ← low3 (fD w); some (.mst m c))
  | 0x5 => .of (fixedM w 2 fun m => do let c ← low3 (fD w); some (.mldc c m))
  | 0x6 => .of (onlyAcc w .macq)
  | 0x7 => .of (onlyAcc w .mrel)
  | 0x8 => .of (do
      unused (fD w)
      let a ← sreg (fA w)
      if a = 0 then do unused (fld w 32 8); some (.tmset (.imm (fld w 0 32)))
      else do unused (fImm40 w); some (.tmset (.reg a)))
  | 0x9 => .of (fixedM w 0 fun m => do let n ← low3 (fD w); some (.tmld m n))
  | 0xA => .of (do
      unused (fB w); unused (fC w); unused (fFn w); unused (fFmt w); unused (fRm w)
      let m ← vmaskOf (fMod w); let d ← sreg (fD w); let a ← vreg (fA w)
      if m.z then none else some (.vmean m.k d a))
  | 0xB => .of (do
      unused (fC w); unused (fFmt w); unused (fRm w); unused (fMod w)
      let r ← flag (fFn w); let d ← vreg (fD w); let a ← sreg (fA w); let b ← sreg (fB w)
      some (.xmean r d a b))
  | 0xC => .of (do
      unused (fB w); unused (fC w); unused (fFn w); unused (fFmt w); unused (fRm w); unused (fMod w)
      let d ← sreg (fD w); let a ← sreg (fA w)
      some (.tmean d a))
  | _ => .undefined

/-- 0x80-0x8A (R106). -/
def row8 (w : Word) : Parse :=
  match colOf w with
  | 0x0 => .of (do
      unused (fA w); unused (fSFn w); let d ← sreg (fD w); let b ← sreg (fB w); some (.symr d b (fImm28 w)))
  | 0x1 => .of (do
      unused (fA w); let q ← symqOf (fSFn w).toNat; let d ← sreg (fD w); let b ← sreg (fB w)
      some (.symq q d b (fImm28 w)))
  | 0x2 => .of (do
      unused (fD w); unused (fB w); unused (fSFn w); unused (fImm28 w); let a ← sreg (fA w); some (.emit a))
  | 0x3 => .of (do
      unused (fD w); unused (fSFn w); unused (fImm28 w); let a ← sreg (fA w); let b ← sreg (fB w)
      some (.emitt a b))
  | 0x4 => .of (do
      unused (fB w); unused (fSFn w); let d ← sreg (fD w); let a ← sreg (fA w); some (.tbc d a (fImm28 w)))
  | 0x5 => .of (do
      unused (fB w); unused (fImm28 w)
      let op ← treeOf (fSFn w).toNat; let d ← sreg (fD w); let a ← sreg (fA w)
      some (.tred op d a))
  | 0x6 => .of (do
      unused (fB w); unused (fImm28 w); unused ((fSFn w).extractLsb' 5 1)
      let op ← treeOf ((fSFn w).extractLsb' 0 4).toNat; let d ← sreg (fD w); let a ← sreg (fA w)
      some (.tscan op ((fSFn w).extractLsb' 4 1 = 1#1) d a))
  | 0x7 => .of (bare w .tbar)
  | 0x8 => .of (do
      unused (fB w); unused (fSFn w); let d ← sreg (fD w); let a ← sreg (fA w); some (.tdesc d a (fImm28 w)))
  | 0x9 => .of (do
      unused (fD w); unused (fB w); unused (fSFn w); unused (fImm28 w); let a ← sreg (fA w); some (.cancel a))
  | 0xA => .of (do
      unused (fld w 6 22)
      let lin ← flag (fSFn w); let f ← fmtOf (fld w 0 5)
      let d ← sreg (fD w); let a ← sreg (fA w); let b ← sreg (fB w)
      if (!lin || f.linear) && (!(fld w 5 1 = 1#1) || f.blockScaled) then
        some (.chime lin f (fld w 5 1 = 1#1) d a b) else none)
  | _ => .undefined

/-- 0x90-0x9F (R106). -/
def row9 (w : Word) : Parse :=
  match colOf w with
  | 0x0 => .of (fixedM w 0 fun m => do unused (fD w); some (.rinit m))
  | 0x1 => .of (fixedM w 0 fun m => do let d ← sreg (fD w); some (.acqs d m))
  | 0x2 => .of (fixedM w 0 fun m => do let d ← sreg (fD w); some (.fill m d))
  | 0x3 => .of (fixedM w 0 fun m => do let d ← sreg (fD w); some (.awaitf d m))
  | 0x4 => .of (fixedM w 0 fun m => do unused (fD w); some (.rels m))
  | 0x5 => .of (do
      unused (fD w); unused (fA w); unused (fld w 24 16)
      some (.wait (fld w 18 6) (fld w 12 6) (fld w 6 6) (fld w 0 6)))
  | 0x6 => .of (fixedM w 3 fun m => do let d ← sreg (fD w); some (.tlwait d m))
  | 0x7 => .of (fixedM w 3 fun m => do let d ← sreg (fD w); some (.tlinc m d))
  | 0x8 => .of (do
      unused (fA w); unused (fB w); unused (fC w); unused ((fFn w).extractLsb' 6 6); unused (fFmt w)
      unused (fRm w); unused (fMod w)
      let d ← sreg (fD w)
      some (.mfs d ((fFn w).extractLsb' 0 6)))
  | 0x9 => .of (do
      unused (fD w); unused (fB w); unused (fC w); unused ((fFn w).extractLsb' 6 6); unused (fFmt w)
      unused (fRm w); unused (fMod w)
      let a ← sreg (fA w)
      some (.mts ((fFn w).extractLsb' 0 6) a))
  | 0xA => .of (do unused (fD w); unused (fA w); unused (fld w 5 35); some (.trap (fld w 0 5).toFin))
  | 0xB => .of (do
      unused (fD w); unused (fA w); unused (fB w); unused (fC w); unused (fFmt w); unused (fRm w); unused (fMod w)
      match (fFn w).toNat with
      | 0 => some .rftResume | 1 => some .rftSkip | 2 => some .rftRetry | 3 => some .rftPoison | 4 => some .rftAbort
      | _ => none)
  | 0xC => .of (bare w .ebrk)
  | 0xD => .of (do
      unused (fOrder w)
      if (fSize w).toNat ≠ 3 then none
      let s ← (match (fScope w).toNat with | 1 => some false | 2 => some true | _ => none)
      let d ← sreg (fD w); let m ← memOp w
      some (.sqput s d m))
  | 0xE => .of (do
      unused (fD w); unused (fB w); unused (fC w); unused (fFmt w); unused (fRm w); unused (fMod w)
      let a ← sreg (fA w)
      match (fFn w).toNat with
      | 0 => some (.invtlbAsid a)
      | 1 => some (.invtlbPage a)
      | 2 => if a = 0 then some .invtlbAll else none
      | _ => none)
  | 0xF => .of (do
      unused (fD w); unused (fC w); unused (fFmt w); unused (fRm w); unused (fMod w)
      let a ← sreg (fA w); let b ← sreg (fB w)
      if h : (fFn w).toNat < 16 then some (.errinj ⟨(fFn w).toNat, h⟩ a b) else none)
  | _ => .undefined

/-- ctl as the command's row gives it: ctl[2:0] 0 and ctl[3] the second-word bit (R94). -/
def ctl (w : Word) (two : Bool) : Option Unit :=
  if fld w 52 4 = (if two then 8#4 else 0#4) then some () else none

def low32 (w : Word) (k : W32 → Instr) : Option Instr := do unused (fld w 32 20); some (k (fld w 0 32))

def low40 (w : Word) (k : BitVec 40 → Instr) : Option Instr := do unused (fld w 40 12); some (k (fld w 0 40))

/-- [51:50] operation, [39:0] v of SSIG and CSIG. -/
def sigOp (w : Word) (st add mx : BitVec 40 → Instr) : Option Instr := do
  unused (fld w 40 10)
  match (fld w 50 2).toNat with
  | 0 => some (st (fld w 0 40)) | 1 => some (add (fld w 0 40)) | 2 => some (mx (fld w 0 40)) | _ => none

/-- [51:50] n, [49] set, [48:32] zero, [31:0]. -/
def loopOp (w : Word) (set lp : Fin 4 → W32 → Instr) : Option Instr := do
  unused (fld w 32 17)
  let n := (fld w 50 2).toFin
  some (if fld w 49 1 = 1#1 then set n (fld w 0 32) else lp n (fld w 0 32))

/-- 0xA0-0xAA (09 R177); w2 is the second word. -/
def rowA (w w2 : Word) : Parse :=
  match colOf w with
  | 0x0 => .of (do
      ctl w true; unused (fld w 1 51); some (.spat (if fld w 0 1 = 1#1 then 1 else 0) w2))
  | 0x1 => .of (do ctl w true; low32 w (.spush · w2))
  | 0x2 => .of (do ctl w true; low32 w (.spull · w2))
  | 0x3 => .of (do ctl w false; low32 w .scopy)
  | 0x4 => .of (do ctl w true; low32 w (.sgath · w2))
  | 0x5 => .of (do ctl w true; unused (fld w 0 52); some (.sroute w2))
  | 0x6 => .of (do ctl w false; loopOp w .sloopSet .sloop)
  | 0x7 => .of (do ctl w true; low40 w (.swait · w2))
  | 0x8 => .of (do ctl w true; sigOp w (.ssigSt · w2) (.ssigAdd · w2) (.ssigMax · w2))
  | 0x9 => .of (do ctl w false; unused (fld w 0 52); some .sstop)
  | 0xA => .of (do
      unused (fld w 3 49)
      if fld w 52 4 = 8#4 then some (.schk (fld w 0 3) (some w2))
      else do ctl w false; some (.schk (fld w 0 3) none))
  | _ => .undefined

/-- The payload of R260; `all` is bit 41. -/
def cpay (w : Word) : Option CPay := do
  unused (fld w 26 6); unused (fld w 25 1)
  some ⟨(fld w 50 2).toFin, (fld w 48 2).toFin, (fld w 46 2).toFin, fld w 45 1 = 1#1, fld w 44 1 = 1#1,
    fld w 43 1 = 1#1, fld w 42 1 = 1#1, fld w 40 1 = 1#1, fld w 32 8, fld w 24 1 = 1#1, fld w 0 24⟩

/-- An element command: its payload as its row of 19 R320 accepts it. -/
def elemOp (w : Word) (i : CPay → Instr) : Option Instr := do
  ctl w true
  let p ← cpay w
  unused (fld w 41 1)
  if (i p).wf then some (i p) else none

/-- 0xB0-0xBD (14 R259, R260, 19 R320). -/
def rowB (w w2 : Word) : Parse :=
  match colOf w with
  | 0x0 => .of (elemOp w (.csend · w2))
  | 0x1 => .of (elemOp w (.crecv · w2))
  | 0x2 => .of (elemOp w (.crrs · w2))
  | 0x3 => .of (do
      ctl w true
      let p ← cpay w
      let i := Instr.crrl (fld w 41 1 = 1#1) p w2
      if i.wf then some i else none)
  | 0x4 => .of (elemOp w (.ccopy · w2))
  | 0x5 => .of (do ctl w true; low40 w (.cwait · w2))
  | 0x6 => .of (do ctl w true; sigOp w (.csigSt · w2) (.csigAdd · w2) (.csigMax · w2))
  | 0x7 => .of (do ctl w false; loopOp w .cloopSet .cloop)
  | 0x8 => .of (do
      ctl w false; unused (fld w 32 13)
      let i := Instr.cpeer (fld w 50 2).toFin (fld w 49 1 = 1#1) (fld w 48 1 = 1#1) (fld w 46 2).toFin
        (fld w 45 1 = 1#1) (fld w 0 32)
      if i.wf then some i else none)
  | 0x9 => .of (do ctl w true; low32 w (.ctime · w2))
  | 0xA => .of (do ctl w true; unused (fld w 40 12); unused (fld w 0 32); some (.csendv (fld w 32 8) w2))
  | 0xB => .of (do ctl w true; unused (fld w 40 12); unused (fld w 0 32); some (.crecvv (fld w 32 8) w2))
  | 0xC => .of (elemOp w (.cmaxe · w2))
  | 0xD => .of (do ctl w false; unused (fld w 0 52); some .cstop)
  | _ => .undefined

/-! ## The decoder -/

/-- The fate of a word, its executor aside (R107). -/
inductive Fate where
  /-- 0xFFFF_FFFF_FFFF_FFFF: cause 0x03D. -/
  | allOnes
  /-- A cell of the map marked as unallocated. -/
  | undefined
  /-- A reserved value in some field. -/
  | reserved
  | instr (i : Instr)
  deriving DecidableEq, Repr

def Parse.fate : Parse → Fate
  | .undefined => .undefined
  | .reserved => .reserved
  | .ok i => .instr i

/-- The decoder: total, with the first row of R107 that fits. `w2` is the word after `w`, read only by a two-word
command. -/
def decode (w w2 : Word) : Fate :=
  if w = BitVec.allOnes 64 then .allOnes
  else if w = 0#64 then .instr .nop
  else
    match rowOf w with
    | 0x0 => (row0 w).fate
    | 0x1 => (row1 w).fate
    | 0x2 => (row2 w).fate
    | 0x3 => (row3 w).fate
    | 0x4 => (row4 w).fate
    | 0x5 => (row5 w).fate
    | 0x6 => (row6 w).fate
    | 0x7 => (row7 w).fate
    | 0x8 => (row8 w).fate
    | 0x9 => (row9 w).fate
    | 0xA => (rowA w w2).fate
    | 0xB => (rowB w w2).fate
    | _ => .undefined

/-- How many words the command or instruction takes: two when a Q command has ctl[3] = 1 (R94). -/
def wordsOf (w : Word) : Nat :=
  if (rowOf w = 0xA ∨ rowOf w = 0xB) ∧ fld w 55 1 = 1#1 then 2 else 1

def decodeTableWord (nbits w : Nat) : Option Instr :=
  match decode (BitVec.ofNat 64 (w % 2 ^ nbits)) (BitVec.ofNat 64 ((w % 2 ^ nbits) / 2 ^ 64)) with
  | .instr i => some i
  | _ => none

/-! ## The encoder -/

/-- An R word with scalar-like fields and no fmt, rm, mod. -/
def eR (mj : BitVec 8) (g : Guard) (d a b c : BitVec 6) (fn : Nat) : Word :=
  wR mj g d a b c (BitVec.ofNat 12 fn) 0#5 0#3 0#8

/-- A float R word. -/
def eF (mj : BitVec 8) (g : Guard) (rm : Rm) (d a b c : BitVec 6) (fn : Nat) : Word :=
  wR mj g d a b c (BitVec.ofNat 12 fn) 0#5 (BitVec.ofNat 3 rm.code) 0#8

/-- A vector R word with lane mode and mask. -/
def eV (mj : BitVec 8) (g : Guard) (md : LMode) (k : VMask) (d a b c : BitVec 6) : Word :=
  wR mj g d a b c (BitVec.ofNat 12 md.encMode) md.encFmt md.encRm k.enc

/-- A vector R word with fn and mask only. -/
def eB (mj : BitVec 8) (g : Guard) (k : VMask) (d a b : BitVec 6) (fn : Nat) : Word :=
  wR mj g d a b 0#6 (BitVec.ofNat 12 fn) 0#5 0#3 k.enc

def eM (mj : BitVec 8) (g : Guard) (d : BitVec 6) (m : MemOp) (size order scope : Nat) : Word :=
  wM mj g d (encReg m.base) (encReg m.idx) (BitVec.ofNat 3 size) (BitVec.ofNat 3 order) (BitVec.ofNat 2 scope) m.off

def eS (mj : BitVec 8) (g : Guard) (d a b : BitVec 6) (fn : Nat) (imm : BitVec 28) : Word :=
  wS mj g d a b (BitVec.ofNat 6 fn) imm

/-- fn of BFX and BFI: pos above len - 1. -/
def posLen (pos l : BitVec 6) : Nat := pos.toNat * 64 + l.toNat

/-- Payload of SLOOP, CLOOP: [51:50] n, [49] set, [31:0]. -/
def payLoop (n : Fin 4) (set : Bool) (v : W32) : BitVec 52 :=
  (BitVec.ofNat 2 n.val ++ encFlag 1 set ++ 0#17 ++ v : BitVec (2 + 1 + 17 + 32))

def paySig (op : Nat) (v : BitVec 40) : BitVec 52 := (BitVec.ofNat 2 op ++ 0#10 ++ v : BitVec (2 + 10 + 40))

def pay32 (v : W32) : BitVec 52 := (0#20 ++ v : BitVec (20 + 32))
def pay40 (v : BitVec 40) : BitVec 52 := (0#12 ++ v : BitVec (12 + 40))
def payTag (t : Byte) : BitVec 52 := (0#12 ++ t ++ 0#32 : BitVec (12 + 8 + 32))

/-- The payload of R260. -/
def CPay.enc (p : CPay) (all : Bool) : BitVec 52 :=
  (BitVec.ofNat 2 p.na.val ++ BitVec.ofNat 2 p.nb.val ++ BitVec.ofNat 2 p.ni.val ++ encFlag 1 p.ix ++ encFlag 1 p.dm ++
    encFlag 1 p.fold ++ encFlag 1 p.dot ++ encFlag 1 all ++ encFlag 1 p.larg ++ p.tag ++ 0#6 ++ 0#1 ++
    encFlag 1 p.bf16 ++ p.cnt : BitVec (2 + 2 + 2 + 1 + 1 + 1 + 1 + 1 + 1 + 8 + 6 + 1 + 1 + 24))

def payPeer (k : Fin 4) (lp add : Bool) (j : Fin 4) (abs : Bool) (d : W32) : BitVec 52 :=
  (BitVec.ofNat 2 k.val ++ encFlag 1 lp ++ encFlag 1 add ++ BitVec.ofNat 2 j.val ++ encFlag 1 abs ++ 0#13 ++ d :
    BitVec (2 + 1 + 1 + 2 + 1 + 13 + 32))

def ordOf (rel : Bool) : Nat := if rel then 2 else 0
def acqOf (acq : Bool) : Nat := if acq then 1 else 0
def sz64 (b : Bool) : Nat := if b then 3 else 2

/-- The words of an instruction under a guard; the guard of a command is not encoded, and events have none. -/
def encode (g : Guard) : Instr → List Word
  | .nop => [0#64]
  | .add d a b => [eR 0x00 g (encReg d) (encReg a) (encReg b) 0 0]
  | .sub d a b => [eR 0x01 g (encReg d) (encReg a) (encReg b) 0 0]
  | .mul f d a b => [eR 0x02 g (encReg d) (encReg a) (encReg b) 0 f.code]
  | .div u d a b => [eR 0x03 g (encReg d) (encReg a) (encReg b) 0 (if u then 1 else 0)]
  | .rem u d a b => [eR 0x03 g (encReg d) (encReg a) (encReg b) 0 (if u then 3 else 2)]
  | .and d a b => [eR 0x04 g (encReg d) (encReg a) (encReg b) 0 0]
  | .or d a b => [eR 0x05 g (encReg d) (encReg a) (encReg b) 0 0]
  | .xor d a b => [eR 0x06 g (encReg d) (encReg a) (encReg b) 0 0]
  | .shl d a b => [eR 0x07 g (encReg d) (encReg a) (encReg b) 0 0]
  | .shr ar d a b => [eR 0x08 g (encReg d) (encReg a) (encReg b) 0 (if ar then 1 else 0)]
  | .min u d a b => [eR 0x09 g (encReg d) (encReg a) (encReg b) 0 (if u then 1 else 0)]
  | .max u d a b => [eR 0x09 g (encReg d) (encReg a) (encReg b) 0 (if u then 3 else 2)]
  | .clz d a => [eR 0x0A g (encReg d) (encReg a) 0 0 0]
  | .popc d a => [eR 0x0A g (encReg d) (encReg a) 0 0 1]
  | .bfx d a pos l => [eR 0x0B g (encReg d) (encReg a) 0 0 (posLen pos l)]
  | .bfi d a pos l => [eR 0x0C g (encReg d) (encReg a) 0 0 (posLen pos l)]
  | .sel d a b p => [eR 0x0D g (encReg d) (encReg a) (encReg b) (encReg p) 0]
  | .cmp c d a b => [eR 0x0E g (encReg d) (encReg a) (encReg b) 0 c.code]
  | .lea d a b sh => [eR 0x0F g (encReg d) (encReg a) (encReg b) 0 sh.val]
  | .addi d a i => [wI 0x10 g (encReg d) (encReg a) i]
  | .andi d a i => [wI 0x11 g (encReg d) (encReg a) i]
  | .ori d a i => [wI 0x12 g (encReg d) (encReg a) i]
  | .xori d a i => [wI 0x13 g (encReg d) (encReg a) i]
  | .shli d a n => [wI 0x14 g (encReg d) (encReg a) (0#34 ++ n : BitVec (34 + 6))]
  | .shri ar d a n => [wI 0x15 g (encReg d) (encReg a) (0#33 ++ encFlag 1 ar ++ n : BitVec (33 + 1 + 6))]
  | .cmpi c d a i => [wI 0x16 g (encReg d) (encReg a) (BitVec.ofNat 4 c.code ++ i : BitVec (4 + 36))]
  | .movi d i => [wI 0x17 g (encReg d) 0 i]
  | .movhi d i => [wI 0x18 g (encReg d) 0 (0#16 ++ i : BitVec (16 + 24))]
  | .fadd r d a b => [eF 0x20 g r (encReg d) (encReg a) (encReg b) 0 0]
  | .fsub r d a b => [eF 0x21 g r (encReg d) (encReg a) (encReg b) 0 0]
  | .fmul r d a b => [eF 0x22 g r (encReg d) (encReg a) (encReg b) 0 0]
  | .ffma r d a b c => [eF 0x23 g r (encReg d) (encReg a) (encReg b) (encReg c) 0]
  | .fdiv r d a b => [eF 0x24 g r (encReg d) (encReg a) (encReg b) 0 0]
  | .fsqrt r d a => [eF 0x25 g r (encReg d) (encReg a) 0 0 0]
  | .fmin d a b => [eR 0x26 g (encReg d) (encReg a) (encReg b) 0 0]
  | .fmax d a b => [eR 0x27 g (encReg d) (encReg a) (encReg b) 0 0]
  | .fcmp c d a b => [eR 0x28 g (encReg d) (encReg a) (encReg b) 0 c.code]
  | .fcvt cv r d a => [wR 0x29 g (encReg d) (encReg a) 0 0 cv.encFn cv.encFmt (BitVec.ofNat 3 r.code) 0#8]
  | .fclass d a => [eR 0x2A g (encReg d) (encReg a) 0 0 0]
  | .fsf f r d a => [eF 0x2B g r (encReg d) (encReg a) 0 0 f.code]
  | .br h off => [wB 0x30 g 0 (BitVec.ofNat 2 h.code) off]
  | .brx a => [eR 0x31 g 0 (encReg a) 0 0 0]
  | .call h l off => [wB 0x32 g (encReg l) (BitVec.ofNat 2 h.code) off]
  | .ret a => [eR 0x33 g 0 (encReg a) 0 0 0]
  | .loop h n off => [wB 0x34 g (encReg n) (BitVec.ofNat 2 h.code) off]
  | .plog d a b t => [eR 0x35 g (encReg d) (encReg a) (encReg b) 0 t.toNat]
  | .pmov (.pp d a) => [eR 0x36 g (encReg d) (encReg a) 0 0 0]
  | .pmov (.toS d) => [eR 0x36 g (encReg d) 0 0 0 1]
  | .pmov (.fromS a) => [eR 0x36 g 0 (encReg a) 0 0 2]
  | .yield => [eR 0x37 g 0 0 0 0 0]
  | .done => [eR 0x38 g 0 0 0 0 0]
  | .ld z q s d m => [eM 0x40 g (encReg d) m z.code (acqOf q) s.code]
  | .st z r s m d => [eM 0x41 g (encReg d) m z.code (ordOf r) s.code]
  | .atom f z o s d base b c off =>
      [wA 0x42 g (encReg d) (encReg base) (encReg b) (encReg c) (BitVec.ofNat 2 s.code) (BitVec.ofNat 3 o.code)
        (BitVec.ofNat 3 (sz64 z)) (BitVec.ofNat 4 f.code) off]
  | .fence o s => [eM 0x43 g 0 ⟨0, 0, 0⟩ 0 o.code s.code]
  | .ldp d m => [eM 0x44 g (encReg d) m 3 0 0]
  | .stp m d => [eM 0x45 g (encReg d) m 3 0 0]
  | .psetEmpty m => [eM 0x46 g 0 m 0 0 0]
  | .psetPoison d m => [eM 0x46 g (encReg d) m 1 0 0]
  | .monw z d m => [eM 0x47 g (encReg d) m (sz64 z) 0 0]
  | .vadd md k d a b => [eV 0x50 g md k (encReg d) (encReg a) (encReg b) 0]
  | .vsub md k d a b => [eV 0x51 g md k (encReg d) (encReg a) (encReg b) 0]
  | .vmul md k d a b => [eV 0x52 g md k (encReg d) (encReg a) (encReg b) 0]
  | .vfma md k d a b c => [eV 0x53 g md k (encReg d) (encReg a) (encReg b) (encReg c)]
  | .vmin md k d a b => [eV 0x54 g md k (encReg d) (encReg a) (encReg b) 0]
  | .vmax md k d a b => [eV 0x55 g md k (encReg d) (encReg a) (encReg b) 0]
  | .vand k d a b => [eB 0x56 g k (encReg d) (encReg a) (encReg b) 0]
  | .vor k d a b => [eB 0x57 g k (encReg d) (encReg a) (encReg b) 0]
  | .vxor k d a b => [eB 0x58 g k (encReg d) (encReg a) (encReg b) 0]
  | .vshl k d a b => [eB 0x59 g k (encReg d) (encReg a) (encReg b) 0]
  | .vshr ar k d a b => [eB 0x5A g k (encReg d) (encReg a) (encReg b) (if ar then 1 else 0)]
  | .vcmp c iw k d a b => [eB 0x5B g k (encReg d) (encReg a) (encReg b) (c.code + if iw then 16 else 0)]
  | .vsel k d a b => [eB 0x5C g ⟨k, false⟩ (encReg d) (encReg a) (encReg b) 0]
  | .vcvt cv r k d a => [wR 0x5D g (encReg d) (encReg a) 0 0 cv.encFn cv.encFmt (BitVec.ofNat 3 r.code) k.enc]
  | .vsf f r k d a =>
      [wR 0x5E g (encReg d) (encReg a) 0 0 (BitVec.ofNat 12 f.code) 0#5 (BitVec.ofNat 3 r.code) k.enc]
  | .vred op md k d a =>
      [wR 0x5F g (encReg d) (encReg a) 0 0 (BitVec.ofNat 12 (op.code + 16 * md.encMode)) md.encFmt 0#3
        (VMask.enc ⟨k, false⟩)]
  | .vperm k d a b => [eB 0x60 g k (encReg d) (encReg a) (encReg b) 0]
  | .vshuf k d a b => [eB 0x61 g k (encReg d) (encReg a) (encReg b) 0]
  | .vbc k d a => [eB 0x62 g k (encReg d) (encReg a) 0 0]
  | .vidx k d => [eB 0x63 g k (encReg d) 0 0 0]
  | .vld q s d m => [eM 0x64 g (encReg d) m 0 (acqOf q) s.code]
  | .vst r s m d => [eM 0x65 g (encReg d) m 0 (ordOf r) s.code]
  | .vgath s d b i off => [wM 0x66 g (encReg d) (encReg b) (encReg i) 2#3 0#3 (BitVec.ofNat 2 s.code) off]
  | .vscat s b i off d => [wM 0x67 g (encReg d) (encReg b) (encReg i) 2#3 0#3 (BitVec.ofNat 2 s.code) off]
  | .vchain a n => [eR 0x68 g 0 (encReg a) 0 0 n.val]
  | .klog d a b t => [eR 0x69 g (encReg d) (encReg a) (encReg b) 0 t.toNat]
  | .kmov (.kk d a) => [eR 0x6A g (encReg d) (encReg a) 0 0 0]
  | .kmov (.toS d a) => [eR 0x6A g (encReg d) (encReg a) 0 0 1]
  | .kmov (.fromS d a) => [eR 0x6A g (encReg d) (encReg a) 0 0 2]
  | .mma chk c a b m n k fa fb =>
      [wX 0x70 g (BitVec.ofNat 3 c.val) (encReg a) (encReg b) (encReg m) (encReg n) (encReg k)
        (BitVec.ofNat 5 fa.val) (BitVec.ofNat 5 fb.val) (encFlag 9 chk)]
  | .mldb f tr m => [eM 0x71 g (encFlag 1 tr ++ BitVec.ofNat 5 f.val : BitVec (1 + 5)) m 0 0 0]
  | .mswp => [eR 0x72 g 0 0 0 0 0]
  | .mzero c => [eR 0x73 g (encReg c) 0 0 0 0]
  | .mst m c => [eM 0x74 g (encReg c) m 2 0 0]
  | .mldc c m => [eM 0x75 g (encReg c) m 2 0 0]
  | .macq c => [eR 0x76 g (encReg c) 0 0 0 0]
  | .mrel c => [eR 0x77 g (encReg c) 0 0 0 0]
  | .tmset (.imm v) => [wI 0x78 g 0 0 (0#8 ++ v : BitVec (8 + 32))]
  | .tmset (.reg a) => [wI 0x78 g 0 (encReg a) 0]
  | .tmld m n => [eM 0x79 g (encReg n) m 0 0 0]
  | .vmean k d a => [eB 0x7A g ⟨k, false⟩ (encReg d) (encReg a) 0 0]
  | .xmean r d a b => [eR 0x7B g (encReg d) (encReg a) (encReg b) 0 (if r then 1 else 0)]
  | .tmean d a => [eR 0x7C g (encReg d) (encReg a) 0 0 0]
  | .symr d b i => [eS 0x80 g (encReg d) 0 (encReg b) 0 i]
  | .symq q d b i => [eS 0x81 g (encReg d) 0 (encReg b) q.code i]
  | .emit a => [eS 0x82 g 0 (encReg a) 0 0 0]
  | .emitt a b => [eS 0x83 g 0 (encReg a) (encReg b) 0 0]
  | .tbc d a i => [eS 0x84 g (encReg d) (encReg a) 0 0 i]
  | .tred op d a => [eS 0x85 g (encReg d) (encReg a) 0 op.code 0]
  | .tscan op ex d a => [eS 0x86 g (encReg d) (encReg a) 0 (op.code + if ex then 16 else 0) 0]
  | .tbar => [eS 0x87 g 0 0 0 0 0]
  | .tdesc d a i => [eS 0x88 g (encReg d) (encReg a) 0 0 i]
  | .cancel a => [eS 0x89 g 0 (encReg a) 0 0 0]
  | .chime lin f sc d a b =>
      [eS 0x8A g (encReg d) (encReg a) (encReg b) (if lin then 1 else 0)
        (0#22 ++ encFlag 1 sc ++ BitVec.ofNat 5 f.val : BitVec (22 + 1 + 5))]
  | .rinit m => [eM 0x90 g 0 m 0 0 0]
  | .acqs d m => [eM 0x91 g (encReg d) m 0 0 0]
  | .fill m a => [eM 0x92 g (encReg a) m 0 0 0]
  | .awaitf d m => [eM 0x93 g (encReg d) m 0 0 0]
  | .rels m => [eM 0x94 g 0 m 0 0 0]
  | .wait l s c x => [wI 0x95 g 0 0 (0#16 ++ l ++ s ++ c ++ x : BitVec (16 + 6 + 6 + 6 + 6))]
  | .tlwait d m => [eM 0x96 g (encReg d) m 3 0 0]
  | .tlinc m d => [eM 0x97 g (encReg d) m 3 0 0]
  | .mfs d n => [eR 0x98 g (encReg d) 0 0 0 n.toNat]
  | .mts n a => [eR 0x99 g 0 (encReg a) 0 0 n.toNat]
  | .trap n => [wI 0x9A g 0 0 (BitVec.ofNat 40 n.val)]
  | .rftResume => [eR 0x9B g 0 0 0 0 0]
  | .rftSkip => [eR 0x9B g 0 0 0 0 1]
  | .rftRetry => [eR 0x9B g 0 0 0 0 2]
  | .rftPoison => [eR 0x9B g 0 0 0 0 3]
  | .rftAbort => [eR 0x9B g 0 0 0 0 4]
  | .ebrk => [eR 0x9C g 0 0 0 0 0]
  | .sqput sys a m => [eM 0x9D g (encReg a) m 3 0 (if sys then 2 else 1)]
  | .invtlbAsid a => [eR 0x9E g 0 (encReg a) 0 0 0]
  | .invtlbPage a => [eR 0x9E g 0 (encReg a) 0 0 1]
  | .invtlbAll => [eR 0x9E g 0 0 0 0 2]
  | .errinj k a b => [eR 0x9F g 0 (encReg a) (encReg b) 0 k.val]
  | .spat n d => [wQ 0xA0 true (BitVec.ofNat 52 n.val), d]
  | .spush r a => [wQ 0xA1 true (pay32 r), a]
  | .spull r a => [wQ 0xA2 true (pay32 r), a]
  | .scopy r => [wQ 0xA3 false (pay32 r)]
  | .sgath r a => [wQ 0xA4 true (pay32 r), a]
  | .sroute a => [wQ 0xA5 true 0, a]
  | .sloopSet n c => [wQ 0xA6 false (payLoop n true c)]
  | .sloop n o => [wQ 0xA6 false (payLoop n false o)]
  | .swait v a => [wQ 0xA7 true (pay40 v), a]
  | .ssigSt v a => [wQ 0xA8 true (paySig 0 v), a]
  | .ssigAdd v a => [wQ 0xA8 true (paySig 1 v), a]
  | .ssigMax v a => [wQ 0xA8 true (paySig 2 v), a]
  | .sstop => [wQ 0xA9 false 0]
  | .schk f none => [wQ 0xAA false (0#49 ++ f : BitVec (49 + 3))]
  | .schk f (some a) => [wQ 0xAA true (0#49 ++ f : BitVec (49 + 3)), a]
  | .csend p a => [wQ 0xB0 true (p.enc false), a]
  | .crecv p a => [wQ 0xB1 true (p.enc false), a]
  | .crrs p a => [wQ 0xB2 true (p.enc false), a]
  | .crrl all p a => [wQ 0xB3 true (p.enc all), a]
  | .ccopy p a => [wQ 0xB4 true (p.enc false), a]
  | .cwait v a => [wQ 0xB5 true (pay40 v), a]
  | .csigSt v a => [wQ 0xB6 true (paySig 0 v), a]
  | .csigAdd v a => [wQ 0xB6 true (paySig 1 v), a]
  | .csigMax v a => [wQ 0xB6 true (paySig 2 v), a]
  | .cloopSet n c => [wQ 0xB7 false (payLoop n true c)]
  | .cloop n o => [wQ 0xB7 false (payLoop n false o)]
  | .cpeer k lp ad j ab d => [wQ 0xB8 false (payPeer k lp ad j ab d)]
  | .ctime s t => [wQ 0xB9 true (pay32 s), t]
  | .csendv t a => [wQ 0xBA true (payTag t), a]
  | .crecvv t a => [wQ 0xBB true (payTag t), a]
  | .cmaxe p a => [wQ 0xBC true (p.enc false), a]
  | .cstop => [wQ 0xBD false 0]
  | _ => []

end Sys2Proof
end

