-- ==== Sys2Proof/Machine/State.lean ====
section
/-! DEFINITION. The state of a Kelong module, all of it plain data: what the spec names, file and rule beside each
field, and the model's own bookkeeping (agenda, turn, free), marked MODEL. Reset values the spec does not give are
the log's. -/

namespace Sys2Proof.Machine

open Sys2Proof

/-! ## Stops -/

/-- How the machine itself can stop. A fault of a program is no stop: it is a next state (R221, R174, R256). -/
inductive Fault where
  /-- Raised by a meaning of an agent instruction, a Tabor command or a ringer command when the executor it needs
  does not have the turn. `step` never does this. Safe: the real machine issues nothing in such a state. -/
  | noExecutor
  deriving DecidableEq, Repr

/-- Refusals: only an arm without a meaning. -/
inductive Refusal where
  /-- Raised by an arm of `exec` whose instruction has no meaning yet. Safe. -/
  | notModelled (mnemonic : String)
  deriving DecidableEq, Repr

/-! ## Small parts -/

/-- MODEL. Who executes the instruction in hand. -/
inductive Turn where
  | nobody
  | agent (core slot : Nat)
  | context (engine ctx : Nat)
  | ringer (g : Nat)
  /-- accesses through the core window, behind the issue of every core (R191) -/
  | window
  deriving DecidableEq, Repr

/-- Classes of outstanding operations (R89). -/
inductive Cls where
  | loads | stores | copies | tiles
  deriving DecidableEq, Repr

/-- A register that an operation still in flight is to write (R90). -/
inductive RName where
  | s (n : Nat)
  | v (n : Nat)
  | p (n : Nat)
  | k (n : Nat)
  | c (n : Nat)
  /-- `%seed`, which stochastic rounding steps (R120) -/
  | seed
  deriving DecidableEq, Repr

/-- Where a physical byte lies (R159, R162). -/
inductive Place where
  /-- Own scratchpad, other scratchpad, HBM, LPDDR: a key of the memory list. -/
  | here (key : Nat)
  /-- Host memory (tier 2): a key of the memory list behind a host link. -/
  | host (key : Nat)
  /-- A peer's address (tier 3): peer slot and PA[43:0]. -/
  | peer (slot pa : Nat)
  deriving DecidableEq, Repr

/-- A translated address: its first byte and whether its page is single-assignment (R165). -/
structure Loc where
  place : Place
  sa : Bool
  deriving DecidableEq, Repr

/-- A cached leaf or block translation (R165, R167): `base` and `size` of the virtual range it maps. -/
structure TlbEntry where
  asid : Nat
  base : Nat
  size : Nat
  pa : Nat
  tier : Nat
  sa : Bool
  w : Bool
  r : Bool
  deriving DecidableEq, Repr

/-- A blamed event (R206, R207): the blamed cause, its error-log entry, the unit, the chunk. -/
structure Blame where
  cause : Nat
  entry : Nat
  hop : W32
  chunk : Word
  deriving DecidableEq, Repr

/-- What a trap record says of its instruction (R224); `localPath` says that a blamed unit lies on a local path
(R211). -/
structure Trap where
  cause : Nat
  pc : Nat
  word : Word
  opa : Word
  opb : Word
  addr : Word
  lane : Nat
  chunk : Word
  hop : W32
  entry : Option Nat
  localPath : Bool
  deriving DecidableEq, Repr

/-- What an access does when it is performed (R184, R170). `d` names the destination register. -/
inductive AccOp where
  | load (size : LdSize) (d : Reg)
  | vload (d : VNum)
  | gather (d : VNum) (k : W32)
  | ldp (d : Reg)
  | atom (fn : AtomFn) (is64 : Bool) (d : Reg) (b c : Word)
  | tdesc (d : Reg)
  | store (bytes : List Byte)
  | scatter (words : List W32)
  | stp (v : Word)
  | psetEmpty
  | psetPoison (v : Word)
  | tlinc (v : Word)
  /-- The slot write of SQPUT and its header, after the claim (R403). -/
  | sqput (hdr slot : Word) (packet : List Byte)
  | fence (order : Order)
  /-- a raise of a timeline word at its home: the sum, or the maximum (R279) -/
  | raise (max : Bool) (v : Word)
  /-- POISON's write of a promise word, of an EMPTY one only (R228) -/
  | poisonEmpty (v : Word)
  /-- a deferred read whose answer has left the bank (R170) -/
  | answered (d : Reg) (v : Word)
  /-- a copy's read of a peer's bytes (R251) -/
  | block (n : Nat)
  deriving DecidableEq, Repr

/-- Where an access stands. -/
inductive Phase where
  /-- waits for the die's walker (R198) -/
  | parked
  /-- on its way to its home -/
  | moving
  /-- armed at its bank (R170), or waiting for a peer's answer (R251) -/
  | armed
  /-- ended in a late fault: later accesses to its bytes wait until RESUME issues it again or SKIP drops it (R186, R198) -/
  | faulted
  deriving DecidableEq, Repr

/-- How far the lanes of a VGATH or VSCAT have come, each an access of its own (R426), or the granules of a VLD or VST (R190):
performed, sent to a peer, and what they have read. -/
structure LaneState where
  done : List Nat
  sent : List Nat
  got : Tbl (List Byte)
  deriving DecidableEq, Repr

/-- An access in flight: `locs` gives the place of each of its `width`-byte parts. -/
structure Access where
  id : Nat
  cls : Option Cls
  op : AccOp
  vas : List Word
  locs : List Loc
  width : Nat
  acq : Bool
  rel : Bool
  scope : Scope
  phase : Phase
  /-- what a trap record would say of the instruction, cause aside -/
  tr : Trap
  lanes : LaneState
  deriving DecidableEq, Repr

/-- A write to host memory or to a peer on its way to its home (R251, R273): who posted it (core and slot of an agent, 4096 and
engine with context, 8192 and ringer, 16384 for a partition's root) and its number, what it does, and whether it has left; a raise leaves once what
its unit posted earlier is acknowledged (R279). -/
structure Posted where
  who : Nat × Nat
  id : Nat
  place : Place
  op : AccOp
  sent : Bool
  deriving DecidableEq, Repr

/-- A posted write as its agent keeps it until it is acknowledged (R273): its number, place and bytes, whether its port went down,
and whether it is a part of an MST, which is ordered as an asynchronous access (R184, R186). -/
structure Unacked where
  id : Nat
  place : Place
  bytes : List Byte
  dead : Bool
  async : Bool
  deriving DecidableEq, Repr

/-- MODEL. A read of a peer's bytes by a copy of an agent (R251): its own number, the number of the copy, the peer slot, address and
length, and what the answer has brought. -/
structure PeerRead where
  num : Nat
  op : Nat
  slot : Nat
  pa : Nat
  len : Nat
  data : Option (List Byte)
  deriving DecidableEq, Repr

/-- A counted operation of a class; `done` once its effect has been performed (R89). -/
structure ClassOp where
  cls : Cls
  id : Nat
  done : Bool
  deriving DecidableEq, Repr

/-- A held emission: the word, and the payload with its chime word where EMITT made it (R60). -/
structure Emission where
  word : Word
  payload : Option (List Byte)
  chime : Word
  deriving DecidableEq, Repr

/-- A fault of an agent. `late` marks one that was detected after its instruction issued (R436): RESUME re-issues the
access of that number alone where one is given, else the instruction; the agent then goes on where it stood. -/
structure AFault where
  trap : Trap
  access : Option Nat
  late : Bool
  deriving DecidableEq, Repr

/-- A contribution to a tree operation (R413): its kind and its value. -/
inductive Contrib where
  | tbc (a : Word) (root : Nat) (d : Reg)
  | tred (op : TreeOp) (a : Word) (d : Reg)
  | tscan (op : TreeOp) (ex : Bool) (a : Word) (d : Reg)
  | tbar
  /-- its partial (m, a, n), the flags of forming it, and its `%tms` -/
  | tmean (m a : W32) (n : Nat) (fl : W32) (d : Reg) (tms : W32)
  deriving DecidableEq, Repr

/-- An XMEAN under way (R156): next row, rows, input address or ring, destination. -/
structure XRow where
  row : Nat
  rows : Nat
  addr : Word
  ring : Bool
  d : VNum
  deriving DecidableEq, Repr

/-- Why an agent issues nothing for now. -/
inductive AStat where
  | running
  /-- has executed DONE -/
  | ended
  /-- waits for the join of its contribution (R413) -/
  | joining
  /-- a TMLD or an INVTLB in progress, a VMEAN or XMEAN under way: until the event that ends it -/
  | held
  deriving DecidableEq, Repr

/-! ## The agent -/

/-- A stop slot (R304). -/
structure StopSlot where
  kind : Nat
  loads : Bool
  stores : Bool
  wide : Bool
  once : Bool
  oper : Nat
  arg : Nat
  lo : Nat
  hi : Nat
  deriving DecidableEq, Repr

/-- An agent (R71, R74): key 128 · core + slot of the agents' table, slot 64 for the service agent. -/
structure Agent where
  core : Nat
  slot : Nat
  part : Nat
  rid : Nat
  oper : Nat
  status : AStat
  pc : Nat
  s : Vector Word 32
  p : Vector Bool 8
  k : Vector W32 8
  v : Vector Lanes 64
  cell : Nat
  alen : Nat
  lcell : Nat
  node : Nat
  depth : Nat
  frm : W32
  fflags : W32
  ftrap : W32
  seed : Word
  tms : W32
  ascl : Word
  bscl : Word
  mtol : W32
  lc : Vector W32 4
  li : Vector W32 4
  gran : Nat
  emits : List Emission
  outs : List Access
  ops : List ClassOp
  /-- MODEL: the next access or operation number of the agent -/
  nextId : Nat
  /-- posted writes not yet acknowledged (R273) -/
  posted : List Unacked
  /-- MODEL: reads of peers' bytes by its copies (R251) -/
  reads : List PeerRead
  /-- MODEL: the claim that its SQPUT has sent to a queue header at a peer: its number, the index claimed, and the slot write (R403) -/
  claim : Option (Nat × Nat × Access)
  /-- registers whose result comes at a fixed later cycle (R213, R353, R90) -/
  busy : List (RName × Nat)
  /-- the number of its next tree operation (R413) and the contribution that waits -/
  join : Nat
  contrib : Option Contrib
  xrow : Option XRow
  /-- last cycle in which it issued, drowsiness, and the first cycle in which it may issue (R81, R353) -/
  lastIssue : Nat
  drowsy : Bool
  wakeAt : Nat
  late : List AFault
  /-- the trap its area is frozen by, when it is the trapped agent (R221) -/
  trapped : Option AFault
  /-- the trap record's address (service agent, R225) -/
  trec : Word
  /-- the slot (255 EBRK) that stopped it, which its next instruction does not match (R306) -/
  passStop : Option Nat
  /-- instructions left of a step, and the slot it stops by again -/
  stepLeft : Option (Nat × Nat)
  /-- the slots that its step began with, where a peal marker has passed since with others, or that the stop which it is about to make
  matched (R310) -/
  stepSlots : Option (List StopSlot)
  /-- of the service agent: the stop it stands at, 0 while that waits to be recorded (R307, R309) -/
  halted : Option Nat
  /-- MODEL: RESUME of a late fault re-issues an earlier instruction: the word indices to go on from behind the one at `pc` -/
  redo : List Nat
  /-- MODEL: accesses that RESUME issues again once their class has room (R227) -/
  again : List Nat
  /-- MODEL: what a wait that was met while the area was frozen read (R221) -/
  met : Option Word
  /-- MODEL: the value that a waiting MONW or TLWAIT tests: as the cycle began, on tiers 2 and 3 as the last 1 us poll read it (R378,
  R280) -/
  polled : Option Word
  /-- MODEL: the access number of the first LDP that a pre-emption has made it give up (R234) -/
  gaveUp : Option Nat
  /-- MODEL: its waiting ACQS has passed the tests that stand before the wait (R322) -/
  begun : Bool
  /-- MODEL: `%fflags` as they stood when it last issued, for one whose fault counts as not issued (R221) -/
  flags0 : W32
  deriving DecidableEq, Repr

/-! ## The core -/

/-- An accumulator tile: its state word's fields (R78) and its 1,024 words (R143). -/
structure Tile where
  owner : Option Nat
  full : Bool
  busy : Bool
  sat : Bool
  int : Bool
  prog : Nat
  words : Vector W32 1024
  deriving DecidableEq, Repr

/-- A stationary plane (R136, R138): its bytes as packed by its format, scale bytes by 256 · column + block. -/
structure Plane where
  loaded : Bool
  fmt : Nat
  kk : Nat
  nn : Nat
  /-- element images in the order of (k, j), k · nn + j -/
  elems : List W32
  scales : Tbl Byte
  deriving DecidableEq, Repr

/-- An MMA with its operands read at issue (R140), and what it has done: cycle of its start, A rows taken and not yet
written (element images and scale bytes), rows taken and written, flags, and the first row in error (R144). -/
structure MmaOp where
  chk : Bool
  c : Acc
  fa : Nat
  fb : Nat
  /-- local offset of A -/
  sA : Nat
  kb : Nat
  m : Nat
  n : Nat
  k : Nat
  slot : Nat
  id : Nat
  tr : Trap
  ascl : Word
  /-- `%mtol` at issue (R75) -/
  mtol : W32
  start : Option Nat
  taken : List (List Nat × List Byte)
  read : Nat
  rows : Nat
  flags : W32
  err : Option (Nat × Blame)
  /-- rows after which it freezes (R234, R308) -/
  limit : Option Nat
  deriving DecidableEq, Repr

inductive QEntry where
  | mma (o : MmaOp)
  | mswp (slot id : Nat)
  | mzero (slot id : Nat) (c : Acc)
  deriving DecidableEq, Repr

/-- A plane load, MST or MLDC in flight (R137, R143). Of MLDB: the explicit scales are read at issue in `since`; the
header in the first cycle from it on in which no earlier overlapping access of the agent stands, and then `head` holds it
and `due` the cycle in which the load lands; the element data when it lands. An MST holds its tile's bytes from when it
may begin. -/
inductive Copy where
  | mldb (slot id fmt : Nat) (tr : Bool) (hdr : Word) (head : Option (List Byte)) (bscl : Word) (scales : List Byte) (since due : Nat) (t : Trap)
  | mst (slot id : Nat) (c : Acc) (addr : Word) (data : Option (List Byte)) (t : Trap)
  | mldc (slot id : Nat) (c : Acc) (addr : Word) (begun : Bool) (t : Trap)
  deriving DecidableEq, Repr

/-- A running chain (R134, R135). -/
structure Chain where
  slot : Nat
  id : Nat
  pc : Nat
  inAddr : Word
  outAddr : Word
  cnt : Nat
  inRing : Bool
  outRing : Bool
  vin : Nat
  vout : Nat
  body : List Instr
  row : Nat
  /-- body words done of the row in hand -/
  at_ : Nat
  /-- rows taken of the input slot and written to the output slot in hand -/
  inOff : Nat
  outOff : Nat
  outSlot : Option Word
  frozen : Bool
  /-- `%frm` at issue (R75), the flags of its rows, which reach the agent when it completes (R123), the generator state at issue
  (R120) -/
  frm : W32
  flags : W32
  seed0 : Word
  /-- the first cycle in which it may go on, its agent's registers having been drowsy (R81) -/
  wakeAt : Nat
  deriving DecidableEq, Repr

/-- A table pair (R151, R153): entry knots and exit knots as FP32 images. -/
structure TablePair where
  bytes : List Byte
  deriving DecidableEq, Repr

/-- A resident microprogram (R53, R92): partition, operator and words. -/
structure Micro where
  part : Nat
  oper : Nat
  words : List Word
  /-- cycle in which its load ends -/
  readyAt : Nat
  deriving DecidableEq, Repr

/-- What a sample or a droop record says of an issue (R303, R313): the agent's slot and record, its `%lcell`, the operator and the
word, the source node and the reported indices as it issues. -/
structure Issued where
  slot : Nat
  rid : Nat
  lcell : Nat
  oper : Nat
  pc : Nat
  node : Nat
  li : List W32
  deriving DecidableEq, Repr

structure Core where
  removed : Bool
  tiles : Vector Tile 8
  active : Plane
  shadow : Plane
  queue : List QEntry
  /-- cycle from which the engine is idle (R141) -/
  idleAt : Nat
  /-- completed MMA, MSWP and MZERO (R278) -/
  timeline : Word
  /-- a debugger froze the engine at a row (R308) -/
  engineFrozen : Bool
  copies : List Copy
  /-- MREL waiting for its tile's operations: slot, tile, and the number before which they were issued (R143) -/
  mrels : List (Nat × Acc × Nat)
  tables : Vector (Option TablePair) 8
  /-- MODEL: pairs that have landed in this cycle, by slot: the table's at its end (R153) -/
  landing : List (Fin 8 × TablePair)
  micros : List Micro
  chains : List Chain
  tlb : List TlbEntry
  /-- row index after which each priority's round-robin starts (R55) -/
  rr : Vector (Option Nat) 8
  /-- what has issued in this cycle, first first, and the units taken (R55) -/
  issued : List Issued
  vecUsed : Bool
  matUsed : Bool
  symUsed : Bool
  /-- MODEL: ring headers as they stood at the start of this cycle, for those with a transition in it (R181) -/
  ringSnap : Tbl (List Byte)
  /-- what each condemned ring slot is blamed on, by the slot's local offset (R179, R206) -/
  condemned : Tbl Blame
  /-- cycles that each ready agent has waited, in instructions of others (R55) -/
  passed : Tbl Nat
  /-- MODEL: the tiles' state words as they stood at the start of this cycle (R374) -/
  stats : Vector W32 8
  deriving DecidableEq, Repr

/-! ## Partitions and records -/

inductive RecState where
  | waiting | ready | admitted | running | emitting | done | faulted | cancelled
  deriving DecidableEq, Repr

/-- Phases of a record whose cycles its counters count (R311). -/
inductive CountPhase where
  | load | fill | steady | drain
  deriving DecidableEq, Repr

/-- An application record (R46), with what the root holds beside it. -/
structure Record where
  copy : Word
  drain : Nat
  steady : Nat
  fill : Nat
  load : Nat
  ready : Nat
  cause : Nat
  retries : Nat
  gran : Nat
  alen : Nat
  start : Nat
  node : Nat
  oper : Nat
  pend : Nat
  passes : Nat
  blk : Bool
  ret : Bool
  prio : Nat
  state : RecState
  id : Nat
  /-- presence answers by PROM position in the area (R48, R49) -/
  answers : List (Option Word)
  /-- MODEL: cycle from which the counter of `phase` has still to count (R311); a loading record may start no earlier than
  `startAt` -/
  admittedAt : Nat
  startAt : Nat
  phase : Option CountPhase
  /-- frozen by a debugger stop; the unanswered stop's number -/
  stopped : Option Nat
  /-- storage trap outstanding: row-full raised (R69) -/
  rowFull : Bool
  /-- faulted by an integrity cause that awaits its self-test (R211) -/
  awaitsTest : Option Nat
  /-- a cancel that waits for the handler (R56) -/
  cancelHeld : Bool
  /-- MODEL: the row cell of its APP; `start` runs ahead of it from the cycle in which the APP arrives until the step that
  moves it completes (R65) -/
  seat : Nat
  /-- the cycle in which it reached EMITTING (R39) -/
  emitAt : Nat
  /-- MODEL: the cycle of its last change of state, and the state before that cycle (R66) -/
  since : Nat
  was : RecState
  /-- a cancel has freed its granules (R56) -/
  freed : Bool
  /-- MODEL: cores that a shift has moved its ADMITTED area into and that have no room for its granules yet (R65) -/
  unheld : List Nat
  deriving DecidableEq, Repr

/-- One symbol that a storage step writes: its word, payload and chime, destination, and the cell its distance is
counted from (R63). -/
structure Placed where
  word : Word
  payload : Option (List Byte)
  chime : Word
  dest : Nat
  src : Nat
  deriving DecidableEq, Repr

inductive StepKind where
  | emit
  /-- the ERR of POISON, a cancel, or row-full's POISON: its word -/
  | err (w : Word) (final : RecState)
  /-- second step that writes the retained copy back (R212) -/
  | restore
  deriving DecidableEq, Repr

/-- A storage step in progress (R59): the moves (from, to) and the writes, applied whole at its completion; each moved cell
with the cycle in which its symbol arrives (R65). -/
structure StepPlan where
  rid : Nat
  kind : StepKind
  moves : List (Nat × Nat)
  arrive : List (Nat × Nat × Nat)
  writes : List Placed
  frees : List Nat
  begun : Nat
  doneAt : Nat
  deriving DecidableEq, Repr

/-- An innermost area (R22, R37): the cells of its APP and its END, which follow moves, and the words of its cells as the
sweep saw them (R66). -/
structure Area where
  start : Nat
  fin : Nat
  words : List Word
  deriving DecidableEq, Repr

/-- A trap that waits to enter the queue (R223). -/
structure RaisedTrap where
  due : Nat
  source : Nat
  rid : Nat
  agent : Option Nat
  trap : Trap
  li : List W32
  unresolved : Bool
  logged : Bool
  /-- `%time` at the trap -/
  time : Word
  deriving DecidableEq, Repr

/-- A queued trap: its slot number in the ring and what `RFT` must know of it. -/
structure QueuedTrap where
  n : Nat
  raised : RaisedTrap
  deriving DecidableEq, Repr

/-- Operator header of a registered library (R110). -/
structure Oper where
  /-- virtual address of its code -/
  addr : Nat
  /-- its words at launch; a load reads memory again (R92) -/
  words : List Word
  regs : Nat
  prio : Option Nat
  pure : Bool
  errp : Bool
  deriving DecidableEq, Repr

/-- A map entry of the source node table (R300). -/
structure MapEntry where
  oper : Nat
  nidx : Nat
  map : Nat
  first : Nat
  last : Nat
  node : Nat
  deriving DecidableEq, Repr

/-- The source node table as read (R299). -/
structure NodeTable where
  entries : List MapEntry
  slots : List StopSlot
  tmask : Nat
  sper : Nat
  dump : Word
  gen : Word
  deriving DecidableEq, Repr

/-- An unanswered precise stop (R306, R307). -/
structure Stop where
  seq : Nat
  rid : Nat
  agent : Nat
  slot : Nat
  kind : Nat
  /-- the cycle from which its area stands still -/
  since : Nat
  deriving DecidableEq, Repr

/-- Where a pre-emption stands (R233). -/
inductive PrePhase where
  | none
  /-- requested; the root finishes work in progress -/
  | asked (wide : Bool)
  /-- the marker left the root; frozen cores from `reach` on -/
  | marker (reach : Nat) (wide : Bool)
  | cut (wide : Bool)
  | saved
  deriving DecidableEq, Repr

structure Part where
  j : Nat
  asid : Nat
  flags : Nat
  /-- launch packet fields (R44) -/
  lib : Word
  desc : Word
  prom : Word
  nodes : Word
  tl : Word
  value : Word
  ndesc : Nat
  nprom : Nat
  opers : List Oper
  handler : Option Nat
  records : List Record
  nextRec : Nat
  peal : Nat
  /-- peal bookkeeping for R302, R312: first cycle, records created, admitted, storage steps -/
  pealStart : Nat
  pealCreated : Nat
  pealAdmitted : Nat
  pealSteps : Nat
  lastCreated : Nat
  /-- the running sweep: end cycle and what it saw; one more queued (R39) -/
  sweep : Option (Nat × List Area)
  sweepQueued : Bool
  /-- the cycle of the last selection for admission, or of its last turn with a record READY (R51) -/
  lastSel : Option Nat
  /-- MODEL: cancels of this cycle that act behind the last agent's DONE (R57) -/
  cancelNow : List Nat
  /-- EMITTING records (R39), those set aside (R64), ERR and restore steps ahead of them (R228) -/
  emitQ : List (Nat × Nat)
  aside : List Nat
  urgent : List (Nat × StepKind)
  stepNow : Option StepPlan
  /-- fixed areas left the fixed set since the last retry (R64) -/
  fixedLeft : Bool
  /-- traps not yet queued, the queue (R223), records handled -/
  raised : List RaisedTrap
  traps : List QueuedTrap
  trapCount : Nat
  /-- the handler run in progress: the trap it handles (R225); the cycle of the last RFT -/
  run : Option QueuedTrap
  lastRft : Nat
  /-- retained copies held: record, cells, bytes (R210) -/
  retained : List (Nat × Nat × Nat)
  /-- core map, physical core of each logical one; absent: identity (R245) -/
  map : Tbl Nat
  mapped : Bool
  heldCancels : List Nat
  pre : PrePhase
  table : Option NodeTable
  /-- the header and slots that the root takes up with the next marker, and those that each core takes up as the marker passes it, in the
  cycle given (R305) -/
  newTable : Option NodeTable
  coming : Option (Nat × NodeTable)
  stopSeq : Nat
  stops : List Stop
  /-- the resume word as the monitor last saw it (R306) -/
  goSeen : Word
  wideStop : Bool
  /-- an end that waits: none, or the status word to write -/
  ended : Option Word
  /-- the queue header and packet index that launched it, for the fail word (R45); none after a restore -/
  queue : Option (Word × Nat)
  /-- MODEL: the management plane restores it once its image is valid (R209) -/
  again : Bool
  /-- MODEL: stream records of a restore that still wait for a context (R246) -/
  streams : List (List Byte)
  deriving DecidableEq, Repr

/-- MODEL: what the context image has no field for and a restore needs, by address space identifier: a stream context's
program (R244); a core's chains, engine queue and waiting releases (R242, R243). -/
structure SavedStream where
  asid : Nat
  engine : Nat
  ctx : Nat
  words : List Word
  deriving DecidableEq, Repr

structure SavedCore where
  asid : Nat
  core : Nat
  chains : List Chain
  queue : List QEntry
  rels : List (Nat × Acc × Nat)
  /-- MST and MLDC behind a frozen MMA (R143) -/
  copies : List Copy
  deriving DecidableEq, Repr

/-- MODEL: an agent at the cut, by the partition's identifier, its record and its `%cell`: what an agent record has no field for
is taken from it again (R242): held late faults (R436), accesses that RESUME issues again, a contribution that stands behind an
exit fault (R158), the number of its next tree operation. -/
structure SavedAgent where
  asid : Nat
  rid : Nat
  cell : Nat
  agent : Agent
  deriving DecidableEq, Repr

/-! ## Tabor engines and ringers -/

/-- A pattern slot (R176). -/
structure Pattern where
  base : Word
  rowb : Nat
  ndim : Nat
  cnt : List Nat
  str : List Int
  raw : List Byte
  pos : Nat
  deriving DecidableEq, Repr

/-- An engine fill on its way to a claimed slot (R180): ring header's local key, slot address key, bytes. -/
structure Fill where
  hdr : Nat
  slotIdx : Nat
  key : Nat
  bytes : List Byte
  /-- the transfer that carries the bytes (R205), and the source's own blame -/
  transfer : Nat
  condemned : Option Blame
  /-- the last slot of its push, which then completes (R402) -/
  last : Bool
  /-- its program has ended: what becomes of it is no other program's matter -/
  orphan : Bool
  deriving DecidableEq, Repr

inductive CtxStat where
  | free | running | waiting | stopped
  deriving DecidableEq, Repr

/-- A stream context (R173 to R176, R244): key 64 · engine + context. -/
structure Ctx where
  status : CtxStat
  asid : Nat
  words : List Word
  pc : Nat
  left : Nat
  begun : Bool
  tl : Word
  value : Word
  timeline : Word
  loops : Vector W32 4
  pats : Vector Pattern 2
  schk : BitVec 3
  tensor : Option Word
  fills : List Fill
  /-- the one translation entry (R167) -/
  tlb : Option TlbEntry
  /-- MODEL: the walker has answered for the access in hand -/
  walked : Bool
  /-- MODEL: of the row, slot or command in hand: the accesses that are over, in order, each with what it read and its blame; the one
  that this turn comes to; of the access under way the bytes read, the number written, and its blame -/
  log : List (List Byte × Option Blame)
  cur : Nat
  got : List Byte
  put : Nat
  gotB : Option Blame
  /-- MODEL: a pre-emption stops it behind the row, slot or SROUTE in hand (R237) -/
  stopping : Bool
  /-- MODEL: core and offset of the ring whose head slot an SPULL has drained and is still to release (R401) -/
  relSlot : Option (Nat × Nat)
  /-- chunks read whole and verified by the command in hand, with what each is blamed on (R214) -/
  seen : List (Nat × List Byte × Option Blame)
  /-- queue header and packet index (R45) -/
  queue : Option (Word × Nat)
  /-- MODEL: first cycle in which it may go on -/
  wakeAt : Nat
  deriving DecidableEq, Repr

inductive RgStat where
  | idle | running | busy | waiting
  deriving DecidableEq, Repr

/-- A ringer (R254, R257). -/
structure Ringer where
  status : RgStat
  words : List Word
  pc : Nat
  asid : Nat
  coll : BitVec 16
  rank : Nat
  size : Nat
  list : List Nat
  a0 : Word
  a1 : Word
  tl : Word
  value : Word
  timeline : Word
  n : Vector Nat 4
  l : Vector W32 4
  i : Vector W32 4
  /-- the exponent table (R263), and cnt, fold and dot of the last CMAXE -/
  xt : List XEntry
  xtOf : Option (Nat × Bool × Bool)
  /-- what has been sent, is still to be sent and has been received of the command in hand -/
  sent : Bool
  unsent : List Msg
  got : List Msg
  staging : List Msg
  late : Bool
  handshake : Bool
  triggered : Bool
  /-- MODEL: the credit for the next message through a port is there (R268, log 43) -/
  credit : Bool
  /-- command held for a pre-empted partition (R238) -/
  heldFor : Option Nat
  /-- queue header and packet index (R45) -/
  queue : Option (Word × Nat)
  /-- MODEL: first cycle in which it may go on -/
  wakeAt : Nat
  deriving DecidableEq, Repr

/-! ## Device -/

inductive Presence where
  | full | poison
  deriving DecidableEq, Repr

/-- An armed read (R170, R171): the word's HBM address and who waits. -/
structure Deferred where
  pa : Nat
  who : Asker
  deriving DecidableEq, Repr

/-- A partition control block (R293), 256 bytes by first core; `image` is the restore image. -/
structure Pcb where
  cmd : Nat
  state : Nat
  rstat : Nat
  arg : W32
  rtab : Word
  rcnt : W32
  retain : Word
  rbytes : Word
  trapq : Word
  save : Word
  image : Word
  frm : W32
  ftrap : W32
  tms : W32
  mtol : W32
  ascl : Word
  bscl : Word
  seed : Word
  pflags : Byte
  deriving DecidableEq, Repr

inductive PortState where
  | reset | detect | align | equalize | rate | verify | identity | active | down
  deriving DecidableEq, Repr

/-- A Wildun port (R297): the lanes it found, where it stands in the rate list, its partner. -/
structure Port where
  state : PortState
  usable : Nat
  rateIdx : Nat
  rate : Nat
  width : Nat
  partner : BitVec 16
  removed : Bool
  /-- lasts until module reset (R297 IDENTITY) -/
  barred : Bool
  deriving DecidableEq, Repr

/-- A self-test in progress (R208): the unit, the log entries that wait for it, and a forced outcome. -/
structure Test where
  unit : W32
  entries : List Nat
  forced : Option Bool
  start : Nat
  deriving DecidableEq, Repr

/-- An armed injection (R215). -/
structure Injection where
  unit : W32
  mode : Nat
  deriving DecidableEq, Repr

/-- A transfer of chunk data under way between units (R205): the hops left, its bytes and chimes. -/
structure Transfer where
  id : Nat
  hops : List W32
  /-- part chime the source computed, and the chime of the bytes received -/
  expected : Word
  found : Word
  condemned : Option Blame
  chunk : Word
  node : Nat
  rid : Nat
  /-- where it goes: a ring slot's address (R207) -/
  spot : Word
  deriving DecidableEq, Repr

/-- A voltage domain (R298): stretching, and cycles skipped so far. -/
structure Domain where
  stretching : Bool
  skipped : Nat
  deriving DecidableEq, Repr

structure Device where
  /-- device control block (R291) -/
  idtab : Word
  ap0base : Word
  ap0asid : Word
  ap1base : Word
  ap1asid : Word
  fcnt0 : Nat
  fcnt1 : Nat
  attest : Word
  leader : BitVec 16
  peers : Vector W32 16
  /-- BAR2 sizes of the two links, as powers of two, and whether each link has trained (R288) -/
  bar2size : Vector Nat 2
  hostUp : Vector Bool 2
  /-- capability block (R292) -/
  devid : BitVec 16
  published : Bool
  synced : Bool
  /-- a first path to the leader has been gained (R253) -/
  gained : Bool
  /-- a path to the leader stands: without one the module runs free (R253) -/
  path : Bool
  mapLoaded : Bool
  bstat : Nat
  removedCount : Nat
  elog : Word
  eidx : Word
  trace : Word
  prof : Word
  idkey : List Byte
  digest : List Byte
  /-- routes by device identifier (R290), arbitration registers: ports 0-11, then channels at 12 + (R286) -/
  routes : Tbl Nat
  arb : Tbl W32
  ports : Vector Port 12
  /-- the fault map in force, by hop identifier, with the entries marked injected (R208, R215) -/
  faultMap : List W32
  injectedMap : List W32
  /-- failing 64 KiB pages listed with it (R209), by memory key / 65,536, and whether an injection listed them -/
  badPages : List (Nat × Bool)
  tests : List Test
  transients : Tbl Nat
  injections : List Injection
  /-- ports that bring-up still waits for (R296); none once it goes on without them -/
  training : Option (List Nat)
  transfers : List Transfer
  domains : Vector Domain 64
  deriving DecidableEq, Repr

/-- What leaves the module for a peer or the host and is answered from outside: MODEL. -/
inductive Outgoing where
  /-- `sa`: by a single-assignment page (R170) -/
  | peerAccess (slot pa : Nat) (sa : Bool) (core aslot id : Nat) (op : AccOp)
  | peerRead (slot pa : Nat) (who : Asker)
  | message (dev : BitVec 16) (m : Msg)
  | forwarded (port : Nat) (dev : BitVec 16) (flit : List Byte)
  /-- a flit whose device has no route, or whose port is down: sent back to the port it came by (R249, R252) -/
  | unroutable (port id : Nat)
  /-- of a presence read of a peer; the flag says that it found the word POISON (R170) -/
  | answer (port id : Nat) (val : Word) (poison : Bool)
  /-- what a load, an atomic or a presence store of a peer is answered with -/
  | data (port id : Nat) (bytes : List Byte)
  /-- a peer's presence read that found the deferral table full (R171): the peer sends it again -/
  | turnedBack (port id : Nat)
  | hostRead (link off : Nat) (bytes : List Byte)
  deriving DecidableEq, Repr

structure State where
  cycle : Nat
  /-- %time and, MODEL, its fraction in 1/21 ns -/
  time : Word
  timeFrac : Nat
  /-- the module's measured offset behind the leader, in 1/21 ns: what is still to gain or lose (R253) -/
  timeOff : Int
  /-- MODEL: events by due cycle -/
  agenda : List (Nat × Instr)
  turn : Turn
  /-- MODEL: counter of the free values -/
  free : Nat
  /-- MODEL: accesses of agents that arrive at their homes in this cycle, until their core's turn (R277) -/
  arrivals : List Instr
  mem : List Host.Cell
  /-- MODEL: words of memory, by key / 8, that the trace unit has written last: they wake no address monitor (R284) -/
  hushed : List Nat
  /-- MODEL: the writes of the cycle, address and length: what address monitors see -/
  writes : List (Nat × Nat)
  presence : Tbl Presence
  deferred : List Deferred
  posted : List Posted
  /-- launch queues whose headers are known to their consumers, with their kinds: address monitors watch them (R43) -/
  queues : List (Nat × Word)
  /-- MODEL: the bytes that each Tabor engine will have moved at 512 a cycle, counted from reset (R172) -/
  moved : Tbl Nat
  cells : Tbl Word
  cellChime : Tbl Word
  cores : Tbl Core
  agents : Tbl Agent
  parts : Tbl Part
  saved : List SavedStream
  savedCores : List SavedCore
  savedAgents : List SavedAgent
  /-- MODEL: partitions whose image is valid and not yet restored or released, by block (R238) -/
  savedParts : Tbl Part
  ctxs : Tbl Ctx
  ringers : Tbl Ringer
  pcbs : Tbl Pcb
  dev : Device
  outbox : List Outgoing
  deriving DecidableEq, Repr

/-! ## Reset -/

/-- A tile after reset: unowned, EMPTY (R78); contents are the log's. -/
def Tile.reset : Tile := ⟨none, false, false, false, false, 0, Vector.replicate 1024 0⟩

/-- A plane never loaded (R136). -/
def Plane.reset : Plane := ⟨false, 0, 0, 0, [], []⟩

def Core.reset : Core where
  removed := false
  tiles := Vector.replicate 8 Tile.reset
  active := Plane.reset
  shadow := Plane.reset
  queue := []
  idleAt := 0
  timeline := 0
  engineFrozen := false
  copies := []
  mrels := []
  tables := Vector.replicate 8 none
  landing := []
  micros := []
  chains := []
  tlb := []
  rr := Vector.replicate 8 none
  issued := []
  vecUsed := false
  matUsed := false
  symUsed := false
  ringSnap := []
  condemned := []
  passed := []
  stats := Vector.replicate 8 0

/-- An empty pattern slot (R176): no rows. -/
def Pattern.zero : Pattern := ⟨0, 0, 0, [0, 0, 0, 0, 0], [0, 0, 0, 0, 0], List.replicate 64 0#8, 0⟩

def Ctx.reset : Ctx where
  status := .free
  asid := 0
  words := []
  pc := 0
  left := 0
  begun := false
  tl := 0
  value := 0
  timeline := 0
  loops := Vector.replicate 4 0
  pats := Vector.replicate 2 Pattern.zero
  schk := 0
  tensor := none
  fills := []
  tlb := none
  walked := false
  log := []
  cur := 0
  got := []
  put := 0
  gotB := none
  stopping := false
  relSlot := none
  seen := []
  queue := none
  wakeAt := 0

def Ringer.reset : Ringer where
  status := .idle
  words := []
  pc := 0
  asid := 0
  coll := 0
  rank := 0
  size := 0
  list := []
  a0 := 0
  a1 := 0
  tl := 0
  value := 0
  timeline := 0
  n := Vector.replicate 4 0
  l := Vector.replicate 4 0
  i := Vector.replicate 4 0
  xt := []
  xtOf := none
  sent := false
  unsent := []
  got := []
  staging := []
  late := false
  handshake := false
  triggered := false
  credit := false
  heldFor := none
  queue := none
  wakeAt := 0

/-- R293's reset values. -/
def Pcb.reset : Pcb where
  cmd := 0
  state := 0
  rstat := 0
  arg := 0
  rtab := 0
  rcnt := 0
  retain := 0
  rbytes := 0
  trapq := 0
  save := 0
  image := 0
  frm := 0
  ftrap := 0
  tms := 0x100
  mtol := 0
  ascl := 0
  bscl := 0
  seed := 1
  pflags := 0

def Port.reset : Port := ⟨.reset, 0, 0, 0, 0, 0, false, false⟩

/-- R290 to R292 and R286 at reset; arbitration registers not listed read 0x1444 (R286). -/
def Device.reset : Device where
  idtab := 0
  ap0base := 0
  ap0asid := 0
  ap1base := 0
  ap1asid := 0
  fcnt0 := 0
  fcnt1 := 0
  attest := 0
  leader := 0
  peers := Vector.replicate 16 0
  bar2size := Vector.replicate 2 30
  hostUp := Vector.replicate 2 false
  devid := 0
  published := false
  synced := false
  gained := false
  path := false
  mapLoaded := false
  bstat := 0
  removedCount := 0
  elog := 0
  eidx := 0
  trace := 0
  prof := 0
  idkey := []
  digest := []
  routes := []
  arb := []
  ports := Vector.replicate 12 Port.reset
  faultMap := []
  injectedMap := []
  badPages := []
  tests := []
  transients := []
  injections := []
  training := none
  transfers := []
  domains := Vector.replicate 64 ⟨false, 0⟩

/-- The machine right after reset: nothing in memory, no partition, and the management controller about to run
bring-up (R296) as its first event. -/
def State.reset : State where
  cycle := 0
  time := 0
  timeFrac := 0
  timeOff := 0
  agenda := [(0, .moduleReset)]
  turn := .nobody
  free := 0
  arrivals := []
  mem := []
  hushed := []
  writes := []
  presence := []
  deferred := []
  posted := []
  queues := []
  moved := []
  cells := []
  cellChime := []
  cores := []
  agents := []
  parts := []
  saved := []
  savedCores := []
  savedAgents := []
  savedParts := []
  ctxs := []
  ringers := []
  pcbs := []
  dev := Device.reset
  outbox := []

end Sys2Proof.Machine
end

