-- ==== Sys2Proof/Machine/Ops.lean ====
section
/-! DEFINITION. The named operations over state, memory, addresses, translation and registers, the taking of a fault
(R221 to R224) and the return from one (R226, R227). Families build on these. -/

namespace Sys2Proof.Machine

open Sys2Proof

/-- The outcome every meaning has. -/
abbrev Out := Host.Outcome State Fault Refusal

/-! ## Tables -/

def Tbl.find {α : Type} : Tbl α → Nat → Option α
  | [], _ => none
  | (k, a) :: t, n => if k = n then some a else Tbl.find t n

def Tbl.put {α : Type} : Tbl α → Nat → α → Tbl α
  | [], n, b => [(n, b)]
  | (k, a) :: t, n, b =>
    if n < k then (n, b) :: (k, a) :: t else if n = k then (n, b) :: t else (k, a) :: Tbl.put t n b

def Tbl.drop {α : Type} : Tbl α → Nat → Tbl α
  | [], _ => []
  | (k, a) :: t, n => if k = n then Tbl.drop t n else (k, a) :: Tbl.drop t n

/-- Replace the elements of a list that satisfy a test. -/
def mapIf {α : Type} (p : α → Bool) (f : α → α) (l : List α) : List α := l.map fun a => if p a then f a else a

/-- Iterate a state change n times with the index ascending. -/
def forN {σ : Type} (n : Nat) (s : σ) (f : Nat → σ → σ) : σ := (List.range n).foldl (fun t i => f i t) s

/-- Insertion sort: the model's lists are short, and structural recursion evaluates in the kernel. -/
def insertBy {α : Type} (le : α → α → Bool) (a : α) : List α → List α
  | [] => [a]
  | b :: t => if le a b then a :: b :: t else b :: insertBy le a t

def sortBy {α : Type} (le : α → α → Bool) : List α → List α
  | [] => []
  | a :: t => insertBy le a (sortBy le t)

def sumNat (l : List Nat) : Nat := l.foldl (· + ·) 0

def maxNat (l : List Nat) : Nat := l.foldl max 0

def ceilDiv (a b : Nat) : Nat := (a + b - 1) / b

/-- Binary logarithm rounded up, by structural recursion on fuel. -/
def clog2 (n : Nat) : Nat := ((List.range 64).filter fun k => 2 ^ k < n).length

/-! ## Bytes, little-endian (R92, R317) -/

def leNat : List Byte → Nat
  | [] => 0
  | b :: t => b.toNat + 256 * leNat t

def toLe : Nat → Nat → List Byte
  | 0, _ => []
  | n + 1, v => BitVec.ofNat 8 v :: toLe n (v / 256)

def leWord (l : List Byte) : Word := BitVec.ofNat 64 (leNat l)
def ofWord (w : Word) : List Byte := toLe 8 w.toNat
def of32 (w : W32) : List Byte := toLe 4 w.toNat

def sliceB (l : List Byte) (off n : Nat) : List Byte := (l.drop off).take n
def leAt (l : List Byte) (off n : Nat) : Nat := leNat (sliceB l off n)
def zerosB (n : Nat) : List Byte := List.replicate n 0#8
/-- Pad with zeros to a multiple of m. -/
def padTo (m : Nat) (l : List Byte) : List Byte := l ++ zerosB (ceilDiv l.length m * m - l.length)
def isZeroB (l : List Byte) : Bool := l.all (· = 0#8)

/-- Sign and zero extension of the low n bits (R317). -/
def sext (n v : Nat) : Word := (BitVec.ofNat n v).signExtend 64
def bit (w n : Nat) : Bool := w / 2 ^ n % 2 = 1
def bits (w lo n : Nat) : Nat := w / 2 ^ lo % 2 ^ n
def b2n (b : Bool) : Nat := if b then 1 else 0
def b2w (b : Bool) : Word := if b then 1#64 else 0#64

/-! ## Memory: one list of bytes by key (R160, R162) -/

/-- What an unlisted byte reads as: DESIGN CHOICE (log 1); single-assignment words are 0 by R169. -/
def unlisted : Byte := 0#8

def hbmKey (pa : Nat) : Nat := pa
def lpddrKey (pa : Nat) : Nat := 2 ^ 41 + pa
def spadKey (core off : Nat) : Nat := 2 ^ 42 + core * Config.scratchBytes + off
def hostKey (pa : Nat) : Nat := 2 ^ 48 + pa
def isSpad (key : Nat) : Bool := 2 ^ 42 ≤ key && key < 2 ^ 42 + Config.cores * Config.scratchBytes
def spadCore (key : Nat) : Nat := (key - 2 ^ 42) / Config.scratchBytes
/-- The tile slot of a cell (R24). -/
def slotKey (cell : Nat) : Nat := spadKey (cell / 64) (0x1000 * (cell % 64))

abbrev Mem := List Host.Cell

def Mem.get : Mem → Nat → Byte
  | [], _ => unlisted
  | (k, b) :: t, a => if a < k then unlisted else if a = k then b else Mem.get t a

def Mem.set : Mem → Nat → Byte → Mem
  | [], a, b => if b = unlisted then [] else [(a, b)]
  | (k, c) :: t, a, b =>
    if a < k then (if b = unlisted then (k, c) :: t else (a, b) :: (k, c) :: t)
    else if a = k then (if b = unlisted then t else (a, b) :: t)
    else (k, c) :: Mem.set t a b

/-- The canonical form: keys strictly rising, no entry equal to what an unlisted byte reads as. -/
def Mem.wf : Mem → Bool
  | [] => true
  | (_, b) :: [] => b != unlisted
  | (a, b) :: (c, d) :: t => b != unlisted && a < c && Mem.wf ((c, d) :: t)

def Mem.readN (m : Mem) (a : Nat) : Nat → List Byte
  | 0 => []
  | n + 1 => m.get a :: Mem.readN m (a + 1) n

def Mem.writeL (m : Mem) (a : Nat) : List Byte → Mem
  | [] => m
  | b :: t => Mem.writeL (m.set a b) (a + 1) t

abbrev rd (s : State) (key n : Nat) : List Byte := Mem.readN s.mem key n
def rdNat (s : State) (key n : Nat) : Nat := leNat (rd s key n)
/-- Does one of the n bytes lie in a word that the trace unit has written last (R284)? -/
def State.hushedAt (s : State) (key n : Nat) : Bool := s.hushed.any fun w => key < 8 * w + 8 && 8 * w < key + n

/-- A write: address monitors see it. -/
def wr (s : State) (key : Nat) (l : List Byte) : State :=
  { s with
    mem := Mem.writeL s.mem key l
    hushed := s.hushed.filter fun w => !(key < 8 * w + 8 && 8 * w < key + l.length)
    writes := s.writes ++ [(key, l.length)] }

/-- A place n bytes further on. -/
def Place.plus : Place → Nat → Place
  | .here k, n => .here (k + n)
  | .host k, n => .host (k + n)
  | .peer p a, n => .peer p (a + n)

/-- Bytes at a place; a peer's memory is outside the model, and what a read of it returns is a free value (log 3). -/
def rdPlace (s : State) (p : Place) (n : Nat) : List Byte :=
  match p with
  | .here k | .host k => rd s k n
  | .peer slot pa => (List.range n).map fun i => Config.peerByte s.cycle s.free slot (pa + i)

/-- A write of an engine, a ringer or a root at its home; towards a peer it leaves the module (R251). -/
def wrPlace (s : State) (p : Place) (l : List Byte) : State :=
  match p with
  | .here k | .host k => wr s k l
  | .peer slot pa => { s with outbox := s.outbox ++ [.peerAccess slot pa false 0 0 0 (.store l)] }

/-- Perform a write at a byte of this module's memory list: a store, or a raise as one atomic (R279, R281). -/
def applyAt (s : State) (k : Nat) (op : AccOp) : State :=
  let old := rdNat s k 8
  match op with
  | .store b => wr s k b
  | .raise true v => wr s k (toLe 8 (max old v.toNat))
  | .raise false v => wr s k (toLe 8 (old + v.toNat))
  | _ => s

/-! ## Events -/

/-- Order of events due in one cycle. First the image of a cut that the last one has completed (R233). Then transfers
and tests, cancels; sweeps end, which see the row before a step of the same cycle has written it (R39), steps end, agents start and
records are admitted (R57), and a pre-emption marker leaves the root, which stops from the next cycle on (R233); late faults and then stops of one cycle come in row
order (R221, R310).

Fills land in ascending engine number, behind every release and claim of the cycle (R181) and before the ringers (R191). Behind everything that
issues: the storage step that a DONE of this cycle hands to the root (R39) with the traps that it raises, samples and droop records, which name
what has issued (R303, R313), and the requesters that R277 puts behind the units: host links, Wildun ports, the
management plane, each in ascending number. The commands of a control block are last, behind every entry that the cycle makes in the error
log (R11). -/
def eventRank : Instr → Nat
  | .cutComplete _ => 1
  | .chunkHop _ | .selfTestComplete _ _ => 5
  | .cancelEffect _ _ => 20
  -- of two exits of a port in one cycle the one to the lower state governs (R297)
  | .linkTrainingTimeout _ | .linkDown _ => 28
  | .verifyDone _ failing => if failing < 8 then 30 else 28
  | .sweepComplete _ => 40
  | .storageStepComplete _ => 45
  | .loadComplete _ _ => 50
  | .admission _ => 70
  | .preemptMarkerArrival _ => 90
  | .lateFaultRaise core slot => 100 + 128 * core + slot
  | .preciseStop core slot _ => 2 ^ 20 + 128 * core + slot
  | .engineFillLand e c => 2 ^ 21 + (64 * e + c) % 2 ^ 20
  | .storageStep _ | .stepRetryAfterFixed _ => 2 ^ 22 + 1
  | .trapEnqueue _ => 2 ^ 22 + 2
  | .profileSample _ => 2 ^ 22 + 3
  | .droopDetect _ => 2 ^ 22 + 4
  | .supplyRecovers _ => 2 ^ 22 + 5
  | .bar2Read link _ _ | .bar2Write link _ _ | .apertureBaseWrite link _ => 2 ^ 22 + 8 + link.val
  | .registerWrite dest _ => 2 ^ 22 + 8 + (match dest with
      | .host link _ | .resize link => link.val
      | _ => 64)
  | .idtabWrite _ | .fcntWrite | .attestRequest _ | .peerSlotWrite _ _ | .arbitrationWrite _ _ => 2 ^ 22 + 8
  | .peerAccessArrival port _ _ => 2 ^ 22 + 16 + port
  | .pcbCancelRecord _ | .pcbCancelPartition _ | .pcbPreempt _ | .pcbRestore _ | .pcbExtend _ | .pcbRelease _ => 2 ^ 22 + 128
  | _ => 30

/-- Which part of a cycle an event belongs to: before the units issue, between the engines and the ringers, or behind. -/
def eventBand (i : Instr) : Nat := if eventRank i < 2 ^ 21 then 0 else if eventRank i < 2 ^ 22 then 1 else 2

def insertEvent (due : Nat) (i : Instr) : List (Nat × Instr) → List (Nat × Instr)
  | [] => [(due, i)]
  | (d, j) :: t =>
    if due < d ∨ (due = d ∧ eventRank i < eventRank j) then (due, i) :: (d, j) :: t else (d, j) :: insertEvent due i t

/-- The event comes `n` cycles from now, after every event of its rank already due then. -/
def sched (s : State) (n : Nat) (i : Instr) : State :=
  { s with agenda := insertEvent (s.cycle + n) i s.agenda }

/-- The event comes after a free latency of at least one cycle (log 2). -/
def schedFree (s : State) (i : Instr) : State :=
  sched { s with free := s.free + 1 } (Config.latency s.free + 1) i

/-- A posted write leaves: the host link performs and acknowledges it after a free latency, a peer's acknowledgment comes from
outside (R273, R275). -/
def sendPosted (s : State) (p : Posted) : State :=
  match p.place with
  | .here k => applyAt s k p.op
  | .host _ => schedFree s (.postedWriteAck p.who.1 p.who.2 p.id true)
  | .peer slot pa => { s with outbox := s.outbox ++ [.peerAccess slot pa false p.who.1 p.who.2 p.id p.op] }

def AccOp.isRaise : AccOp → Bool
  | .raise _ _ => true
  | _ => false

/-- Bytes that a posted write changes. -/
def AccOp.size : AccOp → Nat
  | .store b => b.length
  | _ => 8

/-- Does a raise of one poster wait for what the other has posted? It releases what its own unit wrote, and a partition's completion what
the agents of its cores wrote too (R272, R279). -/
def covers (who q : Nat × Nat) : Bool := who = q || (16384 ≤ who.1 && who.2 ≤ q.1 && q.1 + 16384 < who.2 + who.1)

/-- Post a write to host memory or to a peer. A raise is a release at system scope (R272, R279): it leaves once everything
that it covers is acknowledged. -/
def postFar (s : State) (who : Nat × Nat) (id : Nat) (place : Place) (op : AccOp) : State :=
  let hold := op.isRaise && s.posted.any fun p => covers who p.who
  let e : Posted := ⟨who, id, place, op, !hold⟩
  let t := { s with posted := s.posted ++ [e] }
  if hold then t else sendPosted t e

/-- The unit's own number of a posted write that no agent makes. -/
def postUnit (s : State) (who : Nat × Nat) (place : Place) (op : AccOp) : State :=
  match place with
  | .here k => applyAt s k op
  | _ => postFar { s with free := s.free + 1 } who s.free place op

/-- Posters that are no agents: of a partition's root with the number of its cores, and of a refused launch, which covers nothing else. -/
def ctxPoster (e c : Nat) : Nat × Nat := (4096 + e, c)
def ringerPoster (g : Nat) : Nat × Nat := (8192 + g, 0)
def rootPoster (n size : Nat) : Nat × Nat := (16384 + size, n)
def reportPoster (target : Nat) : Nat × Nat := (16384, target)

/-- Has the unit posted a write that is not acknowledged yet? -/
def unacked (s : State) (who : Nat × Nat) : Bool := s.posted.any fun p => p.who = who

/-- Is the event on the agenda? -/
def pendingEvent (s : State) (i : Instr) : Bool := s.agenda.any fun e => e.2 = i

/-- Put the event on the agenda unless it is there. -/
def schedOnce (s : State) (n : Nat) (i : Instr) : State := if pendingEvent s i then s else sched s n i

/-- Nanoseconds in cycles of 2.1 GHz, rounded up. -/
def nsCycles (ns : Nat) : Nat := ceilDiv (ns * 21) 10

/-! ## Homes of state -/

def State.core (s : State) (c : Nat) : Core := (Tbl.find s.cores c).getD Core.reset
def State.setCore (s : State) (c : Nat) (x : Core) : State := { s with cores := Tbl.put s.cores c x }
def State.modCore (s : State) (c : Nat) (f : Core → Core) : State := s.setCore c (f (s.core c))

/-- Key of an agent: 64 is the service agent's slot. -/
def agentKey (core slot : Nat) : Nat := 128 * core + slot
def State.agent (s : State) (k : Nat) : Option Agent := Tbl.find s.agents k
def State.setAgent (s : State) (k : Nat) (g : Agent) : State := { s with agents := Tbl.put s.agents k g }
def State.modAgent (s : State) (k : Nat) (f : Agent → Agent) : State :=
  match s.agent k with
  | some g => s.setAgent k (f g)
  | none => s

def Agent.key (g : Agent) : Nat := agentKey g.core g.slot
def Agent.service (g : Agent) : Bool := g.slot = 64

def State.part (s : State) (n : Nat) : Option Part := Tbl.find s.parts n
def State.setPart (s : State) (n : Nat) (p : Part) : State := { s with parts := Tbl.put s.parts n p }
def State.modPart (s : State) (n : Nat) (f : Part → Part) : State :=
  match s.part n with
  | some p => s.setPart n (f p)
  | none => s

def State.pcb (s : State) (n : Nat) : Pcb := (Tbl.find s.pcbs n).getD Pcb.reset
def State.setPcb (s : State) (n : Nat) (p : Pcb) : State := { s with pcbs := Tbl.put s.pcbs n p }
def State.modPcb (s : State) (n : Nat) (f : Pcb → Pcb) : State := s.setPcb n (f (s.pcb n))

def ctxKey (e c : Nat) : Nat := 64 * e + c
def State.ctx (s : State) (k : Nat) : Ctx := (Tbl.find s.ctxs k).getD Ctx.reset
def State.setCtx (s : State) (k : Nat) (x : Ctx) : State := { s with ctxs := Tbl.put s.ctxs k x }
def State.ringer (s : State) (g : Nat) : Ringer := (Tbl.find s.ringers g).getD Ringer.reset
def State.setRinger (s : State) (g : Nat) (x : Ringer) : State := { s with ringers := Tbl.put s.ringers g x }

def State.cell (s : State) (i : Nat) : Word := (Tbl.find s.cells i).getD 0
def State.setCell (s : State) (i : Nat) (w : Word) : State :=
  { s with cells := if w = 0#64 then Tbl.drop s.cells i else Tbl.put s.cells i w }
def State.chime (s : State) (i : Nat) : Word := (Tbl.find s.cellChime i).getD 0
def State.setChime (s : State) (i : Nat) (w : Word) : State :=
  { s with cellChime := if w = 0#64 then Tbl.drop s.cellChime i else Tbl.put s.cellChime i w }

def State.modDev (s : State) (f : Device → Device) : State := { s with dev := f s.dev }

def Part.rec? (p : Part) (id : Nat) : Option Record := p.records.find? fun r => r.id = id
def Part.setRec (p : Part) (r : Record) : Part := { p with records := mapIf (fun q => q.id = r.id) (fun _ => r) p.records }
def Part.dropRec (p : Part) (id : Nat) : Part := { p with records := p.records.filter fun q => q.id ≠ id }
def State.rec? (s : State) (n id : Nat) : Option Record := (s.part n).bind fun p => p.rec? id
def State.modRec (s : State) (n id : Nat) (f : Record → Record) : State :=
  s.modPart n fun p => { p with records := mapIf (fun q => q.id = id) f p.records }

/-- Agents of a record, in `%cell` order. -/
def State.agentsOf (s : State) (n id : Nat) : List Agent :=
  sortBy (fun a b => a.cell ≤ b.cell) ((s.agents.map (·.2)).filter fun g => g.part = n ∧ g.rid = id ∧ g.slot < 64)

def State.modAgentsOf (s : State) (n id : Nat) (f : Agent → Agent) : State :=
  { s with agents := s.agents.map fun e =>
      if e.2.part = n ∧ e.2.rid = id ∧ e.2.slot < 64 then (e.1, f e.2) else e }

/-- `%cycle` of a core: cycles skipped by its voltage domain do not count (R298). -/
def State.domain (s : State) (core : Nat) : Domain :=
  if h : core / 64 < 64 then s.dev.domains[core / 64] else ⟨false, 0⟩
def State.coreCycle (s : State) (core : Nat) : Nat := s.cycle - (s.domain core).skipped

/-! ## Partitions: cores, cells, sweep times -/

/-- From the cut's marker on, the root starts nothing (R233). While it still finishes the step or handler run in progress it goes on
admitting and creating records: the next cycle of R233's second step is taken as the one behind that work (DESIGN CHOICE, log 37). -/
def PrePhase.stopped : PrePhase → Bool
  | .none | .asked _ => false
  | _ => true

def Part.size (p : Part) : Nat := 2 ^ p.j
/-- Cores of a partition whose first core is n. -/
def Part.cores (p : Part) (n : Nat) : List Nat := (List.range p.size).map (· + n)
def State.live (s : State) (n : Nat) (p : Part) : List Nat := (p.cores n).filter fun c => !(s.core c).removed
/-- The root core: the lowest-numbered core that is not removed (R76). -/
def State.root (s : State) (n : Nat) (p : Part) : Nat := (s.live n p).headD n

/-- Physical core of a logical one (R245). -/
def Part.phys (p : Part) (n l : Nat) : Option Nat :=
  if p.mapped then Tbl.find p.map l else if n ≤ l ∧ l < n + p.size then some l else none
/-- Logical core of a physical one. -/
def Part.logical (p : Part) (c : Nat) : Nat :=
  if p.mapped then ((p.map.find? fun e => e.2 = c).map (·.1)).getD c else c
def Part.logFirst (p : Part) (n : Nat) : Nat := p.logical n

/-- Sweep cycles of a partition of 64 · 2^j cells (R37). -/
def sweepTime (j : Nat) : Nat :=
  if j = 0 then 12 else if j ≤ 10 then 12 + 4 * j else if j = 11 then 72 else 92

/-- The smallest j whose aligned subtree holds both cells. -/
def spanJ (a b : Nat) : Nat := ((List.range 12).filter fun j => a / (64 * 2 ^ j) ≠ b / (64 * 2 ^ j)).length

/-! ## Symbol words (R17, R18) -/

def symKind (w : Word) : Nat := bits w.toNat 60 4
def symDepth (w : Word) : Nat := bits w.toNat 54 6
def symNode (w : Word) : Nat := bits w.toNat 36 18
def symSub (w : Word) : Nat := bits w.toNat 34 2
def symAlign (w : Word) : Bool := bit w.toNat 33
def symRetain (w : Word) : Bool := bit w.toNat 32
def symPay (w : Word) : Nat := bits w.toNat 0 32

def mkSym (kind depth node sub pay : Nat) (align retain : Bool) : Word :=
  BitVec.ofNat 64 (kind % 16 * 2 ^ 60 + depth % 64 * 2 ^ 54 + node % 2 ^ 18 * 2 ^ 36 + sub % 4 * 2 ^ 34 +
    b2n align * 2 ^ 33 + b2n retain * 2 ^ 32 + pay % 2 ^ 32)

/-- The ERR word (R18): cause and the low 23 bits of the record. -/
def errWord (cause rid depth node : Nat) : Word :=
  mkSym 0xB depth node 0 (cause % 512 * 2 ^ 23 + rid % 2 ^ 23) false false

def blockedWord : Word := 0xC000000000000000#64

/-! ## Registers of an agent (R71, R72) -/

def Agent.sr (g : Agent) (r : Reg) : Word := if r = 0 then 0 else g.s[r.val]
def Agent.pr (g : Agent) (r : PReg) : Bool := if r = 0 then true else g.p[r.val]
def Agent.kr (g : Agent) (r : KReg) : W32 := if r = 0 then 0xFFFFFFFF#32 else g.k[r.val]
def Agent.vr (g : Agent) (r : VNum) : Lanes := g.v[r.val]
def Agent.setS (g : Agent) (r : Reg) (v : Word) : Agent := if r = 0 then g else { g with s := g.s.set r.val v }
def Agent.setP (g : Agent) (r : PReg) (v : Bool) : Agent := if r = 0 then g else { g with p := g.p.set r.val v }
def Agent.setK (g : Agent) (r : KReg) (v : W32) : Agent := if r = 0 then g else { g with k := g.k.set r.val v }
def Agent.setV (g : Agent) (r : VNum) (v : Lanes) : Agent := { g with v := g.v.set r.val v }
/-- On to the next word. -/
def Agent.next (g : Agent) : Agent := { g with pc := g.pc + 1 }

/-- EA of an M operand (R317). -/
def Agent.ea (g : Agent) (m : MemOp) : Word := g.sr m.base + g.sr m.idx + m.off.signExtend 64

/-- An agent before its start (R54). -/
def Agent.fresh : Agent where
  core := 0
  slot := 0
  part := 0
  rid := 0
  oper := 0
  status := .running
  pc := 0
  s := Vector.replicate 32 0
  p := Vector.replicate 8 false
  k := Vector.replicate 8 0
  v := Vector.replicate 64 (Vector.replicate 32 0)
  cell := 0
  alen := 0
  lcell := 0
  node := 0
  depth := 0
  frm := 0
  fflags := 0
  ftrap := 0
  seed := 1
  tms := 0x100
  ascl := 0
  bscl := 0
  mtol := 0
  lc := Vector.replicate 4 0
  li := Vector.replicate 4 0
  gran := 0
  emits := []
  outs := []
  ops := []
  nextId := 0
  posted := []
  reads := []
  claim := none
  busy := []
  join := 0
  contrib := none
  xrow := none
  lastIssue := 0
  drowsy := false
  wakeAt := 0
  late := []
  trapped := none
  trec := 0
  passStop := none
  stepLeft := none
  stepSlots := none
  halted := none
  redo := []
  again := []
  met := none
  polled := none
  gaveUp := none
  begun := false
  flags0 := 0

/-- The microprogram of an operator in a core (R53). -/
def State.micro (s : State) (core part oper : Nat) : Option Micro :=
  (s.core core).micros.find? fun m => m.part = part ∧ m.oper = oper

/-- The word at an index of the agent's operator; past the end, all-ones (R108). -/
def State.wordAt (s : State) (g : Agent) (pc : Nat) : Word :=
  match s.micro g.core g.part g.oper with
  | some m => m.words.getD pc (BitVec.allOnes 64)
  | none => BitVec.allOnes 64

/-- NWORDS (R317). -/
def State.nwords (s : State) (g : Agent) : Nat := ((s.micro g.core g.part g.oper).map (·.words.length)).getD 0

/-! ## Translation (R164 to R167) -/

/-- Walk of a virtual address under an identifier: the entry, or the reason of the first fault (R165, R166). R166 gives a
fate to a next node beyond the HBM and none to such a root: it is the same walk error (DESIGN CHOICE, log 13). -/
def walk (s : State) (asid : Nat) (va : Nat) : Except Nat TlbEntry :=
  let idt := rdNat s (hbmKey (s.dev.idtab.toNat + 16 * asid)) 8
  if !bit idt 0 then .error 6
  else if Config.hbmBytes ≤ bits idt 16 32 * 2 ^ 16 then .error 7
  else
    let rec go : Nat → Nat → Except Nat TlbEntry
      | 0, _ => .error 7
      | lev + 1, node =>
        let e := rdNat s (hbmKey (node + 8 * bits va (16 + 13 * lev) 13)) 8
        let pa := bits e 16 32 * 2 ^ 16
        let tier := bits e 14 2
        if !bit e 0 then .error 0
        else if bits e 48 16 ≠ asid then .error 6
        else if bits e 2 9 ≠ 0 then .error 7
        else if bit e 1 then
          if pa % 2 ^ (16 + 13 * lev) ≠ 0 then .error 7
          else if bit e 13 && (tier = 1 || tier = 2) then .error 7
          else .ok ⟨asid, va / 2 ^ (16 + 13 * lev) * 2 ^ (16 + 13 * lev), 2 ^ (16 + 13 * lev), pa, tier, bit e 13,
            bit e 12, bit e 11⟩
        else if lev = 0 then .error 7
        else if tier ≠ 0 || bit e 13 || bit e 12 || bit e 11 || Config.hbmBytes ≤ pa then .error 7
        else go lev pa
    go 3 (bits idt 16 32 * 2 ^ 16)

def TlbEntry.covers (e : TlbEntry) (asid va : Nat) : Bool := e.asid = asid && e.base ≤ va && va < e.base + e.size

/-- The place of a translated address (R162), or none where it lies beyond its tier. -/
def TlbEntry.place (s : State) (e : TlbEntry) (va : Nat) : Option Place :=
  let pa := e.pa + (va - e.base)
  match e.tier with
  | 0 => if pa < Config.hbmBytes then some (.here (hbmKey pa)) else none
  | 1 => if pa < Config.lpddrBytes then some (.here (lpddrKey pa)) else none
  | 2 => some (.host (hostKey (pa % 2 ^ 48)))
  | _ =>
    let slot := bits pa 44 4
    if h : slot < 16 then
      (if bit (s.dev.peers[slot]).toNat 31 then some (.peer slot (pa % 2 ^ 44)) else none)
    else none

/-- What an access may do on the page: a store or atomic needs w and no single-assignment page (R165, R170). -/
inductive Want where
  | read
  | write
  /-- STP and PSET: w is needed, and sa decides elsewhere -/
  | pwrite
  deriving DecidableEq, Repr

/-- Does the place lie in a failing page of the fault map (R209)? -/
def failingPlace (s : State) : Place → Bool
  | .here k => k < 2 ^ 42 && s.dev.badPages.any fun p => p.1 = k / 65536
  | _ => false

/-- Beyond the walk: the place, the permissions, and reason 0 on a failing page (R209). -/
def TlbEntry.check (s : State) (e : TlbEntry) (va : Nat) (want : Want) : Except Nat Loc :=
  match e.place s va with
  | none => .error 7
  | some pl =>
    if !e.r then .error 1
    else if want ≠ .read && !e.w then .error 1
    else if want = .write && e.sa then .error 1
    else if failingPlace s pl then .error 0
    else .ok ⟨pl, e.sa⟩

/-- The port that reaches a peer slot, when it is ACTIVE (R162, R249). -/
def peerPort (s : State) (slot : Nat) : Option Nat :=
  if h : slot < 16 then
    let dev := (s.dev.peers[slot]).toNat % 65536
    match Tbl.find s.dev.routes dev with
    | none => none
    | some b =>
      let g := b % 16
      if hg : g < 12 then (if bit b 7 && (s.dev.ports[g]).state = .active then some g else none) else none
  else none

/-- A peer whose port is down (R252). -/
def Place.unreachable (p : Place) (s : State) : Bool :=
  match p with
  | .peer slot _ => (peerPort s slot).isNone
  | _ => false

/-- Translation by a root, an engine or the host: walked afresh. -/
def walkLoc (s : State) (asid va : Nat) (want : Want) : Except Nat Loc := do
  let e ← walk s asid va
  let l ← e.check s va want
  if l.place.unreachable s then .error 0 else .ok l

/-- The window of an address (R159) for an agent: a fault reason, a scratchpad place, or a virtual address. -/
def window (s : State) (g : Agent) (a : Word) : Except Nat (Sum Loc Nat) :=
  let n := a.toNat
  match bits n 62 2 with
  | 0 => if bits n 55 7 ≠ 0 then .error 3 else .ok (.inr (bits n 0 55))
  | 2 => if bits n 20 42 ≠ 0 then .error 3 else .ok (.inl ⟨.here (spadKey g.core (bits n 0 20)), false⟩)
  | 3 =>
    if bits n 32 30 ≠ 0 then .error 3
    else match (s.part g.part).bind fun p => p.phys g.part (bits n 20 12) with
      | none => .error 1
      | some c => if (s.core c).removed then .error 0 else .ok (.inl ⟨.here (spadKey c (bits n 0 20)), false⟩)
  | _ => .error 3

/-- Resolve an agent's access: a fault reason, a place, or a miss of the core's cache (R198). -/
def resolve (s : State) (g : Agent) (a : Word) (want : Want) : Except Nat (Option Loc) := do
  match ← window s g a with
  | .inl l => .ok (some l)
  | .inr va =>
    let asid := ((s.part g.part).map (·.asid)).getD 0
    match (s.core g.core).tlb.find? (·.covers asid va) with
    | none => .ok none
    | some e => (e.check s va want).map some

/-- Resolve without the cache, for reads that the model makes whole at one moment. -/
def resolveNow (s : State) (g : Agent) (a : Word) (want : Want) : Except Nat Loc := do
  match ← window s g a with
  | .inl l => .ok l
  | .inr va => walkLoc s (((s.part g.part).map (·.asid)).getD 0) va want

/-- Cache a translation in a core: 64 entries, a full cache loses the entry the free value names (log 13). -/
def tlbInsert (s : State) (core : Nat) (e : TlbEntry) : State :=
  let c := s.core core
  if c.tlb.length < 64 then s.setCore core { c with tlb := c.tlb ++ [e] }
  else { s with free := s.free + 1 }.setCore core
    { c with tlb := c.tlb.set (Config.tlbVictim s.free % 64) e }

/-- The n bytes at virtual address va under an identifier, page by page; none where one does not translate, or lies beyond the 55 bits of a
virtual address (R159). -/
def readVa (s : State) (asid va n : Nat) : Option (List Byte) :=
  if n = 0 then some []
  else if 2 ^ 55 < va + n then none
  else
    let pages := (va + n - 1) / 65536 - va / 65536 + 1
    (List.range pages).foldl (fun acc i =>
      match acc with
      | none => none
      | some l =>
        let a := if i = 0 then va else (va / 65536 + i) * 65536
        let m := min (va + n) ((a / 65536 + 1) * 65536) - a
        match walkLoc s asid a .read with
        | .error _ => none
        | .ok loc => some (l ++ rdPlace s loc.place m)) (some [])

/-- Write bytes at a virtual address under an identifier; none where a page does not translate for writing. -/
def writeVa (s : State) (asid va : Nat) (l : List Byte) : Option State :=
  if l.length = 0 then some s
  else if 2 ^ 55 < va + l.length then none
  else
    let pages := (va + l.length - 1) / 65536 - va / 65536 + 1
    (List.range pages).foldl (fun acc i =>
      match acc with
      | none => none
      | some t =>
        let a := if i = 0 then va else (va / 65536 + i) * 65536
        let m := min (va + l.length) ((a / 65536 + 1) * 65536) - a
        match walkLoc t asid a .write with
        | .error _ => none
        | .ok loc => some (wrPlace t loc.place (sliceB l (a - va) m))) (some s)

/-! ## Trace and profile records (R301, R302, R312) -/

/-- A write of the trace unit, which wakes no address monitor (R284). -/
def wrQuiet (s : State) (key : Nat) (l : List Byte) : State :=
  let t := wr s key l
  { t with hushed := t.hushed ++ (List.range (ceilDiv l.length 8)).map (key / 8 + ·) }

/-- Append a 64-byte record to a buffer: the record, then wpos (R301). -/
def appendRecord (s : State) (base : Word) (r : List Byte) : State :=
  let k := hbmKey base.toNat
  let nrec := rdNat s k 8
  let wpos := rdNat s (k + 8) 8
  let slot := k + 64 + 64 * (wpos % nrec)
  if nrec = 0 then s
  else wrQuiet (wrQuiet s slot (r.take 64)) (k + 8) (toLe 8 (wpos + 1))

/-- The part field of records: logical first core and j. -/
def Part.tag (p : Part) (n : Nat) : Nat := p.logFirst n % 4096 + 4096 * p.j

def traceRecord (s : State) (kind flags tag rid node pc : Nat) (li : List W32) (core : Nat) (detail : List Byte) :
    List Byte :=
  toLe 1 kind ++ toLe 1 flags ++ toLe 2 tag ++ toLe 4 rid ++ toLe 4 node ++ toLe 4 pc ++
    (li ++ List.replicate (4 - li.length) 0xFFFFFFFF#32).flatMap of32 ++ ofWord s.time ++ toLe 8 (s.coreCycle core) ++
    (detail ++ zerosB 16).take 16

def RecState.code : RecState → Nat
  | .waiting => 0 | .ready => 1 | .admitted => 2 | .running => 3 | .emitting => 4 | .done => 5 | .faulted => 6
  | .cancelled => 7

def RecState.isLive (x : RecState) : Bool := x ≠ .done && x ≠ .cancelled

/-- The source node table as the root works from it (R305). -/
def Part.rootTable (p : Part) : Option NodeTable := p.coming.map (·.2) <|> p.table

/-- A stop slot that fires once is disarmed (R304). -/
def disarmSlot (p : Part) (k : Nat) : Part :=
  let off := fun (t : NodeTable) => { t with slots := t.slots.zipIdx.map fun x => if x.2 = k ∧ x.1.once then { x.1 with kind := 0 } else x.1 }
  { p with table := p.table.map off, coming := p.coming.map fun c => (c.1, off c.2) }

/-- A kind-2 trace record of a state change, if enabled (R302). -/
def traceState (s : State) (n : Nat) (r : Record) (new : RecState) (cause : Nat) : State :=
  match s.part n with
  | none => s
  | some p =>
    if (p.rootTable.map fun t => bit t.tmask 1).getD false then
      appendRecord s s.dev.trace (traceRecord s 2 0 (p.tag n) r.id r.node 0xFFFFFFFF [] (s.root n p)
        (toLe 1 r.state.code ++ toLe 1 new.code ++ toLe 2 cause ++ toLe 4 r.oper))
    else s

def sat32n (v : Nat) : Nat := min v (2 ^ 32 - 1)

/-- The counter of the phase gains the cycles up to now; between admissions none counts (R311). -/
def Record.countTo (r : Record) (now : Nat) : Record :=
  let d := now - r.admittedAt
  let q := { r with admittedAt := now }
  match r.phase with
  | none => q
  | some .load => { q with load := sat32n (r.load + d) }
  | some .fill => { q with fill := sat32n (r.fill + d) }
  | some .steady => { q with steady := sat32n (r.steady + d) }
  | some .drain => { q with drain := sat32n (r.drain + d) }

/-- The next phase begins now. -/
def Record.enter (r : Record) (now : Nat) (ph : Option CountPhase) : Record := { r.countTo now with phase := ph }

/-- Change a record's state (R47). The trace record of FAULTED is written at the end of the cycle, when it stands which of several
agents is the trapped one (R221). -/
def setRecState (s : State) (n id : Nat) (new : RecState) (cause : Nat := 0) : State :=
  match s.rec? n id with
  | none => s
  | some r => (if new = .faulted then s else traceState s n r new cause).modRec n id fun q =>
      { q with state := new, since := s.cycle, was := if q.since = s.cycle then q.was else q.state }

/-- The state of a record as it stood before this cycle (R66). -/
def Record.before (r : Record) (now : Nat) : RecState := if r.since = now then r.was else r.state

/-! ## Raising a timeline; the end of a launch (R45, R279) -/

/-- Write the status word at tl + 8, a plain store, then raise the word at tl to value, one atomic at its home; none where tl
cannot be reached. -/
def signalEnd (s : State) (who : Nat × Nat) (asid : Nat) (tl value status : Word) : Option State :=
  if tl.toNat % 16 ≠ 0 ∨ bit tl.toNat 55 then none
  else match walkLoc s asid tl.toNat .write with
    | .error _ => none
    | .ok l => some (postUnit (postUnit s who (l.place.plus 8) (.store (ofWord status))) who l.place (.raise true value))

/-- The queue's fail word (R41, R45), written under identifier 0. -/
def queueFail (s : State) (hdr : Word) (status idx : Nat) : State :=
  (writeVa s 0 (hdr.toNat + 32) (toLe 8 (status % 256 + 256 * idx))).getD s

def statusWord (status cause : Nat) : Word := BitVec.ofNat 64 (status % 256 + cause % 512 * 65536)

/-- Unowned and EMPTY (R79). -/
def Tile.release (t : Tile) : Tile := { t with owner := none, full := false, sat := false, int := false }

/-- Tiles held by an agent whose partition ends or leaves its cores are released, no MMA being in flight any more (R78, R79). -/
def freeTiles (c : Core) (slot : Nat) : Core :=
  { c with tiles := c.tiles.map fun t => if t.owner = some slot then { t.release with busy := false, prog := 0 } else t }

def releaseTiles (s : State) (g : Agent) : State := s.modCore g.core fun c => freeTiles c g.slot

/-- A partition ends: status word and timeline, agents and tiles gone, cells free for a later launch, block free
(R31, R45, R79, R293). The row keeps its words. -/
def endPartition (s : State) (n : Nat) (status cause : Nat) : State :=
  match s.part n with
  | none => s
  | some p =>
    let s1 := match signalEnd s (rootPoster n p.size) p.asid p.tl p.value (statusWord status cause), p.queue with
      | some t, _ => t
      | none, some (h, i) => queueFail s h status i
      | none, none => s
    let s2 := (s1.agents.filter fun e => e.2.part = n).foldl (fun t e => releaseTiles t e.2) s1
    let s3 : State := { s2 with
      agents := s2.agents.filter fun e => e.2.part ≠ n
      deferred := s2.deferred.filter fun d => match d.who with
        | .agent c k _ => ((s.agent (agentKey c k)).map (·.part)) ≠ some n
        | .record q _ _ => q ≠ n
        | .peer _ _ => true
      cores := s2.cores.map fun e => if n ≤ e.1 ∧ e.1 < n + p.size then (e.1, { e.2 with
        micros := e.2.micros.filter fun m => m.part ≠ n
        queue := [], copies := [], mrels := [], chains := [], engineFrozen := false, passed := [] }) else e }
    { s3 with parts := Tbl.drop s3.parts n }.modPcb n fun b => { b with state := 0, cmd := 0 }

/-! ## Taking a fault (R221 to R224, R436) -/

/-- Majors whose field a names a scalar register (R102 to R106). -/
def aScalar : List Nat :=
  (List.range 0x17) ++ (List.range 12).map (0x20 + ·) ++
    [0x31, 0x33, 0x62, 0x68, 0x78, 0x7B, 0x7C, 0x82, 0x83, 0x84, 0x85, 0x86, 0x88, 0x89, 0x8A, 0x99, 0x9E, 0x9F]

/-- Majors whose field b does. -/
def bScalar : List Nat :=
  (List.range 10) ++ [0x0D, 0x0E, 0x0F, 0x20, 0x21, 0x22, 0x23, 0x24, 0x26, 0x27, 0x28, 0x42, 0x61, 0x7B, 0x80, 0x81, 0x83, 0x8A, 0x9F]

/-- Values of the scalar registers that fields a and b name at issue (R224); of an MMA those of A and B. -/
def opsOf (g : Agent) (w : Word) : Word × Word :=
  let m := (major w).toNat
  let reg := fun (x : BitVec 6) => if x.toNat < 32 then g.sr (Fin.ofNat 32 x.toNat) else 0
  if m = 0x70 then (reg (fld w 43 6), reg (fld w 37 6))
  else
    -- of PMOV and KMOV with fn 2 a names a scalar
    let a := aScalar.contains m || ((m = 0x36 || m = 0x6A) && fld w 16 12 = 2#12)
    ((if a then reg (fA w) else 0), (if bScalar.contains m then reg (fB w) else 0))

/-- The trap an agent raises at its present instruction. -/
def Agent.trapAt (s : State) (g : Agent) (pc cause : Nat) (addr : Word := 0) (lane : Nat := 0xFFFFFFFF) : Trap :=
  let w := s.wordAt g pc
  let o := opsOf g w
  ⟨cause, pc, w, o.1, o.2, addr, lane, 0, 0, none, false⟩

/-- The record's area is frozen: FAULTED, or stopped by a debugger (R221, R307). -/
def Record.frozen (r : Record) : Bool := r.state = .faulted || r.stopped.isSome

/-- A fault of an agent that is not the trapped one of its area: a late one is held; else its instruction counts as not issued, and its
flags are what they were (R221). -/
def Agent.setAside (g : Agent) (f : AFault) : Agent :=
  if f.late then { g with late := f :: g.late } else { g with fflags := g.flags0 }

/-- An agent that another of its area replaces as the trapped one. -/
def Agent.untrap (g : Agent) : Agent :=
  match g.trapped with
  | some f => Agent.setAside { g with trapped := none } f
  | none => g

/-- Is the test that a log entry belongs to still in progress (R208)? -/
def State.underTest (s : State) (entry : Nat) : Bool := s.dev.tests.any fun t => t.entries.contains entry

/-- Does the fault await an automatic retry (R211): an integrity cause on a local path, a pure operator, a retained
record below its retry limit? -/
def autoRetry (p : Part) (r : Record) (t : Trap) : Bool :=
  t.localPath && t.cause / 64 = 4 && r.ret && r.retries < p.flags / 8 % 4
    && ((p.opers[r.oper]?).map Oper.pure).getD false

/-- A debugger's step of the agent is over, and its area runs again (R306). -/
def endStep (s : State) (g : Agent) : State :=
  (s.modAgent g.key fun o => { o with stepLeft := none, stepSlots := none }).modRec g.part g.rid fun r => { r with stopped := none }

/-- The agent is the trapped one of its area, which is FAULTED. A fault that awaits an automatic retry raises no trap; where its test has
ended meanwhile, the retry comes at once (R211). -/
def trapAgent (s : State) (r : Record) (g : Agent) (f : AFault) : State :=
  let mk : RaisedTrap := ⟨s.cycle + 2, 0, g.rid, some g.key, f.trap, g.li.toList, false, f.trap.entry.isSome, s.time⟩
  let s1 := setRecState s g.part g.rid .faulted f.trap.cause
  let s2 := (s1.modRec g.part g.rid fun q => { q with cause := f.trap.cause }).modAgent g.key fun o => { o with trapped := some f }
  if ((s.part g.part).map fun p => autoRetry p r f.trap).getD false then
    let t := s2.modRec g.part g.rid fun q => { q with awaitsTest := f.trap.entry }
    if (f.trap.entry.map s.underTest).getD false then t else schedOnce t 1 (.selfTestComplete f.trap.hop true)
  else sched (s2.modPart g.part fun p => { p with raised := p.raised ++ [mk] }) 2 (.trapEnqueue g.part)

/-- What the fault of another agent of the area raised in this cycle is taken back. -/
def untrapAgent (s : State) (x : Agent) : State :=
  ((s.modAgent x.key Agent.untrap).modRec x.part x.rid fun q => { q with awaitsTest := none }).modPart x.part fun p =>
    { p with raised := p.raised.filter fun y => !(y.rid = x.rid && y.source = 0 && y.due = s.cycle + 2) }

/-- An agent fault freezes its area: the record becomes FAULTED in this cycle, the trap record enters the queue in the
second cycle after (R221, R223). Of several agents of one area in one cycle, the lowest `%cell` is trapped. A fault of
the handler ends the partition with status 0x01 (R225). No handler runs for a fault that awaits an automatic retry. -/
def agentFault (s0 : State) (g0 : Agent) (f : AFault) : State :=
  -- a fault within a debugger's step ends the step and is taken (R306)
  let stepping := g0.stepLeft.isSome
  let g := if stepping then { g0 with stepLeft := none, stepSlots := none } else g0
  let s := if stepping then endStep s0 g0 else s0
  if g.service then
    schedOnce (s.modPart g.part fun p => { p with ended := p.ended <|> some (statusWord 0x01 f.trap.cause) }) 0 (.trapEnqueue g.part)
  else match s.rec? g.part g.rid with
    | none => s
    | some r =>
      if !r.frozen then trapAgent s r g f
      else match if r.since = s.cycle then (s.agentsOf g.part g.rid).find? fun x => x.trapped.isSome else none with
        | some x => if g.cell < x.cell then trapAgent (untrapAgent s x) r g f else s.modAgent g.key fun o => o.setAside f
        | none => s.modAgent g.key fun o => o.setAside f

/-- A late fault is detected (R436): it is held, and raised at the agent's next instruction boundary. -/
def lateFault (s : State) (key : Nat) (f : AFault) : State :=
  match s.agent key with
  | none => s
  | some g => schedOnce (s.setAgent key { g with late := g.late ++ [f] }) 0 (.lateFaultRaise g.core g.slot)

/-! ## Executing an instruction of the agent that has the turn -/

/-- What an agent-local meaning ends in: its new registers, or a cause with the registers as the fault leaves them. -/
inductive Eff where
  | ok (g : Agent)
  | trap (g : Agent) (cause : Nat) (addr : Word) (lane : Nat)

def Eff.fault (g : Agent) (cause : Nat) : Eff := .trap g cause 0 0xFFFFFFFF
def Eff.faultAt (g : Agent) (cause : Nat) (addr : Word) : Eff := .trap g cause addr 0xFFFFFFFF

/-- Run a meaning for the agent that has the turn. -/
def onAgent (s : State) (f : Agent → State) : Out :=
  match s.turn with
  | .agent c k => match s.agent (agentKey c k) with
    | some g => .next (f g)
    | none => .fault .noExecutor
  | _ => .fault .noExecutor

/-- Take a fault at the present instruction. -/
def faultNow (s : State) (g : Agent) (cause : Nat) (addr : Word := 0) (lane : Nat := 0xFFFFFFFF) : State :=
  agentFault s g ⟨g.trapAt s g.pc cause addr lane, none, false⟩

/-- The trap of a blamed event. -/
def Trap.blame (t : Trap) (b : Blame) (localPath : Bool) : Trap :=
  { t with cause := b.cause, chunk := b.chunk, hop := b.hop, entry := some b.entry, localPath := localPath }

/-- Take the fault of a blamed event at the present instruction (R206). -/
def faultBlamed (s : State) (g : Agent) (b : Blame) (addr : Word) (localPath : Bool) : State :=
  agentFault s g ⟨(g.trapAt s g.pc 0 addr).blame b localPath, none, false⟩

/-- An agent-local instruction: registers only. -/
def agentOp (s : State) (f : Agent → Eff) : Out :=
  onAgent s fun g => match f g with
    | .ok h => s.setAgent g.key h
    | .trap h cause addr lane => faultNow (s.setAgent g.key h) h cause addr lane

/-- An instruction that cell agents alone may execute; on the service agent it takes the fault of its row (R106, R107). -/
def cellOnly (s : State) (cause : Nat) (f : Agent → State) : Out :=
  onAgent s fun g => if g.service then faultNow s g cause else f g

/-- A privileged instruction: on a cell agent it takes the privilege fault of its row (R106, R107). -/
def serviceOnly (s : State) (cause : Nat) (f : Agent → State) : Out :=
  onAgent s fun g => if g.service then f g else faultNow s g cause

end Sys2Proof.Machine
end

