-- ==== Sys2Proof/Machine/Flags.lean ====
section
/-! DEFINITION. Numbers: the operand formats (06 R111 to R115), exact values, rounding (R119, R120), flags and their
traps (R121, R122), and conversions (R124). A finite value is a sign with m · 2^e; rounding also takes a quotient. -/

namespace Sys2Proof.Machine

open Sys2Proof

/-! ## Flags (R121) -/

def fNV : W32 := 1#32
def fDZ : W32 := 2#32
def fOF : W32 := 4#32
def fUF : W32 := 8#32
def fNX : W32 := 16#32
def fSA : W32 := 32#32
def fTC : W32 := 64#32

/-- The reason of the lowest-numbered trapped flag (R122): DZ 0, NV 1, OF 2, UF 3, SA 4. -/
def trapReason (fl trap : W32) : Option Nat :=
  let x := fl &&& trap
  if x &&& fDZ ≠ 0#32 then some 0
  else if x &&& fNV ≠ 0#32 then some 1
  else if x &&& fOF ≠ 0#32 then some 2
  else if x &&& fUF ≠ 0#32 then some 3
  else if x &&& fSA ≠ 0#32 then some 4
  else none

/-- FPSET (R317): flags are ORed in, trapped or not; a trapped flag faults and leaves the rest of `g` (R122). `h` is
the agent with its result written. -/
def fpset (g h : Agent) (kind : Nat) (fl : W32) : Eff :=
  match trapReason fl g.ftrap with
  | some r => .trap { g with fflags := g.fflags ||| fl } (0x40 + 8 * kind + r) 0 0xFFFFFFFF
  | none => .ok { h with fflags := g.fflags ||| fl }

/-! ## Exact values -/

inductive Val where
  | nan (signalling : Bool)
  | inf (neg : Bool)
  /-- (-1)^neg · m · 2^e -/
  | fin (neg : Bool) (m : Nat) (e : Int)
  deriving DecidableEq, Repr

def Val.zero (neg : Bool) : Val := .fin neg 0 0
def Val.isNan : Val → Bool
  | .nan _ => true
  | _ => false
def Val.isSNan : Val → Bool
  | .nan s => s
  | _ => false
def Val.isZero : Val → Bool
  | .fin _ m _ => m = 0
  | _ => false
def Val.neg? : Val → Bool
  | .nan _ => false
  | .inf n => n
  | .fin n _ _ => n
def Val.abs : Val → Val
  | .nan s => .nan s
  | .inf _ => .inf false
  | .fin _ m e => .fin false m e
def Val.negate : Val → Val
  | .nan s => .nan s
  | .inf n => .inf (!n)
  | .fin n m e => .fin (!n) m e

/-- The value as an integer multiple of 2^e0, for e0 at most its exponent. -/
def Val.scaled (v : Val) (e0 : Int) : Int :=
  match v with
  | .fin n m e => (if n then -1 else 1) * (m * 2 ^ (e - e0).toNat : Nat)
  | _ => 0

def Val.expo : Val → Int
  | .fin _ _ e => e
  | _ => 0

def Val.ofInt (i : Int) (e : Int := 0) : Val := .fin (i < 0) i.natAbs e

/-- Order of two values that are no NaN; ±0 are equal. -/
def Val.lt (a b : Val) : Bool :=
  match a, b with
  | .nan _, _ | _, .nan _ => false
  | .inf m, .inf n => m && !n
  | .inf m, _ => m
  | _, .inf n => !n
  | _, _ => let e := min a.expo b.expo; a.scaled e < b.scaled e

def Val.eq (a b : Val) : Bool :=
  match a, b with
  | .nan _, _ | _, .nan _ => false
  | .inf m, .inf n => m = n
  | .inf _, _ | _, .inf _ => false
  | _, _ => let e := min a.expo b.expo; a.scaled e = b.scaled e

/-- Exact sum, with NV where it is invalid; `down` gives an exact zero sum of opposite signs its sign (R354). -/
def Val.add (down : Bool) (a b : Val) : Val × W32 :=
  let nv := if a.isSNan || b.isSNan then fNV else 0#32
  match a, b with
  | .nan _, _ | _, .nan _ => (.nan false, nv)
  | .inf m, .inf n => if m = n then (.inf m, 0#32) else (.nan false, fNV)
  | .inf m, _ => (.inf m, 0#32)
  | _, .inf n => (.inf n, 0#32)
  | .fin m x _, .fin n y _ =>
    if x = 0 ∧ y = 0 then (.zero (if m = n then m else down), 0#32)
    else
      let e := min a.expo b.expo
      let i := a.scaled e + b.scaled e
      if i = 0 then (.zero down, 0#32) else (.ofInt i e, 0#32)

def Val.mul (a b : Val) : Val × W32 :=
  let nv := if a.isSNan || b.isSNan then fNV else 0#32
  let n := a.neg? != b.neg?
  match a, b with
  | .nan _, _ | _, .nan _ => (.nan false, nv)
  | .inf _, _ => if b.isZero then (.nan false, fNV) else (.inf n, 0#32)
  | _, .inf _ => if a.isZero then (.nan false, fNV) else (.inf n, 0#32)
  | .fin _ x e, .fin _ y f => (.fin n (x * y) (e + f), 0#32)

/-! ## Floating formats (R111 to R113) -/

/-- A floating format: significand bits, bias, the code of its largest finite magnitude, and of ∞ and the canonical
NaN where it has them; codes here are magnitudes, the sign lying at bit `w - 1`. -/
structure FD where
  w : Nat
  mb : Nat
  bias : Nat
  maxCode : Nat
  infCode : Option Nat
  nanCode : Option Nat
  deriving DecidableEq, Repr

def fd32 : FD := ⟨32, 23, 127, 0x7F7FFFFF, some 0x7F800000, some 0x7FC00000⟩
/-- FP19 without its 13 ignored bits. -/
def fd19 : FD := ⟨19, 10, 127, 0x3FBFF, some 0x3FC00, some 0x3FE00⟩
def fdBf : FD := ⟨16, 7, 127, 0x7F7F, some 0x7F80, some 0x7FC0⟩
def fdHf : FD := ⟨16, 10, 15, 0x7BFF, some 0x7C00, some 0x7E00⟩
def fdE4M3 : FD := ⟨8, 3, 7, 0x7E, none, some 0x7F⟩
def fdE5M2 : FD := ⟨8, 2, 15, 0x7B, some 0x7C, some 0x7E⟩
def fdE3M2 : FD := ⟨6, 2, 3, 0x1F, none, none⟩
def fdE2M3 : FD := ⟨6, 3, 1, 0x1F, none, none⟩
def fdE2M1 : FD := ⟨4, 1, 1, 0x7, none, none⟩

def FD.signed (f : FD) (neg : Bool) (c : Nat) : Nat := c + b2n neg * 2 ^ (f.w - 1)

/-- Read an image. A NaN is signalling where the top significand bit is 0; E5M2's and E4M3's NaNs are quiet (R112). -/
def FD.decode (f : FD) (x : Nat) : Val :=
  let neg := bit x (f.w - 1)
  let c := x % 2 ^ (f.w - 1)
  if f.infCode = some c then .inf neg
  else if f.maxCode < c then .nan (f.w ≥ 16 && !bit c (f.mb - 1))
  else
    let e := c / 2 ^ f.mb
    let m := c % 2 ^ f.mb
    if e = 0 then .fin neg m (1 - (f.bias : Int) - f.mb)
    else .fin neg (m + 2 ^ f.mb) ((e : Int) - f.bias - f.mb)

/-- Image of the canonical NaN, or 0 in a format without one. -/
def FD.nan (f : FD) : Nat := f.nanCode.getD 0

/-! ## Rounding (R119, R120) -/

/-- One step of the generator (R120). -/
def seedStep (x : Word) : Word :=
  let x := x ^^^ (x <<< 13)
  let x := x ^^^ (x >>> 7)
  x ^^^ (x <<< 17)

/-- Round a positive quotient n / d, not an integer, between q and q + 1: true takes q + 1. `neg` is the sign of the
value; the stochastic draw compares from the lower neighbour in value order. `r` is the remainder n − q · d. -/
def roundUp (rm : Rm) (seed : Word) (neg : Bool) (q r d : Nat) : Bool × Word :=
  match rm with
  | .rne | .dyn => (if 2 * r = d then q % 2 = 1 else d < 2 * r, seed)
  | .rtz => (false, seed)
  | .rdn => (neg, seed)
  | .rup => (!neg, seed)
  | .rna => (d ≤ 2 * r, seed)
  | .sr =>
    let s := seedStep seed
    let t := (if neg then d - r else r) * 2 ^ 24 / d
    let hi := decide ((s.toNat / 2 ^ 40) < t)
    (hi != neg, s)

/-- Is an overflow rounded to the largest finite value rather than ∞? -/
def overMax (rm : Rm) (neg : Bool) : Bool :=
  match rm with
  | .rtz => true
  | .rdn => !neg
  | .rup => neg
  | _ => false

/-- RND of the value (-1)^neg · num / den, num not 0: image with its sign, flags, and the generator after it. DESIGN CHOICE (log 16):
a stochastic result beyond the largest value takes a step of the generator here where it is inexact on the format's grid carried on
without an upper end. -/
def FD.round (f : FD) (rm : Rm) (seed : Word) (neg : Bool) (num den : Nat) : Nat × W32 × Word :=
  -- floor of the binary logarithm
  let e0 : Int := (num.log2 : Int) - den.log2
  let ge := fun (e : Int) => if 0 ≤ e then decide (den * 2 ^ e.toNat ≤ num) else decide (den ≤ num * 2 ^ (-e).toNat)
  let e1 := if ge e0 then e0 else e0 - 1
  let emin : Int := 1 - f.bias
  let eff := max e1 emin
  let q0 : Int := eff - f.mb
  -- the value in units of the last place
  let n := if 0 ≤ q0 then num else num * 2 ^ (-q0).toNat
  let d := if 0 ≤ q0 then den * 2 ^ q0.toNat else den
  let q := n / d
  let r := n % d
  let up := if r = 0 then (false, seed) else roundUp rm seed neg q r d
  let q' := q + b2n up.1
  let code := (eff - emin).toNat * 2 ^ f.mb + q'
  let nx := if r = 0 then 0#32 else fNX
  let uf := if r ≠ 0 ∧ e1 < emin then fUF else 0#32
  if f.maxCode < code then
    (f.signed neg (match f.infCode with
      | some i => if overMax rm neg then f.maxCode else i
      | none => f.maxCode), fOF ||| fNX, up.2)
  else (f.signed neg code, nx ||| uf, up.2)

/-- RND of an exact value into a format; NaN becomes canonical. -/
def FD.put (f : FD) (rm : Rm) (seed : Word) (v : Val) : Nat × W32 × Word :=
  match v with
  | .nan _ => (f.nan, 0#32, seed)
  | .inf n => (f.signed n (f.infCode.getD f.maxCode), 0#32, seed)
  | .fin n 0 _ => (f.signed n 0, 0#32, seed)
  | .fin n m e => if 0 ≤ e then f.round rm seed n (m * 2 ^ e.toNat) 1 else f.round rm seed n m (2 ^ (-e).toNat)

/-- RNE32 as an image and its flags. -/
def rne32 (v : Val) : W32 × W32 :=
  let r := fd32.put .rne 0#64 v
  (BitVec.ofNat 32 r.1, r.2.1)

def val32 (x : W32) : Val := fd32.decode x.toNat

/-- rm 6 is the mode in `%frm` (R119). -/
def rmEff (rm : Rm) (frm : W32) : Rm := if rm = .dyn then (rmOf (frm.toNat % 8)).getD .rne else rm

/-- Addition of two FP32 images rounded RNE, with flags. -/
def addRne (a b : W32) : W32 × W32 :=
  let s := Val.add false (val32 a) (val32 b)
  let r := rne32 s.1
  (r.1, s.2 ||| r.2)

/-- Floating minimum and maximum (R362): NaN where either is, −0 below +0; NV on a signalling NaN. -/
def minMax (f : FD) (mx : Bool) (a b : Nat) : Nat × W32 :=
  let x := f.decode a
  let y := f.decode b
  let nv := if x.isSNan || y.isSNan then fNV else 0#32
  if x.isNan || y.isNan then (f.nan, nv)
  else
    let aLess := x.lt y || (x.eq y && x.neg? && !y.neg?)
    (if aLess != mx then a else b, nv)

/-! ## Integer square root, exponential and logarithm to 320 bits (log 16) -/

/-- Square root rounded down, bit by bit. -/
def isqrt (n : Nat) : Nat :=
  (List.range (n.log2 / 2 + 1)).foldr (fun i r => if (r + 2 ^ i) * (r + 2 ^ i) ≤ n then r + 2 ^ i else r) 0

def fixBits : Nat := 320
/-- ln 2 · 2^320, rounded down. -/
def ln2Fix : Nat :=
  1480553391661173448385607439722553250922680800745876974795605978609098082859138712941075737848984

/-- 2^(f / 2^320) · 2^320 for f below 2^320, by the series of e^x. -/
def exp2Fix (f : Nat) : Nat :=
  let x := f * ln2Fix / 2 ^ fixBits
  ((List.range 80).foldl (fun (acc : Nat × Nat) k =>
    let t := acc.2 * x / 2 ^ fixBits / (k + 1)
    (acc.1 + t, t)) (2 ^ fixBits, 2 ^ fixBits)).1

/-- log2(n / 2^k) · 2^320 for 1 ≤ n / 2^k < 2, by the series of the inverse hyperbolic tangent. -/
def log2Fix (n k : Nat) : Nat :=
  let z := (n - 2 ^ k) * 2 ^ fixBits / (n + 2 ^ k)
  let z2 := z * z / 2 ^ fixBits
  let s := ((List.range 110).foldl (fun (acc : Nat × Nat) i =>
    (acc.1 + acc.2 / (2 * i + 1), acc.2 * z2 / 2 ^ fixBits)) (0, z)).1
  2 * s * 2 ^ fixBits / ln2Fix

/-- log2 of m · 2^e as a multiple of 2^-320: exact for powers of two. -/
def logFix (m : Nat) (e : Int) : Int :=
  ((m.log2 : Int) + e) * 2 ^ fixBits + (if m = 2 ^ m.log2 then 0 else log2Fix m m.log2 : Nat)

/-- 2^x of a finite x as a quotient, close enough that rounding is that of the exact power (log 16): beyond every format it is a
value as exact or inexact as the power. -/
def pow2Quot (neg : Bool) (m : Nat) (e : Int) : Nat × Nat :=
  let fix : Int := Val.scaled (.fin neg m (if e < -(fixBits : Int) then -(fixBits : Int) else e)) (-(fixBits : Int))
  let n := fix / (2 ^ fixBits : Int)
  let f := (fix % (2 ^ fixBits : Int)).toNat
  if n > 300 then (if f = 0 then (2 ^ 300, 1) else (2 ^ 301 + 1, 2)) else if n < -300 then (1, 2 ^ 300)
  else
    let r := if f = 0 then 2 ^ fixBits else exp2Fix f
    if 0 ≤ n then (r * 2 ^ n.toNat, 2 ^ fixBits) else (r, 2 ^ (fixBits + (-n).toNat))

/-- The special functions on an FP32 image (R363, R430): image, flags, generator. Every inexact result takes a step, an overflow too
(R363). -/
def specFn (f : SpecFn) (rm : Rm) (seed : Word) (x : W32) : W32 × W32 × Word :=
  let out := fun (r : Nat × W32 × Word) =>
    ((BitVec.ofNat 32 r.1 : W32), r.2.1, if rm = .sr ∧ r.2.1 &&& fNX ≠ 0#32 ∧ r.2.2 = seed then seedStep seed else r.2.2)
  let nan : W32 := 0x7FC00000#32
  let inf := fun (n : Bool) => (if n then 0xFF800000#32 else 0x7F800000#32 : W32)
  match f, val32 x with
  | _, .nan s => (nan, if s then fNV else 0#32, seed)
  | .exp2, .inf n => (if n then 0#32 else inf false, 0#32, seed)
  | .exp2, .fin n m e =>
    if m = 0 then (0x3F800000#32, 0#32, seed)
    else let q := pow2Quot n m e; out (fd32.round rm seed false q.1 q.2)
  | .log2, .inf n => if n then (nan, fNV, seed) else (inf false, 0#32, seed)
  | .log2, .fin n m e =>
    if m = 0 then (inf true, fDZ, seed)
    else if n then (nan, fNV, seed)
    else let l := logFix m e; out (fd32.put rm seed (.ofInt l (-(fixBits : Int))))
  | .rcp, .inf n => (if n then 0x80000000#32 else 0#32, 0#32, seed)
  | .rcp, .fin n m e =>
    if m = 0 then (inf n, fDZ, seed)
    else if 0 ≤ e then out (fd32.round rm seed n 1 (m * 2 ^ e.toNat))
    else out (fd32.round rm seed n (2 ^ (-e).toNat) m)
  | .rsq, .inf n => if n then (nan, fNV, seed) else (0#32, 0#32, seed)
  | .rsq, .fin n m e =>
    if m = 0 then (inf n, fDZ, seed)
    else if n then (nan, fNV, seed)
    else
      -- 1 / x = p / q; its root to 400 bits, with a sticky bit where inexact
      let p := if 0 ≤ e then 1 else 2 ^ (-e).toNat
      let q := if 0 ≤ e then m * 2 ^ e.toNat else m
      let r := isqrt (p * 4 ^ 400 / q)
      let exact := r * r * q = p * 4 ^ 400
      out (fd32.round rm seed false (2 * r + b2n (!exact)) (2 ^ 401))

/-- √ of an FP32 image (R364). -/
def sqrt32 (rm : Rm) (seed : Word) (x : W32) : W32 × W32 × Word :=
  match val32 x with
  | .nan s => (0x7FC00000#32, if s then fNV else 0#32, seed)
  | .inf n => if n then (0x7FC00000#32, fNV, seed) else (x, 0#32, seed)
  | .fin n m e =>
    if m = 0 then (x, 0#32, seed)
    else if n then (0x7FC00000#32, fNV, seed)
    else
      let k := 400
      let v := if 0 ≤ e then m * 2 ^ e.toNat * 4 ^ k else m * 4 ^ k / 2 ^ (-e).toNat
      let r := isqrt v
      let exact := r * r = v
      let y := fd32.round rm seed false (2 * r + b2n (!exact)) (2 ^ (k + 1))
      (BitVec.ofNat 32 y.1, y.2.1, y.2.2)

/-! ## Element formats (R24, R111, R114, R115) -/

/-- Element width of a format code (R24). -/
def fmtWidth (f : Nat) : Nat :=
  if f ≤ 1 then 32 else if f = 2 ∨ f = 3 ∨ f = 9 then 16
  else if f = 6 ∨ f = 7 ∨ f = 14 ∨ f = 18 ∨ f = 19 ∨ f = 24 ∨ f = 26 then 6
  else if f = 8 ∨ f = 12 ∨ f = 13 ∨ f = 20 ∨ f = 22 ∨ f = 23 then 4
  else if f = 27 then 2 else 8

/-- Block size, 0 for a format without scales (R111). -/
def fmtBlock (f : Nat) : Nat :=
  if 16 ≤ f ∧ f ≤ 21 ∨ f = 25 then 32 else if f = 22 ∨ f = 23 ∨ f = 24 ∨ f = 26 then 16 else 0

/-- Whether the scales are E4M3 (R111); the others are E8M0. -/
def fmtE4M3Scale (f : Nat) : Bool := f = 22 || f = 23 || f = 26

/-- Native depth (R111). -/
def fmtDepth (f : Nat) : Nat :=
  if f = 0 then 4 else if f = 1 ∨ f = 9 then 16 else if f = 2 ∨ f = 3 then 32
  else if f = 8 ∨ f = 12 ∨ f = 13 ∨ f = 14 ∨ f = 20 ∨ f = 22 ∨ f = 23 ∨ f = 24 ∨ f = 27 then 128 else 64

/-- The plain format of a block-scaled format's elements. -/
def fmtElem (f : Nat) : Nat :=
  match f with
  | 16 => 4 | 17 => 5 | 18 => 6 | 19 => 7 | 20 => 8 | 21 => 10 | 22 => 8 | 23 => 12 | 24 => 14 | 25 => 15 | 26 => 6
  | n => n

/-- The floating descriptor of formats 0 to 8. -/
def fmtFD (f : Nat) : FD :=
  match f with
  | 1 => fd19 | 2 => fdBf | 3 => fdHf | 4 => fdE4M3 | 5 => fdE5M2 | 6 => fdE3M2 | 7 => fdE2M3 | 8 => fdE2M1
  | _ => fd32

def signedOf (w x : Nat) : Int := (BitVec.ofNat w x).toInt

/-- L in grid steps of an L6 or L8 code; none for the zero code. -/
def logCode (f x : Nat) : Option (Bool × Int) :=
  if f = 14 then (if x % 64 = 0x30 then none else some (bit x 5, signedOf 5 x))
  else if x % 256 = 0xC0 then none else some (bit x 7, signedOf 7 x)

def logSteps (f : Nat) : Nat := if f = 14 then 4 else 8

/-- 2^(l / g) as a quotient. -/
def pow2Grid (l : Int) (g : Nat) : Nat × Nat := pow2Quot (l < 0) (l.natAbs * (8 / g)) (-3)

/-- The decoded value of an element of a format, by its plain element format, and whether a TERN2 code 10 was read.
MX-INT8 elements read as value · 2^-6. -/
def elemVal (f x : Nat) : Val × Bool :=
  match fmtElem f with
  | 9 => (.ofInt (signedOf 16 x), false)
  | 10 => (.ofInt (signedOf 8 x) (if f = 21 then -6 else 0), false)
  | 11 => (.ofInt (x % 256), false)
  | 12 => (.ofInt (signedOf 4 x), false)
  | 13 => (.ofInt (x % 16), false)
  | 14 | 15 => match logCode (fmtElem f) x with
    | none => (.zero false, false)
    | some (n, l) =>
      let q := pow2Grid l (logSteps (fmtElem f))
      (fd32.decode (fd32.round .rne 0#64 n q.1 q.2).1, false)
  | 27 => match x % 4 with
    | 1 => (.ofInt 1, false)
    | 3 => (.ofInt (-1), false)
    | 2 => (.zero false, true)
    | _ => (.zero false, false)
  | 1 => (fd19.decode (x / 2 ^ 13 % 2 ^ 19), false)
  | e => ((fmtFD e).decode (x % 2 ^ (fmtFD e).w), false)

/-- A scale byte (R116): a value, or NaN. -/
def scaleVal (f : Nat) (b : Byte) : Val :=
  if fmtE4M3Scale f then (fdE4M3.decode (b.toNat % 128)).abs
  else if b = 0xFF#8 then .nan false else .fin false 1 ((b.toNat : Int) - 127)

/-- Element i of a packed bit stream of width w (R24). -/
def elemAt (l : List Byte) (w i : Nat) : Nat :=
  leNat (sliceB l (i * w / 8) (w / 8 + 2)) / 2 ^ (i * w % 8) % 2 ^ w

/-- Bytes of n elements of width w. -/
def elemBytes (w n : Nat) : Nat := ceilDiv (n * w) 8

/-! ## Conversions (R124, R357, R358) -/

/-- Round an exact value to an integer. -/
def roundInt (rm : Rm) (seed : Word) (neg : Bool) (m : Nat) (e : Int) : Int × W32 × Word :=
  let sg : Int := if neg then -1 else 1
  if 0 ≤ e then (sg * (m * 2 ^ e.toNat : Nat), 0#32, seed)
  else
    let d := 2 ^ (-e).toNat
    let r := m % d
    if r = 0 then (sg * (m / d : Nat), 0#32, seed)
    else
      let up := roundUp rm seed neg (m / d) r d
      (sg * (m / d + b2n up.1 : Nat), fNX, up.2)

/-- FP32 to an integer type of range [lo, hi]. A result beyond the range takes no draw's flag NX. -/
def toInt (rm : Rm) (seed : Word) (x : W32) (lo hi : Int) : Int × W32 × Word :=
  match val32 x with
  | .nan _ => (0, fNV ||| fSA, seed)
  | .inf n => (if n then lo else hi, fNV ||| fSA, seed)
  | .fin n m e =>
    let r := roundInt rm seed n m e
    if r.1 < lo then (lo, fNV ||| fSA, r.2.2) else if hi < r.1 then (hi, fNV ||| fSA, r.2.2) else r

/-- FP32 to L6 or L8 (R124). -/
def toLog (f : Nat) (rm : Rm) (seed : Word) (x : W32) : Nat × W32 × Word :=
  let g := logSteps f
  let wl := if f = 14 then 5 else 7
  let lmin : Int := -(2 ^ (wl - 1) : Nat)
  let lmax : Int := (2 ^ (wl - 1) : Nat) - 1
  let zc := if f = 14 then 0x30 else 0xC0
  let code := fun (n : Bool) (l : Int) => (BitVec.ofInt wl l).toNat + b2n n * 2 ^ wl
  match val32 x with
  | .nan _ => (zc, fNV, seed)
  | .inf n => (code n lmax, fNV, seed)
  | .fin n m e =>
    if m = 0 then (zc, 0#32, seed)
    else
      let l := logFix m e * g
      let lo := l / (2 ^ fixBits : Int)
      let fr := (l % (2 ^ fixBits : Int)).toNat
      let (k, nx, sd) : Int × W32 × Word :=
        if fr = 0 then (lo, 0#32, seed)
        else match rm with
          | .rne | .rna | .dyn => (if 2 * fr < 2 ^ fixBits then lo else lo + 1, fNX, seed)
          | .rtz => (lo, fNX, seed)
          | .rup => (if n then lo else lo + 1, fNX, seed)
          | .rdn => (if n then lo + 1 else lo, fNX, seed)
          | .sr =>
            let s := seedStep seed
            (if s.toNat / 2 ^ 40 < fr * 2 ^ 24 / 2 ^ fixBits then lo + 1 else lo, fNX, s)
      if lmax < k then (code n lmax, fOF ||| fNX, sd)
      else if k < lmin ∨ (n ∧ k = lmin) then (zc, fUF ||| fNX, sd)
      else (code n k, nx, sd)

def intRange : IntTy → Int × Int
  | .sint32 => (-2 ^ 31, 2 ^ 31 - 1)
  | .uint32 => (0, 2 ^ 32 - 1)
  | .sint64 => (-2 ^ 63, 2 ^ 63 - 1)
  | .uint64 => (0, 2 ^ 64 - 1)

/-- FP32 image to a format 0 to 15 (R124): image in its low bits, FP19 at [31:13]. -/
def toFormat (f : Nat) (rm : Rm) (seed : Word) (x : W32) : Nat × W32 × Word :=
  let v := val32 x
  let nv := if v.isSNan then fNV else 0#32
  let int := fun (lo hi : Int) (w : Nat) =>
    let r := toInt rm seed x lo hi
    ((BitVec.ofInt w r.1).toNat, r.2.1, r.2.2)
  match f with
  | 0 => (if v.isNan then 0x7FC00000 else x.toNat, nv, seed)
  | 1 => let r := fd19.put rm seed v; (r.1 * 2 ^ 13, r.2.1 ||| nv, r.2.2)
  | 2 | 3 | 5 => let r := (fmtFD f).put rm seed v; (r.1, r.2.1 ||| nv, r.2.2)
  | 4 | 6 | 7 | 8 => match v with
    | .nan _ => ((fmtFD f).nan, fNV, seed)
    | .inf n => ((fmtFD f).signed n (fmtFD f).maxCode, fNV, seed)
    | _ => (fmtFD f).put rm seed v
  | 9 => int (-2 ^ 15) (2 ^ 15 - 1) 16
  | 10 => int (-2 ^ 7) (2 ^ 7 - 1) 8
  | 11 => int 0 255 8
  | 12 => int (-8) 7 4
  | 13 => int 0 15 4
  | _ => toLog f rm seed x

/-- A format 0 to 15 to FP32 (R124). -/
def fromFormat (f : Nat) (rm : Rm) (seed : Word) (x : Nat) : W32 × W32 × Word :=
  if f = 14 ∨ f = 15 then
    match logCode f x with
    | none => (0#32, 0#32, seed)
    | some (n, l) =>
      let q := pow2Grid l (logSteps f)
      let r := fd32.round rm seed n q.1 q.2
      (BitVec.ofNat 32 r.1, if l % (logSteps f : Int) = 0 then 0#32 else fNX, r.2.2)
  else
    let v := (elemVal f x).1
    ((rne32 v).1, if v.isSNan then fNV else 0#32, seed)

/-- One conversion (R357): the 64-bit source and result, flags, generator. -/
def convert (cv : Cvt) (rm : Rm) (seed : Word) (x : Word) : Word × W32 × Word :=
  match cv with
  | .toFmt f => let r := toFormat f.val rm seed (x.truncate 32); (BitVec.ofNat 64 r.1, r.2.1, r.2.2)
  | .fromFmt f => let r := fromFormat f.val rm seed (x.toNat % 2 ^ 32); (r.1.zeroExtend 64, r.2.1, r.2.2)
  | .toInt t =>
    let r := toInt rm seed (x.truncate 32) (intRange t).1 (intRange t).2
    (if t.is32 then (BitVec.ofInt 32 r.1).zeroExtend 64 else BitVec.ofInt 64 r.1, r.2.1, r.2.2)
  | .fromInt t =>
    let i : Int := match t with
      | .sint32 => signedOf 32 x.toNat
      | .uint32 => (x.toNat % 2 ^ 32 : Nat)
      | .sint64 => x.toInt
      | .uint64 => (x.toNat : Nat)
    let r := fd32.put rm seed (.ofInt i)
    (BitVec.ofNat 64 r.1, r.2.1, r.2.2)

/-- Two-operand arithmetic in a format, rounded once (R354, R420). -/
inductive FOp where
  | add | sub | mul | div
  deriving DecidableEq, Repr

def FD.arith (f : FD) (op : FOp) (rm : Rm) (seed : Word) (a b : Nat) : Nat × W32 × Word :=
  let x := f.decode a
  let y := f.decode b
  let fin := fun (r : Val × W32) => let p := f.put rm seed r.1; (p.1, p.2.1 ||| r.2, p.2.2)
  match op with
  | .add => fin (Val.add (rm = .rdn) x y)
  | .sub => fin (Val.add (rm = .rdn) x y.negate)
  | .mul => fin (Val.mul x y)
  | .div =>
    let n := x.neg? != y.neg?
    match x, y with
    | .nan _, _ | _, .nan _ => fin (.nan false, if x.isSNan || y.isSNan then fNV else 0#32)
    | .inf _, .inf _ => fin (.nan false, fNV)
    | .inf _, _ => fin (.inf n, 0#32)
    | _, .inf _ => fin (.zero n, 0#32)
    | .fin _ p e, .fin _ q d =>
      if q = 0 then (if p = 0 then fin (.nan false, fNV) else fin (.inf n, fDZ))
      else if p = 0 then fin (.zero n, 0#32)
      else if d ≤ e then f.round rm seed n (p * 2 ^ (e - d).toNat) q
      else f.round rm seed n p (q * 2 ^ (d - e).toNat)

/-- x · y + z with one rounding (R360). -/
def FD.fma (f : FD) (rm : Rm) (seed : Word) (a b c : Nat) : Nat × W32 × Word :=
  let p := Val.mul (f.decode a) (f.decode b)
  let z := f.decode c
  let s := Val.add (rm = .rdn) p.1 z
  let r := f.put rm seed s.1
  (r.1, r.2.1 ||| p.2 ||| s.2 ||| (if z.isSNan then fNV else 0#32), r.2.2)

/-- A floating comparison (R356): its truth and its flags. -/
def fcompare (c : Cmp) (a b : W32) : Bool × W32 :=
  let x := val32 a
  let y := val32 b
  let un := x.isNan || y.isNan
  let nv := if x.isSNan || y.isSNan then fNV else 0#32
  let nvq := if un then fNV else 0#32
  match c with
  | .eq => (x.eq y, nv)
  | .ne => (!x.eq y, nv)
  | .lt => (x.lt y, nvq)
  | .le => (!un && !y.lt x, nvq)
  | .gt => (y.lt x, nvq)
  | .ge => (!un && !x.lt y, nvq)
  | _ => (false, 0#32)

/-- An integer comparison on n bits (R338, R424). -/
def icompare {n : Nat} (c : Cmp) (a b : BitVec n) : Bool :=
  match c with
  | .eq => a = b
  | .ne => a ≠ b
  | .lt => a.slt b
  | .le => a.sle b
  | .gt => b.slt a
  | .ge => b.sle a
  | .ltu => a.ult b
  | .leu => a.ule b
  | .gtu => b.ult a
  | .geu => b.ule a

/-- Truth of a two-input table: bit a + 2 · b... of t is the result (R366, R386). -/
def tableBit (t : BitVec 4) (a b : Bool) : Bool := t.getLsbD (2 * b2n a + b2n b)

/-- SAT32 (R125): the clamp, and whether it clamped. -/
def sat32 (i : Int) : W32 × Bool :=
  if i < -2 ^ 31 then (0x80000000#32, true) else if 2 ^ 31 - 1 < i then (0x7FFFFFFF#32, true)
  else (BitVec.ofInt 32 i, false)

end Sys2Proof.Machine
end

