-- ==== Sys2Proof/Machine/Operands.lean ====
section
/-! DEFINITION. Operand forms: sizes and extensions of memory operands (R96), memory causes (R159), the registers an
instruction names (R73, R90), lanes and elements (R419), and the issue units (R55). -/

namespace Sys2Proof.Machine

open Sys2Proof

/-! ## Memory operands -/

def ldBytes : LdSize → Nat
  | .u8 | .s8 => 1
  | .u16 | .s16 => 2
  | .u32 | .s32 => 4
  | .d64 => 8

/-- The loaded value, extended as its size says (R368). -/
def ldExtend (z : LdSize) (v : Nat) : Word :=
  match z with
  | .u8 | .u16 | .u32 | .d64 => BitVec.ofNat 64 v
  | .s8 => sext 8 v
  | .s16 => sext 16 v
  | .s32 => sext 32 v

def stBytes : StSize → Nat
  | .u8 => 1
  | .u16 => 2
  | .u32 => 4
  | .d64 => 8

def atomBytes (is64 : Bool) : Nat := if is64 then 8 else 4

/-- Access kinds (R159). -/
def kLoad : Nat := 0
def kStore : Nat := 1
def kAtomic : Nat := 2
def kPLoad : Nat := 3
def kPStore : Nat := 4
def kGather : Nat := 5
def kStream : Nat := 6
def kRinger : Nat := 7

/-- 0x080 + 8 · kind + reason (R159). -/
def memCause (kind reason : Nat) : Nat := 0x80 + 8 * kind + reason

/-- EA of the A format (R317). -/
def eaA (g : Agent) (base : Reg) (off : BitVec 16) : Word := g.sr base + off.signExtend 64

def misaligned (a : Word) (n : Nat) : Bool := a.toNat % n ≠ 0

/-- A local-window address of a byte offset (R317). -/
def localAddr (off : Nat) : Word := BitVec.ofNat 64 (2 ^ 63 + off)

/-- The local offset an address names, when n bytes from it lie in the local window (R159). -/
def localOff (a : Word) (n : Nat) : Option Nat :=
  if bits a.toNat 62 2 = 2 ∧ bits a.toNat 20 42 = 0 ∧ a.toNat % 2 ^ 20 + n ≤ 2 ^ 20 then some (a.toNat % 2 ^ 20) else none

/-! ## Lanes -/

/-- Is lane i active under a mask? -/
def lane (k : W32) (i : Nat) : Bool := k.getLsbD i

/-- Lane-wise result under a mask (R129). -/
def maskLanes (k : W32) (z : Bool) (old new : Lanes) : Lanes :=
  Vector.ofFn fun i : Fin 32 => if lane k i.val then new[i] else if z then 0 else old[i]

def mapLanes (f : Nat → W32) : Lanes := Vector.ofFn fun i : Fin 32 => f i.val

def laneAt (v : Lanes) (i : Nat) : W32 := v.toList.getD i 0

def lanesOfBytes (l : List Byte) : Lanes := mapLanes fun i => BitVec.ofNat 32 (leAt l (4 * i) 4)

def bytesOfLanes (v : Lanes) : List Byte := v.toList.flatMap of32

/-- Elements of a lane in a floating lane format: how many, their width and descriptor (R419). -/
def vfmtFD : VFmt → FD
  | .f32 => fd32
  | .bf16 => fdBf
  | .f16 => fdHf

/-! ## Registers an instruction names -/

/-- Vector registers of the agent's own file that the fields name (R73; VSHUF's a is another agent's). -/
def vregsOf : Instr → List Nat
  | .vadd _ _ d a b | .vsub _ _ d a b | .vmul _ _ d a b | .vmin _ _ d a b | .vmax _ _ d a b => [d.val, a.val, b.val]
  | .vfma _ _ d a b c => [d.val, a.val, b.val, c.val]
  | .vand _ d a b | .vor _ d a b | .vxor _ d a b | .vshl _ d a b | .vsel _ d a b | .vperm _ d a b => [d.val, a.val, b.val]
  | .vshr _ _ d a b => [d.val, a.val, b.val]
  | .vcmp _ _ _ _ a b => [a.val, b.val]
  | .vcvt _ _ _ d a | .vsf _ _ _ d a => [d.val, a.val]
  | .vred _ _ _ _ a => [a.val]
  | .vshuf _ d _ _ => [d.val]
  | .vbc _ d _ | .vidx _ d => [d.val]
  | .vld _ _ d _ => [d.val]
  | .vst _ _ _ d => [d.val]
  | .vgath _ d _ i _ => [d.val, i.val]
  | .vscat _ _ i _ d => [d.val, i.val]
  | .vmean _ _ a => [a.val]
  | .xmean _ d _ _ => [d.val]
  | _ => []

def memRegs (m : MemOp) : List RName := [.s m.base.val, .s m.idx.val]

/-- Scalars, predicates and masks that the fields name. -/
def scalarsOf : Instr → List RName
  | .add d a b | .sub d a b | .mul _ d a b | .div _ d a b | .rem _ d a b | .and d a b | .or d a b | .xor d a b
  | .shl d a b | .shr _ d a b | .min _ d a b | .max _ d a b | .lea d a b _ | .fadd _ d a b | .fsub _ d a b
  | .fmul _ d a b | .fdiv _ d a b | .fmin d a b | .fmax d a b => [.s d.val, .s a.val, .s b.val]
  | .ffma _ d a b c => [.s d.val, .s a.val, .s b.val, .s c.val]
  | .addi d a _ | .andi d a _ | .ori d a _ | .xori d a _ | .shli d a _ | .shri _ d a _ | .clz d a | .popc d a
  | .bfx d a _ _ | .bfi d a _ _ | .fsqrt _ d a | .fcvt _ _ d a | .fclass d a | .fsf _ _ d a => [.s d.val, .s a.val]
  | .sel d a b p => [.s d.val, .s a.val, .s b.val, .p p.val]
  | .cmp _ d a b | .fcmp _ d a b => [.p d.val, .s a.val, .s b.val]
  | .cmpi _ d a _ => [.p d.val, .s a.val]
  | .movi d _ | .movhi d _ => [.s d.val]
  | .brx a | .ret a => [.s a.val]
  | .call _ l _ => [.s l.val]
  | .plog d a b _ => [.p d.val, .p a.val, .p b.val]
  | .pmov (.pp d a) => [.p d.val, .p a.val]
  | .pmov (.toS d) => [.s d.val]
  | .pmov (.fromS a) => [.s a.val]
  | .ld _ _ _ d m => .s d.val :: memRegs m
  | .st _ _ _ m d => .s d.val :: memRegs m
  | .atom _ _ _ _ d base b c _ => [.s d.val, .s base.val, .s b.val, .s c.val]
  | .ldp d m | .stp m d | .psetPoison d m | .monw _ d m | .acqs d m | .fill m d | .awaitf d m | .tlwait d m | .tlinc m d
  | .sqput _ d m => .s d.val :: memRegs m
  | .psetEmpty m | .rinit m | .rels m | .mldb _ _ m | .mst m _ | .mldc _ m | .tmld m _ => memRegs m
  | .vadd _ k _ _ _ | .vsub _ k _ _ _ | .vmul _ k _ _ _ | .vfma _ k _ _ _ _ | .vmin _ k _ _ _ | .vmax _ k _ _ _
  | .vand k _ _ _ | .vor k _ _ _ | .vxor k _ _ _ | .vshl k _ _ _ | .vshr _ k _ _ _ | .vcvt _ _ k _ _ | .vsf _ _ k _ _
  | .vperm k _ _ _ | .vidx k _ => [.k k.k.val]
  | .vcmp _ _ k d _ _ => [.k k.k.val, .k d.val]
  | .vsel k _ _ _ => [.k k.val]
  | .vred _ _ k d _ => [.k k.val, .s d.val]
  | .vshuf k _ _ b => [.k k.k.val, .s b.val]
  | .vbc k _ a => [.k k.k.val, .s a.val]
  | .vld _ _ _ m | .vst _ _ m _ => memRegs m
  | .vgath _ _ b _ _ | .vscat _ b _ _ _ => [.s b.val]
  | .vchain a _ => [.s a.val]
  | .klog d a b _ => [.k d.val, .k a.val, .k b.val]
  | .kmov (.kk d a) => [.k d.val, .k a.val]
  | .kmov (.toS d a) => [.s d.val, .k a.val]
  | .kmov (.fromS d a) => [.k d.val, .s a.val]
  | .mma _ _ a b m n k _ _ => [.s a.val, .s b.val, .s m.val, .s n.val, .s k.val]
  | .tmset (.reg a) => [.s a.val]
  | .vmean k d _ => [.k k.val, .s d.val]
  | .xmean _ _ a b => [.s a.val, .s b.val]
  | .tmean d a => [.s d.val, .s a.val]
  | .symr d b _ | .symq _ d b _ => [.s d.val, .s b.val]
  | .emit a | .cancel a | .invtlbAsid a | .invtlbPage a => [.s a.val]
  | .emitt a b | .errinj _ a b => [.s a.val, .s b.val]
  | .tbc d a _ | .tred _ d a | .tscan _ _ d a | .tdesc d a _ => [.s d.val, .s a.val]
  | .chime _ _ _ d a b => [.s d.val, .s a.val, .s b.val]
  | .mfs d _ => [.s d.val]
  | .mts _ a => [.s a.val]
  | _ => []

/-- The rounding mode that an instruction's field names, where it rounds (R99). -/
def rmField : Instr → Option Rm
  | .fadd rm _ _ _ | .fsub rm _ _ _ | .fmul rm _ _ _ | .fdiv rm _ _ _ | .ffma rm _ _ _ _ | .fsqrt rm _ _ | .fcvt _ rm _ _ | .fsf _ rm _ _
  | .vcvt _ rm _ _ _ | .vsf _ rm _ _ _ => some rm
  | .vadd md _ _ _ _ | .vsub md _ _ _ _ | .vmul md _ _ _ _ | .vfma md _ _ _ _ _ => match md with
    | .fp _ rm => some rm
    | _ => none
  | _ => none

/-- Does the instruction read or step `%seed`, by name or by stochastic rounding (R74, R120)? -/
def usesSeed (frm : W32) (i : Instr) : Bool :=
  ((rmField i).map fun rm => decide (rmEff rm frm = .sr)).getD false || (match i with
    | .mfs _ n | .mts n _ => n.toNat = 0x13
    | _ => false)

/-- Every register the instruction reads or writes (R90). -/
def namesOf (i : Instr) : List RName := (vregsOf i).map .v ++ scalarsOf i

/-- A result that comes n cycles after issue is written now and not readable before (R90). -/
def Agent.later (g : Agent) (r : RName) (until_ : Nat) : Agent := { g with busy := g.busy ++ [(r, until_)] }

/-! ## Issue units (R55) -/

inductive IUnit where
  | plain | vector | matrix | symbol
  deriving DecidableEq, Repr

/-- The unit by major opcode: 0x50-0x6F vector, 0x70-0x77 matrix, 0x80-0x8A tree or symbol (R55); VMEAN and XMEAN, 0x7A and 0x7B,
issue in the vector slot (R155, R156). -/
def unitOf (w : Word) : IUnit :=
  let m := (major w).toNat
  if (0x50 ≤ m ∧ m ≤ 0x6F) ∨ m = 0x7A ∨ m = 0x7B then .vector else if 0x70 ≤ m ∧ m ≤ 0x77 then .matrix else if (0x80 ≤ m ∧ m ≤ 0x8A) ∨ m = 0x7C then .symbol
  else .plain

/-- The class an instruction counts in (R89). -/
def classOf : Instr → Option Cls
  | .ld .. | .vld .. | .vgath .. | .ldp .. | .atom .. | .monw .. => some .loads
  | .st .. | .vst .. | .vscat .. | .stp .. | .psetEmpty .. | .psetPoison .. | .tlinc .. | .sqput .. => some .stores
  | .mldb .. | .mldc .. | .mst .. => some .copies
  | .mma .. | .mzero .. | .mswp | .vchain .. => some .tiles
  | _ => none

end Sys2Proof.Machine
end

