-- ==== Sys2Proof/Machine/Chunks.lean ====
section
/-! DEFINITION. Chimes (11 R199 to R201), tensors (01 R27, R28) and chunks (11 R202): identity and part chime of the bytes that a
transfer carries. -/

namespace Sys2Proof.Machine

open Sys2Proof

/-! ## Chimes -/

/-- P of R199. -/
def chimeP : Nat := 2 ^ 61 - 1

/-- The mode of a format (R201). -/
def chimeLinear (f : Nat) : Bool := (9 ≤ f && f ≤ 13) || f = 21 || f = 23 || f = 27

/-- The integer value of an element of a linear-mode format; MX-INT8 counts as INT8, TERN2 code 10 as 0. -/
def linValue (f x : Nat) : Int :=
  match fmtElem f with
  | 9 => signedOf 16 x
  | 10 => signedOf 8 x
  | 11 => (x % 256 : Nat)
  | 12 => signedOf 4 x
  | 13 => (x % 16 : Nat)
  | 27 => if x % 4 = 1 then 1 else if x % 4 = 3 then -1 else 0
  | _ => (x : Nat)

/-- One term's reading (R199). -/
def chimeTerm (lin : Bool) (f x : Nat) : Nat :=
  if lin then (linValue f x % (chimeP : Int)).toNat else x % 2 ^ fmtWidth f

/-- Σ (i + 1) · u over terms from index i on, mod P. -/
def chimeSum : Nat → List Nat → Nat
  | _, [] => 0
  | i, u :: t => ((i + 1) * u + chimeSum (i + 1) t) % chimeP

/-- The chime word of n elements of a format with their scale bytes behind (R199, R200). -/
def chimeWord (lin : Bool) (f n : Nat) (bytes : List Byte) (scales : List Byte) : Word :=
  let us := (List.range n).map fun i => chimeTerm lin f (elemAt bytes (fmtWidth f) i)
  BitVec.ofNat 64 (b2n lin * 2 ^ 61 + chimeSum 0 (us ++ scales.map (·.toNat)))

/-- Rows, columns and format of a TILE word's payload; its elements, element bytes and size in all (R24). -/
def tileRows (w : Word) : Nat := bits w.toNat 20 7 + 1
def tileFmt (w : Word) : Nat := bits w.toNat 27 5
def tileCols (w : Word) : Nat := bits w.toNat 13 7 + 1

/-- Bytes of an n-element payload of a format, its scales behind at the next byte boundary (R24). -/
def payloadBytes (f n : Nat) : Nat := elemBytes (fmtWidth f) n + (if fmtBlock f = 0 then 0 else n / fmtBlock f)

def tileElems (w : Word) : Nat := tileRows w * tileCols w
def tileBytes (w : Word) : Nat := payloadBytes (tileFmt w) (tileElems w)

/-- The chime word of a tile payload (R201). -/
def payloadChime (w : Word) (l : List Byte) : Word :=
  let f := tileFmt w
  let e := elemBytes (fmtWidth f) (tileElems w)
  chimeWord (chimeLinear f) f (tileElems w) (l.take e) ((l.drop e).take (tileBytes w - e))

def condemnedChime (c : Word) : Bool := bits c.toNat 61 3 = 7
/-- A condemned chime word (R200). -/
def condemnedWord : Word := 0xE000000000000000#64

/-- Chunk identity of a tile payload (R202). -/
def tileChunk (part cell : Nat) : Word := BitVec.ofNat 64 (part % 4096 * 2 ^ 52 + 0xFFFFF * 2 ^ 32 + cell)

/-! ## Tensor descriptors (R27, R28) -/

/-- A tensor as its descriptor gives it. -/
structure Tensor where
  base : Nat
  chimes : Nat
  sizes : List Nat
  fmt : Nat
  rank : Nat
  sdim : Nat
  slen : Nat
  deriving DecidableEq, Repr

/-- A descriptor's fields, none where it is invalid. -/
def tensorOf (d : List Byte) : Option Tensor :=
  let base := leAt d 0 8
  let ch := leAt d 8 8
  let sizes := (List.range 5).map fun i => leAt d (16 + 4 * i) 4
  let f := leAt d 36 1
  let sh := leAt d 37 1
  let rank := sh % 8
  let sdim := sh / 8 % 8
  if 2 ^ 55 ≤ base ∨ ch = 0 ∨ ch % 8 ≠ 0 ∨ 27 < f ∨ rank = 0 ∨ 5 < rank ∨ rank ≤ sdim ∨ 64 ≤ sh ∨
      (sizes.take rank).any (· = 0) ∨ (sizes.drop rank).any (· ≠ 0) ∨ !isZeroB (sliceB d 38 2) ∨ !isZeroB (d.drop 44) then none
  else some ⟨base, ch, sizes, f, rank, sdim, leAt d 40 4⟩

/-- Is the selector of a TENSOR word valid for its tensor (R28)? -/
def Tensor.sliceOk (t : Tensor) (sel : Nat) : Bool :=
  sel = 0 || (t.slen ≠ 0 && (sel - 1) * t.slen < t.sizes.getD t.sdim 0)

/-! ## Tensor chunks (R27, R202) -/

def Tensor.count (t : Tensor) : Nat := (t.sizes.take t.rank).foldl (· * ·) 1
def Tensor.elemBytes (t : Tensor) : Nat := ceilDiv (t.count * fmtWidth t.fmt) 8
def Tensor.scaleBytes (t : Tensor) : Nat := if fmtBlock t.fmt = 0 then 0 else t.count / fmtBlock t.fmt
/-- The scales begin at the next 64-byte boundary behind the elements; it is counted from the tensor's base, also where that is no multiple
of 64 (DESIGN CHOICE, log 19: R27 asks for no alignment of it). -/
def Tensor.scaleOff (t : Tensor) : Nat := ceilDiv t.elemBytes 64 * 64
def Tensor.elemChunks (t : Tensor) : Nat := ceilDiv t.elemBytes 4096

/-- Chunks with a byte in n bytes at a virtual address. -/
def Tensor.chunksIn (t : Tensor) (va n : Nat) : List Nat :=
  let hit := fun (lo hi : Nat) => decide (lo < va + n ∧ va < hi)
  ((List.range t.elemChunks).filter fun c => hit (t.base + 4096 * c) (t.base + min (4096 * (c + 1)) t.elemBytes)) ++
    ((List.range (ceilDiv t.scaleBytes 4096)).filter fun c =>
      hit (t.base + t.scaleOff + 4096 * c) (t.base + t.scaleOff + min (4096 * (c + 1)) t.scaleBytes)).map (· + t.elemChunks)

/-- The chime word of a chunk from memory, none where it cannot be read. -/
def Tensor.chunkChime (t : Tensor) (s : State) (asid c : Nat) : Option Word :=
  if c < t.elemChunks then
    let w := fmtWidth t.fmt
    let i0 := ceilDiv (32768 * c) w
    let i1 := min (ceilDiv (32768 * (c + 1)) w) t.count
    let b0 := i0 * w / 8
    let b1 := ceilDiv (i1 * w) 8
    (readVa s asid (t.base + b0) (b1 - b0)).map fun l =>
      let v := leNat l
      let us := (List.range (i1 - i0)).map fun i => chimeTerm (chimeLinear t.fmt) t.fmt (v / 2 ^ ((i0 + i) * w - 8 * b0) % 2 ^ w)
      BitVec.ofNat 64 (b2n (chimeLinear t.fmt) * 2 ^ 61 + chimeSum 0 us)
  else
    let k := c - t.elemChunks
    let n := min 4096 (t.scaleBytes - 4096 * k)
    (readVa s asid (t.base + t.scaleOff + 4096 * k) n).map fun l => BitVec.ofNat 64 (chimeSum 0 (l.map (·.toNat)))

/-- Chunk identity (R202): of a tensor that the identifier's partition names in its descriptor table. One that no table names has no
index and no identity, and is chunk 0 (log 19). -/
def chunkId (s : State) (asid desc c : Nat) : Word :=
  match s.parts.find? fun e => e.2.asid = asid with
  | none => 0
  | some (n, p) =>
    let d := p.desc.toNat
    if d ≤ desc ∧ (desc - d) % 64 = 0 ∧ (desc - d) / 64 < p.ndesc then BitVec.ofNat 64 (n % 4096 * 2 ^ 52 + (desc - d) / 64 * 2 ^ 32 + c) else 0

/-! ## What a transfer carries (R199, R202) -/

/-- Terms of a part chime: elements of width w from bit `pos` of a chunk's stream on, those that lie whole within the bytes
l at byte `off`, each at its index from `i0`. -/
def partSum (lin : Bool) (f w off i0 n : Nat) (l : List Byte) : Nat :=
  let v := leNat l
  let lo := ceilDiv (8 * off) w
  let hi := min ((8 * (off + l.length)) / w) (i0 + n)
  sumNat ((List.range (hi - max lo i0)).map fun k =>
    let i := max lo i0 + k
    (i - i0 + 1) * chimeTerm lin f (v / 2 ^ (i * w - 8 * off) % 2 ^ w) % chimeP) % chimeP

/-- The part chime of bytes l at offset `off` of a tile's slot: elements, and scale bytes behind them (R199). -/
def tilePart (w : Word) (off : Nat) (l : List Byte) : Word :=
  let f := tileFmt w
  let n := tileElems w
  let e := elemBytes (fmtWidth f) n
  let els := partSum (chimeLinear f) f (fmtWidth f) off 0 n (l.take (e - off))
  let scs := ((List.range l.length).filter fun i => e ≤ off + i && off + i < tileBytes w).map fun i =>
    (n + (off + i - e) + 1) * (l.getD i 0).toNat % chimeP
  BitVec.ofNat 64 (b2n (chimeLinear f) * 2 ^ 61 + (els + sumNat scs) % chimeP)

/-- The part chime of bytes l at virtual address va within chunk c of a tensor. -/
def Tensor.part (t : Tensor) (c va : Nat) (l : List Byte) : Word :=
  if c < t.elemChunks then
    let w := fmtWidth t.fmt
    let i0 := ceilDiv (32768 * c) w
    let i1 := min (ceilDiv (32768 * (c + 1)) w) t.count
    BitVec.ofNat 64 (b2n (chimeLinear t.fmt) * 2 ^ 61 + partSum (chimeLinear t.fmt) t.fmt w (va - t.base) i0 (i1 - i0) l)
  else
    let base := t.base + t.scaleOff + 4096 * (c - t.elemChunks)
    BitVec.ofNat 64 (partSum false 0 8 (va - base) 0 4096 l)

/-- The tensor of a partition's descriptor table that holds a byte, with its index and the chunk. -/
def tensorAt (s : State) (p : Part) (va : Nat) : Option (Nat × Tensor × Nat) :=
  (List.range p.ndesc).findSome? fun i =>
    match (readVa s p.asid (p.desc.toNat + 64 * i) 64).bind tensorOf with
    | none => none
    | some t => ((t.chunksIn va 1).head?).map fun c => (i, t, c)

/-- The first core of the partition that holds a cell of the row. -/
def firstOf (s : State) (cell : Nat) : Nat := ((s.parts.find? fun e => e.1 ≤ cell / 64 && cell / 64 < e.1 + e.2.size).map (·.1)).getD 0

/-- Identity and part chime of bytes at a place: of a tile's payload, of a tensor that the partition names; of other data the
chunk is 0, and its chime word is free (log 19). -/
def carried (s : State) (n : Option Nat) (place : Place) (va : Nat) (l : List Byte) : Word × Word :=
  let other := (0#64, Config.freeWord s.free)
  let tensor := match n, n.bind s.part with
    | some n, some p => (match tensorAt s p va with
      | none => other
      | some (i, t, c) => (BitVec.ofNat 64 (n % 4096 * 2 ^ 52 + i * 2 ^ 32 + c), t.part c va l))
    | _, _ => other
  match place with
  | .here k =>
    if isSpad k then
      let off := (k - 2 ^ 42) % Config.scratchBytes
      let cell := 64 * spadCore k + off / 4096
      if off < Config.slotsEnd ∧ symKind (s.cell cell) = 8 then (tileChunk (firstOf s cell) cell, tilePart (s.cell cell) (off % 4096) l) else other
    else tensor
  | _ => tensor

/-- The partition whose live program has an address space identifier. -/
def partOf (s : State) (asid : Nat) : Option Nat := (s.parts.find? fun e => e.2.asid = asid).map (·.1)

end Sys2Proof.Machine
end

