-- ==== Sys2Proof/Machine/Hop.lean ====
section
/-! DEFINITION. Hop identifiers and the units of a path (00 R7, 11 R204, 14 R248), checks, blame and the error log (11 R205 to
R208), injections (R215). -/

namespace Sys2Proof.Machine

open Sys2Proof

/-! ## Hop identifiers (R204) -/

def hopKind (h : W32) : Nat := bits h.toNat 28 4
def hopDie (h : W32) : Nat := bits h.toNat 26 2
def hopLow (h : W32) : Nat := bits h.toNat 0 16
/-- The core that the die, x and y fields name. Cores of a die are taken as numbered along x first (log 17). -/
def hopCore (h : W32) : Nat := 1024 * hopDie h + 32 * bits h.toNat 16 5 + bits h.toNat 21 5

def coreHop (kind core low : Nat) : W32 :=
  BitVec.ofNat 32 (kind * 2 ^ 28 + core / 1024 * 2 ^ 26 + core % 32 * 2 ^ 21 + core / 32 % 32 * 2 ^ 16 + low)
def dieHop (kind die low : Nat) : W32 := BitVec.ofNat 32 (kind * 2 ^ 28 + die * 2 ^ 26 + low)

/-- The Carillon node of a level above a cell. -/
def nodeHop (level cell : Nat) : W32 :=
  if level ≤ 6 then coreHop 2 (cell / 64) (level * 2048 + cell % 64 / 2 ^ level)
  else if level ≤ 16 then dieHop 2 (cell / 65536) (level * 2048 + cell % 65536 / 2 ^ level)
  else dieHop 2 0 (level * 2048 + cell / 2 ^ level)

/-- The lowest level whose node covers both cells. -/
def joinLevel (a b : Nat) : Nat := ((List.range 18).filter fun l => a / 2 ^ l ≠ b / 2 ^ l).length

/-- Carillon nodes on the way from one cell to another; a payload that stays in its cell passes the node above it, for a
node checks every payload that is placed (R205). -/
def nodesBetween (a b : Nat) : List W32 :=
  let l := max 1 (joinLevel a b)
  ((List.range l).map fun i => nodeHop (i + 1) a) ++ ((List.range (l - 1)).reverse.map fun i => nodeHop (i + 1) b)

/-- Carillon nodes at which partials of two sets of these cells meet, lowest level first: the reduction steps of a merge. -/
def mergeNodes (cells : List Nat) : List W32 :=
  (List.range (joinLevel (cells.headD 0) (cells.getLastD 0))).flatMap fun i =>
    ((cells.map (· / 2 ^ i)).eraseDups.filter fun c => c % 2 = 1 && cells.any fun d => d / 2 ^ i + 1 = c).map fun c =>
      nodeHop (i + 1) (c * 2 ^ i)

/-- Units that lie in a core. -/
def coreKind (k : Nat) : Bool := k = 0 || (9 ≤ k && k ≤ 11) || 13 ≤ k

/-- Does the identifier name a present unit (R204, R215)? -/
def hopPresent (s : State) (h : W32) : Bool :=
  let k := hopKind h
  let low := hopLow h
  let bare := bits h.toNat 16 10 = 0
  -- of a memory channel or bank a lasting fault takes rows, lines or pages, never the unit (R209)
  let gone := s.dev.faultMap.contains h && !((6 ≤ k && k ≤ 8) || k = 12)
  if coreKind k then !(s.core (hopCore h)).removed && (if k = 0 then low < 8 else low = 0)
  else if gone then false
  else match k with
    | 1 => bare && low < 4 && hopDie h = 0
    | 2 =>
      let level := low / 2048
      let idx := low % 2048
      if 1 ≤ level ∧ level ≤ 6 then !(s.core (hopCore h)).removed && idx < 64 / 2 ^ level
      else if 7 ≤ level ∧ level ≤ 16 then bare && idx < 65536 / 2 ^ level
      else (level = 17 || level = 18) && bare && hopDie h = 0 && idx < Config.cells / 2 ^ level
    | 3 => bare && low < 64 && hopDie h = low / 16
    | 4 | 5 => bare && low < 12 && hopDie h = 0
    | 6 | 7 => bare && low < 64
    | 8 => bare && low < 256
    | 12 => bare && low < 2
    | _ => false

/-! ## Paths -/

/-- Column and row of a core in the package's mesh: dies as in R248, the cores of a die along x first (log 17). -/
def meshX (core : Nat) : Nat := 32 * (core / 1024 % 2) + core % 32
def meshY (core : Nat) : Nat := 32 * (core / 2048) + core / 32 % 32
def meshCore (x y : Nat) : Nat := 1024 * (x / 32 + 2 * (y / 32)) + 32 * (y % 32) + x % 32

/-- The bridge between two dies that it joins (R248). -/
def bridgeHop (d e : Nat) : W32 :=
  let lo := min d e
  let hi := max d e
  dieHop 1 0 (if lo = 0 then hi - 1 else if lo = 1 then 2 else 3)

/-- Bridges from die to die, X first (R7, R248). -/
def bridges (d e : Nat) : List W32 :=
  let m := d / 2 * 2 + e % 2
  (if d = m then [] else [bridgeHop d m]) ++ (if m = e then [] else [bridgeHop m e])

/-- A router's output towards a direction: 0 its own core, 1 to 4 along +x, -x, +y, -y, 5 and up the units of a die. Which of
its ports that is, is free (log 17). -/
def outHop (core dir : Nat) : W32 := coreHop 0 core (Config.routerPort dir).toNat

/-- From one coordinate up or down to another, the last one left out. -/
def lineTo (a b : Nat) : List Nat := if a ≤ b then (List.range (b - a)).map (a + ·) else (List.range (a - b)).map (a - ·)

/-- Routers and bridges from a core to another: X first, then Y, also across bridges (R7). -/
def route (src dst : Nat) : List W32 :=
  let x0 := meshX src
  let y0 := meshY src
  let x1 := meshX dst
  let y1 := meshY dst
  let leg := fun (c d dir : Nat) => outHop c dir :: bridges (c / 1024) (d / 1024)
  ((lineTo x0 x1).flatMap fun x => leg (meshCore x y0) (meshCore (if x0 < x1 then x + 1 else x - 1) y0) (if x0 < x1 then 1 else 2)) ++
    ((lineTo y0 y1).flatMap fun y => leg (meshCore x1 y) (meshCore x1 (if y0 < y1 then y + 1 else y - 1)) (if y0 < y1 then 3 else 4)) ++
    [outHop dst 0]

/-- Channels and cache banks of n bytes from an address on: by 256-byte granules over the die's 64 channels (R162), each with the banks of
its lines (R163). Which of its 256 banks a die's cache keeps a line in is free (log 17). -/
def memUnits (kind die pa n : Nat) : List W32 :=
  (List.range ((pa + n - 1) / 256 - pa / 256 + 1)).flatMap fun i =>
    let granule := pa / 256 + i
    let lo := max pa (256 * granule) / 64
    let hi := min (pa + n - 1) (256 * granule + 255) / 64
    dieHop kind die (granule % 64) :: (List.range (hi + 1 - lo)).map fun j => dieHop 8 die (Config.cacheBank (kind = 7) (lo + j)).toNat

/-- The units at the memory end of n bytes at a place, the one that holds the bytes first, and its die: links, ports and
ringers stand on die 0, as their hop identifiers say (log 17). -/
def homeUnits (s : State) (p : Place) (n : Nat := 1) : List W32 × Option Nat :=
  match p with
  | .here k =>
    if isSpad k then ([coreHop 9 (spadCore k) 0], some (spadCore k / 1024))
    else if k < 2 ^ 41 then (memUnits 6 (k / 2 ^ 37) k n, some (k / 2 ^ 37))
    else
      let pa := k - 2 ^ 41
      (memUnits 7 (pa / (384 * 2 ^ 30)) pa n, some (pa / (384 * 2 ^ 30)))
  | .host k => ([dieHop 12 0 (bits k 47 1)], some 0)
  | .peer slot _ => (match peerPort s slot with
    | some g => [dieHop 5 0 g]
    | none => [], some 0)

/-- Units in the order in which data passes them on its way from a place to a core, or from a core to a place. Where the units of a
die and the links stand in the mesh is not given: of the way between them and a core only the core's router and the bridges
are named (log 17). -/
def pathUnits (s : State) (core : Nat) (p : Place) (out : Bool) (n : Nat := 1) : List W32 :=
  let h := homeUnits s p n
  let far : Option Nat := match p with
    | .here k => if isSpad k then some (spadCore k) else none
    | _ => none
  match far with
  | some c => if c = core then [coreHop 9 core 0] else if out then route core c ++ h.1 else h.1 ++ route c core
  | none =>
    let br := fun (a b : Nat) => bridges a b
    if out then outHop core (5 + hopKind (h.1.headD 0)) :: (br (core / 1024) (h.2.getD (core / 1024)) ++ h.1.reverse)
    else h.1 ++ br (h.2.getD (core / 1024)) (core / 1024) ++ [outHop core 0]

/-- A fenced unit holds every request that needs it (R208). -/
def fencedOn (s : State) (us : List W32) : Bool := s.dev.tests.any fun t => us.contains t.unit

/-! ## Blame and the error log (R206 to R208) -/

/-- Self-test time in ns (R204). -/
def testNs (kind : Nat) : Nat :=
  match kind with
  | 0 | 1 | 5 | 12 => 2000
  | 2 => 1000
  | 3 | 4 | 10 | 11 => 8000
  | _ => 5000

/-- Address of a log entry (R207). -/
def logKey (s : State) (n : Nat) : Nat := hbmKey (s.dev.elog.toNat + 64 * (n % 65536))

/-- Fence the unit and start its test; an entry of a unit under test joins the test in progress (R208). The outcome of
an unforced test is the hardware's: a free value (log 19). -/
def startTest (s : State) (unit : W32) (entry : Nat) (forced : Option Bool) : State :=
  if s.dev.tests.any fun t => t.unit = unit then
    s.modDev fun d => { d with tests := mapIf (fun t => t.unit = unit) (fun t => { t with entries := t.entries ++ [entry] }) d.tests }
  else
    let t : Test := ⟨unit, [entry], forced, s.cycle⟩
    let s1 := { s with free := s.free + 1 }.modDev fun d => { d with tests := d.tests ++ [t] }
    sched s1 (nsCycles (testNs (hopKind unit))) (.selfTestComplete unit (forced.getD (!(Config.freeWord s.free).getLsbD 0)))

/-- Flags of entry n: valid, and whether it takes the place of one that the management plane has not cleared, which is lost
(R207, R10, log 19). -/
def entryFlags (s : State) (n : Nat) : Nat := 1 + 2 * b2n (bit (rdNat s (logKey s n + 2) 2) 0)

/-- An entry that is no blamed event: no unit is fenced or tested for it (R252, R268, R297, R298). -/
def logOnly (s : State) (cause : Nat) (unit : W32) (node : Nat) : State :=
  let n := s.dev.eidx.toNat
  let bytes := toLe 2 cause ++ toLe 2 (entryFlags s n) ++ of32 unit ++ zerosB 8 ++ toLe 4 node ++ zerosB 4 ++ ofWord s.time
    ++ zerosB 32
  (wr s (logKey s n) bytes).modDev fun d => { d with eidx := d.eidx + 1 }

/-- Hop identifiers of a ringer and of its port; they lie outside the cores, and their die field is 0 (log 17). -/
def ringerHop (g : Nat) : W32 := dieHop 4 0 g
def portHop (g : Nat) : W32 := dieHop 5 0 g

/-- What a blamed event is about (R207). -/
structure Event where
  event : Nat
  chunk : Word
  node : Nat
  rid : Nat
  expected : Word
  found : Word
  spot : Word
  forced : Option Bool
  /-- the memory key of the bytes, 0 where there is none -/
  key : Nat

/-- Write the entry, fence and test the unit (R207, R208). -/
def blame (s : State) (unit : W32) (e : Event) : State × Blame :=
  let n := s.dev.eidx.toNat
  let cause := 0x100 + 4 * hopKind unit + e.event
  -- a memory names the row that held the bytes, by the hardware's own count (log 19)
  let spot := if e.spot = 0 ∧ e.key ≠ 0 ∧ 6 ≤ hopKind unit ∧ hopKind unit ≤ 9 then Config.memoryRow e.key else e.spot
  let bytes := toLe 2 cause ++ toLe 2 (entryFlags s n) ++ of32 unit ++ ofWord e.chunk ++ toLe 4 e.node ++ toLe 4 e.rid
    ++ ofWord s.time ++ ofWord e.expected ++ ofWord e.found ++ ofWord spot ++ zerosB 8
  let s1 := (wr s (logKey s n) bytes).modDev fun d => { d with eidx := d.eidx + 1 }
  (startTest s1 unit n e.forced, ⟨cause, n, unit, e.chunk⟩)

/-- The event that an armed injection makes of genuine data (R215). -/
def Injection.toEvent (i : Injection) (e : Event) : Event :=
  if i.mode = 1 then { e with event := 1, found := e.expected }
  else { e with event := 0, found := e.expected ^^^ 1#64, forced := if i.mode = 2 then some true else if i.mode = 3 then some false else none }

/-- Pass the units of a path (R205): the first armed one, or the first one at all on a genuine mismatch, is blamed; behind it no unit
checks (R206). -/
def transit (s : State) (us : List W32) (e : Event) : State × Option Blame :=
  let checking := if e.expected = e.found then us else us.take 1
  match checking.findSome? fun u => s.dev.injections.find? fun i => i.unit = u with
  | some i =>
    let s1 := s.modDev fun d => { d with injections := d.injections.filter fun j => j.unit ≠ i.unit }
    let r := blame s1 i.unit (i.toEvent e)
    (r.1, some r.2)
  | none =>
    if e.expected = e.found then (s, none)
    else match us with
      | [] => (s, none)
      | u :: _ => let r := blame s u { e with event := 0 }; (r.1, some r.2)

/-- Data whose chime words the spec does not let one compute: genuine, with a free chime word (log 19). -/
def genuine (s : State) (chunk : Word) (node rid : Nat) : Event :=
  ⟨0, chunk, node, rid, Config.freeWord s.free, Config.freeWord s.free, 0, none, 0⟩

/-- Genuine data of a partition at a place: its chunk and part chime (R199, R202). -/
def genuineAt (s : State) (n : Option Nat) (place : Place) (va : Nat) (l : List Byte) (node rid : Nat) : Event :=
  let c := carried s n place va l
  ⟨0, c.1, node, rid, c.2, c.2, 0, none, match place with
    | .here k | .host k => k
    | .peer _ _ => 0⟩

/-- Is the unit on a local path of the agent's area (R211)? -/
def localUnit (s : State) (g : Agent) (u : W32) : Bool :=
  if hopKind u = 2 then
    let cs := (s.agentsOf g.part g.rid).map fun h => 64 * h.core + h.slot
    (nodesBetween (cs.headD 0) (cs.getLastD 0)).contains u || (mergeNodes cs).contains u
      || (6 ≥ hopLow u / 2048 && (s.agentsOf g.part g.rid).any fun h => h.core = hopCore u)
  else coreKind (hopKind u) && (s.agentsOf g.part g.rid).any fun h => h.core = hopCore u

/-- One hop of a transfer (R205, R206): condemned data is forwarded unchecked. -/
def execChunkHop (transfer : Nat) (s : State) : Out :=
  .next (match s.dev.transfers.find? fun t => t.id = transfer with
    | none => s
    | some t => match t.hops with
      | [] => s
      | u :: rest =>
        if s.dev.tests.any fun x => x.unit = u then sched s 1 (.chunkHop transfer)
        else
          let r := if t.condemned.isSome then (s, none)
            else transit s [u] ⟨0, t.chunk, t.node, t.rid, t.expected, t.found, t.spot, none, 0⟩
          let f := fun (x : Transfer) => { x with hops := rest, condemned := r.2 <|> x.condemned }
          let s1 := r.1.modDev fun d => { d with transfers := mapIf (fun x => x.id = transfer) f d.transfers }
          if rest.isEmpty then s1 else schedFree s1 (.chunkHop transfer))

/-- Send chunk data on its way through the units of a path. -/
def sendTransfer (s : State) (us : List W32) (e : Event) (condemned : Option Blame) : State × Nat :=
  let id := s.free
  let t : Transfer := ⟨id, us, e.expected, e.found, condemned, e.chunk, e.node, e.rid, e.spot⟩
  let s1 := { s with free := s.free + 1 }.modDev fun d => { d with transfers := d.transfers ++ [t] }
  (if us.isEmpty then s1 else schedFree s1 (.chunkHop id), id)

end Sys2Proof.Machine
end

