-- ==== Sys2Proof/Machine/Access.lean ====
section
/-! DEFINITION. An agent's accesses: issue, parking (R198), ordering (R186, R187, R272, R273), performing, presence
(R170, R171), and the class counts (R89). An access is performed whole, at a free later cycle, except that an access
to the agent's own scratchpad which nothing holds back is performed as it issues (R129, R368). -/

namespace Sys2Proof.Machine

open Sys2Proof

/-! ## Class counts (R89) -/

/-- Operations retire in issue order within a class: a done one leaves once no earlier one of its class stands. -/
def retire (held : List Cls) : List ClassOp → List ClassOp
  | [] => []
  | o :: t =>
    if o.done && !(held.contains o.cls) then retire held t
    else o :: retire (o.cls :: held) t

def Agent.count (g : Agent) (c : Cls) : Nat := (g.ops.filter fun o => o.cls = c).length

def Agent.addOp (g : Agent) (c : Cls) (id : Nat) : Agent := { g with ops := g.ops ++ [⟨c, id, false⟩] }

def Agent.opDone (g : Agent) (id : Nat) : Agent :=
  { g with ops := retire [] (mapIf (fun o => o.id = id) (fun o => { o with done := true }) g.ops) }

/-! ## Ordering -/

def Place.range (p : Place) : Nat × Nat :=
  match p with
  | .here k => (0, k)
  | .host k => (0, k)
  | .peer s a => (1 + s, a)

/-- Do n bytes at p and m bytes at q share a byte? -/
def Place.overlaps (p : Place) (n : Nat) (q : Place) (m : Nat) : Bool :=
  p.range.1 = q.range.1 && p.range.2 < q.range.2 + m && q.range.2 < p.range.2 + n

def Place.far : Place → Bool
  | .here _ => false
  | .host _ | .peer _ _ => true

/-- Is the place in the scratchpad of this core? -/
def Place.own (p : Place) (core : Nat) : Bool :=
  match p with
  | .here k => isSpad k && spadCore k = core
  | _ => false

/-- A load or store of a vector register; a packet's bytes land as R403 has them. -/
def AccOp.granular : AccOp → Bool
  | .store _ | .vload _ => true
  | _ => false

/-- An access wider than a granule of 32 bytes is one of its granules each (R190, R194); a VGATH or VSCAT of its lanes (R426). -/
def Access.wide (a : Access) : Bool := 32 < a.width && a.op.granular
def Access.parts (a : Access) : Nat := if a.wide then a.width / 32 else a.vas.length
def Access.partW (a : Access) : Nat := if a.wide then 32 else a.width

/-- Positions of an access that are still to be performed: all but the lanes and granules that are done. -/
def Access.open_ (a : Access) : List Nat := (List.range a.parts).filter fun i => !a.lanes.done.contains i

/-- The location of an address of an access; that of a parked access is by a walk of the tables as they stand. -/
def locOf (s : State) (g : Agent) (a : Access) (i : Nat) : Option Loc :=
  match a.locs[i]? with
  | some l => some l
  | none => match a.vas[i]? with
    | none => none
    | some v => match resolveNow s g v .read with
      | .ok l => some l
      | .error _ => none

/-- The location of a position. -/
def locAt (s : State) (g : Agent) (a : Access) (i : Nat) : Option Loc :=
  if a.wide then (locOf s g a 0).map fun l => { l with place := l.place.plus (32 * i) } else locOf s g a i

def placeAt (s : State) (g : Agent) (a : Access) (i : Nat) : Option Place := (locAt s g a i).map (·.place)

/-- The address of a position. -/
def Access.vaAt (a : Access) (i : Nat) : Word := if a.wide then a.vas.headD 0 + BitVec.ofNat 64 (32 * i) else a.vas.getD i 0

/-- Does it wait for the walker, or for what the handler makes of its late fault (R198)? -/
def Access.stands (a : Access) : Bool := a.phase = .parked || a.phase = .faulted

/-- The places that an access is still to read or write. -/
def accPlaces (s : State) (g : Agent) (a : Access) : List Place := a.open_.filterMap (placeAt s g a)

def AccOp.isFence : AccOp → Bool
  | .fence _ => true
  | _ => false

/-- Does the access read memory, for a fence (R184)? -/
def AccOp.reads : AccOp → Bool
  | .load _ _ | .vload _ | .gather _ _ | .ldp _ | .answered _ _ | .atom _ _ _ _ _ => true
  | _ => false

def AccOp.writes : AccOp → Bool
  | .store _ | .scatter _ | .stp _ | .psetEmpty | .psetPoison _ | .atom _ _ _ _ _ | .tlinc _ | .sqput _ _ _ | .raise _ _ | .poisonEmpty _ => true
  | _ => false

/-- Is it a load, a store or an atomic for ordering (R184)? TDESC is none (R415). -/
def AccOp.orders (o : AccOp) : Bool := o.reads || o.writes

/-- Does a scope cover an access to a place (R185, R272)? -/
def scopeCovers (core : Nat) (sc : Scope) (p : Place) : Bool :=
  match sc with
  | .core => p.own core
  | .dev => !p.far
  | .sys => true

/-- The scope of an access: LDP, STP and TLINC serve `.dev`, and `.sys` beyond the device (R197, R276, R279). -/
def effScope (s : State) (g : Agent) (a : Access) : Scope :=
  match a.op with
  | .ldp _ | .answered _ _ | .stp _ | .tlinc _ => if (accPlaces s g a).any Place.far then .sys else .dev
  | _ => a.scope

/-- Does an acquire `e` hold back a later access to a place (R185, R187)? A `.core` one holds back the own scratchpad, a `.dev`
one everything; below `.sys` it orders nothing where its own word lies beyond the device (R274). -/
def acquireHolds (s : State) (g : Agent) (e : Access) (q : Place) : Bool :=
  match effScope s g e with
  | .sys => true
  | sc => !(accPlaces s g e).any Place.far && (sc = .dev || q.own g.core)

/-- What a fence holds back at a place (R185, R187): an acquiring one at `.dev` or `.sys` every later load and store. -/
def fenceHolds (core : Nat) (o : Order) (sc : Scope) (q : Place) (writes : Bool) : Bool :=
  if o = .rel then writes && scopeCovers core sc q else sc ≠ .core || q.own core

/-- Two addresses of one agent name a common byte, whether or not their page translates. -/
def vaMeets (x : Word) (n : Nat) (y : Word) (m : Nat) : Bool := x.toNat < y.toNat + m && y.toNat < x.toNat + n

/-- Must position `i` of access `a` at its place wait until the earlier access `e` has been performed? One that waits for the walker,
or has ended in a late fault, holds back its own bytes and every release beyond `.core` (R186, R198). -/
def blocksAt (s : State) (g : Agent) (e a : Access) (i : Nat) (q : Place) : Bool :=
  let pe := accPlaces s g e
  match e.op with
  | .fence o => a.op.orders && fenceHolds g.core o e.scope q a.op.writes
  | _ =>
    pe.any (fun p => p.overlaps e.partW q a.partW)
    || (e.stands && e.open_.any fun j => vaMeets (e.vaAt j) e.partW (a.vaAt i) a.partW)
    || (e.acq && a.op.orders && acquireHolds s g e q)
    || (a.rel && e.op.orders && ((e.stands && effScope s g a ≠ .core) || pe.any (scopeCovers g.core (effScope s g a))))
    || (a.acq && e.phase = .parked && !q.own g.core)

/-- The same for a fence, which has no place: beyond `.core` it waits for every access that stands (R198). -/
def blocksFence (s : State) (g : Agent) (e a : Access) (o : Order) : Bool :=
  !e.op.isFence && ((e.stands && e.op.orders && a.scope ≠ .core) ||
    ((accPlaces s g e).any (scopeCovers g.core a.scope) && (if o = .acq then e.op.reads else e.op.orders)))

/-- The positions of an access that are still to be performed, with their places. -/
def accParts (s : State) (g : Agent) (a : Access) : List (Nat × Place) :=
  a.open_.filterMap fun i => (placeAt s g a i).map fun p => (i, p)

/-- Must access `a`, at any of its places, wait for the earlier access `e`? -/
def blocks (s : State) (g : Agent) (e a : Access) : Bool :=
  match a.op with
  | .fence o => blocksFence s g e a o
  | _ => (accParts s g a).any fun x => blocksAt s g e a x.1 x.2

def earlier (id : Nat) (l : List Access) : List Access := l.takeWhile fun a => a.id ≠ id

/-- A `.sys` release or fence waits for the acknowledgments of the agent's posted writes (R272). -/
def waitsAcks (s : State) (g : Agent) (a : Access) : Bool :=
  effScope s g a = .sys && (a.rel || a.op.isFence) && !(a.op = .fence .acq)

/-- A posted write to the same bytes holds an access back (R186, R273), but for a part of an MST (R188) and for one that can be
acknowledged no more. -/
def postedAt (g : Agent) (a : Access) (q : Place) : Bool :=
  g.posted.any fun p => !p.dead && !p.async && p.place.overlaps p.bytes.length q a.partW

def postedBlocks (s : State) (g : Agent) (a : Access) : Bool :=
  (waitsAcks s g a && !g.posted.isEmpty) || (accPlaces s g a).any (postedAt g a)

/-- Local byte ranges (offset, length) of the A rows and scales that an MMA has still to take (R141). -/
def MmaOp.unread (o : MmaOp) : List (Nat × Nat) :=
  let w := fmtWidth o.fa
  let lo := o.sA + o.read * o.k * w / 8
  let blk := fmtBlock o.fa
  let sc := if blk = 0 then 0 else o.k / blk
  let mode := bits o.ascl.toNat 62 2
  let base := if mode = 1 then bits o.ascl.toNat 0 20 else o.sA + elemBytes w (o.m * o.k)
  [(lo, o.sA + elemBytes w (o.m * o.k) - lo)] ++
    (if blk = 0 ∨ mode = 2 then [] else [(base + o.read * sc, (o.m - o.read) * sc)])

/-- What the MMA of an agent issued before its numbered operation have still to take. -/
def mmaUnread (s : State) (g : Agent) (id : Nat) : List (Nat × Nat) :=
  (s.core g.core).queue.flatMap fun e => match e with
    | .mma o => if o.slot = g.slot ∧ o.id < id then o.unread else []
    | _ => []

/-- A later store of the agent to bytes that an MMA has still to take waits (R141). -/
def mmaAt (s : State) (g : Agent) (a : Access) (q : Place) : Bool :=
  a.op.writes && (mmaUnread s g a.id).any fun r => q.overlaps a.partW (.here (spadKey g.core r.1)) r.2

def mmaHolds (s : State) (g : Agent) (a : Access) : Bool := (accPlaces s g a).any (mmaAt s g a)

def mayPerform (s : State) (g : Agent) (a : Access) : Bool :=
  (earlier a.id g.outs).all (fun e => !blocks s g e a) && !postedBlocks s g a && !mmaHolds s g a

/-- May one lane of a gather or scatter, or one granule, be performed (R426, R190)? -/
def laneFree (s : State) (g : Agent) (a : Access) (i : Nat) (q : Place) : Bool :=
  (earlier a.id g.outs).all (fun e => !blocksAt s g e a i q) && !postedAt g a q && !mmaAt s g a q
    && !(waitsAcks s g a && !g.posted.isEmpty)

/-- A posted write whose port is down holds a release or fence that waits for it: that can only fault (R273). -/
def postedDead (s : State) (g : Agent) (a : Access) : Bool := waitsAcks s g a && g.posted.any (·.dead)

/-- Fences whose earlier accesses have been performed are gone. -/
def dropFences (s : State) (g : Agent) : Agent :=
  { g with outs := g.outs.filter fun a => !(a.op.isFence && mayPerform s g a) }

/-! ## Leaving the list -/

def Agent.finish (g : Agent) (id : Nat) : Agent :=
  { (g.opDone id) with outs := g.outs.filter fun a => a.id ≠ id }

/-- A change to the agent's access `id`. -/
def Agent.modOut (g : Agent) (id : Nat) (f : Access → Access) : Agent :=
  { g with outs := mapIf (fun a => a.id = id) f g.outs }

/-- The agent's access `id` is over: out of the list, counted out, fences re-examined. -/
def finishAccess (s : State) (key id : Nat) : State :=
  match s.agent key with
  | none => s
  | some g => let h := g.finish id; s.setAgent key (dropFences s h)

/-- The kind of an access, for its causes (R159). -/
def AccOp.kind : AccOp → Nat
  | .load _ _ | .vload _ | .tdesc _ | .block _ => kLoad
  | .store _ | .sqput _ _ _ | .fence _ => kStore
  | .atom _ _ _ _ _ | .tlinc _ | .raise _ _ => kAtomic
  | .ldp _ | .answered _ _ => kPLoad
  | .stp _ | .psetEmpty | .psetPoison _ | .poisonEmpty _ => kPStore
  | .gather _ _ | .scatter _ => kGather

/-- The access ends in a late fault (R436). One that RESUME issues again alone (R198, R227) stays in the list, out of the
count, until then. -/
def failWith (s : State) (g : Agent) (a : Access) (t : Trap) (alone : Bool) : State :=
  let s1 := if alone then s.setAgent g.key ((g.opDone a.id).modOut a.id fun x => { x with phase := .faulted }) else finishAccess s g.key a.id
  lateFault s1 g.key ⟨t, if alone then some a.id else none, true⟩

def failAccess (s : State) (g : Agent) (a : Access) (cause : Nat) (addr : Word) (lane : Nat := 0xFFFFFFFF)
    (alone : Bool := false) : State :=
  failWith s g a { a.tr with cause := cause, addr := addr, lane := lane } alone

/-- SKIP drops an access that ended in a late fault (R198). -/
def Agent.dropFaulted (g : Agent) (id : Nat) : Agent :=
  { g with outs := g.outs.filter fun a => !(a.id = id && a.phase = .faulted) }

/-- What the page must be for the operation, beyond the walk (R170, R326): the cause otherwise. -/
def locCheck (op : AccOp) (l : Loc) : Option Nat :=
  match op with
  | .ldp _ => if l.sa then none else some 0x9C
  | .stp _ | .psetEmpty | .psetPoison _ => if l.sa then none else some 0xA4
  | .atom _ _ _ _ _ => match l.place with
    | .host _ => some 0x91
    | _ => none
  | _ => none

def AccOp.want : AccOp → Want
  | .store _ | .scatter _ | .atom _ _ _ _ _ | .tlinc _ | .sqput _ _ _ | .raise _ _ => .write
  | .stp _ | .psetEmpty | .psetPoison _ | .poisonEmpty _ => .pwrite
  | _ => .read

/-! ## Presence (R169 to R171) -/

def State.presenceOf (s : State) (pa : Nat) : Option Presence := Tbl.find s.presence pa

/-- HBM channel of an address: die and 256-byte granule (R162). -/
def channelOf (pa : Nat) : Nat := 64 * (pa / 2 ^ 37) + pa / 256 % 64

/-- Room in the channel's deferral table (R171)? -/
def deferralRoom (s : State) (pa : Nat) : Bool :=
  (s.deferred.filter fun d => channelOf d.pa = channelOf pa).length < Config.deferralLimit

/-- A deferred read that its answer has reached. -/
def Access.answer (a : Access) (v : Word) : Access :=
  match a.op with
  | .ldp d => { a with op := .answered d v, phase := .moving }
  | _ => a

/-- Send the answer of a presence read to whoever asked (R170, R197, R49, R251); a peer is told whether the word was POISON on arrival. -/
def answerAsker (s : State) (v : Word) (who : Asker) (poison : Bool := false) : State :=
  match who with
  | .agent c k id =>
    schedFree (s.modAgent (agentKey c k) fun g => g.modOut id fun a => a.answer v) (.loadDataReturn c k id)
  | .record n r i => schedFree s (.presenceAnswer n r i v)
  | .peer p id => { s with outbox := s.outbox ++ [.answer p id v poison] }

/-- Answer every armed read of a word, in arrival order. -/
def answerAll (s : State) (pa : Nat) (v : Word) : State :=
  let mine := s.deferred.filter fun d => d.pa = pa
  let s1 := { s with deferred := s.deferred.filter fun d => d.pa ≠ pa }
  mine.foldl (fun t d => answerAsker t v d.who) s1

/-- A presence read at its bank: test and arming are one operation (R48, R170). A full table turns it back. -/
def presenceRead (s : State) (pa : Nat) (who : Asker) : State :=
  match s.presenceOf pa with
  | some st => answerAsker s (leWord (rd s (hbmKey pa) 8)) who (st = .poison)
  | none =>
    if deferralRoom s pa then { s with deferred := s.deferred ++ [⟨pa, who⟩] }
    else match who with
      | .peer p id => { s with outbox := s.outbox ++ [.turnedBack p id] }
      | _ => sched s (nsCycles 1000) (.deferralRetry who)

/-- Fill or poison a word (R170). -/
def presenceWrite (s : State) (pa : Nat) (st : Presence) (v : Word) : State :=
  let s1 := { wr s (hbmKey pa) (ofWord v) with presence := Tbl.put s.presence pa st }
  answerAll s1 pa v

def presenceClear (s : State) (pa : Nat) : State :=
  { wr s (hbmKey pa) (zerosB 8) with presence := Tbl.drop s.presence pa }

/-! ## Atomics (R325) -/

/-- New value of an atomic on 8n-bit words, or none where nothing is written. -/
def atomNew (fn : AtomFn) (n : Nat) (old b c : Nat) : Option Nat :=
  let m := 2 ^ (8 * n)
  let sb := b % m
  let sg := fun (x : Nat) => signedOf (8 * n) x
  match fn with
  | .add => some ((old + sb) % m)
  | .and => some (old &&& sb)
  | .or => some (old ||| sb)
  | .xor => some (old ^^^ sb)
  | .smin => some (if sg old ≤ sg sb then old else sb)
  | .smax => some (if sg sb ≤ sg old then old else sb)
  | .umin => some (min old sb)
  | .umax => some (max old sb)
  | .swap => some sb
  | .cas => if old = c % m then some sb else none
  | .fadd => some (addRne (BitVec.ofNat 32 old) (BitVec.ofNat 32 sb)).1.toNat

/-- Saturating addition of TLINC (R281). -/
def satAdd64 (a b : Nat) : Nat := min (a + b) (2 ^ 64 - 1)

/-! ## Performing -/

def firstPlace (a : Access) : Option Place := (a.locs.head?).map (·.place)

/-- Is the access one that goes to a peer? -/
def toPeer (a : Access) : Option (Nat × Nat) :=
  match firstPlace a with
  | some (.peer sl pa) => some (sl, pa)
  | _ => none

/-- What a read of an aligned place finds: a word of a single-assignment page that is EMPTY reads as 0 (R169, R170). -/
def readLoc (s : State) (l : Loc) (n : Nat) : List Byte :=
  match l.sa, l.place with
  | true, .here k => (List.range n).map fun i => if (s.presenceOf ((k + i) / 8 * 8)).isSome then Mem.get s.mem (k + i) else 0#8
  | _, p => rdPlace s p n

/-- Write the result of a read into its register. -/
def loadResult (g : Agent) (op : AccOp) (width : Nat) (data : List (List Byte)) : Agent :=
  let one := data.headD []
  match op with
  | .load z d => g.setS d (ldExtend z (leNat one))
  | .vload d => g.setV d (lanesOfBytes one)
  | .gather d k => g.setV d (Vector.ofFn fun i : Fin 32 =>
      if lane k i.val then BitVec.ofNat 32 (leNat (data.getD i.val [])) else (g.vr d)[i])
  | .ldp d | .tdesc d => g.setS d (leWord one)
  | .answered d v => g.setS d v
  | .atom _ _ d _ _ => g.setS d (BitVec.ofNat 64 (leNat (one.take width)))
  | _ => g

/-- Perform an access at its home, whole. -/
def perform (s : State) (g : Agent) (a : Access) : State :=
  let key := g.key
  let done := fun (t : State) => finishAccess t key a.id
  let result := fun (t : State) (h : Agent) => done (t.setAgent key h)
  match a.op, a.locs with
  | .fence _, _ => done s
  | .answered d v, _ => result s (g.setS d v)
  | .load _ _, l :: _ | .vload _, l :: _ | .tdesc _, l :: _ =>
    result s (loadResult g a.op a.width [readLoc s l a.width])
  | .gather _ _, ls => result s (loadResult g a.op a.width (ls.map fun l => readLoc s l 4))
  | .atom fn is64 d b c, l :: _ =>
    let n := atomBytes is64
    let old := leNat (rdPlace s l.place n)
    let s1 := match atomNew fn n old b.toNat c.toNat with
      | some v => wrPlace s l.place (toLe n v)
      | none => s
    result s1 (g.setS d (BitVec.ofNat 64 old))
  | .ldp _, ⟨.here pa, _⟩ :: _ =>
    if s.presenceOf pa = some .poison ∧ (s.pcb g.part).pflags.getLsbD 0 then failAccess s g a 0x9D (a.vas.headD 0)
    else
      let s1 := s.setAgent key (g.modOut a.id fun x => { x with phase := .armed })
      presenceRead s1 pa (.agent g.core g.slot a.id)
  | .store b, l :: _ => done (wrPlace s l.place b)
  | .scatter ws, ls => done ((ls.zip ws).foldl (fun t lw => wrPlace t lw.1.place (of32 lw.2)) s)
  | .stp v, ⟨.here pa, _⟩ :: _ => match s.presenceOf pa with
    | none => done (presenceWrite s pa .full v)
    | some .full => failAccess s g a 0xA4 (a.vas.headD 0)
    | some .poison => failAccess s g a 0xA5 (a.vas.headD 0)
  | .psetEmpty, ⟨.here pa, _⟩ :: _ => done (presenceClear s pa)
  | .psetPoison v, ⟨.here pa, _⟩ :: _ => done (presenceWrite s pa .poison v)
  | .tlinc v, l :: _ =>
    let old := leNat (rdPlace s l.place 8)
    done (wrPlace s l.place (toLe 8 (satAdd64 old v.toNat)))
  | .sqput hdr _ packet, l :: _ =>
    let s1 := wrPlace (wrPlace s (l.place.plus 1) (packet.drop 1)) l.place (packet.take 1)
    let kind := ((readVa s1 ((s1.part g.part).map (·.asid) |>.getD 0) (hdr.toNat + 12) 1).map leNat).getD 0
    let ev : Instr := if kind = 1 then .expressionLaunch hdr else if kind = 2 then .streamLaunch hdr else .collectiveLaunch hdr
    schedOnce (done s1) 1 ev
  | _, _ => done s

/-- Post a write of an agent to host memory or to a peer: it has left its port, and is performed at its home later (R251,
R273, R275). -/
def postAgent (s : State) (key id : Nat) (p : Place) (b : List Byte) (async : Bool := false) : State :=
  match s.agent key with
  | none => s
  | some g => postFar (s.setAgent key { g with posted := g.posted ++ [⟨id, p, b, false, async⟩] }) (g.core, g.slot) id p (.store b)

/-- Send an access to its peer: a store is posted and counts performed as it leaves the port; the others wait for their
answer. -/
def sendPeer (s : State) (g : Agent) (a : Access) (slot pa : Nat) : State :=
  match peerPort s slot with
  | none => failAccess s g a (memCause a.op.kind 0) (a.vas.headD 0) 0xFFFFFFFF true
  | some _ => match a.op with
    | .store b => finishAccess (postAgent s g.key a.id (.peer slot pa) b) g.key a.id
    | _ =>
      let s1 : State := { s with outbox := s.outbox ++ [.peerAccess slot pa ((a.locs.head?.map (·.sa)).getD false) g.core g.slot a.id a.op] }
      s1.modAgent g.key fun h => h.modOut a.id fun x => { x with phase := .armed }

/-- A store to host memory is posted: it leaves the port now, and the link performs and acknowledges it later. -/
def postHost (s : State) (g : Agent) (a : Access) (k : Nat) (b : List Byte) : State :=
  finishAccess (postAgent s g.key a.id (.host k) b) g.key a.id

/-- An access reaches the point where it can be performed. -/
def deliver (s : State) (g : Agent) (a : Access) : State :=
  match a.op, toPeer a with
  | .answered _ _, _ => perform s g a
  | _, some (sl, pa) => sendPeer s g a sl pa
  | .store b, none => match firstPlace a with
    | some (.host k) => postHost s g a k b
    | _ => perform s g a
  | _, none => perform s g a

/-- The event by which an access is performed. -/
def accEvent (g : Agent) (a : Access) : Instr :=
  if a.op.writes && !a.op.reads then .storePerformed g.core g.slot a.id else .loadDataReturn g.core g.slot a.id

/-- The units that the data of a part of an access passes, first one first (R205): towards the core for a read, where data for a
vector register passes the vector unit and the register pool last (log 17), towards the place for a write; an atomic's operand goes there
as well (R206). -/
def placeUnits (s : State) (g : Agent) (a : Access) (p : Place) : List W32 :=
  let vec : List W32 := match a.op with
    | .vload _ | .gather _ _ => [coreHop 11 g.core 0, coreHop 14 g.core 0]
    | _ => []
  match a.op with
  | .fence _ | .answered _ _ => []
  | _ => pathUnits s g.core p a.op.writes a.partW ++ vec

def accUnits (s : State) (g : Agent) (a : Access) : List W32 := a.locs.flatMap fun l => placeUnits s g a l.place

/-- No unit of the path is fenced or has an injection armed. -/
def quiet (s : State) (us : List W32) : Bool :=
  !fencedOn s us && !(s.dev.injections.any fun i => us.contains i.unit)

/-- The bytes that a part of an access moves. -/
def partBytes (s : State) (a : Access) (i : Nat) (p : Place) : List Byte :=
  match a.op with
  | .store b => sliceB b (a.partW * i) a.partW
  | .scatter ws => of32 (ws.getD i 0)
  | .stp v | .psetPoison v => ofWord v
  | .psetEmpty => zerosB 8
  | .tlinc v => ofWord v
  | .atom _ is64 _ b _ => toLe (atomBytes is64) b.toNat
  | .sqput _ _ packet => packet
  | _ => rdPlace s p a.partW

/-- The data of one part of an access passes its units (R205). -/
def passPart (s : State) (g : Agent) (a : Access) (i : Nat) (p : Place) : State × Option Blame :=
  transit s (placeUnits s g a p)
    (genuineAt s (some g.part) p (bits (a.vaAt i).toNat 0 55) (partBytes s a i p) g.node g.rid)

/-- Condemned data faults the agent with the blamed cause, late (R206). -/
def condemned (s : State) (g : Agent) (a : Access) (b : Blame) (addr : Word) (lane : Nat := 0xFFFFFFFF) : State :=
  failWith s g a ({ a.tr with addr := addr, lane := lane }.blame b (localUnit s g b.hop)) true

/-- The data passes its units and is delivered. -/
def checked (s : State) (g : Agent) (a : Access) : State :=
  match firstPlace a with
  | none => deliver s g a
  | some p =>
    let r := passPart s g a 0 p
    match r.2 with
    | none => deliver r.1 g a
    | some b => condemned r.1 g a b (a.vas.headD 0)

/-! ## Lanes (R133, R426) -/

/-- A lane of a scatter or gather, and its number as an answer names it. -/
def laneDone (a : Access) (i : Nat) : Access := { a with lanes := { a.lanes with done := i :: a.lanes.done } }
def laneGot (a : Access) (i : Nat) (l : List Byte) : Access :=
  { a with lanes := { a.lanes with done := i :: a.lanes.done, got := Tbl.put a.lanes.got i l } }

/-- An access all of whose lanes or granules are done leaves; a read then writes its register. -/
def closeLanes (s : State) (key id : Nat) : State :=
  match s.agent key with
  | none => s
  | some g => match g.outs.find? fun a => a.id = id with
    | none => s
    | some a =>
      if !a.open_.isEmpty then s
      else
        let data := (List.range a.parts).map fun i => (Tbl.find a.lanes.got i).getD []
        finishAccess (s.setAgent key (loadResult g a.op a.width (if a.wide then [data.flatten] else data))) key id

/-- One lane, or one granule of this module's memory, that nothing holds back: performed at its home, posted, or sent to its peer; the
flag says that it has not ended the access in a fault. -/
def doLane (s : State) (key id i : Nat) : State × Bool :=
  match s.agent key with
  | none => (s, false)
  | some g => match g.outs.find? fun a => a.id = id with
    | none => (s, false)
    | some a => match locAt s g a i with
      | none => (s, false)
      | some l =>
        let addr := if a.wide then a.vas.headD 0 else a.vas.getD i 0
        let lane := if a.wide then 0xFFFFFFFF else i
        let r := passPart s g a i l.place
        let upd := fun (t : State) (f : Access → Access) => t.modAgent key fun h => h.modOut id f
        match r.2 with
        | some b => (condemned r.1 g a b addr lane, false)
        | none =>
          if l.place.unreachable s then (failAccess r.1 g a (memCause kGather 0) addr i true, false)
          else match a.op, l.place with
          | .store _, .here k => (upd (wr r.1 k (partBytes s a i l.place)) fun x => laneDone x i, true)
          | .scatter ws, .here k => (upd (wr r.1 k (of32 (ws.getD i 0))) fun x => laneDone x i, true)
          | .scatter ws, q => (upd (postAgent r.1 key (id + i) q (of32 (ws.getD i 0))) fun x => laneDone x i, true)
          | _, .peer slot pa =>
            (upd { r.1 with outbox := r.1.outbox ++ [.peerAccess slot pa l.sa g.core g.slot (id + i) (.load .u32 0)] } fun x =>
              { x with lanes := { x.lanes with sent := i :: x.lanes.sent } }, true)
          | _, _ => (upd r.1 fun x => laneGot x i (readLoc r.1 l a.partW), true)

/-- Is the place in another core's scratchpad? -/
def Place.window (p : Place) (core : Nat) : Bool :=
  match p with
  | .here k => isSpad k && spadCore k ≠ core
  | _ => false

/-- The positions of an access whose turn it is: where some lie in other cores' scratchpads and some do not, those come behind the
issue of every core and the rest before it (R191, R277). -/
def Access.atHand (s : State) (g : Agent) (a : Access) : List Nat :=
  let win := fun (i : Nat) => ((placeAt s g a i).map fun p => p.window g.core).getD false
  let l := a.open_.filter fun i => !a.lanes.sent.contains i
  if l.any win && l.any fun i => !win i then l.filter fun i => win i = decide (s.turn = .window) else l

/-- Of those at hand, the ones that nothing holds back. -/
def freeParts (s : State) (g : Agent) (a : Access) : List Nat :=
  (a.atHand s g).filter fun i => match placeAt s g a i with
    | none => false
    | some p => laneFree s g a i p && !fencedOn s (placeUnits s g a p)

/-- Perform positions in ascending order, up to one that ends the access in a fault. -/
def doParts (s : State) (g : Agent) (a : Access) (l : List Nat) : State × Bool :=
  l.foldl (fun (acc : State × Bool) i => if acc.2 then doLane acc.1 g.key a.id i else acc) (s, true)

/-- The lanes that may be performed now; the rest come again in the next cycle. -/
def doLanes (s : State) (g : Agent) (a : Access) : State :=
  let ready := freeParts s g a
  let r := doParts s g a ready
  if !r.2 then r.1
  else
    let left := (a.atHand s g).filter fun i => !ready.contains i
    closeLanes (if left.isEmpty then r.1 else schedOnce r.1 1 (accEvent g a)) g.key a.id

/-- Granules of a wide access are performed one by one, in an order that is free (R190, R194, R427, R432; log 6): of those that nothing
holds back, the ones that a free word names, or all where it names none. -/
def doGranules (s : State) (g : Agent) (a : Access) : State :=
  let ready := freeParts s g a
  let named := ready.filter fun i => (Config.freeWord s.free).getLsbD i
  let r := doParts { s with free := s.free + 1 } g a (if named.isEmpty then ready else named)
  if !r.2 then r.1
  else
    let t := closeLanes r.1 g.key a.id
    if ((t.agent g.key).map fun h => h.outs.any fun x => x.id = a.id).getD false then
      (if ready.isEmpty then sched t 1 (accEvent g a) else schedFree t (accEvent g a))
    else t

def AccOp.byLane : AccOp → Bool
  | .gather _ _ | .scatter _ => true
  | _ => false

def AccOp.toVector : AccOp → Bool
  | .vload _ | .gather _ _ => true
  | _ => false

/-- Is it performed granule by granule: wide, in this module's own memory? -/
def Access.byGranule (a : Access) : Bool := a.wide && ((firstPlace a).map fun p => !p.far).getD false

/-- An access event arrives: perform it, or come again in the next cycle while an earlier access holds it. Data for drowsy vector
registers wakes them and is written six cycles later (R81). -/
def arrive (s : State) (core slot id : Nat) : State :=
  match s.agent (agentKey core slot) with
  | none => s
  | some g => match g.outs.find? fun a => a.id = id with
    | none => s
    | some a =>
      if a.phase ≠ .moving then s
      else if g.drowsy ∧ a.op.toVector then sched (s.setAgent g.key { g with drowsy := false }) 6 (accEvent g a)
      else if a.op.byLane then doLanes s g a
      else if a.byGranule ∧ !postedDead s g a then doGranules s g a
      else if postedDead s g a then failAccess s g a (memCause a.op.kind 0) (a.vas.headD 0) 0xFFFFFFFF true
      else if mayPerform s g a && !fencedOn s (accUnits s g a) then checked s g a
      else sched s 1 (accEvent g a)

/-! ## Waiting (R321) -/

/-- What an instruction that may wait comes to: a fault, nothing yet, or its effect. -/
inductive Attempt where
  | trap (cause : Nat) (addr : Word)
  /-- the fault of a blamed event in delivered data -/
  | blamed (b : Blame) (addr : Word)
  | wait
  | go (s : State)

/-- Take the attempt: while it waits, nothing changes. -/
def attempt (s : State) (g : Agent) (a : Attempt) : State :=
  match a with
  | .trap c addr => faultNow s g c addr
  | .blamed b addr => faultBlamed s g b addr false
  | .wait => s
  | .go t => t

def Attempt.waits : Attempt → Bool
  | .wait => true
  | _ => false

/-- Would an access of these bytes, made whole at this moment, be held back? -/
def heldBack (s : State) (g : Agent) (op : AccOp) (va : Word) (l : Loc) (n : Nat) (acq rel : Bool) : Bool :=
  !mayPerform s g ⟨g.nextId, none, op, [va], [l], n, acq, rel, .dev, .moving, g.trapAt s g.pc 0, ⟨[], [], []⟩⟩

/-- What of an agent's accesses and posted writes was issued before a numbered operation. -/
def Agent.upTo (g : Agent) (id : Nat) : Agent :=
  { g with outs := g.outs.filter (·.id < id), posted := g.posted.filter (·.id < id) }

/-! ## Issue -/

/-- The trap template of the instruction an agent is at. -/
def hereTrap (s : State) (g : Agent) : Trap := g.trapAt s g.pc 0

/-- Resolve every address of an access in order: places, or the first fault with its position, or a miss, behind which nothing is
decided before the walker has answered (R133, R198). -/
def resolveAll (s : State) (g : Agent) (op : AccOp) : List Word → Nat → Except (Nat × Nat × Word) (Option (List Loc))
  | [], _ => .ok (some [])
  | v :: t, i =>
    match resolve s g v op.want with
    | .error r => .error (memCause op.kind r, i, v)
    | .ok none => .ok none
    | .ok (some l) => match locCheck op l with
      | some c => .error (c, i, v)
      | none => match resolveAll s g op t (i + 1) with
        | .error e => .error e
        | .ok (some ls) => .ok (some (l :: ls))
        | .ok none => .ok none

/-- Put an access in flight: the agent goes on to its next instruction. -/
def launchAccess (s : State) (g : Agent) (a : Access) : State :=
  let h0 := { g with outs := g.outs ++ [a], nextId := g.nextId + max 1 a.vas.length }
  let h := match a.cls with
    | some c => h0.addOp c a.id
    | none => h0
  let s1 := s.setAgent g.key h.next
  if a.phase = .parked then schedFree s1 (.translationWalkDone (.agent g.core g.slot a.id))
  else if (a.locs.all fun l => l.place.own g.core) ∧ mayPerform s1 h.next a ∧ !postedDead s1 h a ∧ quiet s1 (accUnits s1 g a) then
    perform s1 h.next a
  else schedFree s1 (accEvent g a)

/-- Issue an access of an agent (R318's address order: alignment first, by the caller; then window, membership and
translation). A gather or scatter reports the lane (R133). -/
def issueAccess (s : State) (g : Agent) (cls : Option Cls) (op : AccOp) (vas : List Word) (width : Nat) (acq rel : Bool)
    (scope : Scope) : State :=
  match resolveAll s g op vas 0 with
  | .error (c, _, v) => faultNow s g c v
  | .ok r =>
    let tr := { hereTrap s g with addr := vas.headD 0 }
    launchAccess s g ⟨g.nextId, cls, op, vas, r.getD [], width, acq, rel, scope,
      if r.isSome then .moving else .parked, tr, ⟨[], [], []⟩⟩

/-- A parked gather or scatter faults at lane i: of a scatter the lanes below are written, as an access that goes on; what is
left waits for the handler (R133, R198). Any other access faults whole. -/
def lanesBelow (s : State) (g : Agent) (a : Access) (look : Word → Except Nat Loc) (cause i : Nat) (va : Word) : State :=
  let lane := if a.op.kind = kGather then i else 0xFFFFFFFF
  match a.op with
  | .scatter _ =>
    let below := (List.range i).filter fun k => !a.lanes.done.contains k
    if below.isEmpty then failAccess s g a cause va lane true
    else
      let locs := (a.vas.take i).filterMap fun v => match look v with
        | .ok l => some l
        | .error _ => none
      let b : Access := { a with vas := a.vas.take i, locs := locs, phase := .moving }
      let rest : Access := { a with id := g.nextId, phase := .faulted, lanes := { a.lanes with done := a.lanes.done ++ below } }
      let h := { g with nextId := g.nextId + a.vas.length, outs := g.outs.flatMap fun x => if x.id = a.id then [b, rest] else [x] }
      let s1 := schedFree (s.setAgent g.key h) (accEvent g b)
      lateFault s1 g.key ⟨{ a.tr with cause := cause, addr := va, lane := lane }, some rest.id, true⟩
  | _ => failAccess s g a cause va lane true

/-- The walker of the die answers a parked access (R167, R198): translations are cached, a fault is a late fault. -/
def walkAnswer (s : State) (core slot id : Nat) : State :=
  match s.agent (agentKey core slot) with
  | none => s
  | some g => match g.outs.find? fun a => a.id = id with
    | none => s
    | some a =>
      if a.phase ≠ .parked then s
      else
        let asid := ((s.part g.part).map (·.asid)).getD 0
        -- refill for each address that the cache does not hold
        let fill := a.vas.foldl (fun (acc : State) v =>
          let n := bits v.toNat 0 55
          if bits v.toNat 62 2 ≠ 0 ∨ (acc.core core).tlb.any (·.covers asid n) then acc
          else match walk acc asid n with
            | .ok e => tlbInsert acc core e
            | .error _ => acc) s
        -- an entry that the cache holds translates as it stands (R167)
        let look := fun (v : Word) => match resolve fill g v a.op.want with
          | .ok (some l) => Except.ok l
          | .ok none => resolveNow fill g v a.op.want
          | .error r => .error r
        let res : Except (Nat × Nat × Word) (List Loc) := (a.vas.zipIdx).foldl (fun acc vi =>
          match acc with
          | .error e => .error e
          | .ok ls =>
            if a.op.byLane ∧ misaligned vi.1 4 then .error (memCause a.op.kind 2, vi.2, vi.1)
            else match look vi.1 with
              | .error r => .error (memCause a.op.kind r, vi.2, vi.1)
              | .ok l => match locCheck a.op l with
                | some c => .error (c, vi.2, vi.1)
                | none => .ok (ls ++ [l])) (.ok [])
        match res with
        | .error (c, i, v) => lanesBelow fill g a look c i v
        | .ok ls =>
          let s1 := fill.modAgent g.key fun h => h.modOut id fun x => { x with phase := .moving, locs := ls }
          schedFree s1 (accEvent g a)

/-- An access that RESUME issues again alone (R198, R206, R227) takes its old place in the order, parked, once its class has
room; until then it waits. -/
def reissue (s : State) (g : Agent) (id : Nat) : State :=
  match g.outs.find? fun a => a.id = id with
  | none => s
  | some a =>
    if ((a.cls.map fun c => decide (63 ≤ g.count c)).getD false) then
      s.setAgent g.key { g with again := if g.again.contains id then g.again else g.again ++ [id] }
    else
      let h := { g.modOut id (fun x => { x with phase := .parked, locs := [] }) with again := g.again.filter (· ≠ id) }
      let h1 := match a.cls with
        | some c => h.addOp c id
        | none => h
      schedFree (s.setAgent g.key h1) (.translationWalkDone (.agent g.core g.slot id))

end Sys2Proof.Machine
end

