-- ==== Sys2Proof/Machine/Mem.lean ====
section
/-! DEFINITION. Memory instructions, 0x40 to 0x47, VLD, VST, VGATH, VSCAT and TDESC, and the events by which accesses
proceed (R184 to R198, R272 to R276, R325, R359, R368, R369, R378, R389, R407, R408, R415, R426, R427, R432, R436). -/

namespace Sys2Proof.Machine

open Sys2Proof

/-! ## One address, one size -/

/-- Issue a load, store or atomic of n bytes at an address, naturally aligned (R318: alignment before the window). -/
def issueOne (s : State) (g : Agent) (cls : Cls) (op : AccOp) (a : Word) (n : Nat) (acq rel : Bool) (sc : Scope) : State :=
  if misaligned a n then faultNow s g (memCause op.kind 2) a else issueAccess s g (some cls) op [a] n acq rel sc

/-- R368. -/
def execLd (z : LdSize) (acq : Bool) (sc : Scope) (d : Reg) (m : MemOp) (s : State) : Out :=
  onAgent s fun g => issueOne s g .loads (.load z d) (g.ea m) (ldBytes z) acq false sc

/-- R407. -/
def execSt (z : StSize) (rel : Bool) (sc : Scope) (m : MemOp) (d : Reg) (s : State) : Out :=
  onAgent s fun g => issueOne s g .stores (.store (toLe (stBytes z) (g.sr d).toNat)) (g.ea m) (stBytes z) false rel sc

def Order.acquires : Order → Bool
  | .acq | .ar => true
  | _ => false
def Order.releases : Order → Bool
  | .rel | .ar => true
  | _ => false

/-- R325, R326. -/
def execAtom (fn : AtomFn) (is64 : Bool) (o : Order) (sc : Scope) (d base b c : Reg) (off : BitVec 16) (s : State) : Out :=
  onAgent s fun g => issueOne s g .loads (.atom fn is64 d (g.sr b) (g.sr c)) (eaA g base off) (atomBytes is64)
    (Order.acquires o) (Order.releases o) sc

/-- R359: its effect is on the agent's later accesses; it stays in the list while earlier ones hold it. -/
def execFence (o : Order) (sc : Scope) (s : State) : Out :=
  onAgent s fun g => issueAccess s g none (.fence o) [] 0 false false sc

/-! ## Presence (R170) -/

/-- A presence access lies outside the local and core windows (R170). -/
def issuePresence (s : State) (g : Agent) (cls : Cls) (op : AccOp) (a : Word) (acq rel : Bool) : State :=
  if misaligned a 8 then faultNow s g (memCause op.kind 2) a
  else if 2 ≤ bits a.toNat 62 2 then faultNow s g (memCause op.kind 3) a
  else issueAccess s g (some cls) op [a] 8 acq rel .dev

/-- R369. -/
def execLdp (d : Reg) (m : MemOp) (s : State) : Out :=
  onAgent s fun g => issuePresence s g .loads (.ldp d) (g.ea m) true false
/-- R408. -/
def execStp (m : MemOp) (d : Reg) (s : State) : Out :=
  onAgent s fun g => issuePresence s g .stores (.stp (g.sr d)) (g.ea m) false true
/-- R389, privileged. -/
def execPsetEmpty (m : MemOp) (s : State) : Out :=
  serviceOnly s 0x12 fun g => issuePresence s g .stores .psetEmpty (g.ea m) false false

/-- A cause that an ERR word may not hold (R19). -/
def reservedErrCause (c : Nat) : Bool := 0x180 ≤ c

/-- R389, privileged: the ERR word with the issuer's `%rec`, depth and node 0. -/
def execPsetPoison (d : Reg) (m : MemOp) (s : State) : Out :=
  serviceOnly s 0x12 fun g =>
    let c := (g.sr d).toNat % 512
    if reservedErrCause c then faultNow s g 0x11
    else issuePresence s g .stores (.psetPoison (errWord c g.rid 0 0)) (g.ea m) false false

/-! ## Address monitors (R378, R280) -/

/-- A place by the core's translation cache where it holds one, else by a walk. -/
def resolveCached (s : State) (g : Agent) (a : Word) (want : Want) : Except Nat Loc :=
  match resolve s g a want with
  | .error r => .error r
  | .ok (some l) => .ok l
  | .ok none => resolveNow s g a want

/-- Bring the translation of an address into the core's cache (R167). -/
def cacheVa (s : State) (g : Agent) (a : Word) : State :=
  let asid := ((s.part g.part).map (·.asid)).getD 0
  let va := bits a.toNat 0 55
  if bits a.toNat 62 2 ≠ 0 ∨ (s.core g.core).tlb.any (·.covers asid va) then s
  else match walk s asid va with
    | .ok e => tlbInsert s g.core e
    | .error _ => s

/-- What a monitor sees at an address: a fault reason; a value, of a wait that goes on the one that the cycle began with (R378); or
none while the read is held back, or has not been polled (tiers 2 and 3). -/
def monitorRead (s : State) (g : Agent) (a : Word) (n : Nat) : Except Nat (Option Nat) :=
  match resolveCached s g a .read with
  | .error r => .error r
  | .ok l =>
    if l.place.unreachable s then .error 0
    else if heldBack s g (.load .d64 0) a l n true false then .ok none
    else match g.polled with
      | some v => .ok (some (v.toNat % 2 ^ (8 * n)))
      | none => .ok (if l.place.far then none else some (leNat (readLoc s l n)))

/-- The word that an agent's MONW or TLWAIT watches: its address and width. -/
def monitorOf (s : State) (g : Agent) : Option (Word × Nat) :=
  match decode (s.wordAt g g.pc) 0 with
  | .instr (.monw is64 _ m) => some (g.ea m, atomBytes is64)
  | .instr (.tlwait _ m) => some (g.ea m, 8)
  | _ => none

/-- What an agent that waits in MONW or TLWAIT will test in the cycle that begins: the word as it stands, its translation brought into
the core's cache (R167); what the trace unit alone has written is not seen (R284). Beyond the device the last poll stands. -/
def watchWord (s : State) (g : Agent) (a : Word) (n : Nat) : State :=
  match resolveCached s g a .read with
  | .error _ => s
  | .ok l =>
    let t := cacheVa s g a
    if l.place.far then t
    else
      let v := leWord (readLoc s l n)
      let quiet := g.polled.isSome && (match l.place with
        | .here k | .host k => s.hushedAt k n
        | .peer _ _ => false)
      t.setAgent g.key { g with polled := if quiet then g.polled else some v }

/-- A waiting read (R321): a fault, or the agent stands still until a value passes the test, or goes on with it. -/
def waitRead (s : State) (g : Agent) (a : Word) (n : Nat) (test : Nat → Bool) (go : Agent → Nat → Agent) : Attempt :=
  let done := fun (v : Nat) => Attempt.go ((cacheVa s g a).setAgent g.key { (go g v).next with polled := none })
  if misaligned a n then .trap 0x82 a
  else match g.met, monitorRead s g a n with
    | some v, _ => done v.toNat
    | none, .error r => .trap (memCause kLoad r) a
    | none, .ok none => .wait
    | none, .ok (some v) => if test v then done v else .wait

/-- R378. -/
def tryMonw (is64 : Bool) (d : Reg) (m : MemOp) (s : State) (g : Agent) : Attempt :=
  let n := atomBytes is64
  waitRead s g (g.ea m) n (fun v => v ≠ (g.sr d).toNat % 2 ^ (8 * n)) fun h v => h.setS d (BitVec.ofNat 64 v)

def execMonw (is64 : Bool) (d : Reg) (m : MemOp) (s : State) : Out :=
  onAgent s fun g => attempt s g (tryMonw is64 d m s g)

/-- R280: s0 is satisfied by any value; sd is not written. -/
def tryTlwait (d : Reg) (m : MemOp) (s : State) (g : Agent) : Attempt :=
  waitRead s g (g.ea m) 8 (fun v => (g.sr d).toNat ≤ v) fun h _ => h

def execTlwait (d : Reg) (m : MemOp) (s : State) : Out :=
  onAgent s fun g => attempt s g (tryTlwait d m s g)

/-- R281: a release at `.dev`, at `.sys` for tiers 2 and 3. -/
def execTlinc (m : MemOp) (d : Reg) (s : State) : Out :=
  onAgent s fun g => issueOne s g .stores (.tlinc (g.sr d)) (g.ea m) 8 false true .dev

/-! ## Vector memory (R133, R426, R427, R432) -/

/-- R427. -/
def execVld (acq : Bool) (sc : Scope) (d : VNum) (m : MemOp) (s : State) : Out :=
  onAgent s fun g => issueOne s g .loads (.vload d) (g.ea m) 128 acq false sc
/-- R432. -/
def execVst (rel : Bool) (sc : Scope) (m : MemOp) (d : VNum) (s : State) : Out :=
  onAgent s fun g => issueOne s g .stores (.store (bytesOfLanes (g.vr d))) (g.ea m) 128 false rel sc

/-- Lane addresses (R133). -/
def laneAddrs (g : Agent) (base : Reg) (idx : VNum) (off : BitVec 26) : List Word :=
  (g.vr idx).toList.map fun i => g.sr base + i.signExtend 64 + off.signExtend 64

/-- The first faulting lane in ascending order with its reason: alignment, then window and translation. -/
def laneFault (s : State) (g : Agent) (op : AccOp) : List Word → Nat → Option (Nat × Nat × Word)
  | [], _ => none
  | a :: t, i =>
    if misaligned a 4 then some (2, i, a)
    else match resolve s g a op.want with
      | .error r => some (r, i, a)
      -- a lane that waits for the walker may still fault below the others: it decides (R198)
      | .ok none => none
      | .ok (some _) => laneFault s g op t (i + 1)

/-- R426. -/
def execVgath (sc : Scope) (d : VNum) (base : Reg) (idx : VNum) (off : BitVec 26) (s : State) : Out :=
  onAgent s fun g =>
    let vas := laneAddrs g base idx off
    let op : AccOp := .gather d 0xFFFFFFFF#32
    match laneFault s g op vas 0 with
    | some (r, i, a) => faultNow s g (memCause kGather r) a i
    | none => issueAccess s g (some .loads) op vas 4 false false sc

/-- R426: the lanes below a faulting one are written (R133), by an access of their own. -/
def execVscat (sc : Scope) (base : Reg) (idx : VNum) (off : BitVec 26) (d : VNum) (s : State) : Out :=
  onAgent s fun g =>
    let vas := laneAddrs g base idx off
    let op : AccOp := .scatter (g.vr d).toList
    match laneFault s g op vas 0 with
    | none => issueAccess s g (some .stores) op vas 4 false false sc
    | some (r, i, a) =>
      let s1 := if i = 0 then s
        else (issueAccess s g (some .stores) (.scatter ((g.vr d).toList.take i)) (vas.take i) 4 false false sc).modAgent
          g.key fun h => { h with pc := g.pc }
      match s1.agent g.key with
      | some h => faultNow s1 h (memCause kGather r) a i
      | none => s1

/-! ## TDESC (R415) -/

def execTdesc (d a : Reg) (imm : BitVec 28) (s : State) : Out :=
  onAgent s fun g =>
    let w := g.sr a
    let i := bits w.toNat 12 20
    if imm.toNat % 8 ≠ 0 ∨ 64 ≤ imm.toNat ∨ symKind w ≠ 9 then faultNow s g 0x21
    else match s.part g.part with
      | none => faultNow s g 0x83
      | some p =>
        if p.ndesc ≤ i then faultNow s g 0x83
        else issueAccess s g none (.tdesc d) [p.desc + BitVec.ofNat 64 (64 * i + imm.toNat)] 8 false false .core

/-! ## WAIT (R433) -/

def waitMet (g : Agent) (l st c x : BitVec 6) : Bool :=
  g.count .loads ≤ l.toNat && g.count .stores ≤ st.toNat && g.count .copies ≤ c.toNat && g.count .tiles ≤ x.toNat

/-- Holds the agent until the counts are low enough. -/
def tryWait (l st c x : BitVec 6) (s : State) (g : Agent) : Attempt :=
  if waitMet g l st c x then .go (s.setAgent g.key g.next) else .wait

def execWait (l st c x : BitVec 6) (s : State) : Out := onAgent s fun g => attempt s g (tryWait l st c x s g)

/-! ## Events -/

/-- Data, or a deferred read's answer, reaches its agent (R90, R170). -/
def execLoadDataReturn (core slot id : Nat) (s : State) : Out := .next (arrive s core slot id)

/-- A store, atomic or presence store is performed at its home. -/
def execStorePerformed (core slot id : Nat) (s : State) : Out := .next (arrive s core slot id)

/-- The agent learns of it: its write is acknowledged, or never will be. -/
def acked (s : State) (core slot id : Nat) (arrives : Bool) : State :=
  match s.agent (agentKey core slot) with
  | none => s
  | some g =>
    let h := if arrives then { g with posted := g.posted.filter fun p => p.id ≠ id }
      else { g with posted := mapIf (fun p => p.id = id) (fun p => { p with dead := true }) g.posted }
    s.setAgent g.key (dropFences s h)

/-- Posted raises that nothing posted before them holds back any longer. -/
def leaving : List Posted → List Posted → List Posted
  | _, [] => []
  | seen, p :: t => (if !p.sent && !(seen.any fun q => covers p.who q.who) then [p] else []) ++ leaving (seen ++ [p]) t

/-- The raises that may leave now do (R272, R279). -/
def pumpPosted (s : State) : State :=
  (leaving [] s.posted).foldl (fun t p =>
    sendPosted { t with posted := mapIf (fun x => x.who = p.who ∧ x.id = p.id) (fun x => { x with sent := true }) t.posted } p) s

/-- The acknowledgment of a posted write arrives, or is known never to arrive (R273). A host link performs the write now;
of two of one unit to the same bytes the earlier comes first (R186). -/
def execPostedWriteAck (core slot id : Nat) (arrives : Bool) (s : State) : Out :=
  .next (
    let who := (core, slot)
    let mine : Posted → Bool := fun p => p.who = who && p.id = id
    let earlierSame := (s.posted.takeWhile fun p => !mine p).any fun p => p.who = who &&
      ((s.posted.find? mine).map fun q => p.place.overlaps p.op.size q.place q.op.size).getD false
    match s.posted.find? mine, arrives with
    | some p, true =>
      match p.place with
      | .host k =>
        if earlierSame then sched s 1 (.postedWriteAck core slot id true)
        else acked (pumpPosted (applyAt { s with posted := s.posted.filter fun x => !mine x } k p.op)) core slot id true
      | _ => acked (pumpPosted { s with posted := s.posted.filter fun x => !mine x }) core slot id true
    | some _, false => acked (pumpPosted { s with posted := s.posted.filter fun x => !mine x }) core slot id false
    | none, _ => acked s core slot id arrives)

/-- What a peer's answer carries (R251): nothing where its home cannot perform the access (log 3); a read's bytes; for a presence store one byte, 1 where the word was FULL and 2
where it was POISON; for LDP a ninth byte, nonzero where the state was POISON on arrival. -/
def peerDone (s : State) (g : Agent) (a : Access) (data : List Byte) : State :=
  let done := fun (t : State) => finishAccess t g.key a.id
  if data.isEmpty then failAccess s g a (memCause a.op.kind 0) (a.vas.headD 0) 0xFFFFFFFF true
  else match a.op with
  | .ldp d =>
    if data.getD 8 0 ≠ 0#8 ∧ (s.pcb g.part).pflags.getLsbD 0 then failAccess s g a 0x9D (a.vas.headD 0)
    else done (s.setAgent g.key (g.setS d (leWord (data.take 8))))
  | .stp _ =>
    if data.headD 0 = 1#8 then failAccess s g a 0xA4 (a.vas.headD 0)
    else if data.headD 0 = 2#8 then failAccess s g a 0xA5 (a.vas.headD 0) else done s
  | op => done (s.setAgent g.key (loadResult g op a.width [data.take a.width]))

/-- The claim of an SQPUT cannot be performed: it faults at its SQPUT with reason 0 of an atomic. -/
def claimRefused (s : State) (g : Agent) (hdr : Word) : State :=
  let h : Agent := { g with status := .running, claim := none }
  faultNow (s.setAgent g.key h) h (memCause kAtomic 0) hdr

/-- The answer to the claim of an SQPUT (R403): its slot is written, or it issues again. -/
def claimDone (s : State) (g : Agent) (w : Nat) (a : Access) (data : List Byte) : State :=
  let h : Agent := { g with status := .running, claim := none }
  if data.isEmpty then claimRefused s g (match a.op with
    | .sqput hdr _ _ => hdr
    | _ => 0)
  else if leNat (data.take 8) = w then launchAccess s h { a with id := h.nextId } else s.setAgent g.key { h with wakeAt := s.cycle + 1 }

/-- The answer to an access, or to a lane of a gather (R426). -/
def accessAnswered (s : State) (g : Agent) (id : Nat) (data : List Byte) : State :=
  match g.outs.find? fun a => a.id ≤ id && id < a.id + max 1 a.vas.length with
    | none => s
    | some a =>
      if g.drowsy ∧ a.op.toVector then sched (s.setAgent g.key { g with drowsy := false }) 6 (.peerAnswer g.core g.slot id data)
      else if a.op.byLane then
        (if data.isEmpty ∧ a.lanes.sent.contains (id - a.id) then failAccess s g a (memCause kGather 0) (a.vas.getD (id - a.id) 0) (id - a.id) true
        else if a.lanes.sent.contains (id - a.id) ∧ a.open_.contains (id - a.id) then
          closeLanes (s.modAgent g.key fun h => h.modOut a.id fun x => laneGot x (id - a.id) (data.take 4)) g.key a.id else s)
      else if a.phase ≠ .armed then s else peerDone s g a data

/-- The answer of a peer's home to an agent: to an access, to a copy's read, or to a claim. -/
def execPeerAnswer (core slot id : Nat) (data : List Byte) (s : State) : Out :=
  .next (match s.agent (agentKey core slot) with
    | none => s
    | some g =>
      if g.reads.any fun r => r.num = id then
        s.setAgent g.key { g with reads := mapIf (fun r => r.num = id) (fun r => { r with data := some data }) g.reads }
      else match g.claim with
        | some (n, w, a) => if n = id then claimDone s g w a data else accessAnswered s g id data
        | none => accessAnswered s g id data)

/-- Does the agent stand at an instruction boundary: no join, no TMLD, INVTLB, VMEAN or XMEAN under way? -/
def Agent.atBoundary (g : Agent) : Bool := g.status = .running && g.xrow.isNone

/-- A late fault is raised at its agent's next instruction boundary, before it issues again; while the area stands still it
is held (R436). -/
def execLateFaultRaise (core slot : Nat) (s : State) : Out :=
  .next (match s.agent (agentKey core slot) with
    | none => s
    | some g =>
      let frozen := ((s.rec? g.part g.rid).map Record.frozen).getD false && g.stepLeft.isNone
      match g.late with
      | [] => s
      | f :: t => if (frozen && !g.service) || !g.atBoundary then s else
          let h := { g with late := t }
          agentFault (s.setAgent g.key h) h f)

end Sys2Proof.Machine
end

