-- ==== Sys2Proof/Machine/Rings.lean ====
section
/-! DEFINITION. Rings (09 R178 to R181, 10 R192; entries R322, R327, R361, R390, R393): the 32-byte header in
scratchpad, and the transitions that agents make. -/

namespace Sys2Proof.Machine

open Sys2Proof

/-! ## The header (R178) -/

structure Ring where
  size : Nat
  base : Nat
  count : Nat
  window : Nat
  owner : Nat
  wpos : Nat
  rpos : Nat
  states : Nat
  deriving DecidableEq, Repr

def ringOf (l : List Byte) : Ring :=
  ⟨leAt l 0 4, leAt l 4 4, leAt l 8 2, leAt l 10 2, leAt l 12 2, leAt l 16 4, leAt l 20 4, leAt l 24 8⟩

/-- The header at a local offset of a core. -/
def ringAt (s : State) (core off : Nat) : Ring := ringOf (rd s (spadKey core off) 32)

/-- Fields of header bytes 0 to 11 within R178. -/
def Ring.ok (r : Ring) : Bool :=
  32 ≤ r.size && r.size ≤ 32768 && r.size % 32 = 0 && r.base % 32 = 0 && 1 ≤ r.count && r.count ≤ 32
    && 1 ≤ r.window && r.window ≤ r.count && r.base + r.count * r.size ≤ 2 ^ 20

def Ring.state (r : Ring) (i : Nat) : Nat := bits r.states (2 * i) 2
def Ring.slotOff (r : Ring) (i : Nat) : Nat := r.base + i * r.size
def Ring.wslot (r : Ring) : Nat := r.wpos % r.count
def Ring.rslot (r : Ring) : Nat := r.rpos % r.count
def Ring.ahead (r : Ring) : Nat := (r.wpos + 2 ^ 32 - r.rpos) % 2 ^ 32
/-- R179: the slot at the write position is EMPTY and the window has room. -/
def Ring.claimable (r : Ring) : Bool := r.state r.wslot = 0 && r.ahead < r.window

def Ring.setState (r : Ring) (i v : Nat) : Ring := { r with states := r.states - r.state i * 4 ^ i + v * 4 ^ i }

/-- Header bytes 12 to 31 as the fields give them. -/
def Ring.tail (r : Ring) : List Byte :=
  toLe 2 r.owner ++ zerosB 2 ++ toLe 4 r.wpos ++ toLe 4 r.rpos ++ toLe 8 r.states

/-- Keep the header as it stood at the start of the cycle (R181). -/
def snapRing (s : State) (core off : Nat) : State :=
  if (Tbl.find (s.core core).ringSnap off).isSome then s
  else s.modCore core fun c => { c with ringSnap := Tbl.put c.ringSnap off (rd s (spadKey core off) 32) }

/-- Bytes 14 and 15 keep what they hold. -/
def putRing (s : State) (core off : Nat) (r : Ring) : State :=
  let t := snapRing s core off
  let k := spadKey core off
  wr (wr t (k + 12) (toLe 2 r.owner)) (k + 16) (r.tail.drop 4)

/-- The ring as `AWAITF` sees it: as at the start of the cycle (R181). -/
def ringSeen (s : State) (core off : Nat) : Ring :=
  match Tbl.find (s.core core).ringSnap off with
  | some l => ringOf l
  | none => ringAt s core off

/-! ## Transitions -/

/-- Claim the slot at the write position (R179): the header after it and the slot's index. -/
def Ring.claim (r : Ring) (owner : Nat) : Ring × Nat :=
  ({ (r.setState r.wslot 1) with owner := if r.owner = 0xFFFF then owner else r.owner, wpos := (r.wpos + 1) % 2 ^ 32 }, r.wslot)

/-- Release the slot at the read position. -/
def Ring.release (r : Ring) : Ring := { (r.setState r.rslot 0) with rpos := (r.rpos + 1) % 2 ^ 32 }

/-- What a condemned slot is blamed on; a slot whose state a program has set to 3 itself has no blamed event, and which unit, chunk and
log entry it names is a free value (log 18). -/
def condemnedAt (s : State) (core off : Nat) : Blame :=
  (Tbl.find (s.core core).condemned off).getD (
    let w := Config.slotBlame s.cycle core off
    ⟨0x100 + 4 * (w.toNat % 15), bits w.toNat 0 32, w.truncate 32, w⟩)

/-- Owner field of a cell agent: `%lcell` mod 64. -/
def Agent.ringOwner (g : Agent) : Nat := g.lcell % 64

/-- Do earlier accesses of the agent hold a header access back (R186, R187, R192)? -/
def ringHeld (s : State) (g : Agent) (off : Nat) (rel : Bool) : Bool :=
  heldBack s g (.store (zerosB 32)) (localAddr off) ⟨.here (spadKey g.core off), false⟩ 32 (!rel) rel

/-- Header address checks of the ring instructions: misaligned; outside the local window; then, once earlier accesses of the agent let
it be read, out of range. A wait that has passed them does not make them again (R321, R322, R327). -/
def ringHeader (s : State) (g : Agent) (m : MemOp) (kind : Nat) (rel : Bool) (k : Nat → Ring → Attempt) : Attempt :=
  let h := g.ea m
  if misaligned h 32 then .trap (memCause kind 2) h
  else match localOff h 32 with
    | none => .trap (memCause kind 3) h
    | some off =>
      if g.met.isNone && ringHeld s g off rel then .wait
      else
        let r := ringAt s g.core off
        if r.ok || g.begun || g.met.isSome then k off r else .trap (memCause kind 3) h

/-- The same for the header that an instruction names. -/
def ringHeldAt (s : State) (g : Agent) (m : MemOp) : Bool := ((localOff (g.ea m) 32).map fun off => ringHeld s g off false).getD true

/-- The release of a slot that a stream has drained, behind the `RELS` of the core's agents (R181), once its writes have been
performed. -/
def releaseDrained (s : State) (key : Nat) : State :=
  match (s.ctx key).relSlot with
  | none => s
  | some (core, off) =>
    if unacked s (ctxPoster (key / 64) (key % 64)) then s
    else (putRing s core off (ringAt s core off).release).setCtx key { s.ctx key with relSlot := none }

/-- Such releases of one ring that a claim of the cycle is to see (R181). -/
def drainRing (s : State) (core off : Nat) : State :=
  ((s.ctxs.filter fun e => e.2.relSlot = some (core, off)).map (·.1)).foldl releaseDrained s

/-- The machine as a claim on the ring sees it: releases of the cycle stand before claims (R181). -/
def claimView (s : State) (core off : Nat) : State := if (ringAt s core off).claimable then s else drainRing s core off

/-- R393: header bytes 12 to 31 are reset. -/
def tryRinit (m : MemOp) (s : State) (g : Agent) : Attempt :=
  let h := g.ea m
  if misaligned h 32 then .trap 0x8A h
  else match localOff h 32 with
    | none => .trap 0x8B h
    | some off =>
      if ringHeld s g off false then .wait
      else
        let r := ringAt s g.core off
        if r.ok then
          let s1 := snapRing s g.core off
          .go ((wr s1 (spadKey g.core off + 12) (({ r with owner := 0xFFFF, wpos := 0, rpos := 0, states := 0 } : Ring).tail)).setAgent
            g.key g.next)
        else .trap 0x8B h

def execRinit (m : MemOp) (s : State) : Out := onAgent s fun g => attempt s g (tryRinit m s g)

/-- R322. The service agent has no owner value. The owner is tested before the wait and behind it; a wait that a freeze has found
satisfied stays so (R321). -/
def tryAcqs (d : Reg) (m : MemOp) (s : State) (g : Agent) : Attempt :=
  ringHeader s g m kLoad false fun off r0 =>
    let foreign := fun (r : Ring) => g.service || (r.owner ≠ 0xFFFF && r.owner ≠ g.ringOwner)
    if !g.begun ∧ g.met.isNone ∧ foreign r0 then .trap 0x84 (g.ea m)
    else
      let t := claimView s g.core off
      let r := ringAt t g.core off
      if g.met.isNone ∧ (!r.ok ∨ !r.claimable) then .wait
      else if foreign r then .trap 0x84 (g.ea m)
      else
        let c := r.claim g.ringOwner
        .go ((putRing t g.core off c.1).setAgent g.key (g.setS d (localAddr (r.slotOff c.2))).next)

def execAcqs (d : Reg) (m : MemOp) (s : State) : Out := onAgent s fun g => attempt s g (tryAcqs d m s g)

/-- R361: a release of the agent's earlier loads and stores. -/
def tryFill (m : MemOp) (a : Reg) (s : State) (g : Agent) : Attempt :=
  ringHeader s g m kStore true fun off r =>
    let x := (g.sr a).toNat
    let b := 2 ^ 63 + r.base
    let i := (x - b) / r.size
    if g.service ∨ x < b ∨ (x - b) % r.size ≠ 0 ∨ r.count ≤ i ∨ r.state i ≠ 1 ∨ r.owner ≠ g.ringOwner then .trap 0x8C (g.ea m)
    else .go ((putRing s g.core off (r.setState i 2)).setAgent g.key g.next)

def execFill (m : MemOp) (a : Reg) (s : State) : Out := onAgent s fun g => attempt s g (tryFill m a s g)

/-- R327: the ring as at the start of the cycle; a condemned slot faults with the blamed cause. -/
def tryAwaitf (d : Reg) (m : MemOp) (s : State) (g : Agent) : Attempt :=
  ringHeader s g m kLoad false fun off _ =>
    let r := ringSeen s g.core off
    let done := fun (so : Word) => Attempt.go (s.setAgent g.key (g.setS d so).next)
    if g.met.isSome then done (g.met.getD 0)
    else if !r.ok then .wait
    else
      let so := r.slotOff r.rslot
      if r.state r.rslot = 3 then .blamed (condemnedAt s g.core so) (g.ea m)
      else if r.state r.rslot = 2 then done (localAddr so)
      else .wait

def execAwaitf (d : Reg) (m : MemOp) (s : State) : Out := onAgent s fun g => attempt s g (tryAwaitf d m s g)

/-- R390: a fill of this cycle comes behind it (R181). -/
def tryRels (m : MemOp) (s : State) (g : Agent) : Attempt :=
  ringHeader s g m kStore true fun off r =>
    if r.state r.rslot < 2 ∨ (ringSeen s g.core off).state r.rslot < 2 then .trap 0x8C (g.ea m)
    else .go ((putRing s g.core off r.release).setAgent g.key g.next)

def execRels (m : MemOp) (s : State) : Out := onAgent s fun g => attempt s g (tryRels m s g)

end Sys2Proof.Machine
end

