-- ==== Sys2Proof/Machine/Matrix.lean ====
section
/-! DEFINITION. The matrix engine of a core (07 R136 to R144, 06 R116 to R118, R125): planes, the engine queue,
accumulator access, checked mode, and MACQ, MREL (04 R79, R80). -/

namespace Sys2Proof.Machine

open Sys2Proof

/-! ## Bytes of an agent at an address -/

/-- The pages of n bytes from an address: address and length of each part. -/
def pageParts (a n : Nat) : List (Nat × Nat) :=
  if n = 0 then []
  else (List.range ((a + n - 1) / 65536 - a / 65536 + 1)).map fun i =>
    let b := if i = 0 then a else (a / 65536 + i) * 65536
    (b, min (a + n) ((a / 65536 + i + 1) * 65536) - b)

/-- The places of n bytes at an address of an agent: a reason with its address, or place and length of each part. -/
def agentPlaces (s : State) (g : Agent) (a : Word) (n : Nat) (want : Want) : Except (Nat × Word) (List (Place × Nat)) :=
  if bits a.toNat 62 2 ≥ 2 ∧ 2 ^ 20 < a.toNat % 2 ^ 20 + n then .error (3, a)
  else (pageParts a.toNat n).foldl (fun acc p =>
    match acc with
    | .error e => .error e
    | .ok l =>
      let v := BitVec.ofNat 64 p.1
      match resolveCached s g v want with
      | .error r => .error (r, v)
      | .ok loc => if loc.place.unreachable s then .error (0, v) else .ok (l ++ [(loc.place, p.2)])) (.ok [])

/-- Translations that an operation has needed are in the core's cache afterwards (R167). -/
def cacheRange (s : State) (g : Agent) (a : Word) (n : Nat) : State :=
  (pageParts a.toNat n).foldl (fun t p => cacheVa t g (BitVec.ofNat 64 p.1)) s

def readPlaces (s : State) (l : List (Place × Nat)) : List Byte := l.flatMap fun p => rdPlace s p.1 p.2

def writePlaces (s : State) : List (Place × Nat) → List Byte → State
  | [], _ => s
  | p :: t, b => writePlaces (wrPlace s p.1 (b.take p.2)) t (b.drop p.2)

/-- Ask the peers among these places for their bytes, once each, for an operation of an agent; all bytes, once the answers are there
(R251). -/
def fetchPlaces (s : State) (key op : Nat) (l : List (Place × Nat)) : State × Option (List Byte) :=
  l.foldl (fun (acc : State × Option (List Byte)) p =>
    match p.1, acc.1.agent key with
    | .peer slot pa, some g =>
      match g.reads.find? fun r => r.op = op && r.slot = slot && r.pa = pa && r.len = p.2 with
      | some r => (acc.1, acc.2.bind fun b => r.data.map fun d => b ++ (d ++ zerosB p.2).take p.2)
      | none =>
        (State.setAgent { acc.1 with outbox := acc.1.outbox ++ [.peerAccess slot pa false g.core g.slot g.nextId (.block p.2)] } key
          { g with nextId := g.nextId + 1, reads := g.reads ++ [⟨g.nextId, op, slot, pa, p.2, none⟩] }, none)
    | .peer _ _, none => (acc.1, none)
    | q, _ => (acc.1, acc.2.map (· ++ rdPlace acc.1 q p.2))) (s, some [])

/-- Has a peer answered that it cannot read for the operation (log 3)? -/
def Agent.refused (g : Agent) (op : Nat) : Bool := g.reads.any fun r => r.op = op && r.data = some []

def Agent.dropReads (g : Agent) (op : Nat) : Agent := { g with reads := g.reads.filter fun r => r.op ≠ op }

/-- The bytes of an MST at their places: those beyond the device are posted by its agent (R251, R273). -/
def copyOut (s : State) (key id : Nat) : List (Place × Nat) → List Byte → State
  | [], _ => s
  | p :: t, b =>
    let s1 := if p.1.far then postAgent s key id p.1 (b.take p.2) true else wrPlace s p.1 (b.take p.2)
    copyOut s1 key (id + 1) t (b.drop p.2)

/-- The units that the data of an agent's operation passes on its way to or from these places (R205). -/
def unitsOf (s : State) (g : Agent) (l : List (Place × Nat)) (out : Bool) : List W32 := l.flatMap fun p => pathUnits s g.core p.1 out p.2

/-- What a transfer of an agent carries, named by its first bytes (R202). -/
def genuineOf (s : State) (g : Agent) (va : Word) (l : List (Place × Nat)) (data : List Byte) : Event :=
  match l.head? with
  | some p => genuineAt s (some g.part) p.1 (bits va.toNat 0 55) (data.take p.2) g.node g.rid
  | none => genuine s 0 g.node g.rid

/-- The agent that issued a numbered operation of a core, while it counts it. -/
def opAgent (s : State) (core slot id : Nat) : Option Agent :=
  (s.agent (agentKey core slot)).filter fun g => g.ops.any fun o => o.id = id

/-! ## Tiles -/

def Core.tile (c : Core) (n : Acc) : Tile := c.tiles[n.val]
def Core.setTile (c : Core) (n : Acc) (t : Tile) : Core := { c with tiles := c.tiles.set n.val t }

def zeroTile : Vector W32 1024 := Vector.replicate 1024 0

/-- The 32-bit state word (R78). -/
def Tile.word (t : Tile) : Nat :=
  b2n t.owner.isSome * 2 ^ 31 + (t.owner.getD 0) * 2 ^ 24 + b2n t.full * 2 ^ 23 + b2n t.busy * 2 ^ 22 + b2n t.sat * 2 ^ 21 +
    b2n t.int * 2 ^ 20 + t.prog * 2 ^ 8

/-- Its 4 KiB; an EMPTY tile is all zeros. -/
def Tile.bytes (t : Tile) : List Byte := if t.full then t.words.toList.flatMap of32 else zerosB 4096

def owns (s : State) (g : Agent) (c : Acc) : Bool := ((s.core g.core).tile c).owner = some g.slot

/-! ## The engine queue (R142): what may come next is put on the agenda -/

def QEntry.slot : QEntry → Nat
  | .mma o => o.slot
  | .mswp i _ | .mzero i _ _ => i
def QEntry.id : QEntry → Nat
  | .mma o => o.id
  | .mswp _ i | .mzero _ i _ => i
/-- The tile that an entry changes. -/
def QEntry.acc : QEntry → Option Acc
  | .mma o => some o.c
  | .mzero _ _ c => some c
  | .mswp _ _ => none

def Copy.slot : Copy → Nat
  | .mldb i _ _ _ _ _ _ _ _ _ _ | .mst i _ _ _ _ _ | .mldc i _ _ _ _ _ => i
def Copy.id : Copy → Nat
  | .mldb _ i _ _ _ _ _ _ _ _ _ | .mst _ i _ _ _ _ | .mldc _ i _ _ _ _ => i

/-- An MLDC into the tile, issued before the numbered operation of its agent. -/
def mldcBefore (c : Core) (slot id : Nat) (t : Acc) : Bool :=
  c.copies.any fun x => match x with
    | .mldc i j u _ _ _ => i = slot && j < id && u = t
    | _ => false

def mmaBefore (c : Core) (slot id : Nat) (t : Acc) : Bool :=
  c.queue.any fun x => match x with
    | .mma o => o.slot = slot && o.id < id && o.c = t
    | _ => false

def mldbPending (c : Core) : Bool :=
  c.copies.any fun x => match x with
    | .mldb _ _ _ _ _ _ _ _ _ _ _ => true
    | _ => false

/-! ### Overlapping asynchronous accesses (R186) -/

/-- A range of memory that an operation has still to read or write. -/
structure Span where
  place : Place
  len : Nat
  writes : Bool
  deriving DecidableEq, Repr

def Span.meets (a b : Span) : Bool := (a.writes || b.writes) && a.place.overlaps a.len b.place b.len

/-- The ranges of n bytes at an address of an agent; none where they do not translate. -/
def spansOf (s : State) (g : Agent) (a : Word) (n : Nat) (writes : Bool) : List Span :=
  match agentPlaces s g a n (if writes then .write else .read) with
  | .ok l => l.map fun p => ⟨p.1, p.2, writes⟩
  | .error _ => []

/-- Bytes of the stationary data and of its scales (R137). -/
def planeBytes (f kk nn : Nat) : Nat := elemBytes (fmtWidth f) (kk * nn)
def planeScales (f kk nn : Nat) : Nat := if fmtBlock f = 0 then 0 else nn * (kk / fmtBlock f)

/-- What a stationary header makes an MLDB read: its source and the bytes there, trailing scales included. -/
def headData (f : Nat) (bscl : Word) (h : List Byte) : Word × Nat :=
  let kk := leAt h 8 4
  let nn := leAt h 12 2
  (leWord (h.take 8), planeBytes f kk nn + if bits bscl.toNat 62 2 = 0 then planeScales f kk nn else 0)

/-- The ranges that an MLDB is still to read: its header while that is unread, and the data that the header names, as it
stands where it is unread. -/
def Copy.spans (s : State) (g : Agent) : Copy → List Span
  | .mldb _ _ f _ hdr head bscl _ _ _ _ =>
    let data := fun (h : List Byte) => spansOf s g (headData f bscl h).1 (headData f bscl h).2 false
    match head with
    | some h => data h
    | none => spansOf s g hdr 16 false ++ (match agentPlaces s g hdr 16 .read with
      | .ok l => data (readPlaces s l)
      | .error _ => [])
  | .mst _ _ _ a _ _ => spansOf s g a 4096 true
  | .mldc _ _ _ a _ _ => spansOf s g a 4096 false

def localSpan (core : Nat) (writes : Bool) (r : Nat × Nat) : Span := ⟨.here (spadKey core r.1), r.2, writes⟩

/-- Slots of a ring in a state, as offset and length. -/
def ringSlots (s : State) (core : Nat) (hdr : Word) (st : Nat) : List (Nat × Nat) :=
  let r := ringAt s core (hdr.toNat % 2 ^ 20)
  if r.ok then ((List.range r.count).filter fun i => r.state i = st).map fun i => (r.slotOff i, r.size) else []

/-- What a chain has still to take and to write: rows of its arrays; FULL slots of its input ring, EMPTY ones and the one in
hand of its output ring. -/
def Chain.spans (s : State) (core : Nat) (ch : Chain) : List Span :=
  let at_ := fun (a : Word) => (a.toNat % 2 ^ 20 + 128 * ch.row, 128 * (ch.cnt - ch.row))
  let hand := match ch.outSlot with
    | some so => [(so.toNat + 128 * ch.outOff, (ringAt s core (ch.outAddr.toNat % 2 ^ 20)).size - 128 * ch.outOff)]
    | none => []
  ((if ch.inRing then ringSlots s core ch.inAddr 2 else [at_ ch.inAddr]).map (localSpan core false)) ++
    ((if ch.outRing then hand ++ ringSlots s core ch.outAddr 0 else [at_ ch.outAddr]).map (localSpan core true))

/-- Does an asynchronous access of the agent issued before its numbered one overlap these ranges and stand? -/
def asyncBefore (s : State) (g : Agent) (id : Nat) (mine : List Span) : Bool :=
  let c := s.core g.core
  let hit := fun (l : List Span) => l.any fun x => mine.any x.meets
  (c.copies.any fun x => x.slot = g.slot && x.id < id && hit (x.spans s g)) ||
    (c.chains.any fun x => x.slot = g.slot && x.id < id && hit (x.spans s g.core)) ||
    (g.posted.any fun p => p.async && !p.dead && p.id < id && hit [⟨p.place, p.bytes.length, true⟩]) ||
    hit ((mmaUnread s g id).map (localSpan g.core false))

/-- The same for an operation in a table: of an agent that is gone nothing stands. -/
def held186 (s : State) (core slot id : Nat) (mine : Agent → List Span) : Bool :=
  match s.agent (agentKey core slot) with
  | some g => asyncBefore s g id (mine g)
  | none => false

def mmaWaits (s : State) (core : Nat) (o : MmaOp) : Bool :=
  held186 s core o.slot o.id fun _ => o.unread.map (localSpan core false)

/-- The engine's next entry, put on the agenda for the first cycle in which it may take effect (R139, R141, R142). -/
def pump (s : State) (core : Nat) : State :=
  let c := s.core core
  let wait := max 1 (c.idleAt - s.cycle)
  match c.queue with
  | [] => s
  | .mma o :: _ => if o.start.isSome ∨ mldcBefore c o.slot o.id o.c ∨ mmaWaits s core o then s else schedOnce s wait (.mmaStart core)
  | .mswp _ _ :: _ => if mldbPending c then s else schedOnce s wait (.mswpEffect core)
  | .mzero _ _ _ :: _ => schedOnce s wait (.mzeroEffect core)

def Core.setCopy (c : Core) (slot id : Nat) (x : Copy) : Core :=
  { c with copies := mapIf (fun y => y.slot = slot ∧ y.id = id) (fun _ => x) c.copies }

/-- MST and MLDC that may begin do: they land six cycles later (R143). -/
def pumpCopies (s : State) (core : Nat) : State :=
  (s.core core).copies.foldl (fun t x =>
    let c := t.core core
    match x with
    | .mst slot id u addr none tr =>
      if mmaBefore c slot id u ∨ mldcBefore c slot id u then t
      else sched (t.setCore core (c.setCopy slot id (.mst slot id u addr (some (c.tile u).bytes) tr))) 6 (.mstLand core id)
    | .mldc slot id u addr false tr =>
      if mmaBefore c slot id u ∨ mldcBefore c slot id u ∨ held186 t core slot id (fun g => spansOf t g addr 4096 false) then t
      else sched (t.setCore core (c.setCopy slot id (.mldc slot id u addr true tr))) 6 (.mldcLand core id)
    | _ => t) s

/-- Does an operation of the agent on the tile, issued before number `id`, still stand (R143)? -/
def tileBusyFor (c : Core) (slot id : Nat) (u : Acc) : Bool :=
  (c.queue.any fun e => e.slot = slot && e.id < id && e.acc = some u) || c.copies.any fun x => match x with
    | .mst i j v _ _ _ | .mldc i j v _ _ _ => i = slot && j < id && v = u
    | _ => false

/-- Releases whose waits are met take effect now; the tile is free from the next cycle (R80, R143). -/
def pumpRels (s : State) (core : Nat) : State :=
  (s.core core).mrels.foldl (fun t r =>
    if tileBusyFor (t.core core) r.1 r.2.2 r.2.1 then t else schedOnce t 0 (.mrelEffect core r.2.1)) s

def pumpAll (s : State) (core : Nat) : State := pumpRels (pumpCopies (pump s core) core) core

/-- Put a matrix operation of a class in hand and go on. -/
def issueTile (s : State) (g : Agent) (e : Nat → QEntry) : State :=
  let h := ({ g with nextId := g.nextId + 1 }.addOp .tiles g.nextId).next
  pump ((s.setAgent g.key h).modCore g.core fun c => { c with queue := c.queue ++ [e g.nextId] }) g.core

def queueFull (s : State) (core : Nat) : Bool := 4 ≤ (s.core core).queue.length

/-! ## MMA (R140) -/

/-- Scale bytes of one operand row: none for a format without scales. -/
def scalesPerRow (f k : Nat) : Nat := if fmtBlock f = 0 then 0 else k / fmtBlock f

/-- Issue-stage checks, in the table's order. -/
def tryMma (chk : Bool) (c : Acc) (a b m n k : Reg) (fa fb : Fmt) (s : State) (g : Agent) : Attempt :=
  let sa := g.sr a
  let m' := (g.sr m).toNat
  let n' := (g.sr n).toNat
  let k' := (g.sr k).toNat
  let bad := fun (f : Nat) => fmtBlock f ≠ 0 && k' % fmtBlock f ≠ 0
  let mode := bits g.ascl.toNat 62 2
  let sc := m' * scalesPerRow fa.val k'
  let size := elemBytes (fmtWidth fa.val) (m' * k') + (if mode = 0 then sc else 0)
  if !owns s g c then .trap 0x84 0
  -- it completes at once, and is numbered (R140, R278)
  else if m' = 0 ∨ n' = 0 ∨ k' = 0 then
    .go ((s.modCore g.core fun q => { q with timeline := q.timeline + 1 }).setAgent g.key g.next)
  else if 32 < m' ∨ 32 < n' then .trap 0x59 0
  else if bad fa.val ∨ bad fb.val then .trap 0x1D 0
  else match localOff sa size with
    | none => .trap 0x83 sa
    | some off =>
      if mode = 1 ∧ 2 ^ 20 < bits g.ascl.toNat 0 20 + sc then .trap 0x83 sa
      else if queueFull s g.core then .wait
      else .go (issueTile s g fun id => .mma ⟨chk, c, fa.val, fb.val, off, (g.sr b).toNat, m', n', k', g.slot, id, hereTrap s g,
        g.ascl, g.mtol, none, [], 0, 0, 0, none, none⟩)

def execMma (chk : Bool) (c : Acc) (a b m n k : Reg) (fa fb : Fmt) (s : State) : Out :=
  onAgent s fun g => attempt s g (tryMma chk c a b m n k fa fb s g)

/-! ## The order of sums (R125) -/

/-- Both formats among codes 9 to 13 and 27. -/
def intAcc (fa fb : Nat) : Bool :=
  let f := fun (x : Nat) => (9 ≤ x && x ≤ 13) || x = 27
  f fa && f fb

/-- An element with its scale: its value, and whether a TERN2 code 10 was read. -/
def scaled (f x : Nat) (scale : Option Byte) : Val × Bool :=
  let e := elemVal f x
  match scale with
  | none => e
  | some b => ((Val.mul e.1 (scaleVal f b)).1, e.2)

/-- The exact sum of products, with NV where it is invalid: any NaN operand, ∞ · 0, +∞ meeting −∞. -/
def dot : List Val → List Val → Val × Bool
  | x :: xs, y :: ys =>
    let p := Val.mul x y
    let r := dot xs ys
    let t := Val.add false p.1 r.1
    (t.1, r.2 || x.isNan || y.isNan || p.1.isNan || t.1.isNan)
  | _, _ => (.zero false, false)

/-- Split a list into groups of n. -/
def groupsOf {α : Type} (n : Nat) : Nat → List α → List (List α)
  | 0, _ => []
  | _, [] => []
  | fuel + 1, l => l.take n :: groupsOf n fuel (l.drop n)

/-- One floating accumulation: canonical NaN, NV and OF only (R125). -/
def accFp (c : W32) (sum : Val × Bool) : W32 × W32 :=
  let t := Val.add false (val32 c) sum.1
  let nv := sum.2 || (val32 c).isSNan || (t.1.isNan && !(val32 c).isNan)
  let r := rne32 t.1
  (r.1, (if nv then fNV else 0) ||| (r.2 &&& fOF))

/-- One integer accumulation, and whether it clamped. -/
def accInt (c : W32) (sum : Val) : W32 × Bool := sat32 (c.toInt + sum.scaled 0)

/-- All groups of one element: image, flags, clamped. -/
def accElem (int : Bool) (d : Nat) (c : W32) (xs ys : List Val) : W32 × W32 × Bool :=
  ((groupsOf d xs.length xs).zip (groupsOf d ys.length ys)).foldl (fun acc p =>
    let sum := dot p.1 p.2
    if int then let r := accInt acc.1 sum.1; (r.1, acc.2.1, acc.2.2 || r.2)
    else let r := accFp acc.1 sum; (r.1, acc.2.1 ||| r.2, acc.2.2)) (c, 0#32, false)

/-- Row values of A from its images and scale bytes. -/
def aRow (o : MmaOp) (codes : List Nat) (sc : List Byte) : List (Val × Bool) :=
  codes.zipIdx.map fun x => scaled o.fa x.1 (if fmtBlock o.fa = 0 then none
    else if bits o.ascl.toNat 62 2 = 2 then some (if fmtE4M3Scale o.fa then 0x38#8 else 127#8)
    else some (sc.getD (x.2 / fmtBlock o.fa) 0))

/-- Column j of the active plane from row kb on. -/
def bCol (p : Plane) (kb k j : Nat) : List (Val × Bool) :=
  (List.range k).map fun i =>
    let q := kb + i
    scaled p.fmt ((p.elems.getD (q * p.nn + j) 0).toNat) (if fmtBlock p.fmt = 0 then none
      else some ((Tbl.find p.scales (256 * j + q / fmtBlock p.fmt)).getD 0))

/-! ## Starting and taking rows (R141) -/

def headMma (c : Core) : Option MmaOp :=
  match c.queue with
  | .mma o :: _ => some o
  | _ => none

def setHead (c : Core) (o : MmaOp) : Core :=
  match c.queue with
  | .mma _ :: t => { c with queue := .mma o :: t }
  | _ => c

/-- Cycles a row takes. -/
def MmaOp.rowTime (o : MmaOp) : Nat := ceilDiv o.k (min (fmtDepth o.fa) (fmtDepth o.fb))

/-- Start-stage faults. -/
def MmaOp.refused (o : MmaOp) (c : Core) : Bool :=
  let p := c.active
  let t := c.tile o.c
  !p.loaded || o.fb ≠ p.fmt || p.nn < o.n || p.kk < o.kb + o.k || (t.full && t.int ≠ intAcc o.fa o.fb)

/-- The head of the queue leaves; its operation is over. -/
def popHead (s : State) (core slot id : Nat) : State :=
  (s.modCore core fun c => { c with queue := c.queue.tail }).modAgent (agentKey core slot) fun g => g.opDone id

/-- Node and reported loop indices of an agent at a word (R300). -/
def nodeAt (s : State) (g : Agent) (pc : Nat) : Nat × List W32 :=
  let es := (((s.part g.part).bind (·.table)).map (·.entries)).getD []
  match es.find? fun e => e.oper = g.oper && e.first ≤ pc && pc ≤ e.last with
  | none => (((s.rec? g.part g.rid).map (·.node)).getD g.node, [])
  | some e => (e.node, (List.range e.nidx).map fun d => g.li.toList.getD (bits e.map (2 * d) 2) 0)

/-- Stop slots of the partition that may fire: with a dump area (R304). -/
def stopSlots (s : State) (part : Nat) : List (StopSlot × Nat) :=
  match (s.part part).bind (·.table) with
  | some t => if t.dump = 0 then [] else t.slots.zipIdx
  | none => []

/-- The slots that an agent meets: within a step those that it began with (R310). -/
def slotsOf (s : State) (g : Agent) : List (StopSlot × Nat) :=
  match g.stepSlots with
  | some l => l.zipIdx
  | none => stopSlots s g.part

/-- The agent's area stands still, its cycles counted up to `now`, for a stop that is still to be recorded; the service agent stands still
alone. -/
def halt (s : State) (g : Agent) (now : Nat) : State :=
  if g.service then s.modAgent g.key fun h => { h with halted := some 0 }
  else s.modRec g.part g.rid fun r => { r.countTo now with stopped := some 0 }

/-- A stop of the agent by one of the slots that it meets now (R307); one within a step ends the step (R306, R310). -/
def stopAgent (s : State) (g : Agent) (slot : Nat) : State :=
  let s1 := s.modAgent g.key fun h => { h with stepSlots := some ((slotsOf s g).map (·.1)), stepLeft := none }
  schedOnce (if g.stepLeft.isNone then s1 else halt s1 g (s.cycle + 1)) 0 (.preciseStop g.core g.slot slot)

/-- Can a stop of the agent be made: its area runs, and no cut has begun? -/
def stoppable (s : State) (g : Agent) : Bool :=
  !(((s.part g.part).map (·.pre.stopped)).getD true) &&
    (g.service || ((s.rec? g.part g.rid).map fun r => r.state = .running && (r.stopped.isNone || r.stopped = some 0)).getD false)

/-- The row slots that an MMA of an agent can meet: kind 4, the node of its issue, n below M (R304). -/
def rowSlots (s : State) (core : Nat) (o : MmaOp) : List (StopSlot × Nat) :=
  match opAgent s core o.slot o.id with
  | none => []
  | some g => (slotsOf s g).filter fun x => x.1.kind = 4 && x.1.arg % 2 ^ 18 = (nodeAt s g o.tr.pc).1 && bits x.1.arg 18 10 < o.m

/-- The agent and the slot that stop an MMA behind row n − 1 (R304, R308). -/
def rowHit (s : State) (core : Nat) (o : MmaOp) (n : Nat) : Option (Agent × Nat) :=
  match opAgent s core o.slot o.id with
  | none => none
  | some g => if stoppable s g then ((rowSlots s core o).find? fun x => !x.1.wide && bits x.1.arg 18 10 = n).map fun x => (g, x.2) else none

/-- The engine has frozen behind a row: a debugger's stop of the issuing agent, unless a pre-emption froze it (R308). -/
def rowStopped (s : State) (core : Nat) (o : MmaOp) : State :=
  match rowHit s core o o.rows with
  | some (g, k) => stopAgent s g k
  | none => s

/-- A row that a partition-wide slot names is complete. -/
def rowWide (s : State) (core : Nat) (o : MmaOp) : State :=
  match s.agent (agentKey core o.slot) with
  | none => s
  | some g => ((rowSlots s core o).filter fun x => x.1.wide && bits x.1.arg 18 10 = o.rows).foldl (fun t x =>
      t.modPart g.part fun p => disarmSlot { p with wideStop := true } x.2) s

/-- Is the agent that issued an operation cut by a marker that arrives in this cycle: nothing more starts (R236)? -/
def cutHere (s : State) (core slot id : Nat) : Bool :=
  match (opAgent s core slot id).bind fun g => s.part g.part with
  | some p => match p.pre with
    | .marker reach _ => reach ≤ s.cycle
    | .cut _ | .saved => true
    | _ => false
  | none => false

/-- MMA_START. A refused start is a late fault, and the engine stays idle: the entry behind may start in the next cycle (DESIGN CHOICE,
log 22). -/
def execMmaStart (core : Nat) (s : State) : Out :=
  .next (
    let c := s.core core
    match headMma c with
    | none => s
    | some o =>
      if o.start.isSome ∨ s.cycle < c.idleAt ∨ mldcBefore c o.slot o.id o.c ∨ mmaWaits s core o ∨ c.engineFrozen ∨ cutHere s core o.slot o.id then s
      else if fencedOn s [coreHop 10 core 0] then sched s 1 (.mmaStart core)
      else if o.refused c then
        let s1 := popHead s core o.slot o.id
        pumpAll (if (opAgent s core o.slot o.id).isNone then s1 else lateFault s1 (agentKey core o.slot) ⟨{ o.tr with cause := 0x59 }, none, true⟩) core
      else
        let t := c.tile o.c
        let t' : Tile := { t with busy := true, prog := o.rows, int := intAcc o.fa o.fb, words := if t.full then t.words else zeroTile }
        -- one that resumes at row p keeps the times of the rows behind (R235)
        let o' : MmaOp := { o with start := some (s.cycle - o.rows * o.rowTime), limit := none }
        sched (s.setCore core ((setHead c o').setTile o.c t')) (4 + o.rowTime) (.mmaRowWrite core))

/-- The images and scale bytes of A's row i as they stand in scratchpad. -/
def readARow (s : State) (core : Nat) (o : MmaOp) (i : Nat) : List Nat × List Byte :=
  let w := fmtWidth o.fa
  let bit0 := i * o.k * w
  let l := rd s (spadKey core (o.sA + bit0 / 8)) (elemBytes w o.k + 8)
  let codes := (List.range o.k).map fun q =>
    leNat (sliceB l ((bit0 % 8 + q * w) / 8) (w / 8 + 2)) / 2 ^ ((bit0 % 8 + q * w) % 8) % 2 ^ w
  let sc := scalesPerRow o.fa o.k
  let base := if bits o.ascl.toNat 62 2 = 1 then bits o.ascl.toNat 0 20 else o.sA + elemBytes w (o.m * o.k)
  (codes, rd s (spadKey core (base + i * sc)) sc)

/-- A running MMA whose row window ends takes its next row, but none behind a row that a stop names (R308); called at every tick. -/
def takeRow (s : State) (core : Nat) : State :=
  let c := s.core core
  match headMma c with
  | none => s
  | some o => match o.start with
    | none => s
    | some t0 =>
      if o.read < o.limit.getD o.m ∧ t0 + (o.read + 1) * o.rowTime ≤ s.cycle then
        s.setCore core (setHead c (
          if o.rows < o.read ∧ (rowHit s core o o.read).isSome then { o with limit := some o.read }
          else { o with taken := o.taken ++ [readARow s core o o.read], read := o.read + 1 }))
      else s

/-- The engine freezes: a running MMA after the row being read, the others where they stand (R234, R236). -/
def freezeEngine (s : State) (core : Nat) : State :=
  s.modCore core fun c =>
    let c1 := { c with engineFrozen := true }
    match headMma c with
    | some o => match o.start with
      | some t0 => setHead c1 { o with limit := some (min o.m ((s.cycle - t0) / max 1 o.rowTime + 1)) }
      | none => c1
    | none => c1

/-- And goes on. -/
def thawEngine (s : State) (core : Nat) : State := pumpAll (s.modCore core fun c => { c with engineFrozen := false }) core

/-- A row stop has lapsed: the engine goes on, unless a cut or another row stop of the core holds it (R308, R310). -/
def rowLapse (s : State) (core : Nat) : State :=
  let part := s.parts.find? fun e => e.1 ≤ core && core < e.1 + 2 ^ e.2.j
  if (part.map fun e => e.2.pre.stopped || e.2.stops.any fun x => x.kind = 4 && x.agent / 128 = core).getD true then s else thawEngine s core

/-- Does a started MMA still run? -/
def engineRuns (c : Core) : Bool := ((headMma c).map fun o => o.start.isSome).getD false

/-! ## Checked mode (R144) -/

def valSum (l : List Val) : Val := l.foldl (fun a b => (Val.add false a b).1) (.zero false)

/-- Row check: none where the row is not checked; else whether it is in error, with the words of Ci and Δi. -/
def rowCheck (int : Bool) (mtol : W32) (before after : List W32) (xs : List Val) (cols : List (List Val)) :
    Option (Bool × Word × Word) :=
  let num := fun (x : W32) => if int then Val.ofInt x.toInt else val32 x
  let delta := valSum ((before.zip after).map fun p => (Val.add false (num p.2) (num p.1).negate).1)
  let prods := cols.flatMap fun ys => (xs.zip ys).map fun p => (Val.mul p.1 p.2).1
  let c := valSum prods
  let image := fun (v : Val) => if int then BitVec.ofInt 64 (v.scaled 0) else (rne32 v).1.zeroExtend 64
  let wild : Val → Bool := fun v => match v with
    | .fin _ _ _ => false
    | _ => true
  if wild delta ∨ wild c ∨ prods.any wild ∨ (!int ∧ (before ++ after).any fun x => wild (val32 x)) then none
  else
    let bad := if int then !delta.eq c
      else
        let u := valSum (prods.map Val.abs)
        let diff := (Val.add false delta c.negate).1.abs
        Val.lt (Val.mul (val32 mtol) u).1.abs diff
    some (bad, image c, image delta)

/-- MMA_ROW_WRITE: row i is written and prog becomes i + 1. -/
def execMmaRowWrite (core : Nat) (s : State) : Out :=
  .next (
    let c := s.core core
    match headMma c with
    | none => s
    | some o =>
      if o.start.isNone ∨ (c.engineFrozen ∧ o.limit.getD o.m ≤ o.rows) then s
      else
        let row := match o.taken with
          | r :: _ => r
          | [] => readARow s core o o.rows
        let xs := aRow o row.1 row.2
        let cols := (List.range o.n).map fun j => bCol c.active o.kb o.k j
        let t := c.tile o.c
        let int := intAcc o.fa o.fb
        let d := min (fmtDepth o.fa) (fmtDepth o.fb)
        let before := (List.range o.n).map fun j => (t.words.toList.getD (32 * o.rows + j) 0)
        let res := (before.zip cols).map fun p => accElem int d p.1 (xs.map (·.1)) (p.2.map (·.1))
        let words := (List.range o.n).foldl (fun (v : Vector W32 1024) j =>
          v.setIfInBounds (32 * o.rows + j) ((res.map (·.1)).getD j 0)) t.words
        let tc := (xs.any (·.2)) || cols.any fun q => q.any (·.2)
        let fl := (res.map (·.2.1)).foldl (· ||| ·) (o.flags ||| (if tc then fTC else 0))
        let clamped := res.any (·.2.2)
        let t' : Tile := { t with words := words, full := true, sat := t.sat || clamped, prog := o.rows + 1 }
        let g := opAgent s core o.slot o.id
        let unit := coreHop 10 core 0
        let chk := if o.chk ∧ o.err.isNone ∧ !clamped then
            rowCheck int o.mtol before (res.map (·.1)) (xs.map (·.1)) (cols.map fun q => q.map (·.1)) else none
        let judged : State × Option Blame := match chk with
          | none => (s, none)
          | some (bad, ci, di) =>
            let e : Event := ⟨0, 0, (g.map (·.node)).getD 0, (g.map (·.rid)).getD 0, ci, di, BitVec.ofNat 64 o.rows, none, 0⟩
            if bad then let r := blame s unit e; (r.1, some r.2)
            else if s.dev.injections.any fun i => i.unit = unit then transit s [unit] e else (s, none)
        let o' : MmaOp := { o with taken := o.taken.tail, read := max o.read (o.rows + 1), rows := o.rows + 1, flags := fl, limit := if c.engineFrozen then o.limit else none,
                                   err := o.err <|> judged.2.map fun b => (o.rows, b) }
        -- the cut's limit, or a row stop that matches now and behind which no row has been taken
        let stop := decide (o.rows + 1 < o.m) &&
          (if c.engineFrozen then decide (o.limit.getD o.m ≤ o.rows + 1) else decide (o.read ≤ o.rows + 1) && (rowHit s core o (o.rows + 1)).isSome)
        let s1 := rowWide (judged.1.modCore core fun c1 =>
          if stop then { (setHead c1 { o' with start := none, limit := none }).setTile o.c { t' with busy := false } with engineFrozen := true }
          else (setHead c1 o').setTile o.c t') core o'
        if stop then rowStopped s1 core o'
        else if o.rows + 1 < o.m then sched s1 o.rowTime (.mmaRowWrite core)
        else sched s1 (if o.chk then 2 else 0) (.mmaComplete core))

/-- MMA_COMPLETE: the engine is idle from the next cycle; flags reach the agent (R123); a row in error is a late fault. -/
def execMmaComplete (core : Nat) (s : State) : Out :=
  .next (
    let c := s.core core
    match headMma c with
    | none => s
    | some o =>
      if o.rows < o.m ∨ o.start.isNone then s
      else
        let t := c.tile o.c
        let s1 := s.setCore core (({ c with idleAt := s.cycle + 1, timeline := c.timeline + 1 }).setTile o.c { t with busy := false, prog := 0 })
        let s2 := popHead s1 core o.slot o.id
        pumpAll (match opAgent s core o.slot o.id with
          | none => s2
          | some g =>
            let s3 := s2.modAgent g.key fun h => { h with fflags := h.fflags ||| o.flags }
            match o.err with
            | none => s3
            | some (row, b) => lateFault s3 g.key ⟨({ o.tr with lane := row }).blame b true, none, true⟩) core)

/-! ## MSWP, MZERO -/

/-- R382: a full queue holds it. -/
def tryMswp (s : State) (g : Agent) : Attempt :=
  if queueFull s g.core then .wait else .go (issueTile s g fun id => .mswp g.slot id)

def execMswp (s : State) : Out := onAgent s fun g => attempt s g (tryMswp s g)

/-- MSWP_EFFECT (R139). -/
def execMswpEffect (core : Nat) (s : State) : Out :=
  .next (
    let c := s.core core
    match c.queue with
    | .mswp slot id :: _ =>
      if mldbPending c ∨ s.cycle < c.idleAt ∨ c.engineFrozen ∨ cutHere s core slot id then s
      else pumpAll (popHead (s.setCore core { c with active := c.shadow, shadow := c.active, idleAt := s.cycle + 1,
                                                     timeline := c.timeline + 1 }) core slot id) core
    | _ => s)

/-- R384. -/
def tryMzero (c : Acc) (s : State) (g : Agent) : Attempt :=
  if !owns s g c then .trap 0x84 0
  else if queueFull s g.core then .wait else .go (issueTile s g fun id => .mzero g.slot id c)

def execMzero (c : Acc) (s : State) : Out := onAgent s fun g => attempt s g (tryMzero c s g)

/-- MZERO_EFFECT (R143). -/
def execMzeroEffect (core : Nat) (s : State) : Out :=
  .next (
    let c := s.core core
    match c.queue with
    | .mzero slot id u :: _ =>
      if s.cycle < c.idleAt ∨ c.engineFrozen ∨ cutHere s core slot id then s
      else
        let t := c.tile u
        pumpAll (popHead (s.setCore core (({ c with idleAt := s.cycle + 1, timeline := c.timeline + 1 }).setTile u
          { t with full := false, sat := false, int := false, words := zeroTile })) core slot id) core
    | _ => s)

/-! ## MLDB (R137, R138, R375) -/

/-- Largest kk by element width (R138). -/
def kMax (w : Nat) : Nat := 524288 / (32 * w)

/-- A fault of the header's fields. -/
def headFault (f : Nat) (h : List Byte) : Option Nat :=
  let kk := leAt h 8 4
  let nn := leAt h 12 2
  if kk = 0 ∨ kMax (fmtWidth f) < kk then some 0x59
  else if fmtBlock f ≠ 0 ∧ kk % fmtBlock f ≠ 0 then some 0x1D
  else if nn = 0 ∨ 32 < nn ∨ leAt h 14 2 ≠ 0 then some 0x59
  else none

/-- An earlier store of the agent, posted or not (R188), or an asynchronous one (R186), is still to reach bytes that an MLDB reads
(R137). -/
def mldbHeld (s : State) (g : Agent) (id : Nat) (mine : List Span) : Bool :=
  asyncBefore s g id mine || (g.outs.any fun x => x.id < id && x.op.writes && (accPlaces s g x).any fun p =>
    mine.any fun m => p.overlaps x.partW m.place m.len) ||
    g.posted.any fun x => !x.dead && x.id < id && mine.any fun m => x.place.overlaps x.bytes.length m.place m.len

/-- The stationary header as read, or nothing where it cannot be, and the cycle of landing. -/
def mldbHead (s : State) (g : Agent) (f : Nat) (hdr bscl : Word) (since : Nat) (h : List Byte) : List Byte × Nat :=
  match agentPlaces s g hdr 16 .read with
  | .error _ => ([], max (s.cycle + 1) (since + 5))
  | .ok l =>
    if (headFault f h).isSome then (h, max (s.cycle + 1) (since + 5))
    else
      let kk := leAt h 8 4
      let nn := leAt h 12 2
      let b := 16 + planeBytes f kk nn + if bits bscl.toNat 62 2 = 2 then 0 else planeScales f kk nn
      if (l.all fun p => p.1.own g.core) ∧ bits (leWord (h.take 8)).toNat 62 2 = 2 then (h, max s.cycle (since + 4 + ceilDiv b 512))
      else (h, s.cycle + (Config.latency s.free + 1))

/-- Is it not yet the turn of a read through the core window (R191)? -/
def windowLater (s : State) (core : Nat) (l : List Span) : Bool := s.turn ≠ .window && l.any fun p => p.place.window core

/-- Headers that may be read are read; landings go on the agenda. -/
def readHeads (s : State) (core : Nat) : State :=
  (s.core core).copies.foldl (fun t x => match x with
    | .mldb slot id f tr hdr none bscl sc since due tp => match opAgent t core slot id with
      | none => schedOnce t 1 (.mldbLand core)
      | some g =>
        if mldbHeld t g id (spansOf t g hdr 16 false) then schedOnce t 1 (.mldbLand core)
        else if windowLater t core (spansOf t g hdr 16 false) then
          (if t.arrivals.contains (.mldbLand core) then t else { t with arrivals := t.arrivals ++ [.mldbLand core] })
        else
          let got := match agentPlaces t g hdr 16 .read with
            | .ok l => fetchPlaces t g.key id l
            | .error _ => (t, some [])
          match got.2 with
          | none => schedOnce got.1 1 (.mldbLand core)
          | some h =>
            let r := mldbHead got.1 g f hdr bscl since h
            let t1 := { (cacheRange (cacheRange got.1 g hdr 16) g (headData f bscl r.1).1 (headData f bscl r.1).2) with free := t.free + 1 }.modCore
              core fun c => c.setCopy slot id (.mldb slot id f tr hdr (some r.1) bscl sc since (max due r.2) tp)
            sched t1 (r.2 - t.cycle) (.mldbLand core)
    | _ => t) s

/-- The B scales as they stand, with the bytes they lie in (R118): none where the header cannot be read. DESIGN CHOICE (log 22):
explicit ones past the end of the scratchpad read as 0, and trailing ones at a peer come with the data. -/
def bScales (s : State) (g : Agent) (f : Nat) (hdr bscl : Word) : List Span × List Byte :=
  let atPeer := fun (l : List (Place × Nat)) => l.any fun p => match p.1 with
    | .peer _ _ => true
    | _ => false
  match agentPlaces s g hdr 16 .read with
  | .error _ => ([], [])
  | .ok l =>
    let h := readPlaces s l
    if atPeer l then ([], []) else
    let mode := bits bscl.toNat 62 2
    let n := planeScales f (leAt h 8 4) (leAt h 12 2)
    if (headFault f h).isSome ∨ n = 0 ∨ mode = 2 then ([], [])
    else if mode = 1 then
      let so := bits bscl.toNat 0 20
      let m := min n (2 ^ 20 - so)
      ([localSpan g.core false (so, m)], rd s (spadKey g.core so) m)
    else
      let a := leWord (h.take 8) + BitVec.ofNat 64 (planeBytes f (leAt h 8 4) (leAt h 12 2))
      match agentPlaces s g a n .read with
      | .error _ => ([], [])
      | .ok q => if atPeer q then ([], []) else (q.map fun p => ⟨p.1, p.2, false⟩, readPlaces s q)

/-- R375: alignment is checked at issue, the rest after it; a misaligned one faults whatever it would wait for (DESIGN CHOICE,
log 22). A queued MSWP holds it (R139), and what holds back the scales that it reads as it issues does (R118, R137; log 22). -/
def tryMldb (f : Fmt) (tr : Bool) (m : MemOp) (s : State) (g : Agent) : Attempt :=
  let a := g.ea m
  if misaligned a 16 then .trap 0x82 a
  else if (s.core g.core).queue.any fun e => e.acc = none then .wait
  else
    let sc := bScales s g f.val a g.bscl
    if fmtBlock f.val ≠ 0 ∧ bits g.bscl.toNat 62 2 ≠ 2 ∧ mldbHeld s g g.nextId (spansOf s g a 16 false ++ sc.1) then .wait
    else
    let c : Copy := .mldb g.slot g.nextId f.val tr a none g.bscl sc.2 s.cycle s.cycle (hereTrap s g)
    .go (readHeads ((s.setAgent g.key ({ g with nextId := g.nextId + 1 }.addOp .copies g.nextId).next).modCore g.core
      fun q => { q with copies := q.copies ++ [c] }) g.core)

def execMldb (f : Fmt) (tr : Bool) (m : MemOp) (s : State) : Out := onAgent s fun g => attempt s g (tryMldb f tr m s g)

/-- The plane that the data gives: element (k, j) in the order k · nn + j. -/
def planeOf (f kk nn : Nat) (tr : Bool) (data scales : List Byte) (unit : Bool) : Plane :=
  let w := fmtWidth f
  let elem := fun (i : Nat) => (BitVec.ofNat 32 (elemAt data w i) : W32)
  let nb := if fmtBlock f = 0 then 0 else kk / fmtBlock f
  { loaded := true, fmt := f, kk := kk, nn := nn,
    elems := (List.range (kk * nn)).map fun i => if tr then elem (i % nn * kk + i / nn) else elem i,
    scales := (List.range nn).flatMap fun j => (List.range nb).map fun b =>
      (256 * j + b, if unit then (if fmtE4M3Scale f then 0x38#8 else 127#8) else scales.getD (j * nb + b) 0) }

def Plane.unload (p : Plane) : Plane := { p with loaded := false }

/-- The copy leaves, counted out. -/
def dropCopy (s : State) (core slot id : Nat) : State :=
  (s.modCore core fun c => { c with copies := c.copies.filter fun x => ¬(x.slot = slot ∧ x.id = id) }).modAgent
    (agentKey core slot) fun g => (g.opDone id).dropReads id

/-- One plane load lands: the plane, or a late fault and an unloaded shadow plane (R375). -/
def landMldb (s : State) (core slot id fmt : Nat) (tr : Bool) (hdr : Word) (head : List Byte) (bscl : Word)
    (scales : List Byte) (t : Trap) : State :=
  match opAgent s core slot id with
  | none => dropCopy s core slot id
  | some g =>
    let fail := fun (st : State) (trap : Trap) =>
      lateFault ((dropCopy st core slot id).modCore core fun c => { c with shadow := c.shadow.unload }) g.key ⟨trap, none, true⟩
    match agentPlaces s g hdr 16 .read with
    | .error (r, v) => fail s { t with cause := memCause kLoad r, addr := v }
    | .ok hp => match headFault fmt head with
      | some c => fail s { t with cause := c, addr := hdr }
      | none =>
        let kk := leAt head 8 4
        let nn := leAt head 12 2
        let src := (headData fmt bscl head).1
        let mode := bits bscl.toNat 62 2
        let n := planeBytes fmt kk nn
        match agentPlaces s g src (headData fmt bscl head).2 .read with
        | .error (r, v) => fail s { t with cause := memCause kLoad r, addr := v }
        | .ok l =>
          if g.refused id then fail s { t with cause := memCause kLoad 0, addr := src } else
          let data := (fetchPlaces s g.key id l).2.getD []
          let r := transit s (unitsOf s g (hp ++ l) false) (genuineOf s g src l data)
          match r.2 with
          | some b => fail r.1 ({ t with addr := src }.blame b (localUnit s g b.hop))
          | none =>
            let p := planeOf fmt kk nn tr (data.take n) (if mode = 0 ∧ scales.isEmpty then data.drop n else scales) (mode = 2)
            (dropCopy r.1 core slot id).modCore core fun c => { c with shadow := p }

/-- The units that its bytes pass. -/
def mldbUnits (s : State) (g : Agent) (f : Nat) (hdr : Word) (head : List Byte) (bscl : Word) : List W32 :=
  let us := fun (a : Word) (n : Nat) => match agentPlaces s g a n .read with
    | .ok l => unitsOf s g l false
    | .error _ => []
  us hdr 16 ++ us (headData f bscl head).1 (headData f bscl head).2

/-- Ask for the data of a plane load that lies at peers; the flag says that all of it is there (R251). -/
def mldbThere (s : State) (core slot id f : Nat) (head : List Byte) (bscl : Word) : State × Bool :=
  match opAgent s core slot id with
  | none => (s, true)
  | some g => match agentPlaces s g (headData f bscl head).1 (headData f bscl head).2 .read with
    | .error _ => (s, true)
    | .ok l => if (headFault f head).isSome then (s, true) else let r := fetchPlaces s g.key id l; (r.1, r.2.isSome)

/-- MLDB_LAND: headers are read; plane loads whose data is there land, in issue order. -/
def execMldbLand (core : Nat) (s : State) : Out :=
  .next (
    let s0 := readHeads s core
    let go := (s0.core core).copies.foldl (fun (acc : State × Bool) x => match acc.2, x with
      | true, .mldb slot id f tr hdr (some head) bscl sc _ due t =>
        if s.cycle < due ∨ (((acc.1.agent (agentKey core slot)).map fun g =>
            windowLater acc.1 core (spansOf acc.1 g (headData f bscl head).1 (headData f bscl head).2 false)).getD false) then (acc.1, false)
        else if (((acc.1.agent (agentKey core slot)).map fun g =>
            mldbHeld acc.1 g id (spansOf acc.1 g (headData f bscl head).1 (headData f bscl head).2 false)
              || fencedOn acc.1 (coreHop 10 core 0 :: mldbUnits acc.1 g f hdr head bscl)).getD false) then
          (schedOnce acc.1 1 (.mldbLand core), false)
        else
          let there := mldbThere acc.1 core slot id f head bscl
          if there.2 then (landMldb there.1 core slot id f tr hdr head bscl sc t, true) else (schedOnce there.1 1 (.mldbLand core), false)
      | true, .mldb _ _ _ _ _ none _ _ _ _ _ => (acc.1, false)
      | _, _ => acc) (s0, true)
    pumpAll go.1 core)

/-! ## MST, MLDC (R143, R376, R381) -/

/-- Issue a tile copy: alignment at once, other address faults after issue. Its numbers name its parts in two pages. -/
def issueCopy (s : State) (g : Agent) (c : Nat → Copy) : State :=
  let h := ({ g with nextId := g.nextId + 2 }.addOp .copies g.nextId).next
  pumpAll ((s.setAgent g.key h).modCore g.core fun q => { q with copies := q.copies ++ [c g.nextId] }) g.core

def execMst (m : MemOp) (c : Acc) (s : State) : Out :=
  onAgent s fun g =>
    let a := g.ea m
    if !owns s g c then faultNow s g 0x8C
    else if misaligned a 64 then faultNow s g 0x8A a
    else issueCopy s g fun id => .mst g.slot id c a none (hereTrap s g)

def execMldc (c : Acc) (m : MemOp) (s : State) : Out :=
  onAgent s fun g =>
    let a := g.ea m
    if !owns s g c then faultNow s g 0x84
    else if misaligned a 64 then faultNow s g 0x82 a
    else issueCopy s g fun id => .mldc g.slot id c a false (hereTrap s g)

/-- The translations of a tile copy that lands are refilled. -/
def cacheCopy (s : State) (core id : Nat) : State :=
  match (s.core core).copies.find? fun x => x.id = id with
  | some (.mst slot _ _ addr _ _) | some (.mldc slot _ _ addr _ _) => match opAgent s core slot id with
    | some g => cacheRange s g addr 4096
    | none => s
  | _ => s

/-- MST_LAND: the 4 KiB are written whole. -/
def execMstLand (core id : Nat) (s0 : State) : Out :=
  let s := cacheCopy s0 core id
  .next (match (s.core core).copies.find? fun x => match x with
      | .mst _ j _ _ (some _) _ => j = id
      | _ => false with
    | some (.mst slot _ _ addr (some data) t) =>
      if held186 s core slot id (fun g => spansOf s g addr 4096 true) then sched s 1 (.mstLand core id)
      else match opAgent s core slot id with
        | none => pumpAll (dropCopy s core slot id) core
        | some g =>
          let done := fun (st : State) => pumpAll (dropCopy st core slot id) core
          match agentPlaces s g addr 4096 .write with
          | .error (r, v) => lateFault (done s) g.key ⟨{ t with cause := memCause kStore r, addr := v }, none, true⟩
          | .ok l =>
            if fencedOn s (unitsOf s g l true) then sched s 1 (.mstLand core id)
            else
              let r := transit s (unitsOf s g l true) (genuineOf s g addr l data)
              match r.2 with
              | some b => lateFault (done r.1) g.key ⟨{ t with addr := addr }.blame b (localUnit s g b.hop), none, true⟩
              | none => done (copyOut r.1 g.key id l data)
    | _ => s)

/-- MLDC_LAND: the tile becomes FULL; its int bit is kept if it was FULL, else 0. -/
def execMldcLand (core id : Nat) (s0 : State) : Out :=
  let s := cacheCopy s0 core id
  .next (match (s.core core).copies.find? fun x => match x with
      | .mldc _ j _ _ true _ => j = id
      | _ => false with
    | some (.mldc slot _ u addr _ t) =>
      match opAgent s core slot id with
      | none => pumpAll (dropCopy s core slot id) core
      | some g =>
        let done := fun (st : State) => pumpAll (dropCopy st core slot id) core
        match agentPlaces s g addr 4096 .read with
        | .error (r, v) => lateFault (done s) g.key ⟨{ t with cause := memCause kLoad r, addr := v }, none, true⟩
        | .ok l =>
          if g.refused id then lateFault (done s) g.key ⟨{ t with cause := memCause kLoad 0, addr := addr }, none, true⟩ else
          let got := fetchPlaces s g.key id l
          let data := got.2.getD []
          let r := transit got.1 (unitsOf s g l false) (genuineOf s g addr l data)
          if got.2.isNone ∨ fencedOn s (unitsOf s g l false) then sched got.1 1 (.mldcLand core id)
          else match r.2 with
          | some b => lateFault (done r.1) g.key ⟨{ t with addr := addr }.blame b (localUnit s g b.hop), none, true⟩
          | none =>
            done (r.1.modCore core fun c =>
              let q := c.tile u
              c.setTile u { q with full := true, int := q.full && q.int,
                                   words := Vector.ofFn fun i : Fin 1024 => BitVec.ofNat 32 (leAt data (4 * i.val) 4) })
    | _ => s)

/-! ## MACQ, MREL (R79, R80, R372, R380) -/

/-- Was the tile owned at the start of this cycle? One released in it can be acquired from the next one on (R80). -/
def heldAtStart (s : State) (core : Nat) (c : Acc) : Bool := ((s.core core).stats[c.val]).getLsbD 31

def tryMacq (c : Acc) (s : State) (g : Agent) : Attempt :=
  let t := (s.core g.core).tile c
  match t.owner with
  | none => if heldAtStart s g.core c then .wait else .go ((s.modCore g.core fun q => q.setTile c { t with owner := some g.slot, full := false, sat := false, int := false }).setAgent
      g.key g.next)
  | some o => if o = g.slot then .go (s.setAgent g.key g.next) else .wait

def execMacq (c : Acc) (s : State) : Out := onAgent s fun g => attempt s g (tryMacq c s g)

def execMrel (c : Acc) (s : State) : Out :=
  onAgent s fun g =>
    if !owns s g c then faultNow s g 0x84
    else if tileBusyFor (s.core g.core) g.slot g.nextId c then
      (s.modCore g.core fun q => { q with mrels := q.mrels ++ [(g.slot, c, g.nextId)] }).setAgent g.key g.next
    else (s.modCore g.core fun q => q.setTile c (q.tile c).release).setAgent g.key g.next

/-- MREL_EFFECT. -/
def execMrelEffect (core : Nat) (c : Acc) (s : State) : Out :=
  .next (
    let q := s.core core
    match q.mrels.find? fun r => r.2.1 = c with
    | none => s
    | some r =>
      if tileBusyFor q r.1 r.2.2 c then s
      else s.setCore core ({ q with mrels := q.mrels.filter fun x => x.2.1 ≠ c }.setTile c (q.tile c).release))

end Sys2Proof.Machine
end

