-- ==== Sys2Proof/Machine/Control.lean ====
section
/-! DEFINITION. Control flow, predicates and masks, 0x30 to 0x37 and KLOG, KMOV (R77, R88, R108, R330 to R332, R366,
R367, R371, R386, R387, R392, R435). DONE stands in Traps.lean. -/

namespace Sys2Proof.Machine

open Sys2Proof

/-- BRANCH(t) of R317: the target taken unsigned against NWORDS. -/
def branchTo (s : State) (g : Agent) (t : Word) (taken : Agent → Agent) : Eff :=
  if s.nwords g ≤ t.toNat then .fault g 0xD else .ok { taken g with pc := t.toNat }

/-- PC + SEXT(off44, 44). -/
def target (g : Agent) (off : BitVec 44) : Word := BitVec.ofNat 64 g.pc + off.signExtend 64

/-- R330: the hint has no effect. -/
def execBr (_h : Hint) (off : BitVec 44) (s : State) : Out := agentOp s fun g => branchTo s g (target g off) id
/-- R331. -/
def execBrx (a : Reg) (s : State) : Out := agentOp s fun g => branchTo s g (g.sr a) id
/-- R332: the link is written only when the branch is in range. -/
def execCall (_h : Hint) (link : Reg) (off : BitVec 44) (s : State) : Out :=
  agentOp s fun g => branchTo s g (target g off) fun h => h.setS link (BitVec.ofNat 64 (h.pc + 1))
/-- R392. -/
def execRet (a : Reg) (s : State) : Out := agentOp s fun g => branchTo s g (g.sr a) id

/-- R77, R371: a taken branch out of range faults and leaves the counters. -/
def execLoop (_h : Hint) (n : Fin 4) (off : BitVec 44) (s : State) : Out :=
  agentOp s fun g =>
    let c := g.lc[n]
    if c = 0#32 then .ok g.next
    else
      let step := fun (h : Agent) => { h with lc := h.lc.set n (c - 1), li := h.li.set n (h.li[n] + 1) }
      if c = 1#32 then .ok (step g).next else branchTo s g (target g off) step

/-- R386. -/
def execPlog (d a b : PReg) (t : BitVec 4) (s : State) : Out :=
  agentOp s fun g => .ok (g.setP d (tableBit t (g.pr a) (g.pr b))).next

/-- p7 … p0 as a byte, bit 0 being 1 (R387). -/
def predByte (g : Agent) : Word := BitVec.ofNat 64 (sumNat ((List.range 8).map fun i => b2n (g.pr (Fin.ofNat 8 i)) * 2 ^ i))

/-- R387. -/
def execPmov (m : PMove) (s : State) : Out :=
  agentOp s fun g => .ok (match m with
    | .pp d a => g.setP d (g.pr a)
    | .toS d => g.setS d (predByte g)
    | .fromS a => { g with p := Vector.ofFn fun i : Fin 8 => (g.sr a).getLsbD i.val }).next

/-- R435: not ready in the next cycle; round-robin already stands after the agent that issued (R55). -/
def execYield (s : State) : Out := agentOp s fun g => .ok { g.next with wakeAt := s.cycle + 2 }

/-- A lane mask from the truth of each lane. -/
def maskOf (f : Nat → Bool) : W32 := BitVec.ofNat 32 (sumNat ((List.range 32).map fun i => b2n (f i) * 2 ^ i))

/-- R366. -/
def execKlog (d a b : KReg) (t : BitVec 4) (s : State) : Out :=
  agentOp s fun g => .ok (g.setK d (maskOf fun i =>
    tableBit t ((g.kr a).getLsbD i) ((g.kr b).getLsbD i))).next

/-- R367. -/
def execKmov (m : KMove) (s : State) : Out :=
  agentOp s fun g => .ok (match m with
    | .kk d a => g.setK d (g.kr a)
    | .toS d a => g.setS d ((g.kr a).zeroExtend 64)
    | .fromS d a => g.setK d ((g.sr a).truncate 32)).next

end Sys2Proof.Machine
end

