-- ==== Sys2Proof/Machine/Vector.lean ====
section
/-! DEFINITION. Vector instructions 0x50 to 0x63 (07 R129 to R132, 06 R122, R126, 21 R419 to R431). Each but VSHUF is
an effect on one agent's registers (`vecEff`), which a chain runs as well (R134). -/

namespace Sys2Proof.Machine

open Sys2Proof

/-! ## Lane loops -/

/-- Active lanes in ascending order, the generator threaded through (R120): results, flags, generator. -/
def eachLane (k : W32) (seed : Word) (f : Nat → Word → W32 × W32 × Word) : Lanes × W32 × Word :=
  let r := (List.range 32).foldl (fun (acc : List W32 × W32 × Word) i =>
    if lane k i then let x := f i acc.2.2; (acc.1 ++ [x.1], acc.2.1 ||| x.2.1, x.2.2) else (acc.1 ++ [0#32], acc.2))
    ([], 0#32, seed)
  (mapLanes fun i => r.1.getD i 0, r.2.1, r.2.2)

/-- One lane of a floating lane mode: one element, or the lower and then the upper one (R419). -/
def fpLane (f : VFmt) (op : Word → Nat → Nat → Nat → Nat × W32 × Word) (x y z : W32) (seed : Word) : W32 × W32 × Word :=
  match f with
  | .f32 => let r := op seed x.toNat y.toNat z.toNat; (BitVec.ofNat 32 r.1, r.2.1, r.2.2)
  | _ =>
    let lo := fun (w : W32) => w.toNat % 65536
    let hi := fun (w : W32) => w.toNat / 65536
    let a := op seed (lo x) (lo y) (lo z)
    let b := op a.2.2 (hi x) (hi y) (hi z)
    (BitVec.ofNat 32 (a.1 + 65536 * b.1), a.2.1 ||| b.2.1, b.2.2)

/-- What the arithmetic instructions compute of an element (R420). -/
inductive VOp where
  | arith (op : FOp)
  | fma
  | least
  | most
  deriving DecidableEq, Repr

def VOp.fp (o : VOp) (f : FD) (rm : Rm) (seed : Word) (x y z : Nat) : Nat × W32 × Word :=
  match o with
  | .arith op => f.arith op rm seed x y
  | .fma => f.fma rm seed x y z
  | .least => let r := minMax f false x y; (r.1, r.2, seed)
  | .most => let r := minMax f true x y; (r.1, r.2, seed)

def VOp.int (o : VOp) (x y z : Int) : Int :=
  match o with
  | .arith .add => x + y
  | .arith .sub => x - y
  | .arith _ => x * y
  | .fma => x * y + z
  | .least => min x y
  | .most => max x y

/-- Lane result by lane mode (R420). -/
def VOp.lane (o : VOp) (md : LMode) (frm : W32) (x y z : W32) (seed : Word) : W32 × W32 × Word :=
  match md with
  | .fp f rm => fpLane f (o.fp (vfmtFD f) (rmEff rm frm)) x y z seed
  | .iw => (BitVec.ofInt 32 (o.int x.toInt y.toInt z.toInt), 0#32, seed)
  | .is => let r := sat32 (o.int x.toInt y.toInt z.toInt); (r.1, if r.2 then fSA else 0#32, seed)

/-- Write the lanes under the mask unless a flag traps (R122, R129). -/
def putLanes (g : Agent) (kind : Nat) (k : VMask) (d : VNum) (r : Lanes × W32 × Word) : Eff :=
  fpset g { (g.setV d (maskLanes (g.kr k.k) k.z (g.vr d) r.1)).next with seed := r.2.2 } kind r.2.1

/-- R420. -/
def vecArith (o : VOp) (md : LMode) (k : VMask) (d a b c : VNum) (g : Agent) : Eff :=
  putLanes g 2 k d (eachLane (g.kr k.k) g.seed fun i sd =>
    o.lane md g.frm (laneAt (g.vr a) i) (laneAt (g.vr b) i) (laneAt (g.vr c) i) sd)

/-- R421. -/
def vecBits (f : W32 → W32 → W32) (k : VMask) (d a b : VNum) (g : Agent) : Eff :=
  putLanes g 2 k d (eachLane (g.kr k.k) g.seed fun i sd => (f (laneAt (g.vr a) i) (laneAt (g.vr b) i), 0#32, sd))

/-- Lane shifts; 32 and more shift every bit out. -/
def vshlWord (x n : W32) : W32 := if n.toNat < 32 then x <<< n.toNat else 0
def vshrWord (ar : Bool) (x n : W32) : W32 :=
  if ar then x.sshiftRight (min n.toNat 31) else if n.toNat < 32 then x >>> n.toNat else 0

/-- R424. -/
def vecCmp (c : Cmp) (iw : Bool) (k : VMask) (d : KReg) (a b : VNum) (g : Agent) : Eff :=
  let act := g.kr k.k
  let res := fun (i : Nat) =>
    if iw then (icompare c (laneAt (g.vr a) i) (laneAt (g.vr b) i), 0#32)
    else fcompare c (laneAt (g.vr a) i) (laneAt (g.vr b) i)
  let fl := (List.range 32).foldl (fun (x : W32) i => if lane act i then x ||| (res i).2 else x) 0#32
  let t := maskOf fun i => if lane act i then (res i).1 else !k.z && lane (g.kr d) i
  fpset g (g.setK d t).next 2 fl

/-- R425. -/
def vecCvt (cv : Cvt) (rm : Rm) (k : VMask) (d a : VNum) (g : Agent) : Eff :=
  putLanes g 6 k d (eachLane (g.kr k.k) g.seed fun i sd =>
    let r := convert cv (rmEff rm g.frm) sd ((laneAt (g.vr a) i).zeroExtend 64)
    (r.1.truncate 32, r.2.1, r.2.2))

/-- R430, R130. -/
def vecSf (f : SpecFn) (rm : Rm) (k : VMask) (d a : VNum) (g : Agent) : Eff :=
  putLanes g 7 k d (eachLane (g.kr k.k) g.seed fun i sd => specFn f (rmEff rm g.frm) sd (laneAt (g.vr a) i))

/-- R429: every lane is written. -/
def vecSel (k : KReg) (d a b : VNum) (g : Agent) : Eff :=
  .ok (g.setV d (mapLanes fun i => if lane (g.kr k) i then laneAt (g.vr a) i else laneAt (g.vr b) i)).next

/-- Write lanes that raise no flag under the mask. -/
def putPlain (g : Agent) (k : VMask) (d : VNum) (f : Nat → W32) : Eff :=
  .ok (g.setV d (maskLanes (g.kr k.k) k.z (g.vr d) (mapLanes f))).next

/-! ## VRED (R126, R428) -/

/-- Combine neighbours. -/
def pairUp {α : Type} (f : α → α → α) : List α → List α
  | a :: b :: t => f a b :: pairUp f t
  | l => l

/-- The pairwise tree over 2^n inputs. -/
def treeFold {α : Type} (f : α → α → α) (dflt : α) : Nat → List α → α
  | 0, l => l.headD dflt
  | n + 1, l => treeFold f dflt n (pairUp f l)

/-- Exact widening to FP32, a signalling NaN staying one. -/
def widen (f : VFmt) (x : Nat) : W32 :=
  match f with
  | .f32 => BitVec.ofNat 32 x
  | _ => if ((vfmtFD f).decode x).isSNan then 0x7F800001#32 else (rne32 ((vfmtFD f).decode x)).1

def redFp (op : RedOp) (x y : W32) : W32 × W32 :=
  match op with
  | .min => let r := minMax fd32 false x.toNat y.toNat; (BitVec.ofNat 32 r.1, r.2)
  | .max => let r := minMax fd32 true x.toNat y.toNat; (BitVec.ofNat 32 r.1, r.2)
  | _ => addRne x y

def redInt (op : RedOp) (sat : Bool) (x y : W32) : W32 × W32 :=
  match op with
  | .add => if sat then let r := sat32 (x.toInt + y.toInt); (r.1, if r.2 then fSA else 0#32) else (x + y, 0#32)
  | .min => (if x.sle y then x else y, 0#32)
  | .max => (if y.sle x then x else y, 0#32)
  | .and => (x &&& y, 0#32)
  | .or => (x ||| y, 0#32)
  | .xor => (x ^^^ y, 0#32)

def redIdentity (op : RedOp) (fp : Bool) : W32 :=
  match op with
  | .add | .or | .xor => 0
  | .min => if fp then 0x7F800000#32 else 0x7FFFFFFF#32
  | .max => if fp then 0xFF800000#32 else 0x80000000#32
  | .and => 0xFFFFFFFF#32

/-- The reduction of the active lanes: scalar result and flags. -/
def reduce (op : RedOp) (md : RMode) (k : W32) (v : Lanes) : Word × W32 :=
  let go := fun (f : W32 → W32 → W32 × W32) (n : Nat) (l : List W32) =>
    treeFold (fun (a b : W32 × W32) => let r := f a.1 b.1; (r.1, a.2 ||| b.2 ||| r.2)) (0#32, 0#32) n (l.map fun x => (x, 0#32))
  let at_ := fun (dflt : W32) (i : Nat) (x : W32) => if lane k i then x else dflt
  match md with
  | .fp .f32 =>
    let r := go (redFp op) 5 ((List.range 32).map fun i => at_ (redIdentity op true) i (laneAt v i))
    (r.1.zeroExtend 64, r.2)
  | .fp f =>
    let r := go (redFp op) 6 ((List.range 64).map fun e => at_ (redIdentity op true) (e / 2)
      (widen f (if e % 2 = 0 then (laneAt v (e / 2)).toNat % 65536 else (laneAt v (e / 2)).toNat / 65536)))
    (r.1.zeroExtend 64, r.2)
  | .iw => let r := go (redInt op false) 5 ((List.range 32).map fun i => at_ (redIdentity op false) i (laneAt v i))
    (r.1.signExtend 64, r.2)
  | .is => let r := go (redInt op true) 5 ((List.range 32).map fun i => at_ (redIdentity op false) i (laneAt v i))
    (r.1.signExtend 64, r.2)

/-! ## Meanings -/

def execVadd (md : LMode) (k : VMask) (d a b : VNum) (s : State) : Out := agentOp s (vecArith (.arith .add) md k d a b b)
def execVsub (md : LMode) (k : VMask) (d a b : VNum) (s : State) : Out := agentOp s (vecArith (.arith .sub) md k d a b b)
def execVmul (md : LMode) (k : VMask) (d a b : VNum) (s : State) : Out := agentOp s (vecArith (.arith .mul) md k d a b b)
def execVfma (md : LMode) (k : VMask) (d a b c : VNum) (s : State) : Out := agentOp s (vecArith .fma md k d a b c)
def execVmin (md : LMode) (k : VMask) (d a b : VNum) (s : State) : Out := agentOp s (vecArith .least md k d a b b)
def execVmax (md : LMode) (k : VMask) (d a b : VNum) (s : State) : Out := agentOp s (vecArith .most md k d a b b)
def execVand (k : VMask) (d a b : VNum) (s : State) : Out := agentOp s (vecBits (· &&& ·) k d a b)
def execVor (k : VMask) (d a b : VNum) (s : State) : Out := agentOp s (vecBits (· ||| ·) k d a b)
def execVxor (k : VMask) (d a b : VNum) (s : State) : Out := agentOp s (vecBits (· ^^^ ·) k d a b)
def execVshl (k : VMask) (d a b : VNum) (s : State) : Out := agentOp s (vecBits vshlWord k d a b)
def execVshr (ar : Bool) (k : VMask) (d a b : VNum) (s : State) : Out := agentOp s (vecBits (vshrWord ar) k d a b)
def execVcmp (c : Cmp) (iw : Bool) (k : VMask) (d : KReg) (a b : VNum) (s : State) : Out := agentOp s (vecCmp c iw k d a b)
def execVsel (k : KReg) (d a b : VNum) (s : State) : Out := agentOp s (vecSel k d a b)
def execVcvt (cv : Cvt) (rm : Rm) (k : VMask) (d a : VNum) (s : State) : Out := agentOp s (vecCvt cv rm k d a)
def execVsf (f : SpecFn) (rm : Rm) (k : VMask) (d a : VNum) (s : State) : Out := agentOp s (vecSf f rm k d a)

/-- R428: flags are set and never trap; sd is ready 6 cycles after issue. -/
def execVred (op : RedOp) (md : RMode) (k : KReg) (d : Reg) (a : VNum) (s : State) : Out :=
  agentOp s fun g =>
    let r := reduce op md (g.kr k) (g.vr a)
    .ok { ((g.setS d r.1).later (.s d.val) (s.cycle + 6)).next with fflags := g.fflags ||| r.2 }

/-- R131: index bits above 4 are ignored. -/
def execVperm (k : VMask) (d a b : VNum) (s : State) : Out :=
  agentOp s fun g => putPlain g k d fun i => laneAt (g.vr a) ((laneAt (g.vr b) i).toNat % 32)
def execVbc (k : VMask) (d : VNum) (a : Reg) (s : State) : Out :=
  agentOp s fun g => putPlain g k d fun _ => (g.sr a).truncate 32
def execVidx (k : VMask) (d : VNum) (s : State) : Out := agentOp s fun g => putPlain g k d fun i => BitVec.ofNat 32 i

/-- The vector part of a chain's body word: majors 0x50 to 0x5E (R134). -/
def vecEff : Instr → Option (Agent → Eff)
  | .vadd md k d a b => some (vecArith (.arith .add) md k d a b b)
  | .vsub md k d a b => some (vecArith (.arith .sub) md k d a b b)
  | .vmul md k d a b => some (vecArith (.arith .mul) md k d a b b)
  | .vfma md k d a b c => some (vecArith .fma md k d a b c)
  | .vmin md k d a b => some (vecArith .least md k d a b b)
  | .vmax md k d a b => some (vecArith .most md k d a b b)
  | .vand k d a b => some (vecBits (· &&& ·) k d a b)
  | .vor k d a b => some (vecBits (· ||| ·) k d a b)
  | .vxor k d a b => some (vecBits (· ^^^ ·) k d a b)
  | .vshl k d a b => some (vecBits vshlWord k d a b)
  | .vshr ar k d a b => some (vecBits (vshrWord ar) k d a b)
  | .vcmp c iw k d a b => some (vecCmp c iw k d a b)
  | .vsel k d a b => some (vecSel k d a b)
  | .vcvt cv rm k d a => some (vecCvt cv rm k d a)
  | .vsf f rm k d a => some (vecSf f rm k d a)
  | _ => none

/-! ## VSHUF (R132) and drowsiness (R81) -/

/-- The agent of an area by `%cell`. -/
def State.agentAt (s : State) (n rid cell : Nat) : Option Agent :=
  (s.agents.map (·.2)).find? fun g => g.part = n ∧ g.rid = rid ∧ g.slot < 64 ∧ g.cell = cell

/-- R132: a drowsy source wakes, and the result is then six cycles late. -/
def execVshuf (k : VMask) (d a : VNum) (b : Reg) (s : State) : Out :=
  onAgent s fun g =>
    let n := (g.sr b).toNat
    if g.alen ≤ n then faultNow s g 0x83
    else match s.agentAt g.part g.rid n with
      | none => faultNow s g 0x83
      | some src =>
        if src.core ≠ g.core then faultNow s g 0x83
        else if 4 * src.gran ≤ a.val then faultNow s g 0x84
        else
          let v := src.vr a
          let s1 := if src.drowsy then s.modAgent src.key fun h => { h with drowsy := false } else s
          s1.modAgent g.key fun h =>
            let r := (h.setV d (maskLanes (h.kr k.k) k.z (h.vr d) v)).next
            if src.drowsy then r.later (.v d.val) (s.cycle + 7) else r

/-- Granules go drowsy after 1,024 cycles without an issued instruction (R81). -/
def execGranuleDrowsy (core slot : Nat) (s : State) : Out :=
  .next (s.modAgent (agentKey core slot) fun g => if g.lastIssue + 1024 < s.cycle then { g with drowsy := true } else g)

end Sys2Proof.Machine
end

