-- ==== Sys2Proof/Machine/Chain.lean ====
section
/-! DEFINITION. Vector chains (07 R134, R135, 21 R423): VCHAIN and VCHAIN_ROW. -/

namespace Sys2Proof.Machine

open Sys2Proof

/-- The body words of a chain at word index `pc`: what each decodes to, or none where a word breaks the body rule:
major 0x50 to 0x5E, guard 0000, allocated registers, within the operator. -/
def chainBody (s : State) (g : Agent) (pc : Nat) : Nat → Option (List Instr)
  | 0 => some []
  | n + 1 =>
    let w := s.wordAt g pc
    if s.nwords g ≤ pc ∨ fld w 52 4 ≠ 0#4 then none
    else match decode w 0 with
      | .instr i =>
        if (vecEff i).isNone ∨ (vregsOf i).any (fun v => 4 * g.gran ≤ v) then none
        else (chainBody s g (pc + 1) n).map (i :: ·)
      | _ => none

/-- Is an array or ring-header address in the local window (R134)? -/
def chainLocal (a : Word) : Bool := bits a.toNat 62 2 = 2 && bits a.toNat 20 42 = 0

/-- A ring of a chain: its header as `AWAITF` and `ACQS` check it, and its slot size. -/
def chainRing (s : State) (g : Agent) (a : Word) : Option Nat :=
  if misaligned a 32 then some 0x82
  else match localOff a 32 with
    | none => some 0x83
    | some off =>
      let r := ringAt s g.core off
      if !r.ok then some 0x83 else if r.size % 128 ≠ 0 then some 0x19 else none

/-- R134, R423: checked before any row is taken; the agent goes on after the body. -/
def execVchain (a : Reg) (n : Fin 8) (s : State) : Out :=
  onAgent s fun g =>
    let x := g.sr a
    if misaligned x 32 then faultNow s g 0x82 x
    else match localOff x 32 with
      | none => faultNow s g 0x83 x
      | some off =>
        let l := rd s (spadKey g.core off) 32
        let inA := leWord (sliceB l 0 8)
        let outA := leWord (sliceB l 8 8)
        let flags := leAt l 20 1
        let vin := leAt l 21 1
        let vout := leAt l 22 1
        let inRing := bit flags 0
        let outRing := bit flags 1
        if !chainLocal inA then faultNow s g 0x83 inA
        else if !chainLocal outA then faultNow s g 0x83 outA
        else if flags / 4 ≠ 0 ∨ 4 * g.gran ≤ vin ∨ 4 * g.gran ≤ vout ∨ !isZeroB (l.drop 23) then faultNow s g 0x19 x
        else match chainBody s g (g.pc + 1) (n.val + 1) with
          | none => faultNow s g 0x19 x
          | some body =>
            match (if inRing then chainRing s g inA else none), (if outRing then chainRing s g outA else none) with
            | some c, _ => faultNow s g c inA
            | none, some c => faultNow s g c outA
            | none, none =>
              let cnt := leAt l 16 4
              let ch : Chain := ⟨g.slot, g.nextId, g.pc, inA, outA, cnt, inRing, outRing, vin, vout, body, 0, 0, 0, 0, none, false,
                g.frm, 0, g.seed, 0⟩
              let h := { ({ g with nextId := g.nextId + 1 }).addOp .tiles g.nextId with pc := g.pc + n.val + 2 }
              let s1 := s.setAgent g.key h
              if cnt = 0 then s1.modAgent g.key fun q => q.opDone g.nextId
              else s1.modCore g.core fun c => { c with chains := c.chains ++ [ch] }

/-! ## Rows -/

/-- Registers that a running chain keeps from its agent (R134, R90), `%seed` where its body rounds stochastically. The constants are no
registers that an instruction could find unwritten: an unmasked instruction names no mask (DEDUCED, log 21). -/
def Chain.names (ch : Chain) : List RName :=
  (.v ch.vin :: .v ch.vout :: ch.body.flatMap namesOf).filter (fun r => r ≠ .k 0 && r ≠ .p 0 && r ≠ .s 0)
    ++ (if ch.body.any (usesSeed ch.frm) then [.seed] else [])

/-- Where the next input row lies: a place in own scratchpad; a fault; or nothing yet. -/
inductive RowAt where
  | at_ (off : Nat)
  | trap (cause : Nat) (addr : Word)
  | blamed (b : Blame) (addr : Word)
  | wait
  deriving DecidableEq, Repr

/-- An array row: 128 bytes, 128-byte aligned, in the local window. -/
def arrayRow (base : Word) (row kind : Nat) : RowAt :=
  let a := base + BitVec.ofNat 64 (128 * row)
  if misaligned a 128 then .trap (memCause kind 2) a
  else match localOff a 128 with
    | some off => .at_ off
    | none => .trap (memCause kind 3) a

def headerOff (a : Word) : Nat := a.toNat % 2 ^ 20

def chainIn (s : State) (core : Nat) (ch : Chain) : RowAt :=
  if ch.inRing then
    let r := ringSeen s core (headerOff ch.inAddr)
    if !r.ok ∨ r.size % 128 ≠ 0 then .trap 0x83 ch.inAddr
    else
      let so := r.slotOff r.rslot
      if r.state r.rslot = 3 then .blamed (condemnedAt s core so) ch.inAddr
      else if r.state r.rslot = 2 then .at_ (so + 128 * ch.inOff) else .wait
  else arrayRow ch.inAddr ch.row kLoad

/-- Is the row in hand the last one of its input slot, or of its output slot? -/
def Chain.inLast (s : State) (core : Nat) (ch : Chain) : Bool :=
  ch.inRing && (ch.row + 1 = ch.cnt || (ch.inOff + 1) * 128 = (ringAt s core (headerOff ch.inAddr)).size)
def Chain.outLast (s : State) (core : Nat) (ch : Chain) : Bool :=
  ch.outRing && (ch.row + 1 = ch.cnt || (ch.outOff + 1) * 128 = (ringAt s core (headerOff ch.outAddr)).size)

/-- The output slot in hand, or one that can be claimed. -/
def chainOut (s : State) (g : Agent) (ch : Chain) : RowAt :=
  if ch.outRing then
    let r := ringAt (claimView s g.core (headerOff ch.outAddr)) g.core (headerOff ch.outAddr)
    match ch.outSlot with
    | some so => .at_ (so.toNat + 128 * ch.outOff)
    | none =>
      if !r.ok ∨ r.size % 128 ≠ 0 then .trap 0x83 ch.outAddr
      else if r.owner ≠ 0xFFFF ∧ r.owner ≠ g.ringOwner then .trap 0x84 ch.outAddr
      else if r.claimable then .at_ (r.slotOff r.wslot) else .wait
  else arrayRow ch.outAddr ch.row kStore

/-- One body word on the agent's registers: flags are set and never trap (R122). -/
def bodyStep (g : Agent) (i : Instr) : Agent :=
  match vecEff i with
  | none => g
  | some f => match f { g with ftrap := 0 } with
    | .ok h => { h with ftrap := g.ftrap, pc := g.pc }
    | .trap _ _ _ _ => g

/-- The body once, with the rounding mode of the chain's issue (R75): the agent's registers, `%seed` among them, which nothing else
reads or writes while the chain runs (R90), and the chain with the flags that it keeps until it completes (R123). -/
def bodyRow (g : Agent) (ch : Chain) : Agent × Chain :=
  let h := ch.body.foldl bodyStep { g with frm := ch.frm, fflags := ch.flags }
  ({ h with frm := g.frm, fflags := g.fflags }, { ch with flags := h.fflags })

/-- The chain leaves the core; its tile operation is over and its flags reach the agent (R123). -/
def chainEnd (s : State) (core : Nat) (ch : Chain) : State :=
  pumpAll ((s.modCore core fun c => { c with chains := c.chains.filter fun x => ¬(x.slot = ch.slot ∧ x.id = ch.id) }).modAgent
    (agentKey core ch.slot) fun g => { g.opDone ch.id with fflags := g.fflags ||| ch.flags }) core

/-- A memory fault on a row: rows before it are complete, the chain is over and the agent faults (R134); `%seed` is as it stood
before the chain (R120). -/
def chainFault (s : State) (core : Nat) (ch : Chain) (t : Agent → Trap) : State :=
  match s.agent (agentKey core ch.slot) with
  | none => s
  | some g => lateFault ((chainEnd s core ch).modAgent g.key fun h => if ch.body.any (usesSeed ch.frm) then { h with seed := ch.seed0 } else h)
      g.key ⟨t g, none, true⟩

def chainTrap (s : State) (ch : Chain) (cause : Nat) (addr : Word) (g : Agent) : Trap := g.trapAt s ch.pc cause addr ch.row

/-- Slot of the output ring once the row is written. -/
def outFill (s : State) (core : Nat) (ch : Chain) (so : Nat) : State :=
  let off := headerOff ch.outAddr
  let r := ringAt s core off
  putRing s core off (r.setState ((so - r.base) / max r.size 1) 2)

/-- One row, whole (R134): take it, run the body, write it; transitions of its rings. It is read together with the write of the output
row, at the row's last body word (DESIGN CHOICE, log 21). -/
def chainRow (s : State) (core : Nat) (ch : Chain) : State :=
  match s.agent (agentKey core ch.slot) with
  | none => s
  | some g => match chainIn s core ch, chainOut s g ch with
    | .trap c a, _ | .at_ _, .trap c a => chainFault s core ch (chainTrap s ch c a)
    | .blamed b a, _ => chainFault s core ch fun h => (chainTrap s ch 0 a h).blame b false
    | .at_ i, .at_ o =>
      let last := decide (ch.row + 1 = ch.cnt)
      -- claim
      let s1 := if ch.outRing ∧ ch.outSlot = none then
          let v := claimView s core (headerOff ch.outAddr)
          putRing v core (headerOff ch.outAddr) ((ringAt v core (headerOff ch.outAddr)).claim g.ringOwner).1 else s
      let row := lanesOfBytes (rd s1 (spadKey core i) 128)
      let b := bodyRow (g.setV (Fin.ofNat 64 ch.vin) row) ch
      let g1 := b.1
      let s2 := wr (s1.setAgent g.key g1) (spadKey core o) (bytesOfLanes (g1.vr (Fin.ofNat 64 ch.vout)))
      -- release of the input slot after its last row
      let inDone := ch.inLast s2 core
      let s3 := if inDone then putRing s2 core (headerOff ch.inAddr) (ringAt s2 core (headerOff ch.inAddr)).release else s2
      -- fill of the output slot after its last row
      let so := o - 128 * ch.outOff
      let outDone := ch.outLast s3 core
      let s4 := if outDone then outFill s3 core ch so else s3
      let ch' : Chain := { b.2 with
        row := ch.row + 1
        at_ := 0
        inOff := if inDone then 0 else ch.inOff + 1
        outOff := if outDone then 0 else ch.outOff + 1
        outSlot := if ch.outRing && !outDone then some (BitVec.ofNat 64 so) else none }
      if last then chainEnd s4 core ch'
      else s4.modCore core fun c =>
        { c with chains := mapIf (fun x => x.slot = ch.slot ∧ x.id = ch.id) (fun _ => ch') c.chains }
    | _, _ => s

/-- What holds the row in hand back: an earlier overlapping asynchronous access of the agent (R186), and at its rings what would hold
the agent's own `AWAITF`, `ACQS`, `FILL` or `RELS` in the chain's place (R134, R192). -/
def chainHeld (s : State) (core : Nat) (ch : Chain) : Bool :=
  match s.agent (agentKey core ch.slot) with
  | none => false
  | some g =>
    let span := fun (w : Bool) (r : RowAt) => match r with
      | .at_ o => [localSpan core w (o, 128)]
      | _ => []
    let h := g.upTo ch.id
    asyncBefore s g ch.id (span false (chainIn s core ch) ++ span true (chainOut s g ch))
      || (ch.inRing && ringHeld s h (headerOff ch.inAddr) (ch.inLast s core))
      || (ch.outRing && ringHeld s h (headerOff ch.outAddr) (ch.outLast s core))

/-- A running chain takes its next row. -/
def execVchainRow (core slot : Nat) (s : State) : Out :=
  .next (match (s.core core).chains.find? fun c => c.slot = slot with
    | none => s
    | some ch => if (ch.frozen ∧ ch.at_ = 0) ∨ chainHeld s core ch then s else chainRow s core ch)

end Sys2Proof.Machine
end

