-- ==== Sys2Proof/Machine/Float.lean ====
section
/-! DEFINITION. Scalar float instructions, 0x20 to 0x2B (R319, R354 to R364). -/

namespace Sys2Proof.Machine

open Sys2Proof

def low32 (w : Word) : W32 := w.truncate 32

/-- A result with its flags and generator: written zero-extended unless a flag traps (R122, R319). -/
def putF (g : Agent) (kind : Nat) (d : Reg) (v : Word) (fl : W32) (seed : Word) : Eff :=
  fpset g { (g.setS d v).next with seed := seed } kind fl

/-- R354. -/
def arithF (op : FOp) (rm : Rm) (d a b : Reg) (s : State) : Out :=
  agentOp s fun g =>
    let r := fd32.arith op (rmEff rm g.frm) g.seed (low32 (g.sr a)).toNat (low32 (g.sr b)).toNat
    putF g 1 d (BitVec.ofNat 64 r.1) r.2.1 r.2.2

def execFadd (rm : Rm) (d a b : Reg) (s : State) : Out := arithF .add rm d a b s
def execFsub (rm : Rm) (d a b : Reg) (s : State) : Out := arithF .sub rm d a b s
def execFmul (rm : Rm) (d a b : Reg) (s : State) : Out := arithF .mul rm d a b s
def execFdiv (rm : Rm) (d a b : Reg) (s : State) : Out := arithF .div rm d a b s

/-- R360. -/
def execFfma (rm : Rm) (d a b c : Reg) (s : State) : Out :=
  agentOp s fun g =>
    let r := fd32.fma (rmEff rm g.frm) g.seed (low32 (g.sr a)).toNat (low32 (g.sr b)).toNat (low32 (g.sr c)).toNat
    putF g 1 d (BitVec.ofNat 64 r.1) r.2.1 r.2.2

/-- R364. -/
def execFsqrt (rm : Rm) (d a : Reg) (s : State) : Out :=
  agentOp s fun g =>
    let r := sqrt32 (rmEff rm g.frm) g.seed (low32 (g.sr a))
    putF g 1 d (r.1.zeroExtend 64) r.2.1 r.2.2

/-- R362. -/
def execFmin (d a b : Reg) (s : State) : Out :=
  agentOp s fun g =>
    let r := minMax fd32 false (low32 (g.sr a)).toNat (low32 (g.sr b)).toNat
    putF g 1 d (BitVec.ofNat 64 r.1) r.2 g.seed
def execFmax (d a b : Reg) (s : State) : Out :=
  agentOp s fun g =>
    let r := minMax fd32 true (low32 (g.sr a)).toNat (low32 (g.sr b)).toNat
    putF g 1 d (BitVec.ofNat 64 r.1) r.2 g.seed

/-- R356. -/
def execFcmp (c : Cmp) (d : PReg) (a b : Reg) (s : State) : Out :=
  agentOp s fun g =>
    let r := fcompare c (low32 (g.sr a)) (low32 (g.sr b))
    fpset g (g.setP d r.1).next 1 r.2

/-- R357, R358, R124; traps of kind 6. -/
def execFcvt (cv : Cvt) (rm : Rm) (d a : Reg) (s : State) : Out :=
  agentOp s fun g =>
    let r := convert cv (rmEff rm g.frm) g.seed (g.sr a)
    putF g 6 d r.1 r.2.1 r.2.2

/-- The class bit of an FP32 image (R355). -/
def classBit (x : W32) : Nat :=
  match val32 x with
  | .nan sig => if sig then 8 else 9
  | .inf n => if n then 0 else 7
  | .fin n m _ =>
    if m = 0 then (if n then 3 else 4)
    else if x.toNat / 2 ^ 23 % 256 = 0 then (if n then 2 else 5)
    else if n then 1 else 6

/-- R355. -/
def execFclass (d a : Reg) (s : State) : Out :=
  agentOp s fun g => .ok (g.setS d (BitVec.ofNat 64 (2 ^ classBit (low32 (g.sr a))))).next

/-- R363; traps of kind 7. -/
def execFsf (f : SpecFn) (rm : Rm) (d a : Reg) (s : State) : Out :=
  agentOp s fun g =>
    let r := specFn f (rmEff rm g.frm) g.seed (low32 (g.sr a))
    putF g 7 d (r.1.zeroExtend 64) r.2.1 r.2.2

end Sys2Proof.Machine
end

