-- ==== Sys2Proof/Machine/Symbols.lean ====
section
/-! DEFINITION. Symbol instructions, 0x80 to 0x83, 0x89 and 0x8A (01 R17 to R25, 03 R60, R68, 11 R213, entries R333,
R352, R353, R411, R412), and the cells of an area. -/

namespace Sys2Proof.Machine

open Sys2Proof

/-! ## Cells of an area (R22, R68) -/

def isBlocked (w : Word) : Bool := symKind w = 0xC

/-- The next n cells from one on that are not BLOCKED. -/
def openCells (s : State) : Nat → Nat → Nat → List Nat
  | 0, _, _ => []
  | _, _, 0 => []
  | fuel + 1, c, n + 1 =>
    if isBlocked (s.cell c) then openCells s fuel (c + 1) (n + 1) else c :: openCells s fuel (c + 1) n

/-- The row cells of an area, in `%cell` order. -/
def areaCells (s : State) (start alen : Nat) : List Nat := openCells s (Config.cells - start) start alen

/-- Half the sweep time of the smallest partition-sized aligned subtree that contains the cells (R37). -/
def halfSpan (cells : List Nat) : Nat := sweepTime (spanJ (cells.headD 0) (cells.getLastD 0)) / 2

/-- Position of the END that closes the symbol at position i of a list of words. -/
def endOf (ws : List Word) (i : Nat) : Nat :=
  let d := symDepth (ws.getD i 0)
  let rest := ws.drop (i + 1)
  i + 1 + (rest.takeWhile fun w => !(symKind w = 3 && symDepth w = d)).length

/-! ## SYMR, SYMQ -/

/-- Area cell c = s[b] + imm28, the words of the area, and when the result is ready (R411). -/
def areaWord (s : State) (g : Agent) (d b : Reg) (imm : BitVec 28) (f : List Word → Nat → Word) : State :=
  let c := (g.sr b).toNat + imm.toNat
  if g.alen ≤ c then faultNow s g 0x21
  else
    let start := ((s.rec? g.part g.rid).map (·.start)).getD (g.lcell - g.cell)
    let cells := areaCells s start g.alen
    let near := cells.getD c 0 / 64 = g.core
    let v := f (cells.map s.cell) c
    s.setAgent g.key (((g.setS d v).later (.s d.val) (s.cycle + 2 + (if near then 0 else halfSpan cells))).next)

/-- R412. -/
def execSymr (d b : Reg) (imm : BitVec 28) (s : State) : Out :=
  cellOnly s 0x21 fun g => areaWord s g d b imm fun ws c => ws.getD c 0

/-- One property of a symbol (R411). -/
def symProp (q : SymQ) (depth : Nat) (ws : List Word) (c : Nat) : Word :=
  let w := ws.getD c 0
  match q with
  | .kind => BitVec.ofNat 64 (symKind w)
  | .depth => BitVec.ofNat 64 (symDepth w - depth)
  | .endc => BitVec.ofNat 64 (if symKind w = 1 ∨ symKind w = 2 then endOf ws c else c)
  | .bytes => BitVec.ofNat 64 (if symKind w = 8 then tileBytes w else 0)

def execSymq (q : SymQ) (d b : Reg) (imm : BitVec 28) (s : State) : Out :=
  cellOnly s 0x21 fun g => areaWord s g d b imm (symProp q g.depth)

/-! ## EMIT, EMITT -/

/-- Does the word hold a value that R18 or R19 reserves, align and retain aside? -/
def reservedSym (w : Word) : Bool :=
  let pay := symPay w
  match symKind w with
  | 0 => w.toNat ≠ 0
  | 1 | 2 => symSub w ≠ 0 || pay ≠ 0
  | 3 => 1 < symSub w || pay ≠ 0
  | 4 | 5 | 9 | 0xA => symSub w ≠ 0
  | 6 => symSub w ≠ 0 || 2 < pay
  | 7 => symSub w ≠ 0 || 65536 ≤ pay
  | 8 => symSub w ≠ 0 || 27 < tileFmt w || pay % 4096 ≠ 0
  | 0xB => symSub w ≠ 0 || 0x180 ≤ pay / 2 ^ 23
  | _ => true

/-- Bits 33 and 32 cleared. -/
def clearHints (w : Word) : Word := w &&& ~~~0x300000000#64

/-- R352. -/
def execEmit (a : Reg) (s : State) : Out :=
  cellOnly s 0x21 fun g =>
    let w := g.sr a
    let w' := if symKind w = 1 then w else clearHints w
    if symKind w = 8 ∨ 0xC ≤ symKind w ∨ reservedSym w' then faultNow s g 0xF2
    else if 64 ≤ g.emits.length then faultNow s g 0xF4
    else if 63 < g.depth + symDepth w then faultNow s g 0xF6
    else
      let e : Emission := ⟨w', none, 0⟩
      s.setAgent g.key { g with emits := g.emits ++ [e] }.next

/-- The chime-valid bit of a TILE word (R23). -/
def setCv (w : Word) : Word := w ||| 0x1000#64

/-- R353. The copy of b bytes takes ⌈b / 1,024⌉ cycles. -/
def tryEmitt (a b : Reg) (s : State) (g : Agent) : Attempt :=
  let w := g.sr a
  let p := g.sr b
  let f := tileFmt w
  let size := tileBytes w
  if symKind w ≠ 8 ∨ 27 < f ∨ symPay w % 4096 ≠ 0 ∨ symSub w ≠ 0 then .trap 0xF2 0
  else if (fmtBlock f ≠ 0 ∧ tileCols w % fmtBlock f ≠ 0) ∨ 4096 < size then .trap 0xF2 0
  else if 64 ≤ g.emits.length then .trap 0xF4 0
  else if 63 < g.depth + symDepth w then .trap 0xF6 0
  else if p.toNat % 32 ≠ 0 then .trap 0x82 p
  else match localOff p size with
    | none => .trap 0x83 p
    | some off =>
      let key := spadKey g.core off
      if heldBack s g (.load .d64 0) p ⟨.here key, false⟩ size false false then .wait
      else
        let l := rd s key size
        let w' := setCv (clearHints w)
        let e : Emission := ⟨w', some l, payloadChime w' l⟩
        -- a TERN2 tile's chime is made in linear mode (R201): a code of 10 is read as a number and sets TC (R115)
        let tc := f = 27 && (List.range (tileRows w * tileCols w)).any fun i => elemAt l 2 i = 2
        .go (s.setAgent g.key { g.next with emits := g.emits ++ [e], wakeAt := s.cycle + ceilDiv size 1024,
                                            fflags := if tc then g.fflags ||| fTC else g.fflags })

def execEmitt (a b : Reg) (s : State) : Out := cellOnly s 0x21 fun g => attempt s g (tryEmitt a b s g)

/-! ## CHIME (R213) -/

/-- The size checks, then the window. -/
def tryChime (lin : Bool) (f : Fmt) (sc : Bool) (d a b : Reg) (s : State) (g : Agent) : Attempt :=
  let p := g.sr a
  let n := (g.sr b).toNat
  let w := fmtWidth f.val
  if 4096 < n ∨ n * 8 % w ≠ 0 then .trap 0x21 0
  else
    let m := n * 8 / w
    let scs := if sc then m / fmtBlock f.val else 0
    match localOff p (n + scs) with
    | none => .trap 0x83 p
    | some off =>
      let key := spadKey g.core off
      if heldBack s g (.load .d64 0) p ⟨.here key, false⟩ (n + scs) false false then .wait
      else
        let v := chimeWord lin f.val m (rd s key n) (rd s (key + n) scs)
        -- in linear mode an element is read as a number: a TERN2 code of 10 sets TC (R115)
        let tc := lin && f.val = 27 && (List.range m).any fun i => elemAt (rd s key n) w i = 2
        let h := if tc then { g with fflags := g.fflags ||| fTC } else g
        .go (s.setAgent g.key (((h.setS d v).later (.s d.val) (s.cycle + ceilDiv n 128 + 2)).next))

def execChime (lin : Bool) (f : Fmt) (sc : Bool) (d a b : Reg) (s : State) : Out :=
  onAgent s fun g => attempt s g (tryChime lin f sc d a b s g)

/-! ## CANCEL (R333) -/

/-- The cancel reaches the root half a sweep later. -/
def execCancel (a : Reg) (s : State) : Out :=
  onAgent s fun g =>
    let j := ((s.part g.part).map (·.j)).getD 0
    sched (s.setAgent g.key g.next) (sweepTime j / 2) (.cancelEffect g.part ((g.sr a).toNat % 2 ^ 32))

end Sys2Proof.Machine
end

