-- ==== Sys2Proof/Machine/Row.lean ====
section
/-! DEFINITION. The row (01 R17 to R36): nesting, areas, the placer, tile payloads that move (11 R205, R206), operator
libraries (05 R110). -/

namespace Sys2Proof.Machine

open Sys2Proof

/-! ## Nesting (R20, R21) -/

/-- FREE and BLOCKED cells take no part. -/
def absent (w : Word) : Bool := symKind w = 0 || symKind w = 0xC
def opens (w : Word) : Bool := symKind w = 1 || symKind w = 2
def isApp (w : Word) : Bool := symKind w = 1
def isEnd (w : Word) : Bool := symKind w = 3
/-- A kind that may be an operator term. -/
def leads (w : Word) : Bool := symKind w = 7 || symKind w = 0xA

/-- One open term: an APP or a SEQ, and the whole terms in it so far. -/
structure Frame where
  app : Bool
  n : Nat
  deriving DecidableEq, Repr

/-- A term has ended: it counts in the frame below, or at the top. -/
def closeTerm (st : List Frame) (top : Nat) : List Frame × Nat :=
  match st with
  | [] => ([], top + 1)
  | f :: t => ({ f with n := f.n + 1 } :: t, top)

/-- May a term begin here? An application takes an operator and one argument; the row one term. -/
def mayBegin (st : List Frame) (top : Nat) (w : Word) : Bool :=
  match st with
  | [] => top = 0
  | f :: _ => !f.app || (f.n = 0 && leads w) || f.n = 1

/-- Walk an image: none where it is not well formed, else each symbol with the depth that nesting gives it. -/
def nestWalk : List Word → List Frame → Nat → Option (List (Word × Nat))
  | [], st, top => if st.isEmpty && top = 1 then some [] else none
  | w :: t, st, top =>
    if absent w then nestWalk t st top
    else if isEnd w then
      match st with
      | [] => none
      | f :: rest =>
        if symSub w ≠ (if f.app then 0 else 1) || (f.app && f.n ≠ 2) then none
        else
          let c := closeTerm rest top
          (nestWalk t c.1 c.2).map ((w, rest.length) :: ·)
    else if !mayBegin st top w then none
    else if opens w then (nestWalk t (⟨isApp w, 0⟩ :: st) top).map ((w, st.length) :: ·)
    else
      let c := closeTerm st top
      (nestWalk t c.1 c.2).map ((w, st.length) :: ·)

/-- Status 0x12 or 0x13, or 0 (R34). -/
def nestStatus (ws : List Word) : Nat :=
  match nestWalk ws [] 0 with
  | none => 0x12
  | some l =>
    if l.any fun p => p.2 ≤ 63 && symDepth p.1 ≠ p.2 then 0x12 else if l.any fun p => 63 < p.2 then 0x13 else 0

/-- R35: zero or more whole terms; nesting and depth only, with the depths of the open terms on the stack. -/
def wholeTerms : List Word → List (Bool × Nat) → Bool
  | [], st => st.isEmpty
  | w :: t, st =>
    if symKind w = 0 then wholeTerms t st
    else if isEnd w then
      match st with
      | [] => false
      | (app, d) :: rest => symDepth w = d && symSub w = (if app then 0 else 1) && wholeTerms t rest
    else
      let fits := match st with
        | [] => true
        | (_, d) :: _ => symDepth w = d + 1
      fits && wholeTerms t (if opens w then (isApp w, symDepth w) :: st else st)

/-! ## Innermost areas (R22, R37, R38) -/

/-- Scan with the innermost candidate: its APP cell, depth and words (last first). -/
def scanAreas : List (Nat × Word) → Option (Nat × Nat × List Word) → List Area
  | [], _ => []
  | (c, w) :: t, cand =>
    if symKind w = 0xC then scanAreas t cand
    else if symKind w = 0 then scanAreas t (cand.map fun x => (x.1, x.2.1, w :: x.2.2))
    else match cand with
      | some (a, d, cs) =>
        if symDepth w ≤ d then
          ⟨a, c, ((w :: cs)).reverse⟩ :: scanAreas t (if isApp w then some (c, symDepth w, [w]) else none)
        else if isApp w then scanAreas t (some (c, symDepth w, [w]))
        else scanAreas t (some (a, d, w :: cs))
      | none => scanAreas t (if isApp w then some (c, symDepth w, [w]) else none)

def Part.cells (p : Part) (n : Nat) : List Nat := (List.range (64 * p.size)).map (· + 64 * n)

def innermost (s : State) (n : Nat) (p : Part) : List Area := scanAreas ((p.cells n).map fun c => (c, s.cell c)) none

/-- The detect-phase cause of an area that is no well-formed application, or 0 (R38). -/
def defect (ws : List Word) : Nat :=
  let d := symDepth (ws.headD 0)
  let terms := (ws.drop 1).dropLast.filter fun w => !absent w && !isEnd w && symDepth w = d + 1
  if terms.isEmpty || !(leads (terms.headD 0)) then 0xD5
  else if terms.length ≠ 2 then 0xD1
  else if 65535 < (ws.filter fun w => symKind w = 0xA).length then 0xD4
  else 0

/-! ## Records and their areas -/

def Record.cells (s : State) (r : Record) : List Nat := areaCells s r.seat r.alen
def Record.words (s : State) (r : Record) : List Word := (r.cells s).map s.cell

/-- Cells from start to END, BLOCKED ones between included. -/
def Record.span (s : State) (r : Record) : Nat × Nat := (r.seat, (r.cells s).getLastD r.seat)

/-- Cells from one to another that are not BLOCKED (R68). -/
def openBetween (s : State) (lo hi : Nat) : List Nat := ((List.range (hi + 1 - lo)).map (lo + ·)).filter fun c => !isBlocked (s.cell c)

/-- How many of its agents an area has in a core. -/
def agentsIn (cells : List Nat) (core : Nat) : Nat := (cells.filter fun c => c / 64 = core).length

/-- Cores that an area spans, ascending. -/
def coresOf (cells : List Nat) : List Nat := (cells.map (· / 64)).eraseDups

/-! ## Placing symbols with their payloads (R26, R205, R206) -/

/-- Payload bytes of the TILE in a cell. -/
def slotBytes (s : State) (cell : Nat) : List Byte := rd s (slotKey cell) (tileBytes (s.cell cell))

/-- A payload that arrives at a cell: the units check it; condemned data stays so. The chime word to keep, or a blame. -/
def payloadArrives (s : State) (n rid : Nat) (w : Word) (l : List Byte) (chime : Word) (src dest : Nat) :
    State × Option Blame :=
  if condemnedChime chime then (s, none)
  else transit s (nodesBetween src dest ++ [coreHop 9 (dest / 64) 0])
    ⟨0, tileChunk n dest, symNode w, rid, chime, payloadChime w l, 0, none, slotKey dest⟩

/-- Put a symbol into a cell: word, payload and chime, a TILE with its chime-valid bit (R25); a blamed payload becomes ERR with the
stepping record's identifier (R206), no trap. -/
def putSymbol (s : State) (n rid : Nat) (x : Placed) : State × Option Blame :=
  match x.payload with
  | none => ((s.setCell x.dest x.word).setChime x.dest 0, none)
  | some l =>
    let r := payloadArrives s n rid x.word l x.chime x.src x.dest
    let s1 := wr r.1 (slotKey x.dest) l
    match r.2 with
    | none => ((s1.setCell x.dest (setCv x.word)).setChime x.dest x.chime, none)
    | some b => ((s1.setCell x.dest (errWord b.cause rid (symDepth x.word) (symNode x.word))).setChime x.dest 0, some b)

/-- The symbol of a cell, to be placed elsewhere. -/
def takeSymbol (s : State) (cell dest : Nat) : Placed :=
  let w := s.cell cell
  ⟨w, if symKind w = 8 then some (slotBytes s cell) else none, s.chime cell, dest, cell⟩

/-- Symbol cost c of R63. -/
def symCost (w : Word) : Nat := if symKind w = 8 then max 1 (ceilDiv (tileBytes w) 256) else 1

def absDiff (a b : Nat) : Nat := (a - b) + (b - a)

/-! ## Payload records (R32) -/

/-- A chime word and its payload, padded to 64 bytes. -/
def payloadRecord (chime : Word) (l : List Byte) : List Byte := padTo 64 (ofWord chime ++ l)

/-- The payload records of a list of symbol words, from their concatenation: chime and bytes of each TILE. -/
def splitPayloads : List Word → List Byte → List (Option (Word × List Byte))
  | [], _ => []
  | w :: t, l =>
    if symKind w = 8 then
      let b := tileBytes w
      some (leWord (l.take 8), sliceB l 8 b) :: splitPayloads t (l.drop (ceilDiv (8 + b) 64 * 64))
    else none :: splitPayloads t l

/-- Bytes that the payload records of these words take. -/
def payloadArea (ws : List Word) : Nat :=
  sumNat (ws.map fun w => if symKind w = 8 then ceilDiv (8 + tileBytes w) 64 * 64 else 0)

def wordsOfBytes (n : Nat) (l : List Byte) : List Word := (List.range n).map fun i => leWord (sliceB l (8 * i) 8)

/-- Symbol words and payload records of cells, as retained copies and images hold them (R210, R32). -/
def packCells (s : State) (cells : List Nat) : List Byte :=
  padTo 64 (cells.flatMap fun c => ofWord (s.cell c)) ++
    cells.flatMap fun c => if symKind (s.cell c) = 8 then payloadRecord (s.chime c) (slotBytes s c) else []

/-- The payload records of cells that are written to memory from an address on, each with its cell. -/
def payloadOffs (s : State) : Nat → List Nat → List (Nat × Nat)
  | _, [] => []
  | va, c :: t =>
    if symKind (s.cell c) = 8 then (c, va) :: payloadOffs s (va + ceilDiv (8 + tileBytes (s.cell c)) 64 * 64) t else payloadOffs s va t

/-- A payload on its way from the row to memory: the units of its path check it, the destination's before it writes (R205). -/
def payloadLeaves (s : State) (n : Nat) (p : Part) (rid : Nat) (x : Nat × Nat) : State × Option Blame :=
  let w := s.cell x.1
  let l := slotBytes s x.1
  if condemnedChime (s.chime x.1) then (s, none)
  else match walkLoc s p.asid x.2 .write with
    | .error _ => (s, none)
    | .ok loc => transit s (pathUnits s (s.root n p) loc.place true (8 + l.length))
        ⟨0, tileChunk n x.1, symNode w, rid, s.chime x.1, payloadChime w l, 0, none, 0⟩

/-- Payload records leave for memory: what the checks leave behind, and the state from which the records are packed, in which a blamed
payload has a condemned chime word (R206). -/
def payloadsLeave (s : State) (n : Nat) (p : Part) (rid va : Nat) (cells : List Nat) : State × State :=
  (payloadOffs s va cells).foldl (fun acc x =>
    let r := payloadLeaves acc.1 n p rid x
    (r.1, if r.2.isSome then acc.2.setChime x.1 condemnedWord else acc.2)) (s, s)

/-! ## The placer (R33) -/

/-- First cell of the next core, from a cell on, that is not BLOCKED, within a list of a partition's cells. -/
def nextCore (s : State) (hi : Nat) : Nat → Nat → Option Nat
  | 0, _ => none
  | fuel + 1, c =>
    let q := c / 64 * 64 + 64
    if hi ≤ q then none else if isBlocked (s.cell q) then nextCore s hi fuel q else some q

/-- The cell of each word, by a list of the non-BLOCKED cells left; none where they run out. -/
def placeCells (s : State) (hi : Nat) : List Word → List Nat → Option (List Nat)
  | [], _ => some []
  | w :: t, free =>
    let here : List Nat :=
      if isApp w && symAlign w && (free.headD 0) % 64 ≠ 0 then
        match nextCore s hi Config.cores (free.headD 0) with
        | some q =>
          let after := free.dropWhile (· < q)
          if (w :: t).length ≤ after.length then after else free
        | none => free
      else free
    match here with
    | [] => none
    | c :: rest => (placeCells s hi t rest).map (c :: ·)

/-! ## Operator libraries (R110) -/

/-- Read one operator: its directory entry and code; none where refused. The header gives no length of a library: code beyond it is taken to
be code that cannot be read (DESIGN CHOICE, log 28). -/
def readOper (s : State) (asid : Nat) (lib code : Nat) (e : List Byte) (isHandler : Bool) : Option Oper :=
  let entry := leAt e 0 4
  let nwords := leAt e 4 2
  let vreq := leAt e 6 1
  let fl := leAt e 7 1
  if nwords = 0 ∨ 8192 < nwords ∨ 64 < vreq ∨ (isHandler ∧ vreq ≠ 0) ∨ 64 ≤ fl ∨ !isZeroB (e.drop 8) then none
  else match readVa s asid (lib + code + 8 * entry) (8 * nwords) with
    | none => none
    | some l => some ⟨lib + code + 8 * entry, wordsOfBytes nwords l, vreq, if bit fl 3 then some (fl % 8) else none, bit fl 4, bit fl 5⟩

/-- The header of an image or a library, its hash compared before any other byte is read (R109): the bytes, or status 0x08 or 0x09. -/
def hashedHead (s : State) (asid va n : Nat) : Except Nat (List Byte) :=
  match readVa s asid va 8 with
  | none => .error 9
  | some h =>
    if leWord h ≠ Config.encodingHash then .error 8
    else match readVa s asid va n with
      | none => .error 9
      | some l => .ok l

/-- A library: its operators and handler number; or status 0x08 or 0x09. R44 gives no fate to one at an address that is no multiple of 8,
and none is refused for it (DESIGN CHOICE, log 28). -/
def readLibrary (s : State) (asid : Nat) (lib : Nat) : Except Nat (List Oper × Option Nat) :=
  match hashedHead s asid lib 64 with
  | .error c => .error c
  | .ok h =>
      let nops := leAt h 8 4
      let hd := leAt h 12 4
      let dir := leAt h 16 8
      let code := leAt h 24 8
      if nops = 0 ∨ 65536 < nops ∨ (hd ≠ 0xFFFFFFFF ∧ nops ≤ hd) ∨ dir % 16 ≠ 0 ∨ code % 8 ≠ 0 ∨ !isZeroB (h.drop 32) then .error 9
      else match readVa s asid (lib + dir) (16 * nops) with
        | none => .error 9
        | some d =>
          let ops := (List.range nops).map fun i => readOper s asid lib code (sliceB d (16 * i) 16) (i = hd)
          if ops.any Option.isNone then .error 9
          else .ok (ops.filterMap id, if hd = 0xFFFFFFFF then none else some hd)

/-! ## Tensor symbols (R28) -/

/-- A TENSOR symbol: valid, invalid, or none where its descriptor cannot be read. -/
def tensorValid (s : State) (asid desc ndesc : Nat) (w : Word) : Option Bool :=
  let i := bits w.toNat 12 20
  if ndesc ≤ i then some false
  else match readVa s asid (desc + 64 * i) 64 with
    | none => none
    | some d => match tensorOf d with
      | none => some false
      | some t => some (t.sliceOk (bits w.toNat 0 12))

end Sys2Proof.Machine
end

