-- ==== Sys2Proof/Machine/TMean.lean ====
section
/-! DEFINITION. The transformed mean (08 R145 to R158): `%tms`, partials, merging, the exit, table pairs, TMSET, TMLD,
VMEAN, XMEAN. TMEAN's join stands in Tree.lean. -/

namespace Sys2Proof.Machine

open Sys2Proof

/-! ## `%tms` (R145) -/

/-- mode: 0 power, 1 geometric, 2 table, 3 max; power with exponent +∞ is max. -/
structure Shape where
  mode : Nat
  nodiv : Bool
  slot : Nat
  dact : Nat
  p : Int
  deriving DecidableEq, Repr

def tmsShape (w : W32) : Shape :=
  let n := w.toNat
  let p := signedOf 16 (bits n 0 16)
  let mode := bits n 30 2
  ⟨if mode = 0 ∧ p = 0x7FFF then 3 else mode, bit n 29, bits n 26 3, bits n 24 2, p⟩

/-- A value that R145 reserves. -/
def tmsReserved (w : W32) : Bool :=
  let n := w.toNat
  bits n 24 2 = 3 || bits n 16 8 ≠ 0 || (bits n 30 2 = 0 && bits n 0 16 = 0)

/-- R146. -/
def execTmset (src : TmSrc) (s : State) : Out :=
  agentOp s fun g =>
    let v : W32 := match src with
      | .imm v => v
      | .reg a => (g.sr a).truncate 32
    if tmsReserved v then .fault g 0x1D else .ok { g with tms := v }.next

/-! ## Steps that round once, with their flags -/

abbrev FV := W32 × W32

def exp2r (x : W32) : FV := let r := specFn .exp2 .rne 0 x; (r.1, r.2.1)
def log2r (x : W32) : FV := let r := specFn .log2 .rne 0 x; (r.1, r.2.1)

/-- RNE32 of a value whose operation raised flags. -/
def rneOf (v : Val × W32) : FV := let r := rne32 v.1; (r.1, v.2 ||| r.2)
def subRne (a b : W32) : FV := rneOf (Val.add false (val32 a) (val32 b).negate)
def mulRne (a b : W32) : FV := rneOf (Val.mul (val32 a) (val32 b))
/-- RNE32(a + b · c). -/
def fmaRne (a b c : W32) : FV :=
  let p := Val.mul (val32 b) (val32 c)
  let t := Val.add false (val32 a) p.1
  rneOf (t.1, p.2 ||| t.2)
/-- RNE32(a / b) for a positive or negative exact b. -/
def divRne (a b : W32) : FV := let r := fd32.arith .div .rne 0 a.toNat b.toNat; (BitVec.ofNat 32 r.1, r.2.1)

/-- An exact FP32 image of a small integer over 2^k. -/
def imgOf (i : Int) (k : Int) : W32 := (rne32 (Val.ofInt i (-k))).1

def negInf : W32 := 0xFF800000#32
def posInf : W32 := 0x7F800000#32
def one32 : W32 := 0x3F800000#32
def tiny32 : W32 := 1#32

/-! ## Table pairs (R151) -/

/-- One table of a pair: domain, q and knots, read from the pair's bytes. -/
structure Table where
  lo : W32
  hi : W32
  q : W32
  knots : List W32
  deriving DecidableEq, Repr

def w32At (l : List Byte) (off : Nat) : W32 := BitVec.ofNat 32 (leAt l off 4)

def finite32 (x : W32) : Bool :=
  match val32 x with
  | .fin _ _ _ => true
  | _ => false

/-- The entry table is at 0, the exit table at 1,040. -/
def tableAt (l : List Byte) (off : Nat) : Table :=
  let lo := w32At l off
  let hi := w32At l (off + 4)
  ⟨lo, hi, (divRne 0x43800000#32 (subRne hi lo).1).1, (List.range 257).map fun i => w32At l (off + 8 + 4 * i)⟩

def Table.ok (t : Table) : Bool :=
  finite32 t.lo && finite32 t.hi && (val32 t.lo).lt (val32 t.hi) && t.knots.all finite32
    && finite32 t.q && !(val32 t.q).isZero

/-- TABLE(T, x), in its domain (R151). A NaN passes the exit test, and R151 gives MIN(u, 256) no result for it: u is 256, in the last
interval (DESIGN CHOICE, log 24). -/
def Table.look (t : Table) (x : W32) : FV :=
  let d := subRne x t.lo
  let u0 := mulRne d.1 t.q
  let u := if (val32 u0.1).lt (.ofInt 256) then u0.1 else 0x43800000#32
  let i : Nat := min ((val32 u).scaled (-149) / 2 ^ 149).toNat 255
  let fr := subRne u (imgOf i 0)
  let k := t.knots.getD i 0
  let dk := subRne (t.knots.getD (i + 1) 0) k
  let m := mulRne fr.1 dk.1
  let r := addRne k m.1
  (r.1, d.2 ||| u0.2 ||| fr.2 ||| dk.2 ||| m.2 ||| r.2)

/-- The pair in a slot of a core. -/
def pairOf (c : Core) (slot : Nat) : Option (Table × Table) :=
  (c.tables.toList.getD slot none).map fun p => (tableAt p.bytes 0, tableAt p.bytes 1040)

/-! ## Partials (R147, R148) -/

structure Partial where
  m : W32
  a : W32
  n : Nat
  deriving DecidableEq, Repr

def emptyPartial (sh : Shape) : Partial := if sh.mode = 1 then ⟨0, 0, 0⟩ else ⟨negInf, 0, 0⟩

/-- Is p an even integer? -/
def Shape.even (sh : Shape) : Bool := sh.p % 512 = 0

/-- Is x in the entry domain (R147)? -/
def Shape.inDomain (sh : Shape) (t : Option Table) (x : W32) : Bool :=
  let v := val32 x
  let fin := finite32 x
  match sh.mode with
  | 0 => if 0 < sh.p then fin && (sh.even || v.isZero || !v.neg?) else fin && !v.isZero && (sh.even || !v.neg?)
  | 1 => fin && !v.isZero && !v.neg?
  | 2 => match t with
    | some t => !v.isNan && !v.lt (val32 t.lo) && !(val32 t.hi).lt v
    | none => false
  | _ => !v.isNan

/-- The partial of an input in the domain. -/
def Shape.part (sh : Shape) (t : Option Table) (x : W32) : Partial × W32 :=
  match sh.mode with
  | 0 =>
    if (val32 x).isZero then (⟨negInf, 0, 1⟩, 0#32)
    else
      let l := log2r (x &&& 0x7FFFFFFF#32)
      let r := rneOf (Val.mul (.ofInt sh.p (-8)) (val32 l.1))
      (⟨r.1, one32, 1⟩, l.2 ||| r.2)
  | 1 => let l := log2r x; (⟨l.1, 0, 1⟩, l.2)
  | 2 => match t with
    | some t => let r := t.look x; (⟨r.1, one32, 1⟩, r.2)
    | none => (emptyPartial sh, 0#32)
  | _ => (⟨x, one32, 1⟩, 0#32)

/-- The nearest point of the domain to an input outside it, not a NaN (R148). -/
def Shape.clamp (sh : Shape) (t : Option Table) (x : W32) : W32 :=
  let v := val32 x
  let big : W32 := 0x7F7FFFFF#32
  match sh.mode with
  | 2 => match t with
    | some t => if v.lt (val32 t.lo) then t.lo else t.hi
    | none => x
  | 0 =>
    if x = posInf then big
    else if x = negInf ∧ sh.even then 0xFF7FFFFF#32
    else if 0 < sh.p then 0 else tiny32
  | _ => if x = posInf then big else tiny32

/-- One input's partial under dact, or an entry-domain fault. -/
def Shape.take (sh : Shape) (t : Option Table) (x : W32) : Except Nat (Partial × W32) :=
  if sh.inDomain t x then .ok (sh.part t x)
  else if sh.dact = 0 then .error 0x6D
  else if sh.dact = 2 ∨ (val32 x).isNan then .ok (emptyPartial sh, fNV)
  else let r := sh.part t (sh.clamp t x); .ok (r.1, r.2 ||| fNV)

/-! ## Merge and exit (R149, R150) -/

def Shape.merge (sh : Shape) (l r : Partial) : Partial × W32 :=
  if sh.mode = 1 then let m := addRne l.m r.m; (⟨m.1, 0, l.n + r.n⟩, m.2)
  else
    let mm := minMax fd32 true l.m.toNat r.m.toNat
    let m : W32 := BitVec.ofNat 32 mm.1
    let n := l.n + r.n
    if sh.mode = 3 ∨ m = negInf then (⟨m, if m = negInf then 0 else one32, n⟩, mm.2)
    else if !(val32 l.m).lt (val32 r.m) && !(val32 l.m).isNan && !(val32 r.m).isNan then
      let d := subRne r.m m
      let e := exp2r d.1
      let a := fmaRne l.a r.a e.1
      (⟨m, a.1, n⟩, mm.2 ||| d.2 ||| e.2 ||| a.2)
    else
      let d := subRne l.m m
      let e := exp2r d.1
      let a := fmaRne r.a l.a e.1
      (⟨m, a.1, n⟩, mm.2 ||| d.2 ||| e.2 ||| a.2)

/-- y, or the cause of an exit fault; the exit table in table mode. -/
def Shape.exit (sh : Shape) (t : Option Table) (f : Partial) : Except Nat (W32 × W32) :=
  let nImg := imgOf f.n 0
  let done := fun (y : W32 × W32) => if y.1 = posInf ∨ y.1 = negInf then (.error 0x6E : Except Nat (W32 × W32)) else .ok y
  if f.n = 0 then .error 0x6E
  else if sh.mode = 3 then done (f.m, 0#32)
  else if sh.mode = 1 then
    let l := if sh.nodiv then (f.m, 0#32) else divRne f.m nImg
    let y := exp2r l.1
    done (y.1, l.2 ||| y.2)
  else if (val32 f.a).isZero then done (0#32, 0#32)
  else
    let la := log2r f.a
    let ln := if sh.nodiv then (0#32, 0#32) else log2r nImg
    let t1 := Val.add false (val32 f.m) (val32 la.1)
    let t2 := Val.add false t1.1 (val32 ln.1).negate
    let l := rneOf (t2.1, t1.2 ||| t2.2)
    let fl := la.2 ||| ln.2 ||| l.2
    if sh.mode = 0 then
      let q := divRne l.1 (imgOf sh.p 8)
      let y := exp2r q.1
      done (y.1, fl ||| q.2 ||| y.2)
    else match t with
      | none => .error 0x6F
      | some t =>
        if (val32 l.1).lt (val32 t.lo) || (val32 t.hi).lt (val32 l.1) then .error 0x6E
        else let y := t.look l.1; done (y.1, fl ||| y.2)

/-- The tree of R126 over 32 partials, and the merges' flags. -/
def Shape.tree (sh : Shape) (l : List Partial) : Partial × W32 :=
  treeFold (fun (x y : Partial × W32) => let r := sh.merge x.1 y.1; (r.1, x.2 ||| y.2 ||| r.2)) (emptyPartial sh, 0#32) 5
    (l.map fun p => (p, 0#32))

/-- Partials of the active lanes; the first lane that faults. -/
def Shape.lanes (sh : Shape) (t : Option Table) (k : W32) (v : Lanes) : Nat → Nat → Except (Nat × Nat) (List Partial × W32)
  | 0, _ => .ok ([], 0#32)
  | n + 1, i =>
    match (if lane k i then sh.take t (laneAt v i) else .ok (emptyPartial sh, 0#32)) with
    | .error c => .error (c, i)
    | .ok p => match Shape.lanes sh t k v n (i + 1) with
      | .error e => .error e
      | .ok r => .ok (p.1 :: r.1, p.2 ||| r.2)

/-- A reduction as VMEAN makes it: value and flags, or a cause with its lane (R155). -/
def Shape.mean (sh : Shape) (c : Core) (k : W32) (v : Lanes) : Except (Nat × Option Nat) (W32 × W32) :=
  let pr := pairOf c sh.slot
  if sh.mode = 2 ∧ pr.isNone then .error (0x6F, none)
  else match sh.lanes (pr.map (·.1)) k v 32 0 with
    | .error (c, i) => .error (c, some i)
    | .ok ps =>
      let f := sh.tree ps.1
      match sh.exit (pr.map (·.2)) f.1 with
      | .error c => .error (c, none)
      | .ok y => .ok (y.1, ps.2 ||| f.2 ||| y.2)

/-! ## VMEAN -/

/-- R155: no flag traps (R122). -/
def execVmean (k : KReg) (d : Reg) (a : VNum) (s : State) : Out :=
  onAgent s fun g =>
    match (tmsShape g.tms).mean (s.core g.core) (g.kr k) (g.vr a) with
    | .error (c, l) => faultNow s g c 0 (l.getD 0xFFFFFFFF)
    | .ok y =>
      let h := { (g.setS d (y.1.zeroExtend 64)) with fflags := g.fflags ||| y.2 }
      s.setAgent g.key (h.later (.s d.val) (s.cycle + 8)).next

/-! ## XMEAN (R156) -/

/-- What the next row comes to. -/
def xmeanIn (s : State) (g : Agent) (x : XRow) : RowAt :=
  if x.ring then
    let r := ringSeen s g.core (headerOff x.addr)
    if !r.ok ∨ r.size % 128 ≠ 0 then .trap 0x83 x.addr
    else
      let so := r.slotOff r.rslot
      if r.state r.rslot = 3 then .blamed (condemnedAt s g.core so) x.addr
      else if r.state r.rslot = 2 then .at_ (so + 128 * (x.row % (r.size / 128))) else .wait
  else
    let a := x.addr + BitVec.ofNat 64 (128 * x.row)
    match localOff a 128 with
    | none => .trap 0x83 a
    | some off => if heldBack s g (.load .d64 0) a ⟨.here (spadKey g.core off), false⟩ 128 false false then .wait else .at_ off

/-- Take the row: lane r is written 8 cycles later, the agent goes on in the cycle after the last lane. -/
def xmeanTake (s : State) (g : Agent) (x : XRow) : Attempt :=
  match xmeanIn s g x with
  | .trap c a => .go (faultNow s g c a x.row)
  | .blamed b a => .blamed b a
  | .wait => .wait
  | .at_ off =>
    let v := lanesOfBytes (rd s (spadKey g.core off) 128)
    match (tmsShape g.tms).mean (s.core g.core) 0xFFFFFFFF#32 v with
    | .error (c, _) => .go (faultNow s g c 0 x.row)
    | .ok y =>
      let last := decide (x.row + 1 = x.rows)
      let r := ringAt s g.core (headerOff x.addr)
      let s1 := if x.ring && (last || (x.row + 1) % max (r.size / 128) 1 = 0) then putRing s g.core (headerOff x.addr) r.release else s
      let old := g.vr x.d
      let h := { g.setV x.d (old.set! x.row y.1) with fflags := g.fflags ||| y.2 }
      let h' := h.later (.v x.d.val) (s.cycle + 8)
      .go (s1.setAgent g.key (if last then { h'.next with xrow := none, wakeAt := s.cycle + 9 }
        else { h' with xrow := some { x with row := x.row + 1 } }))

/-- The next row of an XMEAN under way takes the core's vector slot. -/
def execXmeanRow (core slot : Nat) (s : State) : Out :=
  .next (match s.agent (agentKey core slot) with
    | none => s
    | some g => match g.xrow with
      | none => s
      | some x => attempt s g (xmeanTake s g x))

/-- The checks before any row (R156), then the first row. An XMEAN resumed goes on from the row it holds. -/
def execXmean (ring : Bool) (d : VNum) (a b : Reg) (s : State) : Out :=
  onAgent s fun g =>
    let sa := g.sr a
    let sb := (g.sr b).toNat
    let start := fun (x : XRow) =>
      let h := { g with xrow := some x }
      attempt (s.setAgent g.key h) h (xmeanTake (s.setAgent g.key h) h x)
    match g.xrow with
    | some x => start x
    | none =>
      if 32 < sb then faultNow s g 0x69
      else if sb = 0 then s.setAgent g.key g.next
      else if ring then
        if misaligned sa 32 then faultNow s g 0x82 sa
        else match localOff sa 32 with
          | none => faultNow s g 0x83 sa
          | some off => if (ringAt s g.core off).ok then start ⟨0, sb, sa, true, d⟩ else faultNow s g 0x83 sa
      else if misaligned sa 128 then faultNow s g 0x82 sa
      else start ⟨0, sb, sa, false, d⟩

/-! ## TMLD (R152, R153) -/

/-- Issue: the agent is held at its TMLD until the pair has landed. The slot changes at the end of the landing cycle. -/
def execTmld (m : MemOp) (n : Fin 8) (s : State) : Out :=
  let _ := n
  onAgent s fun g =>
    let a := g.ea m
    if misaligned a 16 then faultNow s g 0x82 a
    else match agentPlaces s g a 2080 .read with
      | .error (r, v) => faultNow s g (memCause kLoad r) v
      | .ok l =>
        let s1 := s.setAgent g.key { g with status := .held }
        if l.all fun p => p.1.own g.core then sched s1 9 (.tmldLand g.core g.slot)
        else sched { s1 with free := s1.free + 1 } (Config.latency s1.free + 1) (.tmldLand g.core g.slot)

/-- The instruction at an agent's word, when its word decodes. -/
def State.instrAt (s : State) (g : Agent) : Option Instr :=
  match decode (s.wordAt g g.pc) 0 with
  | .instr i => some i
  | _ => none

/-- The number under which a TMLD asks peers for its bytes. -/
def tmldOp : Nat := 2 ^ 64

/-- The pair lands, or the agent faults at its TMLD with the slot unchanged. -/
def execTmldLand (core slot : Nat) (s : State) : Out :=
  .next (match s.agent (agentKey core slot) with
    | none => s
    | some g =>
      if g.status ≠ .held then s
      else match s.instrAt g with
        | some (.tmld m n) =>
          let a := g.ea m
          let h := { g.dropReads tmldOp with status := .running }
          let s1 := (cacheRange s g a 2080).setAgent g.key h
          match agentPlaces s g a 2080 .read with
          | .error (r, v) => faultNow s1 h (memCause kLoad r) v
          | .ok l =>
            -- its number stands for a TMLD, of which an agent has at most one (R251)
            let got := fetchPlaces s g.key tmldOp l
            if g.refused tmldOp then faultNow s1 h (memCause kLoad 0) a
            else if got.2.isNone then sched got.1 1 (.tmldLand core slot)
            else if fencedOn s (unitsOf s g l false) ∨ (l.any fun p => heldBack s g (.load .d64 0) a ⟨p.1, false⟩ p.2 false false) then sched s 1 (.tmldLand core slot)
            else
              let bytes := got.2.getD []
              let r := transit s1 (unitsOf s1 g l false) (genuineOf s1 g a l bytes)
              match r.2 with
              | some b => faultBlamed r.1 h b a (localUnit s g b.hop)
              | none =>
                if !(tableAt bytes 0).ok ∨ !(tableAt bytes 1040).ok then faultNow r.1 h 0x69 a
                else (r.1.modCore core fun c => { c with landing := c.landing ++ [(n, ⟨bytes⟩)] }).setAgent g.key { h.next with wakeAt := s.cycle + 1 }
        | _ => s)

end Sys2Proof.Machine
end

