-- ==== Sys2Proof/Machine/Tree.lean ====
section
/-! DEFINITION. Tree operations and their joins (21 R413, R414, R417, R418, 10 R193, 06 R127, R128, 08 R157, R158). -/

namespace Sys2Proof.Machine

open Sys2Proof

/-! ## Joins (R413) -/

/-- Equal major, fn, and imm28 of a TBC. -/
def Contrib.agrees : Contrib → Contrib → Bool
  | .tbc _ r _, .tbc _ r' _ => r = r'
  | .tred o _ _, .tred o' _ _ => o = o'
  | .tscan o e _ _, .tscan o' e' _ _ => o = o' && e = e'
  | .tbar, .tbar => true
  | .tmean _ _ _ _ _ _, .tmean _ _ _ _ _ _ => true
  | _, _ => false

/-- Cycles that a join takes beyond the sweep time. -/
def Contrib.extra : Contrib → Nat
  | .tred _ _ _ | .tscan _ _ _ _ => 2
  | .tmean _ _ _ _ _ _ => 6
  | _ => 0

/-- Has the agent arrived at join k: contributed, skipped, or ended? -/
def Agent.arrived (g : Agent) (k : Nat) : Bool := g.status = .ended || k ≤ g.join

/-- Its contribution to join k. -/
def Agent.given (g : Agent) (k : Nat) : Option Contrib := if g.join = k then g.contrib else none

/-- The reference of join k: the operation of the lowest `%cell` that issued one. -/
def joinRef (ags : List Agent) (k : Nat) : Option Contrib := ags.findSome? fun g => g.given k

def joinReady (ags : List Agent) (k : Nat) : Bool := ags.all (fun g => g.arrived k) && (joinRef ags k).isSome

/-- Sweep time of the smallest partition-sized aligned subtree that contains the area (R414). -/
def areaSpan (s : State) (n rid : Nat) : Nat :=
  match s.rec? n rid with
  | none => 12
  | some r => let cs := areaCells s r.start r.alen; sweepTime (spanJ (cs.headD 0) (cs.getLastD 0))

/-- Put every join on the agenda that has its last contribution. -/
def tryJoins (s : State) (n rid : Nat) : State :=
  let ags := s.agentsOf n rid
  ags.foldl (fun t g =>
    if g.contrib.isNone then t
    else if joinReady ags g.join then
      schedOnce t (areaSpan s n rid + ((joinRef ags g.join).map Contrib.extra).getD 0) (.treeJoinComplete n rid g.join)
    else t) s

/-- Issue a tree operation: the agent stands at it until the join completes. -/
def contribute (s : State) (g : Agent) (c : Contrib) : State :=
  tryJoins (s.setAgent g.key { g with status := .joining, contrib := some c, join := g.join + 1 }) g.part g.rid

/-- SKIP of a tree operation that has not contributed: the identity stands for it. -/
def skipTree (s : State) (g : Agent) : State :=
  tryJoins (s.setAgent g.key { g.next with join := g.join + 1, contrib := none }) g.part g.rid

/-! ## Operations -/

def treeFloat : TreeOp → Bool
  | .fadd | .fmin | .fmax => true
  | _ => false

/-- The identity of an operation (R417). -/
def treeIdentity : TreeOp → Word
  | .add | .fadd | .or | .xor => 0
  | .min => 0x7FFFFFFFFFFFFFFF#64
  | .max => 0x8000000000000000#64
  | .fmin => 0x7F800000#64
  | .fmax => 0xFF800000#64
  | .and => BitVec.allOnes 64

/-- The operand as an operation takes it. -/
def treeOperand (o : TreeOp) (a : Word) : Word := if treeFloat o then (a.truncate 32 : W32).zeroExtend 64 else a

def treeComb (o : TreeOp) (x y : Word) : Word × W32 :=
  let f32 := fun (r : W32 × W32) => ((r.1.zeroExtend 64 : Word), r.2)
  let mm := fun (mx : Bool) => f32 (let r := minMax fd32 mx (x.toNat % 2 ^ 32) (y.toNat % 2 ^ 32); (BitVec.ofNat 32 r.1, r.2))
  match o with
  | .add => (x + y, 0#32)
  | .fadd => f32 (addRne (x.truncate 32) (y.truncate 32))
  | .min => (if x.sle y then x else y, 0#32)
  | .max => (if y.sle x then x else y, 0#32)
  | .fmin => mm false
  | .fmax => mm true
  | .and => (x &&& y, 0#32)
  | .or => (x ||| y, 0#32)
  | .xor => (x ^^^ y, 0#32)

/-- A value with the flags of everything under it. -/
def combF (f : Word → Word → Word × W32) (x y : Word × W32) : Word × W32 :=
  let r := f x.1 y.1
  (r.1, x.2 ||| y.2 ||| r.2)

/-- The levels of the tree of R127: level l holds the nodes of 2^l cells; an empty right child passes the left. -/
def levels {α : Type} (f : α → α → α) : Nat → List α → List (List α)
  | 0, l => [l]
  | n + 1, l => l :: levels f n (pairUp f l)

def treeDepth : Nat := 18

/-- Combination over the aligned nodes that tile the first c cells, largest first (R128). -/
def scanAt {α : Type} (f : α → α → α) (lev : List (List α)) (c : Nat) : Nat → Nat → Option α → Option α
  | 0, _, acc => acc
  | l + 1, pos, acc =>
    if bit c l then
      let v := (lev.getD l [])[pos / 2 ^ l]?
      let acc' := match acc, v with
        | some a, some b => some (f a b)
        | none, x => x
        | x, none => x
      scanAt f lev c l (pos + 2 ^ l) acc'
    else scanAt f lev c l pos acc

/-- Results of a TRED or TSCAN in `%cell` order, and the flags that every agent receives: those of every node of the tree, of
one that no cell's scan uses too (DESIGN CHOICE, log 22). -/
def treeResults (o : TreeOp) (scan ex : Bool) (xs : List Word) : List Word × W32 :=
  let lev := levels (combF (treeComb o)) treeDepth (xs.map fun x => (x, 0#32))
  let all : Word × W32 := (lev.getD treeDepth []).headD (treeIdentity o, 0#32)
  if !scan then (xs.map fun _ => all.1, all.2)
  else
    let rs := (List.range xs.length).map fun i =>
      (scanAt (combF (treeComb o)) lev (if ex then i else i + 1) (treeDepth + 1) 0 none).getD (treeIdentity o, 0#32)
    (rs.map (·.1), rs.foldl (fun a r => a ||| r.2) all.2)

/-- The partials of an area merged in the tree of R127. -/
def Shape.area (sh : Shape) (l : List Partial) : Partial × W32 :=
  treeFold (fun (x y : Partial × W32) => let r := sh.merge x.1 y.1; (r.1, x.2 ||| y.2 ||| r.2)) (emptyPartial sh, 0#32)
    treeDepth (l.map fun p => (p, 0#32))

/-! ## Completion -/

/-- The join is over in one agent: it goes on, its register written where there is a result. -/
def Agent.joined (g : Agent) (d : Option (Reg × Word)) (fl : W32) : Agent :=
  let h := match d with
    | some (r, v) => g.setS r v
    | none => g
  { h.next with status := .running, contrib := none, fflags := g.fflags ||| fl }

/-- An agent whose operation was not accepted stands at it again, as not having contributed or, for 0x061, keeping k. -/
def Agent.unjoin (g : Agent) (keep : Bool) : Agent :=
  { g with status := .running, contrib := none, join := if keep then g.join else g.join - 1 }

/-- Fault an agent at its tree operation. -/
def joinFault (s : State) (g : Agent) (keep : Bool) (t : Agent → Trap) : State :=
  let h := g.unjoin keep
  agentFault (s.setAgent g.key h) h ⟨t h, none, false⟩

def Contrib.dest : Contrib → Option Reg
  | .tbc _ _ d | .tred _ _ d | .tscan _ _ _ d | .tmean _ _ _ _ d _ => some d
  | .tbar => none

/-- What the join computes: results in `%cell` order and flags; a cause for an exit fault of a TMEAN; or a mismatch. -/
inductive Joined where
  | ok (results : List Word) (fl : W32)
  | exitFault (cause : Nat)
  deriving DecidableEq, Repr

def joinCompute (s : State) (n : Nat) (ags : List Agent) (k : Nat) (ref : Contrib) : Joined :=
  let gives : Agent → Option Contrib := fun g => match g.given k with
    | some c => if ref.agrees c then some c else none
    | none => none
  match ref with
  | .tbar => .ok (ags.map fun _ => 0) 0#32
  | .tbc _ root _ =>
    let v := match (ags.find? fun g => g.cell = root).bind gives with
      | some (.tbc a _ _) => a
      | _ => 0
    .ok (ags.map fun _ => v) 0#32
  | .tred o _ _ =>
    let r := treeResults o false false (ags.map fun g => match gives g with
      | some (.tred _ a _) => treeOperand o a
      | _ => treeIdentity o)
    .ok r.1 r.2
  | .tscan o ex _ _ =>
    let r := treeResults o true ex (ags.map fun g => match gives g with
      | some (.tscan _ _ a _) => treeOperand o a
      | _ => treeIdentity o)
    .ok r.1 r.2
  | .tmean _ _ _ _ _ tms =>
    let sh := tmsShape tms
    let own := ags.foldl (fun (a : W32) g => match gives g with
      | some (.tmean _ _ _ fl _ _) => a ||| fl
      | _ => a) 0#32
    let f := sh.area (ags.map fun g => match gives g with
      | some (.tmean m a c _ _ _) => ⟨m, a, c⟩
      | _ => emptyPartial sh)
    let c0 := s.core ((ags.head?.map (·.core)).getD n)
    match sh.exit ((pairOf c0 sh.slot).map (·.2)) f.1 with
    | .error c => .exitFault c
    | .ok y => .ok (ags.map fun _ => y.1.zeroExtend 64) (own ||| f.2 ||| y.2)

/-- Is the merge checked at the Carillon (R205)? -/
def Contrib.checked : Contrib → Bool
  | .tred .add _ _ | .tscan .add _ _ _ => true
  | _ => false

/-- `%tms` that a TMEAN came with. -/
def Contrib.tms : Contrib → W32
  | .tmean _ _ _ _ _ t => t
  | _ => 0

/-- The values of an INT64 merge in linear mode, summed before wrapping (R205). -/
def mergeChime (ags : List Agent) (k : Nat) : Word :=
  let sum : Int := ags.foldl (fun (a : Int) g => match g.given k with
    | some (.tred _ v _) | some (.tscan _ _ v _) => a + v.toInt
    | _ => a) 0
  BitVec.ofNat 64 (2 ^ 61 + (sum % (chimeP : Int)).toNat)

/-- Does the join end in an exit fault? -/
def Joined.faults : Joined → Bool
  | .exitFault _ => true
  | .ok _ _ => false

/-- TREE_JOIN_COMPLETE: the join completes in every agreeing agent; a differing one faults (R413). A fault that would fall into a
standing area waits until that runs again; one that finds the partition's cores frozen by a pre-emption is given up with the
contributions, which the agents make again after the restore (R158; log 37). Of several agents that differ, or one that does beside an
exit fault, the lowest `%cell` is trapped (R221); the others' operations keep their number k as well, and they issue again as k + 1
(DESIGN CHOICE, log 24). While a node that the partials meet at is fenced
the join waits (R208). -/
def execTreeJoinComplete (part rec k : Nat) (s : State) : Out :=
  .next (
    let ags := s.agentsOf part rec
    if !joinReady ags k then s
    else match joinRef ags k with
      | none => s
      | some ref =>
        let cells := ags.map fun g => 64 * g.core + g.slot
        let stands := ((s.rec? part rec).map Record.frozen).getD false
        let cut := ((s.part part).map fun p => p.pre.stopped).getD false
        let odd := ags.any fun g => ((g.given k).map fun c => !ref.agrees c || c.tms ≠ ref.tms).getD false
        if fencedOn s (mergeNodes cells) then sched s 1 (.treeJoinComplete part rec k)
        else if stands ∧ (odd ∨ (joinCompute s part ags k ref).faults) then
          (if cut then ags.foldl (fun t g => if (g.given k).isSome then t.modAgent g.key fun h => h.unjoin false else t) s
           else sched s 1 (.treeJoinComplete part rec k))
        else
        let mine := ags.filter fun g => (g.given k).isSome
        let agree := mine.filter fun g => ((g.given k).map ref.agrees).getD false
        let differ := mine.filter fun g => !(((g.given k).map ref.agrees).getD false)
        -- R157: a `%tms` other than the reference's faults its agent, which has not contributed
        let off := agree.filter fun g => ((g.given k).map Contrib.tms).getD 0 ≠ ref.tms
        if !off.isEmpty then off.foldl (fun t g => joinFault t g false fun h => h.trapAt s h.pc 0x69) s
        else
          let w := mergeChime ags k
          let r := if ref.checked then
              transit s (mergeNodes cells) ⟨0, 0, (ags.head?.map (·.node)).getD 0, rec, w, w, 0, none, 0⟩
            else (s, none)
          match r.2 with
          | some b => mine.foldl (fun t g => joinFault t g false fun h => (h.trapAt s h.pc 0).blame b (localUnit s g b.hop)) r.1
          | none => match joinCompute s part ags k ref with
            | .exitFault c => match agree with
              | g :: _ => differ.foldl (fun t g => joinFault t g true fun h => h.trapAt s h.pc 0x61)
                  (agentFault r.1 g ⟨g.trapAt s g.pc c, none, false⟩)
              | [] => r.1
            | .ok res fl =>
              let s1 := ((ags.zip res).filter fun p => agree.any fun g => g.key = p.1.key).foldl (fun t p =>
                t.modAgent p.1.key fun h => h.joined (((p.1.given k).bind Contrib.dest).map fun d => (d, p.2)) fl) r.1
              differ.foldl (fun t g => joinFault t g true fun h => h.trapAt s h.pc 0x61) s1)

/-- SKIP of a TMEAN's exit fault: it completes in every agent of the join with sd unwritten (R158), and sets no flag (DESIGN
CHOICE, log 22). -/
def skipExit (s : State) (n rid k : Nat) : State :=
  let ags := s.agentsOf n rid
  let agrees := fun (c : Contrib) => ((joinRef ags k).map fun r => r.agrees c).getD false
  ags.foldl (fun t g => if ((g.given k).map agrees).getD false then t.modAgent g.key fun h => h.joined none 0#32 else t) s

/-! ## Meanings -/

/-- R414. -/
def execTbc (d a : Reg) (imm : BitVec 28) (s : State) : Out :=
  cellOnly s 0x21 fun g =>
    if g.alen ≤ imm.toNat then faultNow s g 0x21 else contribute s g (.tbc (g.sr a) imm.toNat d)

/-- R417. -/
def execTred (op : TreeOp) (d a : Reg) (s : State) : Out := cellOnly s 0x21 fun g => contribute s g (.tred op (g.sr a) d)

/-- R418. -/
def execTscan (op : TreeOp) (ex : Bool) (d a : Reg) (s : State) : Out :=
  cellOnly s 0x21 fun g => contribute s g (.tscan op ex (g.sr a) d)

/-- R193: an agent arrives once its earlier loads and stores have been performed. -/
def tryTbar (s : State) (g : Agent) : Attempt :=
  if g.outs.any fun a => a.op.orders then .wait else .go (contribute s g .tbar)

def execTbar (s : State) : Out := cellOnly s 0x21 fun g => attempt s g (tryTbar s g)

/-- R157: the partial from the agent's own `%tms` and its own core's table, read at issue. -/
def execTmean (d a : Reg) (s : State) : Out :=
  cellOnly s 0x1D fun g =>
    let sh := tmsShape g.tms
    let pr := pairOf (s.core g.core) sh.slot
    if sh.mode = 2 ∧ pr.isNone then faultNow s g 0x6F
    else match sh.take (pr.map (·.1)) ((g.sr a).truncate 32) with
      | .error c => faultNow s g c
      | .ok p => contribute s g (.tmean p.1.m p.1.a p.1.n p.2 d g.tms)

end Sys2Proof.Machine
end

