-- ==== Sys2Proof/Machine/Storage.lean ====
section
/-! DEFINITION. Storage steps (03 R59 to R70), peals' starts (02 R39), the end of an area, raised traps of the row
(12 R222), profile counters (17 R311, R312). -/

namespace Sys2Proof.Machine

open Sys2Proof

/-! ## Record bookkeeping -/

/-- A trap without a faulting instruction (R222, R224). -/
def bareTrap (cause : Nat) : Trap := ⟨cause, 0, 0, 0, 0, 0, 0xFFFFFFFF, 0, 0, none, false⟩

/-- Raise a trap of detection, admission or storage: its record enters the queue in this cycle (R223). -/
def raiseTrap (s : State) (n rid source cause : Nat) (unresolved : Bool) : State :=
  sched (s.modPart n fun p => { p with raised := p.raised ++ [⟨s.cycle, source, rid, none, bareTrap cause, [], unresolved, false, s.time⟩] })
    0 (.trapEnqueue n)

/-- The state of a fixed area (R61). -/
def RecState.fixed (x : RecState) : Bool := x = .running || x = .faulted || x = .emitting

/-- Change a record's state; a fixed area that leaves the fixed set lets set-aside steps be tried again (R64). -/
def moveRec (s : State) (n id : Nat) (new : RecState) (cause : Nat := 0) : State :=
  match s.rec? n id with
  | none => s
  | some r =>
    let s1 := setRecState s n id new cause
    if r.state.fixed && !new.fixed then schedOnce s1 1 (.stepRetryAfterFixed n) else s1

/-- The first of R311's signs of work ends the fill. -/
def beginSteady (s : State) (g : Agent) : State :=
  if g.service then s
  else s.modRec g.part g.rid fun r => if r.phase = some .fill then r.enter s.cycle (some .steady) else r

/-- Append to the profile buffer the application record of a record that ends (R312). -/
def profileApp (s : State) (n : Nat) (p : Part) (r : Record) (final : RecState) : State :=
  appendRecord s s.dev.prof (toLe 1 1 ++ zerosB 1 ++ toLe 2 (p.tag n) ++ toLe 8 p.peal ++ toLe 4 r.id ++ toLe 4 r.node ++
    toLe 4 (r.oper % 65536 + final.code * 2 ^ 16 + r.retries * 2 ^ 19) ++ toLe 4 r.load ++ toLe 4 r.fill ++ toLe 4 r.steady ++
    toLe 4 r.drain ++ toLe 4 r.alen ++ zerosB 4 ++ ofWord s.time ++ zerosB 8)

/-- The peal summary (R312). -/
def profilePeal (s : State) (n : Nat) (p : Part) : State :=
  appendRecord s s.dev.prof (toLe 1 2 ++ zerosB 1 ++ toLe 2 (p.tag n) ++ toLe 8 p.peal ++ toLe 4 p.pealCreated ++
    toLe 4 p.pealAdmitted ++ toLe 4 p.pealSteps ++ toLe 8 p.pealStart ++ toLe 4 (s.cycle - p.pealStart) ++ zerosB 12 ++
    ofWord s.time ++ zerosB 8)

/-! ## Agents that leave -/

/-- Tiles of a slot are released as by MREL: those with work in flight once it has completed (R79). -/
def releaseOwned (s : State) (core slot : Nat) : State :=
  (List.finRange 8).foldl (fun t c =>
    let q := t.core core
    if (q.tile c).owner ≠ some slot then t
    else if tileBusyFor q slot (2 ^ 64) c then
      (if q.mrels.any fun r => r.2.1 = c then t else pumpRels (t.setCore core { q with mrels := q.mrels ++ [(slot, c, 2 ^ 64)] }) core)
    else t.setCore core (q.setTile c (q.tile c).release)) s

/-- Stores that have left an agent are performed although it goes (R221). -/
def settleStores (s : State) (g : Agent) : State :=
  (g.outs.filter fun a => a.op.writes).foldl (fun t a =>
    let t1 := if a.phase = .parked then walkAnswer t g.core g.slot a.id else t
    match t1.agent g.key with
    | none => t1
    | some h => match h.outs.find? fun b => b.id = a.id with
      | some b => if b.phase ≠ .moving then t1
        else if b.op.byLane then b.open_.foldl (fun u i => (doLane u g.key b.id i).1) t1 else deliver t1 h b
      | none => t1) s

/-- The agents of a record are gone: their stores performed, tiles released, chains and armed reads gone. -/
def dropAgents (s : State) (n id : Nat) : State :=
  let ags := s.agentsOf n id
  let s1 := ags.foldl (fun t g =>
    (releaseOwned (settleStores t g) g.core g.slot).modCore g.core fun c =>
      { c with chains := c.chains.filter fun x => x.slot ≠ g.slot, passed := Tbl.drop c.passed g.slot }) s
  let mine : Agent → Bool := fun g => g.part = n && g.rid = id && g.slot < 64
  { s1 with
    agents := s1.agents.filter fun e => !mine e.2
    deferred := s1.deferred.filter fun d => match d.who with
      | .agent c k _ => !(ags.any fun g => g.core = c && g.slot = k)
      | _ => true }

/-- A partition ends while agents have stores on their way: those are performed. -/
def endWhole (s : State) (n status cause : Nat) : State :=
  endPartition (((s.agents.map (·.2)).filter fun g => g.part = n).foldl settleStores s) n status cause

/-- The record's deferred reads are disarmed (R56). -/
def disarm (s : State) (n id : Nat) : State :=
  { s with deferred := s.deferred.filter fun d => match d.who with
      | .record q r _ => ¬(q = n ∧ r = id)
      | _ => true }

/-- A record ends, DONE or CANCELLED: it is freed, with its agents, its retained copy and its place in every list. -/
def endRecord (s : State) (n id : Nat) (final : RecState) : State :=
  match s.part n, s.rec? n id with
  | some _, some r0 =>
    let s0 := s.modRec n id fun r => if r.stopped.isSome then r else r.countTo s.cycle
    let r := (s0.rec? n id).getD r0
    let s1 := moveRec s0 n id final r.cause
    let s2 := match s1.part n with
      | some p => profileApp s1 n p r final
      | none => s1
    (disarm (dropAgents s2 n id) n id).modPart n fun p =>
      { p.dropRec id with
        retained := p.retained.filter fun x => x.1 ≠ id
        stops := p.stops.filter fun x => x.rid ≠ id
        emitQ := p.emitQ.filter fun x => x.2 ≠ id
        aside := p.aside.filter (· ≠ id)
        urgent := p.urgent.filter fun x => x.1 ≠ id }
  | _, _ => s

/-! ## The start of a sweep (R39) -/

/-- A peal marker leaves the root: the peal before it is summarised, a changed source node table takes effect (R305),
the sweep sees the row as it stands, the areas of live records passed over (R38). A sweep that is running is followed by
one more. -/
def startSweep (s : State) (n : Nat) : State :=
  match s.part n with
  | none => s
  | some p =>
    if p.pre ≠ .none then s
    else if p.sweep.isSome then s.setPart n { p with sweepQueued := true }
    else
      let s1 := if p.peal = 0 then s else profilePeal s n p
      let t := p.newTable <|> p.rootTable
      let s2 := if (t.map fun x => bit x.tmask 0).getD false then
          appendRecord s1 s1.dev.trace (traceRecord s1 1 0 (p.tag n) 0 0 0xFFFFFFFF [] (s1.root n p)
            (toLe 8 (p.peal + 1) ++ toLe 4 (sweepTime p.j) ++ toLe 4 p.lastCreated))
        else s1
      -- a peal that a kind-5 slot names begins: the root stops at the marker behind it (R309)
      let hits := (t.map fun x => if x.dump = 0 then [] else (x.slots.zipIdx.filter fun k => k.1.kind = 5 && k.1.arg = (p.peal + 1) % 2 ^ 32).map (·.2)).getD []
      let live := p.records.map (·.span s)
      let areas := (innermost s n p).filter fun a => !(live.any fun x => x.1 ≤ a.start && a.start ≤ x.2)
      let p1 : Part := { p with
        peal := p.peal + 1
        pealStart := s.cycle
        pealCreated := 0
        pealAdmitted := 0
        pealSteps := 0
        coming := if p.newTable.isSome then t.map fun x => (s.cycle + sweepTime p.j / 2, x) else p.coming
        newTable := none
        wideStop := p.wideStop || !hits.isEmpty
        sweep := some (s.cycle + sweepTime p.j, areas)
        sweepQueued := false }
      let s3 := sched (s2.setPart n (hits.foldl disarmSlot p1)) (sweepTime p.j) (.sweepComplete n)
      let s4 := if (p.table.map fun x => decide (x.sper ≠ 0)).getD false then schedOnce s3 0 (.profileSample n) else s3
      if p.wideStop then schedOnce s4 0 (.partitionWideStop n) else s4

/-- The marker passes the cores, half a sweep behind the root: they take up its table (R305). A step goes on under the slots that it began
with (R310). -/
def takeTable (s : State) (n : Nat) : State :=
  match s.part n with
  | none => s
  | some p => match p.coming with
    | none => s
    | some (at_, t) =>
      if s.cycle < at_ then s
      else
        let old := (p.table.map fun x => if x.dump = 0 then [] else x.slots).getD []
        let held : State := { s with
          agents := s.agents.map fun e =>
            if e.2.part = n ∧ e.2.stepLeft.isSome ∧ e.2.stepSlots.isNone then (e.1, { e.2 with stepSlots := some old }) else e }
        held.setPart n { p with table := some t, coming := none }

/-! ## Free supply, sides and paths (R62) -/

/-- Cells of live records' areas, BLOCKED ones between included, with the record. -/
def owners (s : State) (p : Part) : List (Nat × Nat × Record) :=
  p.records.filterMap fun r => if r.state.isLive then some ((r.span s).1, (r.span s).2, r) else none

def ownerOf (own : List (Nat × Nat × Record)) (c : Nat) : Option Record :=
  (own.find? fun o => o.1 ≤ c && c ≤ o.2.1).map fun o => o.2.2

def isSupply (s : State) (own : List (Nat × Nat × Record)) (c : Nat) : Bool :=
  symKind (s.cell c) = 0 && (ownerOf own c).isNone

/-- Cells up to the g-th of the supply, with whether each is supply; trailing cells that give nothing are dropped. -/
def pathOf (s : State) (own : List (Nat × Nat × Record)) : Nat → List Nat → List (Nat × Bool)
  | 0, _ => []
  | _, [] => []
  | g + 1, c :: t =>
    if isBlocked (s.cell c) then pathOf s own (g + 1) t
    else if isSupply s own c then (c, true) :: pathOf s own g t
    else match pathOf s own (g + 1) t with
      | [] => []
      | l => (c, false) :: l

structure Side where
  path : List (Nat × Bool)
  given : Nat
  blocked : Bool
  /-- S of R63 -/
  cost : Nat
  moves : List (Nat × Nat)
  deriving DecidableEq, Repr

/-- One side, by its cells from the area outward. The path is fixed from the states of the cycle before (R66). -/
def sideOf (s : State) (rid : Nat) (own : List (Nat × Nat × Record)) (g : Nat) (outward : List Nat) : Side :=
  let path := pathOf s own g outward
  let given := (path.filter (·.2)).length
  let occ := (path.filter fun x => !x.2).map (·.1)
  let moves := occ.zip ((path.map (·.1)).drop given)
  let blocked := path.any fun x => match ownerOf own x.1 with
    | some r => r.id ≠ rid && (r.before s.cycle).fixed
    | none => false
  let cost := maxNat (moves.map fun m => if symKind (s.cell m.1) = 0 then 0 else absDiff m.1 m.2 * symCost (s.cell m.1))
  ⟨path, given, blocked, cost, moves⟩

def Side.holds (d : Side) (g : Nat) : Bool := g ≤ d.given && !d.blocked
/-- Each moved cell with the cycle in which its symbol arrives, counted from the cycle in which its side begins to move. -/
def Side.arrivals (s : State) (d : Side) (from_ : Nat) : List (Nat × Nat × Nat) :=
  d.moves.map fun m => (from_ + (if symKind (s.cell m.1) = 0 then 0 else absDiff m.1 m.2 * symCost (s.cell m.1)), m)

/-- The cells given beside the area once its neighbours have moved, outward. -/
def Side.freed (d : Side) : List Nat := (d.path.map (·.1)).take d.given

/-! ## Layout (R59, R60, R67) -/

/-- One item of a layout: a padding cell, or a word with its payload, chime and source cell. -/
inductive Item where
  | pad
  | put (w : Word) (payload : Option (List Byte)) (chime : Word) (src : Nat)
  deriving DecidableEq, Repr

def Item.aligned : Item → Bool
  | .put w _ _ _ => isApp w && symAlign w
  | .pad => false

/-- Emissions of the area's agents in `%cell` order, as they are placed (R60). -/
def emittedItems (s : State) (n : Nat) (r : Record) : List Item :=
  let d := symDepth (s.cell r.seat)
  (s.agentsOf n r.id).flatMap fun g => g.emits.map fun e =>
    let w := if symKind e.word = 0 then 0#64 else
      mkSym (symKind e.word) (d + symDepth e.word) (symNode e.word) (symSub e.word) (symPay e.word) (symAlign e.word) (symRetain e.word)
    .put w e.payload e.chime (64 * g.core + g.slot)

/-- Padding cells from a position to the first cell of the next core that is not BLOCKED. -/
def padFrom (s : State) (hi pos : Nat) : Option (Nat × Nat) :=
  match nextCore s hi Config.cores pos with
  | none => none
  | some q => some (((List.range (q - pos)).filter fun i => !isBlocked (s.cell (pos + i))).length, q)

/-- Insert padding before the first k aligned APPs (R67); none where it lies beyond the partition. -/
def layout (s : State) (hi : Nat) : List Item → Nat → Nat → Option (List Item)
  | [], _, _ => some []
  | it :: t, k, pos =>
    let step := fun (c : Nat) => ((List.range (hi - c)).findSome? fun i => if isBlocked (s.cell (c + 1 + i)) then none else some (c + 1 + i)).getD hi
    if it.aligned ∧ k ≠ 0 then
      if pos % 64 = 0 then (layout s hi t (k - 1) (step pos)).map (it :: ·)
      else match padFrom s hi pos with
        | none => none
        | some (m, q) => (layout s hi t (k - 1) (step q)).map fun l => List.replicate m .pad ++ it :: l
    else (layout s hi t k (step pos)).map (it :: ·)

/-! ## One step (R59, R62, R63) -/

/-- What trying a step comes to. -/
inductive Tried where
  | started (p : StepPlan)
  | wait
  | full
  | malformed
  deriving DecidableEq, Repr

/-- s of R63. -/
def spanCost (cells : List Nat) : Nat :=
  let j := spanJ (cells.headD 0) (cells.getLastD 0)
  if j = 0 then 2 else sweepTime j / 2

/-- Arrivals of the sides of a shift, one side behind the other (R62). -/
def arrivalsOf (s : State) : List Side → Nat → List (Nat × Nat × Nat)
  | [], _ => []
  | d :: t, from_ => d.arrivals s from_ ++ arrivalsOf s t (from_ + d.cost)

/-- The plan of a layout over a region: writes, cells left FREE, and its time. -/
def planOf (s : State) (rid : Nat) (kind : StepKind) (lay : List Item) (region area : List Nat) (sides : List Side) : StepPlan :=
  let placed := (lay.zip region).filterMap fun x => match x.1 with
    | .pad => none
    | .put w pl ch src => some (⟨w, pl, ch, x.2, src⟩ : Placed)
  let frees := ((lay.zip region).filterMap fun x => if x.1 = .pad then some x.2 else none) ++ region.drop lay.length
  let w := maxNat (placed.map fun x => absDiff x.dest x.src * symCost x.word)
  ⟨rid, kind, sides.flatMap (·.moves), arrivalsOf s sides (s.cycle + spanCost area), placed, frees, s.cycle,
    s.cycle + spanCost area + sumNat (sides.map (·.cost)) + w⟩

/-- Try the step of a record, in the cycle in which the root takes it up. Only emissions are padded (R67). -/
def tryPlan (s : State) (n : Nat) (p : Part) (r : Record) (kind : StepKind) (items : List Item) : Tried :=
  let area := r.cells s
  let own := owners s p
  let lo := 64 * n
  let hi := lo + 64 * p.size
  let rightCells := (List.range (hi - (r.span s).2 - 1)).map (· + (r.span s).2 + 1)
  let leftCells := (List.range (r.seat - lo)).reverse.map (· + lo)
  let right := fun (g : Nat) => sideOf s r.id own g rightCells
  let left := fun (g : Nat) => sideOf s r.id own g leftCells
  let growth := fun (l : List Item) => l.length - area.length
  let naln := if kind = .emit then (items.filter Item.aligned).length else 0
  let padded := (List.range naln).reverse.findSome? fun i => match layout s hi items (i + 1) r.seat with
    | none => none
    | some l => if growth l = 0 ∨ (right (growth l)).holds (growth l) then some l else none
  let lay := padded.getD items
  let hasPad := items.length < lay.length
  let g := growth lay
  let go := fun (sides : List (Bool × Side)) =>
    let region := sides.foldl (fun reg x => if x.1 then reg ++ x.2.freed else x.2.freed.reverse ++ reg) area
    Tried.started (planOf s r.id kind lay region area (sides.map (·.2)))
  if g = 0 then go []
  else
    let total := ((p.cells n).filter fun c => isSupply s own c).length
    let rs := right g
    if hasPad then go [(true, rs)]
    else if total < g then .full
    else
      let ls := left g
      match rs.holds g, ls.holds g with
      | true, true => if ls.cost < rs.cost then go [(false, ls)] else go [(true, rs)]
      | true, false => go [(true, rs)]
      | false, true => go [(false, ls)]
      | false, false =>
        if rs.given < g ∧ ls.given < g then
          let rest := left (g - rs.given)
          if rs.blocked ∨ !rest.holds (g - rs.given) then .wait else go [(true, rs), (false, rest)]
        else .wait

/-- The retained copy of a record: words and payload records, read back from the retain region (R210). -/
def readCopy (s : State) (p : Part) (r : Record) : Option (List (Word × Option (Word × List Byte))) :=
  match p.retained.find? fun x => x.1 = r.id with
  | none => none
  | some (_, len, size) => match readVa s p.asid r.copy.toNat size with
    | none => none
    | some l =>
      let ws := wordsOfBytes len l
      some (ws.zip (splitPayloads ws (l.drop (ceilDiv (8 * len) 64 * 64))))

def copyItems (s : State) (p : Part) (r : Record) : List Item :=
  match readCopy s p r with
  | none => []
  | some l => l.map fun x => .put x.1 (x.2.map (·.2)) ((x.2.map (·.1)).getD 0) r.seat

/-- Units that the symbols of a step pass: none of them may be fenced as it starts (R208). -/
def StepPlan.units (x : StepPlan) : List W32 :=
  (x.moves ++ x.writes.map fun w => (w.src, w.dest)).flatMap fun m => nodesBetween m.1 m.2 ++ [coreHop 9 (m.2 / 64) 0]

/-- Start a step, or say why it does not start: faulted, set aside, or row-full (R64, R69). -/
def tryStep (s : State) (n rid : Nat) (kind : StepKind) : State × Bool :=
  match s.part n, s.rec? n rid with
  | some p, some r =>
    let items := match kind with
      | .emit => emittedItems s n r
      | .err w _ => [.put w none 0 r.seat]
      | .restore => copyItems s p r
    let emitted := (s.agentsOf n rid).flatMap fun g => g.emits.map (·.word)
    let t := if kind = .emit ∧ !wholeTerms emitted [] then .malformed else tryPlan s n p r kind items
    let out := fun (q : Part) => { q with
      emitQ := q.emitQ.filter fun x => x.2 ≠ rid
      aside := q.aside.filter (· ≠ rid)
      urgent := q.urgent.filter fun x => x.1 ≠ rid }
    match t with
    | .malformed =>
      let s1 := (moveRec (s.modPart n out) n rid .faulted 0xF1).modRec n rid fun q => { q with cause := 0xF1 }
      (raiseTrap s1 n rid 2 0xF1 false, false)
    | .wait => (s.modPart n fun q => { out q with aside := if q.aside.contains rid then q.aside else q.aside ++ [rid] }, false)
    | .full => (raiseTrap ((s.modPart n out).modRec n rid fun q => { q with rowFull := true }) n rid 2 0xC0 false, false)
    | .started plan =>
      if fencedOn s plan.units then (schedOnce s 1 (.stepRetryAfterFixed n), true) else
      -- R65: an APP that arrives before the step completes moves its record's start
      let t := plan.arrive.foldl (fun u a => if a.1 < plan.doneAt && isApp (u.cell a.2.1) then sched u (a.1 - u.cycle) (.storageStep n) else u)
        -- the area of an EMITTING record leaves the fixed set as its step begins (R61, R64)
        (s.modPart n fun q => { out q with stepNow := some plan, fixedLeft := q.fixedLeft || r.state = .emitting })
      (sched t (plan.doneAt - s.cycle) (.storageStepComplete n), true)
  | _, _ => (s.modPart n fun q => { q with
      emitQ := q.emitQ.filter fun x => x.2 ≠ rid
      aside := q.aside.filter (· ≠ rid)
      urgent := q.urgent.filter fun x => x.1 ≠ rid }, false)

/-- Order of R39: as records reached EMITTING, the leftmost of one cycle first. -/
def Part.inOrder (p : Part) (ids : List Nat) : List Nat :=
  (sortBy (fun (a b : Record) => decide (a.emitAt < b.emitAt) || (a.emitAt = b.emitAt && decide (a.start ≤ b.start)))
    (p.records.filter fun r => ids.contains r.id)).map (·.id)

/-- The root takes up a step: ERR and restore steps, then set-aside ones that may be tried again, then the rest, these and
those in the order of R39 (R64). -/
def takeUp (s : State) (n : Nat) : State :=
  match s.part n with
  | none => s
  | some p =>
    if p.stepNow.isSome ∨ p.pre.stopped then s
    else
      let try_ := fun (acc : State × Bool) (l : List (Nat × StepKind)) =>
        l.foldl (fun (acc : State × Bool) c => if acc.2 then acc else tryStep acc.1 n c.1 c.2) acc
      let first := try_ (s, false) p.urgent
      if first.2 then first.1
      else
        -- the set-aside steps are tried now; the next change of the fixed set tries them again
        let again : List (Nat × StepKind) := if p.fixedLeft then (p.inOrder p.aside).map fun i => (i, .emit) else []
        (try_ (first.1.modPart n fun q => { q with fixedLeft := false }, false) (again ++ (p.inOrder (p.emitQ.map (·.2))).map fun i => (i, .emit))).1

/-! ## Registers and instruction caches (R51, R53) -/

/-- Does the record hold granules: from admission until it leaves EMITTING, FAULTED or ADMITTED for good (R54), or a cancel
frees them (R56)? -/
def Record.holds (r : Record) : Bool :=
  !r.freed && (r.state = .admitted || r.state = .running || r.state = .emitting || (r.state = .faulted && r.startAt ≠ 0))

/-- Vector registers that other records hold in a core. -/
def regsUsed (s : State) (p : Part) (core except : Nat) : Nat :=
  sumNat (p.records.map fun r =>
    if r.holds && r.id ≠ except && !r.unheld.contains core then 4 * r.gran * agentsIn (r.cells s) core else 0)

/-- Is there room in a core for the granules of a record's agents there? -/
def granuleRoom (s : State) (p : Part) (r : Record) (core : Nat) : Bool :=
  regsUsed s p core r.id + 4 * r.gran * agentsIn (r.cells s) core ≤ 1024

/-- Words of the instruction cache of a core: 64 KiB (R4). -/
def icacheWords : Nat := 8192

/-- An operator's words at their address in the library (R92, R110): as memory holds them; where it can no longer be read,
as they were at launch (log 12). -/
def operWords (s : State) (p : Part) (o : Nat) : List Word :=
  match p.opers[o]? with
  | none => []
  | some x => match readVa s p.asid x.addr (8 * x.words.length) with
    | some l => wordsOfBytes x.words.length l
    | none => x.words

def Part.operLen (p : Part) (o : Nat) : Nat := ((p.opers[o]?).map fun x => x.words.length).getD 0

/-- Resident operators that may not be evicted from a core: those that an agent of an ADMITTED or RUNNING record there uses (R51), and the
handler while it runs. -/
def protectedOps (s : State) (n : Nat) (p : Part) (core : Nat) : List Nat :=
  ((p.records.filterMap fun r =>
    if (r.state = .admitted || r.state = .running) && !r.freed && (r.cells s).any (fun c => c / 64 = core) then some r.oper else none) ++
  (if core = s.root n p ∧ p.run.isSome then p.handler.toList else [])).filter fun o => (s.micro core n o).isSome

def icacheRoom (s : State) (n : Nat) (p : Part) (core o : Nat) : Bool :=
  sumNat ((protectedOps s n p core ++ [o]).eraseDups.map fun x => p.operLen x) ≤ icacheWords

/-- Drop unprotected microprograms, the oldest load first, until `excess` words are free. -/
def evict (keep : Micro → Bool) : Nat → List Micro → List Micro
  | _, [] => []
  | excess, m :: t =>
    if excess = 0 then m :: t
    else if keep m then m :: evict keep excess t
    else evict keep (excess - m.words.length) t

/-- Load an operator into a core, unless it is there; the core's instruction cache checks what it is given, and a failed check is logged and
tested (R204, R205, log 17). -/
def loadMicro (s : State) (n : Nat) (p : Part) (core o readyAt : Nat) : State :=
  if (s.micro core n o).isSome then s
  else
    let ws := operWords s p o
    let keep := protectedOps s n p core
    let s1 := (transit s [coreHop 13 core 0] (genuine s 0 0 0)).1
    s1.modCore core fun c =>
      let total := sumNat (c.micros.map fun m => m.words.length) + ws.length
      { c with micros := evict (fun m => m.part = n && keep.contains m.oper) (total - icacheWords) c.micros ++ [⟨n, o, ws, readyAt⟩] }

/-- Begin the load of an operator into cores; the cycle from which agents may start (R53). -/
def beginLoad (s : State) (n : Nat) (p : Part) (cores : List Nat) (o : Nat) : State × Nat :=
  let have_ := cores.map fun c => (s.micro c n o).map (·.readyAt)
  if have_.all fun x => (x.map fun t => decide (t ≤ s.cycle)).getD false then (s, s.cycle + 2)
  else if have_.all Option.isSome then (s, max (s.cycle + 2) (maxNat (have_.map fun x => x.getD 0)))
  else
    let done := s.cycle + sweepTime p.j / 2 + ceilDiv (p.operLen o) 8
    (cores.foldl (fun t c => loadMicro t n p c o done) s, done)

/-- The code of an area that runs again after a fault, evicted meanwhile, is loaded again as soon as there is room (R53, log 12). -/
def reloadCode (s : State) (n : Nat) : State :=
  ((s.agents.map (·.2)).filter fun g => g.part = n && !g.service && g.status ≠ .ended && ((s.rec? n g.rid).map fun r => decide (r.state = .running)).getD false
      && (s.micro g.core n g.oper).isNone).foldl (fun t g => match t.part n with
    | some p => if (t.micro g.core n g.oper).isNone && icacheRoom t n p g.core g.oper then (beginLoad t n p [g.core] g.oper).1 else t
    | none => t) s

/-! ## Completion -/

/-- Where a cell's symbol goes. -/
def movedTo (moves : List (Nat × Nat)) (c : Nat) : Nat := ((moves.find? fun m => m.1 = c).map (·.2)).getD c

/-- Mark a log entry's automatic retry (R207 flags[4]). -/
def markRetry (s : State) (entry : Nat) : State :=
  let k := logKey s entry + 2
  let f := rdNat s k 2
  if bit f 4 then s else wr s k (toLe 2 (f + 16))

/-- APP symbols that have arrived by now: their records' starts are where they are (R65). -/
def arriveApps (s : State) (n : Nat) : State :=
  s.modPart n fun p => match p.stepNow with
    | none => p
    | some x => { p with records := p.records.map fun r => match x.arrive.find? fun a => a.2.1 = r.seat with
        | some a => if a.1 ≤ s.cycle ∧ r.id ≠ x.rid then { r with start := a.2.2 } else r
        | none => r }

/-- Apply the moves of a shift: every symbol with its payload at once; records and swept areas follow (R65, R66). A FREE
cell within an area that had no record yet may have been given away: the area ends where its END stands. -/
def applyMoves (s : State) (n rid : Nat) (moves : List (Nat × Nat)) : State :=
  let xs := moves.map fun m => takeSymbol s m.1 m.2
  let s1 := moves.foldl (fun t m => (t.setCell m.1 0).setChime m.1 0) s
  let s2 := xs.foldl (fun t x => (putSymbol t n rid x).1) s1
  s2.modPart n fun p => { p with
    records := p.records.map fun r =>
      if r.id = rid then r
      else
        let a := movedTo moves r.seat
        { r with start := a, seat := a, alen := (openBetween s2 a (movedTo moves (r.span s).2)).length }
    sweep := p.sweep.map fun w => (w.1, w.2.map fun a => { a with start := movedTo moves a.start, fin := movedTo moves a.fin }) }

/-- Does the record meet R211, its failed unit lying on the payload's own path? -/
def meets211 (p : Part) (r : Record) : Bool :=
  r.ret && (p.retained.any fun x => x.1 = r.id) && decide (r.retries < p.flags / 8 % 4)
    && ((p.opers[r.oper]?).map Oper.pure).getD false

/-- Write a step's symbols: the state, and the first blame of a payload. -/
def putAll (s : State) (n rid : Nat) (xs : List Placed) : State × Option Blame :=
  xs.foldl (fun (acc : State × Option Blame) x =>
    let r := putSymbol acc.1 n rid x
    (r.1, acc.2 <|> r.2)) (s, none)

/-- An ADMITTED record that a step has held may start (R65). -/
def wakeAdmitted (s : State) (n : Nat) : State :=
  match s.part n with
  | none => s
  | some p => (p.records.filter fun r => r.state = .admitted).foldl (fun t r =>
      schedOnce t (r.startAt - s.cycle) (.loadComplete n r.id)) s

/-- The root selects again: every four cycles from its last selection on (R51, log 49). -/
def wakeRoot (s : State) (n : Nat) : State :=
  match s.part n with
  | none => s
  | some p =>
    let wait := match p.lastSel with
      | none => 0
      | some c => if s.cycle < c + 4 then c + 4 - s.cycle else if (s.cycle - c) % 4 = 3 then 1 else 0
    schedOnce s wait (.admission n)

/-- The agents that an area has in a core, before a shift and after it. -/
def grown (old s : State) (was r : Record) (core : Nat) : Bool := agentsIn (was.cells old) core < agentsIn (r.cells s) core

/-- An ADMITTED record that a shift has moved into other cores (R65): its granules in those it has left are free, in those it has entered
they are reserved where there is room; the microprogram is loaded there (R53), from the completion of the step on where the caches have
room, and the record starts no earlier than it would have (DESIGN CHOICE, log 30). -/
def enterCores (old s : State) (n : Nat) : State :=
  match s.part n with
  | none => s
  | some p => (p.records.filter fun r => r.state = .admitted).foldl (fun t r =>
      match old.rec? n r.id, t.part n with
      | some was, some q =>
        let cores := coresOf (r.cells t)
        let more := cores.filter fun c => grown old t was r c
        let lack := (r.unheld.filter cores.contains) ++ more.filter fun c => !(granuleRoom t q r c || r.unheld.contains c)
        let t1 := t.modRec n r.id fun x => { x with unheld := lack }
        let entered := cores.filter fun c => !((coresOf (was.cells old)).contains c)
        if entered.isEmpty ∨ !(entered.all fun c => icacheRoom t1 n p c r.oper) then t1
        else
          let l := beginLoad t1 n p entered r.oper
          l.1.modRec n r.id fun x => { x with startAt := max x.startAt l.2 }
      | _, _ => t) s

/-- The step's record back to READY from its retained copy (R212, R47). -/
def afterRestore (s : State) (n rid : Nat) : State :=
  let s1 := (moveRec s n rid .ready).modRec n rid fun r => r.countTo s.cycle
  (dropAgents s1 n rid).modPart n fun p => { p with records := mapIf (fun r => r.id = rid) (fun r => { r with
    retries := r.retries + 1
    ready := s.cycle
    awaitsTest := none
    startAt := 0
    unheld := []
    phase := none
    alen := ((p.retained.find? fun x => x.1 = rid).map (·.2.1)).getD r.alen }) p.records }

/-- STORAGE_STEP_COMPLETE. -/
def execStorageStepComplete (part : Nat) (s : State) : Out :=
  .next (match s.part part with
    | none => s
    | some p => match p.stepNow with
      | none => s
      | some plan =>
        if s.cycle < plan.doneAt then s
        else
          let s1 := applyMoves s part plan.rid plan.moves
          let w := putAll s1 part plan.rid plan.writes
          let s2 := plan.frees.foldl (fun t c => (t.setCell c 0).setChime c 0) w.1
          let s3 := s2.modPart part fun q => { q with stepNow := none, pealSteps := q.pealSteps + 1 }
          let redo := match plan.kind, w.2, s3.rec? part plan.rid with
            | .emit, some _, some r => meets211 p r
            | _, _, _ => false
          let region := sortBy (fun (a b : Nat) => a ≤ b) (plan.writes.map (·.dest) ++ plan.frees)
          let s4 :=
            if redo then
              ((markRetry s3 ((w.2.map (·.entry)).getD 0)).modRec part plan.rid fun r =>
                { r with start := region.headD r.seat, seat := region.headD r.seat, alen := region.length }).modPart part fun q =>
                  { q with urgent := (plan.rid, .restore) :: q.urgent }
            else match plan.kind with
              | .emit => endRecord s3 part plan.rid .done
              | .err _ final => endRecord s3 part plan.rid final
              | .restore => afterRestore s3 part plan.rid
          -- what a step wrote that a second one replaces (R212) lies in a live record's area: the sweep passes it over
          let s5 := wakeAdmitted (enterCores s s4 part) part
          wakeRoot (schedOnce (startSweep s5 part) 0 (.storageStep part)) part)

/-! ## ERR steps (R56, R69, R228) -/

/-- A step that writes one ERR into the APP cell and frees the rest, taken up next, ahead of every step not yet begun. -/
def errStep (s : State) (n rid cause : Nat) (final : RecState) : State :=
  match s.rec? n rid with
  | none => s
  | some r =>
    let app := s.cell r.seat
    let w := errWord cause rid (symDepth app) (symNode app)
    schedOnce ((dropAgents s n rid).modPart n fun p => { p with
      urgent := (rid, .err w final) :: p.urgent.filter fun x => x.1 ≠ rid
      emitQ := p.emitQ.filter fun x => x.2 ≠ rid
      aside := p.aside.filter (· ≠ rid) }) 0 (.storageStep n)

/-- A cancel acts (R56), a stop of its record lapses (R310): agents, emissions and deferred reads are gone, its granules are free, its ERR step is next. -/
def cancelNow (s : State) (n rid : Nat) : State :=
  let rows := (((s.part n).map (·.stops)).getD [] |>.filter fun x => x.rid = rid && x.kind = 4).map fun x => x.agent / 128
  wakeRoot (rows.foldl rowLapse ((disarm (errStep s n rid 0x143 .cancelled) n rid).modPart n fun q =>
    { q with
      stops := q.stops.filter fun x => x.rid ≠ rid
      records := mapIf (fun x => x.id = rid) (fun x => { x with admittedAt := if x.stopped.isSome then s.cycle else x.admittedAt, stopped := none, cancelHeld := false, freed := true }) q.records })) n

/-! ## The root's turn behind the issue of its cycle -/

/-- STORAGE_STEP: APP symbols of the step in progress that have arrived; cancels that fell in the cycle of the last agent's
DONE (R57); then the next step, if none is in progress. -/
def execStorageStep (part : Nat) (s : State) : Out :=
  .next (
    let ids := ((s.part part).map (·.cancelNow)).getD []
    let s1 := ids.foldl (fun t id => if (t.rec? part id).isSome then cancelNow t part id else t) (arriveApps s part)
    takeUp (s1.modPart part fun p => { p with cancelNow := [] }) part)

def execStepRetryAfterFixed (part : Nat) (s : State) : Out :=
  .next (takeUp (s.modPart part fun p => { p with fixedLeft := true }) part)

end Sys2Proof.Machine
end

