-- ==== Sys2Proof/Machine/System.lean ====
section
/-! DEFINITION. Special registers (04 R74 to R77, 20 R374), TRAP (21 R416), INVTLB (09 R168, 20 R365), ERRINJ (11 R215),
SQPUT (21 R403). -/

namespace Sys2Proof.Machine

open Sys2Proof

/-! ## MFS -/

/-- A special register as the agent reads it, none where the number is reserved to it (R74 to R76). -/
def readSpecial (s : State) (g : Agent) (n : Nat) : Option Word :=
  let p := s.part g.part
  let nat := fun (v : Nat) => some (BitVec.ofNat 64 v)
  let cellV := fun (v : Nat) => if g.service then some 0#64 else nat v
  let w := fun (v : W32) => some (v.zeroExtend 64 : Word)
  if n = 0 then cellV g.cell
  else if n = 1 then cellV g.alen
  else if n = 2 then nat ((p.map fun q => q.logical g.core).getD g.core)
  else if n = 3 then nat g.lcell
  else if n = 4 then cellV g.node
  else if n = 5 then cellV g.depth
  else if n = 6 then (if g.service then some 0#64 else some (localAddr (0x1000 * (g.lcell % 64))))
  else if n = 7 then nat g.rid
  else if n = 8 then nat ((p.map fun q => q.tag g.part).getD 0)
  else if n = 0x10 then w g.frm
  else if n = 0x11 then w g.fflags
  else if n = 0x12 then w g.ftrap
  else if n = 0x13 then some g.seed
  else if n = 0x14 then w g.tms
  else if n = 0x15 then some g.ascl
  else if n = 0x16 then some g.bscl
  else if n = 0x17 then w g.mtol
  else if 0x20 ≤ n ∧ n < 0x24 then w (g.lc.toList.getD (n - 0x20) 0)
  else if 0x24 ≤ n ∧ n < 0x28 then w (g.li.toList.getD (n - 0x24) 0)
  else if 0x28 ≤ n ∧ n < 0x30 then w ((s.core g.core).stats.toList.getD (n - 0x28) 0)
  else if n = 0x30 then some s.time
  else if n = 0x31 then nat (s.coreCycle g.core)
  else if n = 0x38 ∧ g.service then some g.trec
  else none

def execMfs (d : Reg) (n : BitVec 6) (s : State) : Out :=
  onAgent s fun g => match readSpecial s g n.toNat with
    | none => faultNow s g 0x25
    | some v => s.setAgent g.key (g.setS d v).next

/-! ## MTS -/

/-- A value of `%ascl` or `%bscl` (R118). -/
def sclOk (v : Word) : Bool :=
  let m := bits v.toNat 62 2
  m ≠ 3 && bits v.toNat 20 42 = 0 && (m = 1 || bits v.toNat 0 20 = 0)

/-- A value of `%mtol` (R144): finite and not below zero; −0 is accepted. -/
def mtolOk (x : W32) : Bool := finite32 x && !(val32 x).lt (.zero false)

/-- The agent with a special register written, none where register or value is refused (R75). -/
def writeSpecial (g : Agent) (n : Nat) (v : Word) : Option Agent :=
  let x : W32 := v.truncate 32
  let narrow := v.toNat < 2 ^ 32
  if n = 0x10 then (if v.toNat ≤ 5 then some { g with frm := x } else none)
  else if n = 0x11 then (if v.toNat < 128 then some { g with fflags := x } else none)
  else if n = 0x12 then (if v &&& ~~~0x2F#64 = 0 then some { g with ftrap := x } else none)
  else if n = 0x13 then (if v ≠ 0 then some { g with seed := v } else none)
  else if n = 0x14 then (if narrow && !tmsReserved x then some { g with tms := x } else none)
  else if n = 0x15 then (if sclOk v then some { g with ascl := v } else none)
  else if n = 0x16 then (if sclOk v then some { g with bscl := v } else none)
  else if n = 0x17 then (if narrow && mtolOk x then some { g with mtol := x } else none)
  else if h : 0x20 ≤ n ∧ n < 0x24 then
    (if narrow then some { g with lc := g.lc.set (n - 0x20) x (by omega), li := g.li.set (n - 0x20) 0 (by omega) } else none)
  else none

def execMts (n : BitVec 6) (a : Reg) (s : State) : Out :=
  agentOp s fun g => match writeSpecial g n.toNat (g.sr a) with
    | none => .fault g 0x25
    | some h => .ok h.next

/-! ## TRAP -/

/-- R416: the trap record holds opa 0 and opb 0, as fields a and b name none. -/
def execTrap (n : Fin 32) (s : State) : Out := onAgent s fun g => faultNow s g (0x160 + n.val)

/-! ## INVTLB -/

/-- Drop the translations that a test names from every core and every stream context (R168). -/
def dropTlb (s : State) (p : TlbEntry → Bool) : State :=
  { s with
    cores := s.cores.map fun e => (e.1, { e.2 with tlb := e.2.tlb.filter fun t => !p t })
    ctxs := s.ctxs.map fun e => (e.1, { e.2 with tlb := e.2.tlb.filter fun t => !p t }) }

/-- The issuer waits until the invalidation is complete everywhere: a free latency (log 2). -/
def invalidate (s : State) (g : Agent) (p : TlbEntry → Bool) : State :=
  let t := { dropTlb s p with free := s.free + 1 }
  t.setAgent g.key { g.next with wakeAt := s.cycle + (Config.latency s.free + 1) }

def execInvtlbAsid (a : Reg) (s : State) : Out :=
  serviceOnly s 0x26 fun g => invalidate s g fun t => t.asid = (g.sr a).toNat % 65536

def execInvtlbPage (a : Reg) (s : State) : Out :=
  serviceOnly s 0x26 fun g =>
    invalidate s g fun t => t.covers (((s.part g.part).map (·.asid)).getD 0) (bits (g.sr a).toNat 0 55)

def execInvtlbAll (s : State) : Out := serviceOnly s 0x26 fun g => invalidate s g fun _ => true

/-! ## ERRINJ -/

/-- Arm a unit's one-shot injection register (R215). -/
def arm (s : State) (u : W32) (mode : Nat) : State :=
  s.modDev fun d => { d with injections := (d.injections.filter fun i => i.unit ≠ u) ++ [⟨u, mode⟩] }

def execErrinj (kind : Fin 16) (a b : Reg) (s : State) : Out :=
  serviceOnly s 0x26 fun g =>
    let h := (g.sr a).toNat
    let m := (g.sr b).toNat
    let u := BitVec.ofNat 32 h
    if 2 ^ 32 ≤ h ∨ 4 ≤ m ∨ hopKind u ≠ kind.val ∨ !hopPresent s u then faultNow s g 0x25
    else (arm s u m).setAgent g.key g.next

/-! ## SQPUT -/

/-- Claim index w, the CAS of R403 at the header's home, and send the slot's write. A header at a peer answers later, and until then the
agent is held at its SQPUT; a claim that fails makes it issue again, with a fresh index and translation. -/
def claimIndex (s : State) (g : Agent) (hdr : Place) (w : Nat) (a : Access) : State :=
  match hdr with
  | .peer sl pa =>
    State.setAgent { s with outbox := s.outbox ++
        [.peerAccess sl (pa + 16) false g.core g.slot g.nextId (.atom .cas true 0 (BitVec.ofNat 64 (w + 1)) (BitVec.ofNat 64 w))] } g.key
      { g with status := .held, nextId := g.nextId + 1, claim := some (g.nextId, w, a) }
  | _ => launchAccess (wrPlace s (hdr.plus 16) (toLe 8 (w + 1))) g a

/-- R403's checks in its order; not ready while the queue is full, but for one whose wait a freeze has found satisfied (R321). -/
def trySqput (sys : Bool) (a : Reg) (m : MemOp) (s : State) (g : Agent) : Attempt :=
  let q := g.ea m
  let p := g.sr a
  if misaligned p 64 then .trap 0x82 p
  else match localOff p 64 with
    | none => .trap 0x83 p
    | some off =>
      let packet := rd s (spadKey g.core off) 64
      if misaligned q 64 then .trap 0x92 q
      else if heldBack s g (.load .d64 0) p ⟨.here (spadKey g.core off), false⟩ 64 false false then .wait
      else if packet.headD 0 = 0#8 then .trap 0x25 0
      else match resolveCached s g q .write with
        | .error r => .trap (memCause kAtomic r) q
        | .ok h =>
          if h.place.far ∧ !sys then .trap 0x91 q
          else
            let hdr := rdPlace s h.place 64
            let base := leAt hdr 0 8
            let count := leAt hdr 8 4
            let w := leAt hdr 16 8
            let r := leAt hdr 24 8
            if count = 0 ∨ 2 ^ 20 < count ∨ base % 64 ≠ 0 then .trap 0x93 q
            else if g.met.isNone ∧ count ≤ (w + 2 ^ 64 - r) % 2 ^ 64 then .wait
            else
              let slotVa := BitVec.ofNat 64 (base + 64 * (w % count))
              match resolveCached s g slotVa .write with
              | .error c => .trap (memCause kStore c) slotVa
              | .ok l =>
                .go (claimIndex (cacheVa (cacheVa s g q) g slotVa) g h.place (w % 2 ^ 64)
                  ⟨g.nextId, some .stores, .sqput q slotVa packet, [slotVa], [l], 64, false, true,
                    if sys then .sys else .dev, .moving, { hereTrap s g with addr := slotVa }, ⟨[], [], []⟩⟩)

def execSqput (sys : Bool) (a : Reg) (m : MemOp) (s : State) : Out :=
  onAgent s fun g => attempt s g (trySqput sys a m s g)

end Sys2Proof.Machine
end

