-- ==== Sys2Proof/Machine/Peals.lean ====
section
/-! DEFINITION. Detection, pending counts, the ready queue, admission, loading and the start of agents, cancels
(02 R37 to R58, 01 R28 to R30, 11 R210, 12 R222, R229). -/

namespace Sys2Proof.Machine

open Sys2Proof

/-! ## Promise words (R29, R48) -/

def isProm (w : Word) : Bool := symKind w = 0xA

/-- Where the promise word of a record's PROM symbol lies, the `idx`-th of its area; or the cause of R48. -/
def promLoc (s : State) (p : Part) (r : Record) (idx : Nat) : Except Nat Loc :=
  let w := ((r.words s).filter isProm).getD idx 0
  match walkLoc s p.asid (p.prom.toNat + 8 * symPay w) .read with
  | .error c => .error (memCause kPLoad c)
  | .ok l => if l.sa then .ok l else .error 0x9C

/-- A presence read that cannot be made is answered at once with an ERR word, record bits 0 (R48). -/
def promUnreachable (s : State) (n rid idx cause : Nat) : State :=
  sched s 0 (.presenceAnswer n rid idx (errWord cause 0 0 0))

/-- A presence read arrives at its bank, for the first time or again after a full table (R48, R171). A promise word of a
peer is read there (R49). A peer's own read is sent again by the peer. -/
def execDeferralRetry (who : Asker) (s : State) : Out :=
  .next (match who with
    | .agent c k id => match (s.agent (agentKey c k)).bind fun g => g.outs.find? fun a => a.id = id with
      | none => s
      | some a => match a.op, a.phase, firstPlace a with
        -- performed again: what it finds decides as on a first arrival (R170)
        | .ldp _, .armed, some (.here _) => (s.agent (agentKey c k)).elim s fun g => perform s g a
        -- a peer's bank turned it back: it is sent again
        | .ldp _, .armed, some (.peer sl pa) => (s.agent (agentKey c k)).elim s fun g => sendPeer s g a sl pa
        | _, _, _ => s
    | .record n r i => match s.part n, s.rec? n r with
      | some p, some q =>
        if q.state ≠ .waiting then s
        else match promLoc s p q i with
          | .error c => promUnreachable s n r i c
          | .ok l => match l.place with
            | .here pa => presenceRead s pa who
            | .peer slot pa => match peerPort s slot with
              | none => promUnreachable s n r i (memCause kPLoad 0)
              | some _ => { s with outbox := s.outbox ++ [.peerRead slot pa who] }
            | .host _ => promUnreachable s n r i 0x9C
      | _, _ => s
    | .peer _ _ => s)

/-- Issue the presence reads of a record: one for each PROM symbol of its area (R48). -/
def issuePresenceReads (s : State) (n rid : Nat) : State :=
  match s.part n, s.rec? n rid with
  | some p, some r =>
    forN ((r.words s).filter isProm).length s fun i t =>
      match promLoc t p r i with
      | .error c => promUnreachable t n rid i c
      | .ok _ => schedFree t (.deferralRetry (.record n rid i))
  | _, _ => s

/-- A record becomes READY (R49): the root may select from this cycle on (R51). -/
def makeReady (s : State) (n rid : Nat) : State :=
  wakeRoot ((moveRec s n rid .ready).modRec n rid fun r => { r with ready := s.cycle, startAt := 0, unheld := [] }) n

/-- Is the record's end already decided by an ERR step, or its step in progress? A step that a handler has asked for again has not begun
(R56). -/
def Part.doomed (p : Part) (rid : Nat) : Bool :=
  p.urgent.any (fun x => x.1 = rid && x.2 ≠ .emit) || (p.stepNow.map fun x => decide (x.rid = rid)).getD false

/-- PRESENCE_ANSWER: pend falls in the cycle in which the answer reaches the root (R49). -/
def execPresenceAnswer (part rec idx : Nat) (val : Word) (s : State) : Out :=
  .next (match s.part part, s.rec? part rec with
    | some p, some r =>
      if r.state ≠ .waiting ∨ p.doomed rec ∨ p.pre.stopped ∨ (r.answers.getD idx none).isSome then s
      else
        let s1 := s.modRec part rec fun q => { q with pend := q.pend - 1, answers := q.answers.set idx (some val) }
        if r.pend = 1 then makeReady s1 part rec else s1
    | _, _ => s)

/-! ## Detection (R38) -/

/-- The operator term of an application: its first symbol after the APP. -/
def operTerm (ws : List Word) : Word := ((ws.drop 1).filter fun w => !absent w).headD 0

def Part.operPrio (p : Part) (o : Nat) : Nat := ((p.opers[o]?).bind Oper.prio).getD (p.flags % 8)
def Part.operGran (p : Part) (o : Nat) : Nat := ceilDiv (((p.opers[o]?).map Oper.regs).getD 0) 4

/-- The record of an area, WAITING: its words as the sweep saw them, its cells as they stand now (R66). -/
def newRecord (s : State) (p : Part) (a : Area) : Record :=
  let ws := a.words
  let app := ws.headD 0
  let o := operTerm ws
  let known := symKind o = 7
  { copy := 0, drain := 0, steady := 0, fill := 0, load := 0, ready := 0, cause := 0, retries := 0
    gran := if known then p.operGran (symPay o % 65536) else 0
    alen := (openBetween s a.start a.fin).length
    start := a.start
    node := symNode app
    oper := if known then symPay o % 65536 else 0
    pend := (ws.filter isProm).length
    passes := 0, blk := false
    ret := symRetain app
    prio := if known then p.operPrio (symPay o % 65536) else p.flags % 8
    state := .waiting
    id := p.nextRec
    answers := List.replicate (ws.filter isProm).length none
    admittedAt := s.cycle, startAt := 0, phase := none, stopped := none, rowFull := false
    awaitsTest := none, cancelHeld := false, seat := a.start, emitAt := 0, since := s.cycle, was := .waiting, freed := false, unheld := [] }

/-- The operator after resolution, when the library has it. -/
def resolvedOper (p : Part) (ws : List Word) : Option Nat :=
  let o := operTerm ws
  if symKind o = 7 ∧ symPay o < p.opers.length then some (symPay o) else none

/-- Create the record of one area: FAULTED, READY or WAITING. -/
def createRecord (s : State) (n : Nat) (a : Area) : State :=
  match s.part n with
  | none => s
  | some p =>
    let r := newRecord s p a
    let s1 := arriveApps (s.setPart n { p with
      records := p.records ++ [r]
      nextRec := p.nextRec + 1
      pealCreated := p.pealCreated + 1
      lastCreated := p.lastCreated + 1 }) n
    let ws := a.words
    let c := defect ws
    if c ≠ 0 then
      let s2 := (setRecState s1 n r.id .faulted c).modRec n r.id fun q => { q with cause := c, pend := 0 }
      raiseTrap s2 n r.id 1 c (resolvedOper p ws).isNone
    else if r.pend = 0 then makeReady s1 n r.id
    else issuePresenceReads s1 n r.id

/-- Live records that the partition's table can hold (R38). -/
def recordLimit (s : State) (n : Nat) : Nat := let c := (s.pcb n).rcnt.toNat; if c = 0 then 1024 else c

/-- SWEEP_COMPLETE: the areas that the sweep saw get their records, left to right; the row without an APP and without a
live record completes the launch (R40), its last peal summarised (R311). The root's record cache checks what it is given; while that cache
is under test the sweep waits (R204, R208). -/
def execSweepComplete (part : Nat) (s : State) : Out :=
  .next (match s.part part with
    | none => s
    | some p => match p.sweep with
      | none => s
      | some (_, areas) =>
        let s1 := s.setPart part { p with sweep := none, lastCreated := 0 }
        let cache := coreHop 15 (s.root part p) 0
        if p.pre.stopped then s1
        else if areas.isEmpty ∧ p.records.isEmpty ∧ !p.sweepQueued then endPartition (profilePeal s1 part p) part 0 0
        else if fencedOn s [cache] then schedOnce s 1 (.sweepComplete part)
        else
          let s2 := areas.foldl (fun t a =>
            match t.part part with
            | none => t
            | some q => if q.records.length < recordLimit t part then
                let u := createRecord t part a
                (transit u [cache] (genuine u 0 (symNode (a.words.headD 0)) q.nextRec)).1 else t) s1
          if p.sweepQueued then startSweep s2 part else s2)

/-- DETECTION_SWEEP. -/
def execDetectionSweep (part : Nat) (s : State) : Out := .next (startSweep s part)

/-! ## Retained copies (R210) -/

/-- Bytes that the copy of these words takes. -/
def copySize (ws : List Word) : Nat := ceilDiv (8 * ws.length) 64 * 64 + payloadArea ws

/-- The lowest 64-byte boundary of the region at which a block fits beside the copies held. -/
def copyPlace (s : State) (n : Nat) (p : Part) (size : Nat) : Option Nat :=
  let b := s.pcb n
  let base := ceilDiv b.retain.toNat 64 * 64
  let lim := b.retain.toNat + b.rbytes.toNat
  let held : List (Nat × Nat) := p.retained.map fun x => (((p.rec? x.1).map fun r => r.copy.toNat).getD 0, x.2.2)
  let starts := sortBy (fun (x y : Nat) => x ≤ y) (base :: held.map fun h => ceilDiv (h.1 + h.2) 64 * 64)
  if b.retain = 0 then none
  else (starts.filter fun a => base ≤ a && a + size ≤ lim && held.all fun h => a + size ≤ h.1 || h.1 + h.2 ≤ a).head?

/-- Can every byte of a block be written under the identifier? -/
def writable (s : State) (asid va n : Nat) : Bool :=
  n = 0 || (List.range ((va + n - 1) / 65536 - va / 65536 + 1)).all fun i =>
    match walkLoc s asid (if i = 0 then va else (va / 65536 + i) * 65536) .write with
    | .ok _ => true
    | .error _ => false

/-- Can the retained copy of these words be placed and written, or is it held already (R210)? -/
def copyFits (s : State) (n : Nat) (p : Part) (r : Record) (ws : List Word) : Bool :=
  !r.ret || p.retained.any (fun x => x.1 = r.id) ||
    match copyPlace s n p (copySize ws) with
    | none => false
    | some va => writable s p.asid va (copySize ws)

/-- Write the retained copy of a record that is being admitted: the state and its cycles; none where it cannot be placed
or written. A copy that is held already stays as it is. -/
def retainCopy (s : State) (n : Nat) (p : Part) (r : Record) : Option (State × Nat) :=
  if !r.ret || p.retained.any (fun x => x.1 = r.id) then some (s, 0)
  else
    let size := copySize (r.words s)
    match copyPlace s n p size with
    | none => none
    | some va =>
      let c := payloadsLeave s n p r.id (va + ceilDiv (8 * (r.cells s).length) 64 * 64) (r.cells s)
      let l := packCells c.2 (r.cells s)
      match writeVa c.1 p.asid va l with
      | none => none
      | some t => some ((t.modRec n r.id fun q => { q with copy := BitVec.ofNat 64 va }).modPart n fun q =>
          { q with retained := q.retained ++ [(r.id, r.alen, l.length)] }, ceilDiv l.length 64)

/-! ## Resolution (R30) -/

/-- Kinds a promise word may hold, an ERR word only with a cause that exists. -/
def eligible (w : Word) : Bool :=
  match symKind w with
  | 4 | 5 | 6 | 7 | 9 => true
  | 0xB => !reservedErrCause (bits w.toNat 23 9)
  | _ => false

/-- The symbol a PROM becomes, none where its promise word is not eligible; other symbols stay. -/
def resolveSym (w : Word) (a : Option Word) : Option Word :=
  if symKind w ≠ 0xA then some w
  else match a with
    | some v => if eligible v then
        some (mkSym (symKind v) (symDepth w) (symNode w) (symSub v) (symPay v) (symAlign w) (symRetain w)) else none
    | none => none

/-- The answer that belongs to each symbol of an area: PROM symbols take theirs in order. -/
def withAnswers : List Word → List (Option Word) → List (Word × Option Word)
  | [], _ => []
  | w :: t, as => if isProm w then (w, as.headD none) :: withAnswers t (as.drop 1) else (w, none) :: withAnswers t as

/-- The area's symbols after resolution; a PROM that cannot be resolved stays. -/
def resolved (s : State) (r : Record) : List Word :=
  (withAnswers (r.words s) r.answers).map fun x => (resolveSym x.1 x.2).getD x.1

def ineligible (s : State) (r : Record) : Bool :=
  (withAnswers (r.words s) r.answers).any fun x => (resolveSym x.1 x.2).isNone

/-- More registers than a core has (R52). -/
def overLimit (gran : Nat) (cells : List Nat) : Bool := (coresOf cells).any fun c => 1024 < 4 * gran * agentsIn cells c

/-- The admission fault that is raised, in the order of R222, or 0. -/
def admitFault (s : State) (p : Part) (r : Record) (ws : List Word) : Nat :=
  if ineligible s r then 0xFB
  else match resolvedOper p ws with
    | none => 0xDD
    | some o =>
      if ws.any fun w => symKind w = 9 && tensorValid s p.asid p.desc.toNat p.ndesc w ≠ some true then 0xDB
      else if overLimit (p.operGran o) (r.cells s) then 0xDC
      else if ((p.opers[o]?).map Oper.errp).getD false ∧ ws.any (fun w => symKind w = 0xB) then 0xFF
      else 0

/-! ## Admission (R50, R51) -/

/-- A step's shift holds a record back while it moves a cell of its area (R65). -/
def heldByStep (s : State) (p : Part) (r : Record) : Bool :=
  match p.stepNow with
  | none => false
  | some x => let sp := r.span s; x.moves.any fun m => sp.1 ≤ m.1 && m.1 ≤ sp.2

/-- An instruction cache under test takes no microprogram (R208). -/
def cacheHeld (s : State) (cells : List Nat) : Bool := fencedOn s ((coresOf cells).map fun c => coreHop 13 c 0)

inductive Admissible where
  | yes
  /-- needs more registers than a core has: selected only when it stands first -/
  | over
  /-- lacks registers, instruction cache or retain region for now -/
  | short
  | held
  deriving DecidableEq, Repr

def admissible (s : State) (n : Nat) (p : Part) (r : Record) : Admissible :=
  let ws := resolved s r
  let cells := r.cells s
  let o := resolvedOper p ws
  let gran := (o.map p.operGran).getD 0
  if heldByStep s p r ∨ p.doomed r.id ∨ cacheHeld s cells then .held
  else if overLimit gran cells then .over
  else if (coresOf cells).all (fun c => granuleRoom s p { r with gran := gran } c) ∧
      (o.map fun x => (coresOf cells).all fun c => icacheRoom s n p c x).getD true ∧
      copyFits s n p r ws then .yes
  else .short

/-- Ready-queue order (R50). -/
def readyQueue (p : Part) : List Record :=
  sortBy (fun (a b : Record) => decide (b.prio < a.prio) || (a.prio = b.prio && decide (a.start ≤ b.start)))
    (p.records.filter fun r => r.state = .ready)

/-- The records that may be considered: none behind the first blocking one. -/
def upToBlocking : List Record → List Record
  | [] => []
  | r :: t => if r.blk then [r] else r :: upToBlocking t

/-- The first record to select, and those passed over before it. -/
def selectReady (s : State) (n : Nat) (p : Part) : Bool → List Nat → List Record → Option (Record × List Nat)
  | _, _, [] => none
  | first, passed, r :: t =>
    match admissible s n p r with
    | .yes => some (r, passed)
    | .over => if first then some (r, passed) else selectReady s n p false passed t
    | .short => selectReady s n p false (passed ++ [r.id]) t
    | .held => selectReady s n p false passed t

/-- Admit a record, or raise its admission fault (R222): the replacements of R30 are written first. -/
def admitRecord (s : State) (n : Nat) (p : Part) (r : Record) (passed : List Nat) : State :=
  let ws := resolved s r
  let s1 := ((r.cells s).zip ws).foldl (fun t x => if s.cell x.1 = x.2 then t else t.setCell x.1 x.2) s
  let cause := admitFault s p r ws
  let o := resolvedOper p ws
  if cause ≠ 0 then
    let s2 := (setRecState s1 n r.id .faulted cause).modRec n r.id fun q => { q with cause := cause, oper := o.getD q.oper }
    raiseTrap s2 n r.id 1 cause o.isNone
  else
    let oper := o.getD 0
    let r1 := { r with oper := oper, gran := p.operGran oper, prio := p.operPrio oper }
    match retainCopy s1 n p r with
    | none => s1.modRec n r.id fun q => { q with passes := min 64 (q.passes + 1), blk := 64 ≤ q.passes + 1 }
    | some (s2, copyTime) =>
      let s3 := setRecState (s2.modRec n r.id fun q => { q with oper := r1.oper, gran := r1.gran, prio := r1.prio }) n r.id .admitted
      let l := beginLoad s3 n p (coresOf (r.cells s)) oper
      let startAt := max l.2 (s.cycle + copyTime)
      let s4 := (l.1.modPart n fun q => { q with
        pealAdmitted := q.pealAdmitted + 1
        records := mapIf (fun x => passed.contains x.id) (fun x =>
          { x with passes := min 64 (x.passes + 1), blk := 64 ≤ x.passes + 1 }) q.records }).modRec n r.id fun q =>
            { q with admittedAt := s.cycle, startAt := startAt, phase := some .load }
      sched s4 (startAt - s.cycle) (.loadComplete n r.id)

/-- ADMISSION: one selection; the next comes four cycles later, while a record is READY or after a selection. -/
def execAdmission (part : Nat) (s : State) : Out :=
  .next (match s.part part with
    | none => s
    | some p =>
      if p.pre.stopped then s
      else
        let q := readyQueue p
        if q.isEmpty then s
        else
          let s1 := match selectReady s part p true [] (upToBlocking q) with
            | none => s
            | some (r, passed) => admitRecord s part p r passed
          schedOnce (s1.modPart part fun x => { x with lastSel := some s.cycle }) 4 (.admission part))

/-! ## The start of agents (R54) -/

/-- The agent of one cell of an area: `i` its position, in the state of R54. -/
def startAgent (s : State) (n : Nat) (p : Part) (r : Record) (i cell : Nat) : Agent :=
  let b := s.pcb n
  { Agent.fresh with
    core := cell / 64
    slot := cell % 64
    part := n
    rid := r.id
    oper := r.oper
    cell := i
    alen := r.alen
    lcell := 64 * p.logical (cell / 64) + cell % 64
    node := symNode (s.cell cell)
    depth := symDepth (s.cell r.start)
    frm := b.frm
    ftrap := b.ftrap
    seed := b.seed
    tms := b.tms
    ascl := b.ascl
    bscl := b.bscl
    mtol := b.mtol
    gran := r.gran
    nextId := 2 ^ 32 * (s.free + i)
    lastIssue := s.cycle
    wakeAt := s.cycle }

/-- Is every word of the microprogram in every core that the area spans? -/
def residentAll (s : State) (n : Nat) (r : Record) : Bool :=
  (coresOf (r.cells s)).all fun c => ((s.micro c n r.oper).map fun m => decide (m.readyAt ≤ s.cycle)).getD false

/-- LOAD_COMPLETE: the agents of an ADMITTED record start, unless a step holds the area, cores it has moved into lack
registers or the microprogram (R65), or a cancel has come first (R57). The spec says only that the load into an entered core comes
before the agents start: it begins when the step that moved the area completes, or here where it is still missing (DESIGN CHOICE,
log 30); granules that found no room in an entered core are reserved here. -/
def execLoadComplete (part rec : Nat) (s : State) : Out :=
  .next (match s.part part, s.rec? part rec with
    | some p, some r =>
      let frozen : Bool := match p.pre with
        | .cut _ | .saved => true
        | _ => false
      if r.state ≠ .admitted ∨ heldByStep s p r ∨ p.doomed rec ∨ frozen then s
      else if s.cycle < r.startAt then schedOnce s (r.startAt - s.cycle) (.loadComplete part rec)
      else
        let cells := r.cells s
        if !residentAll s part r then
          if !(coresOf cells).all (fun c => icacheRoom s part p c r.oper) then sched s 1 (.loadComplete part rec)
          else
            let l := beginLoad s part p (coresOf cells) r.oper
            sched (l.1.modRec part rec fun q => { q with startAt := l.2 }) (l.2 - s.cycle) (.loadComplete part rec)
        else if !(r.unheld.all fun c => granuleRoom s p r c) then sched s 1 (.loadComplete part rec)
        else
          let s1 := cells.zipIdx.foldl (fun (t : State) x =>
            t.setAgent (agentKey (x.1 / 64) (x.1 % 64)) (startAgent s part p r x.2 x.1)) s
          let s2 := { s1 with free := s1.free + cells.length }
          setRecState (s2.modRec part rec fun q => { q.enter s.cycle (some .fill) with unheld := [] }) part rec .running
    | _, _ => s)

/-! ## Cancels (R56, R57) -/

/-- Does the agent come to a DONE, words with a false guard dropped (R82)? -/
def atDone (s : State) (g : Agent) : Nat → Nat → Bool
  | 0, _ => false
  | n + 1, pc =>
    let w := s.wordAt g pc
    match decode w 0 with
    | .instr i => if g.pr (guardOf w).p != (guardOf w).neg then i = .done else atDone s g n (pc + 1)
    | _ => false

/-- Has every agent of the record ended, or does it stand at its DONE? -/
def lastDoneDue (s : State) (n rid : Nat) : Bool :=
  (s.agentsOf n rid).all fun g => g.status = .ended || (g.status = .running && atDone s g (s.nwords g + 1 - g.pc) g.pc)

/-- CANCEL_EFFECT. A cancel in the cycle of the last agent's DONE acts behind the issue of the cycle, on EMITTING (R57). One that comes
once row-full is raised waits for the RFT, also while its handler run has not started (R69; DESIGN CHOICE, log 30). -/
def execCancelEffect (part rec : Nat) (s : State) : Out :=
  .next (match s.part part with
    | none => s
    | some p =>
      if p.pre.stopped then s.setPart part { p with heldCancels := p.heldCancels ++ [rec] }
      else match p.rec? rec with
        | none => s
        | some r =>
          if p.doomed rec then s
          else if r.state = .faulted ∨ r.rowFull then s.modRec part rec fun q => { q with cancelHeld := true }
          else if r.state = .running ∧ lastDoneDue s part rec then
            schedOnce (s.setPart part { p with cancelNow := p.cancelNow ++ [rec] }) 0 (.storageStep part)
          else cancelNow s part rec)

end Sys2Proof.Machine
end

