-- ==== Sys2Proof/Machine/Traps.lean ====
section
/-! DEFINITION. The trap queue, the handler and the return from it (12 R223 to R230), DONE (19 R351, 04 R91). -/

namespace Sys2Proof.Machine

open Sys2Proof

/-! ## Trap records (R223, R224) -/

/-- The 128 bytes of a trap record. -/
def trapRecord (s : State) (n : Nat) (x : RaisedTrap) : List Byte :=
  let r := s.rec? n x.rid
  let t := x.trap
  let cell := ((x.agent.bind s.agent).map (·.cell)).getD 0xFFFFFFFF
  toLe 2 t.cause ++ toLe 2 (1 + 2 * x.source + 8 * b2n x.logged + 16 * b2n x.unresolved) ++ toLe 4 x.rid ++
    toLe 2 (if x.unresolved then 0 else (r.map (·.oper)).getD 0) ++ zerosB 2 ++ toLe 4 ((r.map (·.node)).getD 0) ++ toLe 4 t.pc ++
    toLe 4 cell ++ ofWord t.word ++ ofWord t.opa ++ ofWord t.opb ++ ofWord t.addr ++ toLe 4 t.lane ++ zerosB 4 ++
    ((x.li ++ List.replicate (4 - x.li.length) 0#32).flatMap of32) ++ ofWord t.chunk ++ of32 t.hop ++
    toLe 4 (t.entry.getD 0xFFFFFFFF) ++ ofWord x.time ++ toLe 4 ((r.map (·.start)).getD 0) ++ toLe 4 ((r.map (·.alen)).getD 0) ++
    zerosB 16

/-- Traps are appended in the order in which they were raised; those of one cycle by record start. -/
def RaisedTrap.raisedAt (x : RaisedTrap) : Nat := if x.source = 0 then x.due - 2 else x.due

def trapOrder (s : State) (n : Nat) (a b : RaisedTrap) : Bool :=
  let start := fun (x : RaisedTrap) => ((s.rec? n x.rid).map (·.start)).getD 0
  decide (a.raisedAt < b.raisedAt) || (a.raisedAt = b.raisedAt && decide (start a ≤ start b))

/-- Traps of the queue that are not handled yet. -/
def Part.unhandled (p : Part) : Nat := p.traps.length + b2n p.run.isSome

/-- The next run may be put on the agenda: the handler is loaded into the root core once its instruction cache has room (R51), and two
cycles have passed since the last RFT (R225). -/
def planRun (s : State) (n : Nat) : State :=
  match s.part n with
  | none => s
  | some p => match p.handler with
    | none => s
    | some h =>
      if p.run.isSome ∨ p.traps = [] then s
      else if !icacheRoom s n p (s.root n p) h then schedOnce s 1 (.handlerRunStart n)
      else
        let l := beginLoad s n p [s.root n p] h
        schedOnce l.1 (max l.2 (p.lastRft + 2) - s.cycle) (.handlerRunStart n)

/-- Append one trap record to the queue; without a handler, or where its record cannot be written, the partition ends as
by ABORT (R223, R225). -/
def appendTrap (s : State) (n : Nat) (x : RaisedTrap) : State :=
  match s.part n with
  | none => s
  | some p =>
    if 64 ≤ p.unhandled then s
    else
      let q := { p with raised := p.raised.filter (· ≠ x) }
      let va := (s.pcb n).trapq.toNat + 128 * (p.trapCount % 64)
      if p.handler.isNone ∨ (s.pcb n).trapq = 0 then endWhole s n 0x01 x.trap.cause
      else match writeVa s p.asid va (trapRecord s n x) with
        | none => endWhole s n 0x01 x.trap.cause
        | some t => planRun (t.setPart n { q with traps := q.traps ++ [⟨p.trapCount, x⟩], trapCount := p.trapCount + 1 }) n

/-- TRAP_ENQUEUE: every raised trap that is due and finds room. A fault of the handler ends the partition (R225). -/
def execTrapEnqueue (part : Nat) (s : State) : Out :=
  .next (match s.part part with
    | none => s
    | some p => match p.ended with
      | some w => endWhole s part (w.toNat % 256) (bits w.toNat 16 9)
      | none => (sortBy (trapOrder s part) (p.raised.filter fun x => x.due ≤ s.cycle)).foldl (fun t x => appendTrap t part x) s)

/-! ## The handler's run (R225, R76) -/

/-- The service agent at the start of a run. -/
def handlerAgent (s : State) (n : Nat) (p : Part) (core oper : Nat) (q : QueuedTrap) : Agent :=
  let b := s.pcb n
  { Agent.fresh with
    core := core
    slot := 64
    part := n
    rid := q.raised.rid
    oper := oper
    frm := b.frm
    ftrap := b.ftrap
    seed := b.seed
    tms := b.tms
    ascl := b.ascl
    bscl := b.bscl
    mtol := b.mtol
    lcell := 64 * p.logical core
    node := ((s.rec? n q.raised.rid).map (·.node)).getD 0
    nextId := 2 ^ 32 * s.free
    lastIssue := s.cycle
    wakeAt := s.cycle
    trec := BitVec.ofNat 64 ((s.pcb n).trapq.toNat + 128 * (q.n % 64)) }

/-- HANDLER_RUN_START. -/
def execHandlerRunStart (part : Nat) (s : State) : Out :=
  .next (match s.part part with
    | none => s
    | some p => match p.traps, p.handler with
      | q :: rest, some h =>
        let core := s.root part p
        if p.run.isSome ∨ p.pre ≠ .none then s
        else match s.micro core part h with
          | none => planRun s part
          | some m =>
            if s.cycle < m.readyAt ∨ (p.lastRft ≠ 0 ∧ s.cycle < p.lastRft + 2) then planRun s part
            else
              let s1 := State.setPart { s with free := s.free + 1 } part { p with traps := rest, run := some q }
              s1.setAgent (agentKey core 64) (handlerAgent s part p core h q)
      | _, _ => s)

/-! ## What an action does to the trapped record (R227, R228) -/

inductive Action where
  | resume | skip | retry | poison | abort
  deriving DecidableEq, Repr


/-- Is the agent at a TMEAN whose exit fault it reports: its contribution stands (R158)? -/
def atExit (g : Agent) : Bool := g.status = .joining && g.contrib.isSome

/-- RESUME in the trapped agent. -/
def resumeAgent (s : State) (g : Agent) (f : AFault) : State :=
  let h := { g with trapped := none }
  let s1 := s.setAgent g.key h
  if !f.late then
    if atExit h then sched s1 0 (.treeJoinComplete h.part h.rid h.join) else s1
  else match f.access with
    | some id => reissue s1 h id
    | none => s1.setAgent g.key (match h.redo with
      | [] => { h with redo := [h.pc], pc := f.trap.pc }
      | l => { h with redo := l.dropLast ++ [f.trap.pc] ++ l.drop (l.length - 1) })

/-- The majors of tree operations (R106): also of one that faults for a reserved field. -/
def isTree (w : Word) : Bool := let m := (major w).toNat; (0x84 ≤ m && m ≤ 0x87) || m = 0x7C

/-- SKIP in the trapped agent: it goes on behind the faulting instruction; a tree operation then counts as arrived with
the identity (R413), except where its contribution was not accepted (0x061). -/
def skipAgent (s : State) (g : Agent) (f : AFault) : State :=
  let h := { g with trapped := none }
  let s1 := s.setAgent g.key h
  if f.late then (match f.access with
    | some id => s1.setAgent g.key (h.dropFaulted id)
    | none => s1)
  else if atExit h then skipExit s1 h.part h.rid h.join
  else if isTree f.trap.word ∧ f.trap.cause ≠ 0x61 then skipTree s1 h
  else s1.setAgent g.key (match h.redo with
    | n :: l => { h with pc := n, redo := l, xrow := none }
    | [] => { h.next with xrow := none })

/-- The area goes on: RUNNING, held late faults are raised, a held cancel acts (R56). -/
def goOn (s : State) (n rid : Nat) : State :=
  let s1 := setRecState s n rid .running
  (s1.agentsOf n rid).foldl (fun t g => if g.late = [] then t else schedOnce t 0 (.lateFaultRaise g.core g.slot)) s1

/-- The held cancel of a record acts at once. -/
def actCancel (s : State) (n rid : Nat) : State :=
  match s.rec? n rid with
  | none => s
  | some r => if r.cancelHeld then cancelNow s n rid else s

/-- The area is restored from its retained copy, whose payloads are checked where they arrive (R205); without one it stays
as it stands. -/
def restoreArea (s : State) (n : Nat) (p : Part) (r : Record) : State :=
  match readCopy s p r with
  | none => s
  | some l => ((r.cells s).zip l).foldl (fun t x =>
      (putSymbol t n r.id ⟨x.2.1, x.2.2.map (·.2), (x.2.2.map (·.1)).getD 0, x.1, r.seat⟩).1) s

/-- RETRY: emissions discarded, tiles released, the area restored, READY with one more retry. -/
def retryRecord (s : State) (n rid : Nat) : State :=
  match s.part n, s.rec? n rid with
  | some p, some r =>
    let s1 := restoreArea (dropAgents s n rid) n p r
    makeReady (s1.modRec n rid fun q =>
      { q.enter s.cycle none with retries := q.retries + 1, pend := 0, awaitsTest := none }) n rid
  | _, _ => s

/-- The promise words of the poison field that PSET can reach (R165) and that are EMPTY at their homes are poisoned (R228). -/
def poisonRange (s : State) (n rid cause first count : Nat) : State :=
  match s.part n with
  | none => s
  | some p => forN count s fun i t =>
      if p.nprom ≤ first + i then t
      else match walkLoc t p.asid (p.prom.toNat + 8 * (first + i)) .pwrite with
        | .error _ => t
        | .ok l =>
          let v := errWord cause rid 0 0
          if !l.sa then t
          else match l.place with
            | .here pa => if (t.presenceOf pa).isSome then t else presenceWrite t pa .poison v
            | .peer slot pa => { t with outbox := t.outbox ++ [.peerAccess slot pa true 0 0 0 (.poisonEmpty v)] }
            | .host _ => t

def poisonRecord (s : State) (n : Nat) (x : RaisedTrap) (first count : Nat) : State :=
  errStep ((poisonRange s n x.rid x.trap.cause first count).modRec n x.rid fun q =>
    { q with rowFull := false, cancelHeld := false }) n x.rid x.trap.cause .done

/-- Row-full: the step is tried again with the emissions held (R69). -/
def retryStep (s : State) (n rid : Nat) : State :=
  schedOnce ((s.modRec n rid fun q => { q with rowFull := false }).modPart n fun p =>
    { p with urgent := (rid, .emit) :: p.urgent }) 0 (.storageStep n)

/-- RETRY below the launch's retry limit, else POISON. -/
def retryOrPoison (s : State) (n : Nat) (p : Part) (r : Record) (x : RaisedTrap) (first count : Nat) : State :=
  if r.retries = p.flags / 8 % 4 then poisonRecord s n x first count else actCancel (retryRecord s n x.rid) n x.rid

/-- What an action does (R227). -/
def takeAction (s : State) (n : Nat) (x : RaisedTrap) (act : Action) (first count : Nat) : State :=
  match s.part n, s.rec? n x.rid with
  | some p, some r =>
    let agent := x.agent.bind s.agent
    match act with
    | .abort => endWhole s n 0x01 x.trap.cause
    | .poison => poisonRecord s n x first count
    | .retry => if r.rowFull then actCancel (retryStep s n x.rid) n x.rid else retryOrPoison s n p r x first count
    | .resume | .skip =>
      if r.rowFull then actCancel (retryStep s n x.rid) n x.rid
      else if x.source ≠ 0 then retryOrPoison s n p r x first count
      else match agent with
        | none => retryOrPoison s n p r x first count
        | some g => match g.trapped with
          | none => actCancel (goOn s n x.rid) n x.rid
          | some f =>
            let s1 := if act = .resume then resumeAgent s g f else skipAgent s g f
            actCancel (goOn s1 n x.rid) n x.rid
  | _, _ => if act = .abort then endWhole s n 0x01 x.trap.cause else s

/-! ## RFT (R226) -/

/-- Put what follows a run on the agenda: the next run, a trap that found the queue full, a pre-emption that waited. -/
def afterRun (s : State) (n : Nat) : State :=
  let s1 := planRun s n
  match s1.part n with
  | none => s1
  | some p =>
    let s2 := if p.raised.isEmpty then s1 else schedOnce s1 0 (.trapEnqueue n)
    if p.pre = .none then s2 else sched s2 0 (.preemptMarkerArrival n)

/-- The run ends: the service agent is gone with its tiles, its record is handled. -/
def endRun (s : State) (g : Agent) : State :=
  let s1 := releaseOwned s g.core g.slot
  let s2 : State := { s1 with agents := Tbl.drop s1.agents g.key }
  afterRun (s2.modPart g.part fun p => { p with run := none, lastRft := s.cycle }) g.part

/-- The last thing an agent does waits as `WAIT 0, 0, 0, 0` (R91, R226). -/
def allDone (g : Agent) : Bool := waitMet g 0 0 0 0

/-- RFT, its wait and its poison field. -/
def tryRft (act : Action) (s : State) (g : Agent) : Attempt :=
  if !allDone g then .wait
  else match s.part g.part with
    | none => .wait
    | some p => match walkLoc s p.asid (bits g.trec.toNat 0 55 + 120) .read with
      | .error c => .trap (memCause kLoad c) (g.trec + 120)
      | .ok l =>
        let w := leNat (rdPlace s l.place 8)
        if bits w 48 16 ≠ 0 then .trap 0x25 0
        else match p.run with
          | none => .go s
          | some q => .go (endRun (takeAction s g.part q.raised act (bits w 0 32) (bits w 32 16)) g)

def execRft (act : Action) (s : State) : Out := serviceOnly s 0x26 fun g => attempt s g (tryRft act s g)

def execRftResume (s : State) : Out := execRft .resume s
def execRftSkip (s : State) : Out := execRft .skip s
def execRftRetry (s : State) : Out := execRft .retry s
def execRftPoison (s : State) : Out := execRft .poison s
def execRftAbort (s : State) : Out := execRft .abort s

/-! ## DONE (R351) -/

/-- The last agent's DONE: the record is EMITTING, its tiles are released, its step waits its turn (R39, R79). -/
def beginEmitting (s : State) (n rid : Nat) : State :=
  let s1 := (s.agentsOf n rid).foldl (fun t g => releaseOwned t g.core g.slot) (setRecState s n rid .emitting)
  schedOnce ((s1.modRec n rid fun r => { r with emitAt := s.cycle }).modPart n fun p => { p with emitQ := p.emitQ ++ [(s.cycle, rid)] })
    0 (.storageStep n)

/-- The first DONE of a record begins its drain (R311). -/
def firstDone (s : State) (n rid : Nat) : State :=
  s.modRec n rid fun r => if r.phase = some .drain then r else r.enter s.cycle (some .drain)

/-- DONE of a cell agent, once its counts are 0. -/
def endAgent (s : State) (g : Agent) : State :=
  let s1 := firstDone (s.setAgent g.key { g with status := .ended }) g.part g.rid
  if (s1.agentsOf g.part g.rid).all fun h => h.status = .ended then beginEmitting s1 g.part g.rid
  else tryJoins s1 g.part g.rid

def tryDone (s : State) (g : Agent) : Attempt :=
  if g.service then tryRft .abort s g
  else if allDone g then .go (endAgent s g) else .wait

def execDone (s : State) : Out := onAgent s fun g => attempt s g (tryDone s g)

end Sys2Proof.Machine
end

