-- ==== Sys2Proof/Machine/Launch.lean ====
section
/-! DEFINITION. Launch queues (02 R41 to R43), launch statuses (R45), expression launches: checks and placement (01 R32 to
R34, 02 R44), the source node table (17 R299, R300, R304). -/

namespace Sys2Proof.Machine

open Sys2Proof

/-! ## Queues -/

/-- A packet that its consumer may take: queue header, target, index and the 64 bytes. -/
structure Packet where
  target : Nat
  idx : Nat
  bytes : List Byte
  slot : Place
  hdr : Place
  deriving DecidableEq, Repr

/-- Device memory: HBM or LPDDR of the module. -/
def Place.device : Place → Bool
  | .here k => !isSpad k
  | _ => false

/-- The packet at the head of a queue of a kind: none where the queue is ignored or its slot is empty (R41, R43), or the module serves
nothing but BAR0 reads (R295). -/
def queueHead (s : State) (hdr : Nat) (kind : Nat) : Option Packet :=
  match walkLoc s 0 hdr .write with
  | .error _ => none
  | .ok l =>
    let h := rdPlace s l.place 64
    let base := leAt h 0 8
    let count := leAt h 8 4
    let target := leAt h 13 3
    let r := leAt h 24 8
    let lim := if kind = 1 then Config.cores else if kind = 2 then Config.engines else Config.ringers
    if s.dev.bstat = 1 ∨ hdr % 64 ≠ 0 ∨ 2 ^ 55 ≤ hdr ∨ !l.place.device ∨ base % 64 ≠ 0 ∨ 2 ^ 55 ≤ base ∨ count = 0 ∨ 2 ^ 20 < count ∨
        leAt h 12 1 ≠ kind ∨ lim ≤ target ∨ !isZeroB (h.drop 40) then none
    else match walkLoc s 0 (base + 64 * (r % count)) .write with
      | .error _ => none
      | .ok q =>
        let b := rdPlace s q.place 64
        if b.headD 0 = 0#8 then none else some ⟨target, r, b, q.place, l.place⟩

/-- Consume the packet: valid byte cleared, then ridx (R43). -/
def consume (s : State) (p : Packet) : State := wrPlace (wrPlace s p.slot [0#8]) (p.hdr.plus 24) (toLe 8 (p.idx + 1))

/-- Has the trace unit written its valid byte last? -/
def Packet.quiet (s : State) (p : Packet) : Bool :=
  match p.slot with
  | .here k | .host k => s.hushedAt k 1
  | .peer _ _ => false

/-- The launch event of a consumer kind. -/
def launchEvent (kind : Nat) (hdr : Word) : Instr :=
  if kind = 1 then .expressionLaunch hdr else if kind = 2 then .streamLaunch hdr else .collectiveLaunch hdr

/-- A consumer knows a queue from its first launch event on (log 28), and watches it. -/
def knowQueue (s : State) (kind : Nat) (hdr : Word) : State :=
  if s.queues.contains (kind, hdr) then s else { s with queues := s.queues ++ [(kind, hdr)] }

/-- The address monitors (R43): a valid byte at the head of a known queue is seen in the next cycle, unless it is the trace unit that
has written it (R284). -/
def watchQueues (s : State) : State :=
  s.queues.foldl (fun t q => match queueHead t q.2.toNat q.1 with
    | none => t
    | some p => if p.quiet t then t else schedOnce t 1 (launchEvent q.1 q.2)) s

/-- Report the end of a launch, or write the queue's fail word (R45). -/
def report (s : State) (hdr : Word) (p : Packet) (asid : Nat) (tl value : Word) (status cause : Nat) : State :=
  match signalEnd s (reportPoster p.target) asid tl value (statusWord status cause) with
  | some t => t
  | none => queueFail s hdr status p.idx

/-- Is an address space identifier registered (R166)? -/
def registered (s : State) (asid : Nat) : Bool := bit (rdNat s (hbmKey (s.dev.idtab.toNat + 16 * asid)) 8) 0

/-! ## Source node tables (R299, R300, R304) -/

def mapEntryOf (b : List Byte) : MapEntry :=
  ⟨leAt b 0 2, min 4 (leAt b 2 1 % 8), leAt b 3 1, leAt b 4 4, leAt b 8 4, leAt b 12 4 % 2 ^ 18⟩

def stopSlotOf (b : List Byte) : StopSlot :=
  let k := leAt b 0 1
  let f := leAt b 1 1
  ⟨if k ≤ 5 then k else 0, bit f 0, bit f 1, k = 5 || bit f 2, bit f 3, leAt b 2 2, leAt b 4 4, leAt b 8 8, leAt b 16 8⟩

/-- Cut bytes into pieces of m bytes. -/
def pieces (m n : Nat) (l : List Byte) : List (List Byte) := (List.range n).map fun i => sliceB l (m * i) m

/-- The whole table, none where its address is 0, misaligned, or a read of it cannot be made. -/
def readTable (s : State) (asid : Nat) (nodes : Word) : Option NodeTable :=
  let a := nodes.toNat
  if a = 0 ∨ a % 64 ≠ 0 ∨ 2 ^ 55 ≤ a then none
  else match readVa s asid a 64 with
    | none => none
    | some h =>
      let nent := if 2 ^ 20 < leAt h 0 4 then 0 else leAt h 0 4
      let nstop := if 16 < leAt h 4 2 then 0 else leAt h 4 2
      let dump := leAt h 8 8
      match readVa s asid (a + 64) (16 * nent), readVa s asid (a + 64 + ceilDiv (16 * nent) 64 * 64) (32 * nstop) with
      | some es, some ss =>
        let sper := leAt h 7 1
        some ⟨(pieces 16 nent es).map mapEntryOf, (pieces 32 nstop ss).map stopSlotOf, leAt h 6 1 % 8,
          if 10 ≤ sper ∧ sper ≤ 24 then sper else 0, if dump % 64 = 0 then BitVec.ofNat 64 dump else 0, leWord (sliceB h 16 8)⟩
      | _, _ => none

/-- The resume word of a table (R299); 0 where it cannot be read. -/
def goWord (s : State) (asid : Nat) (nodes : Word) : Word :=
  if nodes = 0 then 0 else ((readVa s asid (nodes.toNat + 24) 8).map leWord).getD 0

/-! ## The checks of an expression launch -/

/-- The fields of a type-1 packet. -/
structure ExprPkt where
  typ : Nat
  flags : Nat
  asid : Nat
  first : Nat
  j : Nat
  image : Nat
  desc : Nat
  prom : Nat
  lib : Nat
  nodes : Nat
  tl : Nat
  value : Nat
  ndesc : Nat
  nprom : Nat
  pad : Nat
  deriving DecidableEq, Repr

def exprPkt (b : List Byte) : ExprPkt :=
  ⟨leAt b 0 1, leAt b 1 1, leAt b 2 2, leAt b 4 2 % 4096, leAt b 4 2 / 4096, leAt b 6 7, leAt b 13 7, leAt b 20 7, leAt b 27 7,
    leAt b 34 7, leAt b 41 7, leAt b 48 8, leAt b 56 3, leAt b 59 3, leAt b 62 2⟩

/-- Do a block's defaults hold only values that R75 allows (R293)? -/
def defaultsOk (b : Pcb) : Bool :=
  let g := Agent.fresh
  [(0x10, (b.frm.zeroExtend 64 : Word)), (0x12, b.ftrap.zeroExtend 64), (0x14, b.tms.zeroExtend 64), (0x17, b.mtol.zeroExtend 64),
    (0x15, b.ascl), (0x16, b.bscl), (0x13, b.seed)].all fun x => (writeSpecial g x.1 x.2).isSome

/-- The dies that a die bridge joins (R248). -/
def bridgeDies : List (Nat × Nat) := [(0, 1), (0, 2), (1, 3), (2, 3)]

/-- Has a bridge between two dies of the partition been removed (R209)? -/
def bridgeGone (s : State) (first j : Nat) : Bool :=
  let lo := first / 1024
  let hi := (first + 2 ^ j - 1) / 1024
  s.dev.faultMap.any fun h => hopKind h = 1 &&
    (match bridgeDies[hopLow h]? with
     | some (a, b) => decide (lo ≤ a ∧ b ≤ hi)
     | none => false)

/-- Partition fields of a launch or restore (R44): j, alignment and bridges. -/
def partOk (s : State) (first j : Nat) : Bool := j ≤ 12 && first % 2 ^ j = 0 && !bridgeGone s first j

/-- Does a range of cores overlap a live partition (R31)? -/
def overlapsLive (s : State) (first j : Nat) : Bool :=
  s.parts.any fun e => e.1 < first + 2 ^ j && first < e.1 + 2 ^ e.2.j

/-- What the checks read: image header, symbol words, payload records. -/
structure ImageRead where
  head : List Byte
  words : List Word
  pays : List (Option (Word × List Byte))
  sized : Bool
  plenOk : Bool
  deriving DecidableEq, Repr

/-- Is a TILE word's own size valid: format, at most 4,096 bytes, whole blocks (R24)? -/
def tileSizeOk (w : Word) : Bool :=
  tileFmt w ≤ 27 && tileBytes w ≤ 4096 && (fmtBlock (tileFmt w) = 0 || tileCols w % fmtBlock (tileFmt w) = 0)

/-- Read an image whole; none where some byte of it cannot be read. DESIGN CHOICE (log 28): where plen does not match, or a TILE
has no size, no payload record has a place, and none is read: such a launch ends with 0x10, 0x14 or 0x15, never with 0x09 for
its payload. -/
def readImage (s : State) (asid image : Nat) : Option ImageRead :=
  if 2 ^ 55 ≤ image then none
  else match readVa s asid image 64 with
    | none => none
    | some h =>
      let nsym := leAt h 8 4
      match readVa s asid (image + 64) (8 * nsym) with
      | none => none
      | some l =>
        let ws := wordsOfBytes nsym l
        let tiles := ws.filter fun w => symKind w = 8
        let sized := tiles.all tileSizeOk
        let plenOk := leAt h 24 8 = payloadArea ws
        if sized ∧ plenOk then
          match readVa s asid (image + leAt h 16 8) (payloadArea ws) with
          | none => none
          | some b => some ⟨h, ws, splitPayloads ws b, sized, plenOk⟩
        else some ⟨h, ws, ws.map fun _ => none, sized, plenOk⟩

/-- Status 0x10 (R32). -/
def headBad (m : ImageRead) : Bool :=
  let nsym := leAt m.head 8 4
  let poff := leAt m.head 16 8
  nsym = 0 || leAt m.head 12 4 ≠ (m.words.filter fun w => symKind w = 8).length || poff % 64 ≠ 0 || poff < 64 + 8 * nsym
    || !isZeroB (m.head.drop 32) || (m.sized && !m.plenOk)

/-- A value that R19 reserves in an image; the chime-valid bit is the image's (R25). -/
def reservedInImage (w : Word) : Bool :=
  reservedSym (if symKind w = 8 then w &&& ~~~0x1000#64 else clearHints w) || (symKind w ≠ 1 && (symAlign w || symRetain w))

/-- Non-BLOCKED cells of a range of cores as placement will find them. -/
def freeCells (s : State) (first j : Nat) : List Nat :=
  ((List.range (2 ^ j)).filter fun i => !(s.core (first + i)).removed).flatMap fun i => (List.range 64).map fun k => 64 * (first + i) + k

/-- The BLOCKED cells of a range, nothing else in the row. -/
def blockedRow (s : State) (first j : Nat) : Tbl Word :=
  ((List.range (2 ^ j)).filter fun i => (s.core (first + i)).removed).flatMap fun i =>
    (List.range 64).map fun k => (64 * (first + i) + k, blockedWord)

/-- Where each word of an image goes (R33), over the cells of a range. The row still holds earlier words: only removed
cores count as BLOCKED. -/
def placeImage (s : State) (first j : Nat) (ws : List Word) : Option (List Nat) :=
  placeCells { s with cells := blockedRow s first j } (64 * (first + 2 ^ j)) ws (freeCells s first j)

/-- The status of an expression launch and what it read, in ascending order of status (R45). -/
def exprStatus (s : State) (p : ExprPkt) (target : Nat) : Nat × Option (ImageRead × List Oper × Option Nat × List Nat) :=
  if p.typ ≠ 1 then (0x04, none)
  else if 32 ≤ p.flags ∨ p.pad ≠ 0 ∨ !defaultsOk (s.pcb p.first) then (0x05, none)
  else if !partOk s p.first p.j ∨ p.first ≠ target then (0x06, none)
  else if !registered s p.asid then (0x07, none)
  else
    let hash := readVa s p.asid p.image 8
    let lib := readLibrary s p.asid p.lib
    let libBad : Bool := match lib with
      | .error c => c = 8
      | .ok _ => false
    if (hash.map fun h => decide (leWord h ≠ Config.encodingHash)).getD false ∨ libBad then (0x08, none)
    else match lib, readImage s p.asid p.image with
      | .ok (ops, handler), some m =>
        let tens := (m.words.filter fun w => symKind w = 9).map fun w => tensorValid s p.asid p.desc p.ndesc w
        let inTable := tens.all Option.isSome
        if [p.image, p.desc, p.prom, p.lib, p.nodes, p.tl].any (fun a => decide (2 ^ 55 ≤ a)) ∨ p.desc % 64 ≠ 0 ∨ p.prom % 8 ≠ 0 ∨
            p.tl % 16 ≠ 0 ∨ 2 ^ 20 - 1 < p.ndesc then (0x09, none)
        else if headBad m then (0x10, none)
        else if m.words.any fun w => 0xC ≤ symKind w then (0x11, none)
        else if nestStatus m.words ≠ 0 then (nestStatus m.words, none)
        else if m.words.any reservedInImage then (0x14, none)
        else if !m.sized then (0x15, none)
        else if !inTable then (0x09, none)
        else if tens.any (· = some false) then (0x16, none)
        else if m.words.any fun w => symKind w = 0xA && p.nprom ≤ symPay w then (0x17, none)
        else match placeImage s p.first p.j m.words with
          | none => (0x18, none)
          | some cells =>
            if (m.words.zip m.pays).any fun x => match x.2 with
                | some (c, b) => bit x.1.toNat 12 && c ≠ payloadChime x.1 b
                | none => false
            then (0x19, none)
            else if m.words.any fun w => symKind w = 7 && ops.length ≤ symPay w then (0x1A, none)
            else if overlapsLive s p.first p.j then (0x1B, none)
            else (0, some (m, ops, handler, cells))
      | _, _ => (0x09, none)

/-! ## Placement (R33) -/

/-- The cells of a range before anything is placed: BLOCKED in removed cores, FREE elsewhere. -/
def clearCells (s : State) (first j : Nat) : State :=
  forN (2 ^ j) s fun i t =>
    forN 64 t fun k u => (u.setCell (64 * (first + i) + k) (if (s.core (first + i)).removed then blockedWord else 0)).setChime
      (64 * (first + i) + k) 0

/-- Table slots are unloaded at a launch (R153). -/
def unloadTables (s : State) (first j : Nat) : State :=
  forN (2 ^ j) s fun i t => t.modCore (first + i) fun c => { c with tables := Vector.replicate 8 none }

/-- Put one word with its payload into its cell; the placer computes the chime that an image leaves out (R25). A node
that finds the payload damaged makes it ERR (R206), which names record 0, no record stepping at a placement (DESIGN CHOICE, log 28). -/
def placeWord (s : State) (n : Nat) (w : Word) (pay : Option (Word × List Byte)) (cell : Nat) : State :=
  match pay with
  | none => s.setCell cell w
  | some (c, b) =>
    let ch := if bit w.toNat 12 then c else payloadChime w b
    (putSymbol s n 0 ⟨setCv w, some b, ch, cell, cell⟩).1

/-- A partition before its first sweep. -/
def freshPart (j asid flags : Nat) : Part where
  j := j
  asid := asid
  flags := flags
  lib := 0
  desc := 0
  prom := 0
  nodes := 0
  tl := 0
  value := 0
  ndesc := 0
  nprom := 0
  opers := []
  handler := none
  records := []
  nextRec := 1
  peal := 0
  pealStart := 0
  pealCreated := 0
  pealAdmitted := 0
  pealSteps := 0
  lastCreated := 0
  sweep := none
  sweepQueued := false
  emitQ := []
  aside := []
  urgent := []
  stepNow := none
  fixedLeft := false
  lastSel := none
  cancelNow := []
  raised := []
  traps := []
  trapCount := 0
  run := none
  lastRft := 0
  retained := []
  map := []
  mapped := false
  heldCancels := []
  pre := .none
  table := none
  newTable := none
  coming := none
  stopSeq := 0
  stops := []
  goSeen := 0
  wideStop := false
  ended := none
  queue := none
  again := false
  streams := []

/-- The partition of an accepted launch, its image placed, its first peal begun. -/
def startExpression (s : State) (p : ExprPkt) (m : ImageRead) (ops : List Oper) (handler : Option Nat) (cells : List Nat)
    (queue : Word × Nat) : State :=
  -- tables unloaded (R153), every class of the issue order at its start (R55), the matrix timelines at 0 (R278)
  let s0 := unloadTables (clearCells s p.first p.j) p.first p.j
  let s1 := forN (2 ^ p.j) s0 fun i t => t.modCore (p.first + i) fun c =>
    { c with rr := Vector.replicate 8 none, passed := [], timeline := 0 }
  let s2 := ((m.words.zip m.pays).zip cells).foldl (fun t x => placeWord t p.first x.1.1 x.1.2 x.2) s1
  let w := fun (v : Nat) => BitVec.ofNat 64 v
  let q : Part := { freshPart p.j p.asid p.flags with
    lib := w p.lib
    desc := w p.desc
    prom := w p.prom
    nodes := w p.nodes
    tl := w p.tl
    value := w p.value
    ndesc := p.ndesc
    nprom := p.nprom
    opers := ops
    handler := handler
    table := readTable s2 p.asid (w p.nodes)
    goSeen := goWord s2 p.asid (w p.nodes)
    queue := some queue }
  startSweep ((s2.setPart p.first q).modPcb p.first fun b => { b with state := 1 }) p.first

/-- EXPRESSION_LAUNCH: the root takes the packet at the head of its queue. -/
def execExpressionLaunch (hdr : Word) (s : State) : Out :=
  .next (match queueHead s hdr.toNat 1 with
    | none => knowQueue s 1 hdr
    | some k =>
      let s1 := consume (knowQueue s 1 hdr) k
      let p := exprPkt k.bytes
      let r := exprStatus s p k.target
      match r.2 with
      | some (m, ops, handler, cells) => startExpression s1 p m ops handler cells (hdr, k.idx)
      | none => report s1 hdr k p.asid (BitVec.ofNat 64 p.tl) (BitVec.ofNat 64 p.value) r.1 0)

end Sys2Proof.Machine
end

