-- ==== Sys2Proof/Machine/Units.lean ====
section
/-! DEFINITION. How Tabor engines and ringers reach memory (09 R159, R161, R162, R167), chunks and sidecars (11 R201 to
R203, R205, R214). -/

namespace Sys2Proof.Machine

open Sys2Proof

/-! ## Addresses of engines and ringers -/

/-- The physical core that a core-window address names for an identifier: the cores of its live partitions, through
their core maps (R161, R245); reason 1 outside them, 0 for a removed core. -/
def windowCore (s : State) (asid l : Nat) : Except Nat Nat :=
  match s.parts.findSome? fun e => if e.2.asid = asid then e.2.phys e.1 l else none with
  | none => .error 1
  | some c => if (s.core c).removed then .error 0 else .ok c

/-- One translated piece of an access: where it lies, and its length. -/
abbrev Piece := Loc × Nat

/-- A leaf or block for an address: the entry that is held, else a walk. -/
def heldWalk (s : State) (asid : Nat) (held : Option TlbEntry) (va : Nat) : Except Nat TlbEntry :=
  match held with
  | some e => if e.covers asid va then .ok e else walk s asid va
  | none => walk s asid va

/-- The pieces of n bytes at an address, page by page, with the translation entry held after it; or a reason. -/
def unitSpan (s : State) (asid : Nat) (held : Option TlbEntry) (a : Word) (n : Nat) (want : Want) :
    Except Nat (Option TlbEntry × List Piece) :=
  let x := a.toNat
  match bits x 62 2 with
  | 0 =>
    if 2 ^ 55 < x + n then .error 3
    else
      let pages := if n = 0 then 0 else (x + n - 1) / 65536 - x / 65536 + 1
      (List.range pages).foldl (fun acc i =>
        match acc with
        | .error r => .error r
        | .ok (h, l) =>
          let b := if i = 0 then x else (x / 65536 + i) * 65536
          let m := min (x + n) ((b / 65536 + 1) * 65536) - b
          match heldWalk s asid h b with
          | .error r => .error r
          | .ok e => match e.check s b want with
            | .error r => .error r
            | .ok loc => if loc.place.unreachable s then .error 0 else .ok (some e, l ++ [(loc, m)])) (.ok (held, []))
  | 2 => .error 1
  | 3 =>
    if bits x 32 30 ≠ 0 ∨ 2 ^ 20 < bits x 0 20 + n then .error 3
    else match windowCore s asid (bits x 20 12) with
      | .error r => .error r
      | .ok c => .ok (held, [(⟨.here (spadKey c (bits x 0 20)), false⟩, n)])
  | _ => .error 3

/-- A word of a single-assignment page that is EMPTY reads as 0, as for LD (R410). -/
def readPieces (s : State) (ps : List Piece) : List Byte := ps.flatMap fun p => readLoc s p.1 p.2

/-- Has the trace unit written the pieces last (R284)? -/
def quietPieces (s : State) (ps : List Piece) : Bool :=
  ps.any fun p => match p.1.place with
    | .here k | .host k => s.hushedAt k p.2
    | .peer _ _ => false

/-- A unit's write: at its home, or posted towards the host or a peer (R251, R273). -/
def writePieces (s : State) (who : Nat × Nat) : List Piece → List Byte → State
  | [], _ => s
  | p :: t, l => writePieces (postUnit s who p.1.place (.store (l.take p.2))) who t (l.drop p.2)

def Piece.far (p : Piece) : Bool := p.1.place.far

/-! ## Paths of engines and ringers (R204, R205) -/

/-- Units between a place and a unit of a die, first one first; the bytes come from the place, or go out to it. Of the way
through the mesh only the router of a core at the far end and the bridges are named (log 17). -/
def endUnits (s : State) (die : Nat) (kind : Nat) (p : Place) (out : Bool) (n : Nat := 1) : List W32 :=
  let h := homeUnits s p n
  let core : Option Nat := match p with
    | .here k => if isSpad k then some (spadCore k) else none
    | _ => none
  let r := fun (dir : Nat) => match core with
    | some c => [outHop c dir]
    | none => []
  let br := fun (a b : Nat) => bridges a b
  if out then br die (h.2.getD die) ++ r 0 ++ h.1.reverse else h.1 ++ r (5 + kind) ++ br (h.2.getD die) die

def spanUnits (s : State) (die kind : Nat) (ps : List Piece) (out : Bool) : List W32 :=
  ps.flatMap fun p => endUnits s die kind p.1.place out p.2

/-- The bytes of pieces, as the chunk data that they carry (R199, R202): identity and chime of the first piece. -/
def piecesEvent (s : State) (asid : Nat) (a : Word) (ps : List Piece) (l : List Byte) : Event :=
  match ps with
  | [] => genuine s 0 0 0
  | p :: _ => genuineAt s (partOf s asid) p.1.place (bits a.toNat 0 55) (l.take p.2) 0 0

/-! ## Chunks -/

/-- Virtual address and length of a chunk's own bytes (R27). -/
def Tensor.chunkRange (t : Tensor) (c : Nat) : Nat × Nat :=
  if c < t.elemChunks then (t.base + 4096 * c, min 4096 (t.elemBytes - 4096 * c))
  else
    let k := c - t.elemChunks
    (t.base + t.scaleOff + 4096 * k, min 4096 (t.scaleBytes - 4096 * k))

end Sys2Proof.Machine
end

