-- ==== Sys2Proof/Machine/Tabor.lean ====
section
/-! DEFINITION. Tabor engines: stream launches (09 R172 to R175), patterns (R176), the commands 0xA0 to 0xAA (R177 to R183,
20 and 21 R394 to R406, R410, 11 R214) and the events of their fills. A command moves one row, or fills or drains one slot, in
each turn of its context; the next command starts in the turn behind its last one (R175). -/

namespace Sys2Proof.Machine

open Sys2Proof

/-! ## Contexts -/

/-- The context that has the turn runs a command. -/
def onCtx (s : State) (f : Nat → Nat → Ctx → State) : Out :=
  match s.turn with
  | .context e c => .next (f e c (s.ctx (ctxKey e c)))
  | _ => .fault .noExecutor

/-- The program ends: status word and timeline, or the fail word (R45, R174). Its context is free; fills on their way to
claimed slots still land, and a drained slot is still released. -/
def endCtx (s : State) (e c : Nat) (x : Ctx) (status cause : Nat) : State :=
  let s1 := match signalEnd s (ctxPoster e c) x.asid x.tl x.value (statusWord status cause), x.queue with
    | some t, _ => t
    | none, some (h, i) => queueFail s h status i
    | none, none => s
  State.setCtx { s1 with agenda := s1.agenda.filter fun a => a.2 ≠ Instr.streamCommandComplete e c } (ctxKey e c)
    { Ctx.reset with fills := x.fills.map fun f => { f with last := false, orphan := true }, relSlot := x.relSlot }

/-- A command fault (R175). -/
def ctxFault (s : State) (e c : Nat) (x : Ctx) (cause : Nat) : State := endCtx s e c x 0x20 cause

/-- The cause of a stream access (R159). -/
def streamCause (r : Nat) : Nat := 0xB0 + r

/-- Nothing of a row, slot or command is in hand. -/
def Ctx.clear (x : Ctx) : Ctx := { x with log := [], cur := 0, got := [], put := 0, gotB := none }

/-- Behind the command in hand. -/
def Ctx.past (x : Ctx) : Ctx :=
  { x.clear with pc := x.pc + wordsOf (x.words.getD x.pc 0), left := 0, begun := false, seen := [] }

/-- Has a row, a slot or a command been begun and not finished? -/
def Ctx.midway (x : Ctx) : Bool := !x.log.isEmpty || !x.got.isEmpty || x.put ≠ 0

/-- The command has issued all of its accesses: the next one starts in the next cycle (R175). This one completes after a free
latency. -/
def issued (s : State) (e c : Nat) (x : Ctx) : State :=
  schedFree (s.setCtx (ctxKey e c) { x.past with wakeAt := s.cycle + 1 }) (.streamCommandComplete e c)

/-- The command goes on in the next cycle, with its next row or slot. -/
def again (s : State) (e c : Nat) (x : Ctx) : State := s.setCtx (ctxKey e c) { x.clear with begun := true, wakeAt := s.cycle + 1 }

/-- What is in hand goes on in the next cycle. -/
def pause (s : State) (e c : Nat) (x : Ctx) : State := s.setCtx (ctxKey e c) { x with cur := 0, wakeAt := s.cycle + 1 }

/-- What the engine has left of the 512 bytes of this cycle (R172). -/
def room (s : State) (e : Nat) : Nat := 512 * (s.cycle + 1) - max (512 * s.cycle) ((Tbl.find s.moved e).getD 0)

/-- The engine moves n bytes: those it reads and those it writes count (log 43). -/
def charge (s : State) (e n : Nat) : State :=
  { s with moved := Tbl.put s.moved e (max (512 * s.cycle) ((Tbl.find s.moved e).getD 0) + n) }

/-- A command completes, numbered on the context's timeline (R278). -/
def Ctx.completed (x : Ctx) : Ctx := { x with timeline := x.timeline + 1 }

/-- STREAM_COMMAND_COMPLETE: once every write of the context has been performed (R394). -/
def execStreamCommandComplete (engine ctx : Nat) (s : State) : Out :=
  .next (
    let x := s.ctx (ctxKey engine ctx)
    if x.status = .free then s
    else if unacked s (ctxPoster engine ctx) ∨ x.relSlot.isSome then sched s 1 (.streamCommandComplete engine ctx)
    else s.setCtx (ctxKey engine ctx) x.completed)

/-! ## Stream launches (R173, R174) -/

/-- The status of a type-2 packet, and on 0 the context and its program. -/
def streamStatus (s : State) (e : Nat) (b : List Byte) : Nat × Nat × List Word :=
  let asid := leAt b 2 2
  let cb := leAt b 4 1
  let prog := leAt b 6 7
  let tl := leAt b 41 7
  let no := fun (st : Nat) => ((st, 0, []) : Nat × Nat × List Word)
  if leAt b 0 1 ≠ 2 then no 0x04
  else if leAt b 1 1 ≠ 0 ∨ leAt b 5 1 ≠ 0 ∨ !isZeroB (sliceB b 13 28) ∨ !isZeroB (sliceB b 56 8) then no 0x05
  else if !registered s asid then no 0x07
  else
    match hashedHead s asid prog 64 with
    | .error c => no c
    | .ok h =>
        let n := leAt h 8 4
        let ok := decide (1 ≤ n ∧ n ≤ 65536) && isZeroB (h.drop 12)
        let ws := if ok then readVa s asid (prog + 64) (8 * n) else some []
        let free := (List.range Config.contexts).filter fun c => (s.ctx (ctxKey e c)).status = .free
        let pick := if cb = 0xFF then free.head? else if free.contains cb then some cb else none
        if prog % 64 ≠ 0 ∨ tl % 16 ≠ 0 ∨ 2 ^ 55 ≤ tl ∨ ws.isNone then no 0x09
        else if s.dev.faultMap.contains (dieHop 3 (e / 16) e) then no 0x0A
        else match pick with
          | none => no 0x0A
          | some c => if !ok then no 0x10 else (0, c, wordsOfBytes n (ws.getD []))

/-- STREAM_LAUNCH. -/
def execStreamLaunch (hdr : Word) (s : State) : Out :=
  .next (match queueHead s hdr.toNat 2 with
    | none => knowQueue s 2 hdr
    | some k =>
      let s1 := consume (knowQueue s 2 hdr) k
      let b := k.bytes
      let r := streamStatus s k.target b
      let tl := BitVec.ofNat 64 (leAt b 41 7)
      let v := BitVec.ofNat 64 (leAt b 48 8)
      if r.1 ≠ 0 then report s1 hdr k (leAt b 2 2) tl v r.1 0
      else
        let key := ctxKey k.target r.2.1
        let x : Ctx := { Ctx.reset with
          status := .running
          asid := leAt b 2 2
          words := r.2.2
          tl := tl
          value := v
          fills := (s.ctx key).fills
          relSlot := (s.ctx key).relSlot
          queue := some (hdr, k.idx)
          wakeAt := s.cycle + 1 }
        s1.setCtx key x)

/-! ## Patterns (R176) -/

/-- Rows of a pattern; none in a slot that is zero. -/
def Pattern.rows (p : Pattern) : Nat := if p.ndim = 0 then 0 else (p.cnt.take p.ndim).foldl (· * ·) 1
def Pattern.rest (p : Pattern) : Nat := p.rows - p.pos

/-- Address of a row: index 0 runs fastest. -/
def Pattern.rowAt (p : Pattern) (n : Nat) : Word :=
  let r := ((p.cnt.take p.ndim).zip p.str).foldl (fun (acc : Nat × Int) x => (acc.1 / x.1, acc.2 + (acc.1 % x.1 : Nat) * x.2)) (n, 0)
  p.base + BitVec.ofInt 64 r.2

/-- A descriptor as a pattern, or the reason of its fault. -/
def patternOf (d : List Byte) : Except Nat Pattern :=
  let base := leAt d 0 8
  let rowb := leAt d 8 4
  let nd := leAt d 12 1
  let cnt := (List.range 5).map fun i => leAt d (16 + 8 * i) 4
  let str := (List.range 5).map fun i => signedOf 32 (leAt d (20 + 8 * i) 4)
  if base % 32 ≠ 0 then .error 2
  else if rowb < 32 ∨ 4096 < rowb ∨ rowb % 32 ≠ 0 ∨ nd = 0 ∨ 5 < nd ∨ !isZeroB (sliceB d 13 3) ∨ (cnt.take nd).any (· = 0) ∨
      (cnt.drop nd).any (· ≠ 0) ∨ str.any (fun x => x % 32 ≠ 0) ∨ !isZeroB (sliceB d 56 8) then .error 3
  else .ok ⟨BitVec.ofNat 64 base, rowb, nd, cnt, str, d, 0⟩

/-! ## Accesses -/

/-- The tensor that SCHK has named, as its descriptor stands. -/
def Ctx.schkTensor (s : State) (x : Ctx) : Option Tensor :=
  match x.tensor with
  | none => none
  | some d => (readVa s x.asid d.toNat 64).bind tensorOf

/-- The hop of an engine. -/
def engineHop (e : Nat) : W32 := dieHop 3 (e / 16) e

/-- What an access of a command comes to: it goes on in a later cycle with what is done of it, it stops the program, or it is over. -/
inductive Moved where
  | stand (s : State) (x : Ctx)
  | stop (s : State) (x : Ctx) (cause : Nat)
  | done (s : State) (x : Ctx) (l : List Byte) (b : Option Blame)

/-- Does a mismatch stop the program (R214)? -/
def Ctx.stops (x : Ctx) (b : Option Blame) : Option Nat := if x.schk.getLsbD 2 then b.map (·.cause) else none

/-- Go on behind an access: bytes that failed a check stop the program where SCHK has asked for it (R206, R214). -/
def Moved.andThen (m : Moved) (e c : Nat) (f : State → Ctx → List Byte → Option Blame → State) : State :=
  match m with
  | .stand s x => pause s e c x
  | .stop s x k => ctxFault s e c x k
  | .done s x l b => match x.stops b with
    | some k => ctxFault s e c x k
    | none => f s x l b

/-- An access is over: a later turn of the row, slot or command in hand takes it from here. -/
def Moved.note : Moved → Moved
  | .done s x l b => .done s { x with log := x.log ++ [(l, b)], cur := x.cur + 1 } l b
  | o => o

/-- The address of byte k of ranges that follow one another, and how many bytes its range has from there on. -/
def spotOf : List (Word × Nat) → Nat → Word × Nat
  | [], _ => (0, 0)
  | (a, n) :: t, k => if k < n then (a + BitVec.ofNat 64 k, n - k) else spotOf t (k - n)

/-- How much of n bytes at an address moves in this cycle: what the engine has left, within a page, granules whole (R172, R190). -/
def pieceLen (s : State) (e : Nat) (a : Word) (n : Nat) : Nat :=
  let x := a.toNat
  let m := min (min n (room s e)) (if bits x 62 2 = 0 then 65536 - x % 65536 else n)
  if m = n then m else (x + m) / 32 * 32 - x

/-- Does the next access fall outside the translation that the context holds, and has the walker still to answer (R167)? -/
def Ctx.misses (x : Ctx) (a : Word) : Bool :=
  bits a.toNat 62 2 = 0 && a.toNat < 2 ^ 55 && !x.walked && !((x.tlb.map fun t => t.covers x.asid a.toNat).getD false)

/-- The context stands still until the walker has refilled its entry. -/
def walkFor (s : State) (e c : Nat) (x : Ctx) : State × Ctx :=
  (schedFree s (.translationWalkDone (.context e c)), { x with status := .waiting })

/-- A fill of the context that has not landed meets these bytes (R175). -/
def Ctx.fillMeets (x : Ctx) (ps : List Piece) : Bool :=
  x.fills.any fun f => ps.any fun p => p.1.place.overlaps p.2 (.here f.key) f.bytes.length

/-- Read ranges of bytes one after the other, in this cycle as far as one piece goes; a fenced unit holds it (R208), and so do earlier
writes of the context that may still be on their way (R175). Its data passes the units of its path and the engine (R205). -/
def rawGet (s : State) (e c : Nat) (x : Ctx) (segs : List (Word × Nat)) : Moved :=
  let n := sumNat (segs.map (·.2))
  let k := x.got.length
  if n ≤ k then .done s { x with got := [], gotB := none } x.got x.gotB
  else
    let a := (spotOf segs k).1
    let m := pieceLen s e a (spotOf segs k).2
    if m = 0 then .stand s x
    else if x.misses a then let w := walkFor s e c x; .stand w.1 w.2
    else match unitSpan s x.asid x.tlb a m .read with
      | .error r => .stop s x (streamCause r)
      | .ok (t, ps) =>
        let x1 := { x with tlb := t, walked := false }
        let us := spanUnits s (e / 16) 3 ps false ++ [engineHop e]
        if fencedOn s us ∨ (ps.any Piece.far ∧ unacked s (ctxPoster e c)) ∨ x.fillMeets ps then .stand s x1
        else
          let l := readPieces s ps
          let r := transit s us (piecesEvent s x.asid a ps l)
          let b := x.gotB <|> r.2
          if k + m = n then .done (charge r.1 e m) { x1 with got := [], gotB := none } (x.got ++ l) b
          else .stand (charge r.1 e m) { x1 with got := x.got ++ l, gotB := b }

/-- Read chunks whole and verify them against the sidecar (R214, R205): the engine is blamed for a mismatch. Data that comes
condemned is checked no further (R206). -/
def verifyChunks (e c : Nat) (t : Tensor) : List Nat → State → Ctx → Moved
  | [], s, x => .done s x [] none
  | k :: rest, s, x =>
    let r := t.chunkRange k
    match rawGet s e c x [(BitVec.ofNat 64 r.1, r.2), (BitVec.ofNat 64 (t.chimes + 8 * k), 8)] with
    | .done s1 x1 l b =>
      let found := (t.chunkChime s1 x.asid k).getD 0
      let expected := leWord (l.drop r.2)
      let see := fun (b : Option Blame) => { x1 with seen := x1.seen ++ [(k, l.take r.2, b)] }
      if b.isSome ∨ expected = found then verifyChunks e c t rest s1 (see b)
      else
        let q := blame s1 (engineHop e) ⟨0, chunkId s1 x.asid ((x.tensor.getD 0).toNat) k, 0, 0, expected, found, 0, none, 0⟩
        verifyChunks e c t rest q.1 (see (some q.2))
    | o => o

/-- Bytes at an address as the chunks that the command has read whole give them. -/
def overlay (t : Tensor) (seen : List (Nat × List Byte × Option Blame)) (a : Nat) (l : List Byte) : List Byte :=
  seen.foldl (fun acc c =>
    let va := (t.chunkRange c.1).1
    acc.zipIdx.map fun b => if va ≤ a + b.2 ∧ a + b.2 < va + c.2.1.length then c.2.1.getD (a + b.2 - va) b.1 else b.1) l

/-- Do the chunks hold every one of the n bytes? -/
def covered (t : Tensor) (seen : List (Nat × List Byte × Option Blame)) (a n : Nat) : Bool :=
  (List.range n).all fun i => seen.any fun c => (t.chunkRange c.1).1 ≤ a + i && a + i < (t.chunkRange c.1).1 + c.2.1.length

/-- A read of a command: with verification on, of the chunks that it has read whole (R214). -/
def ctxGet (s : State) (e c : Nat) (x : Ctx) (a : Word) (n : Nat) : Moved :=
  match x.log[x.cur]? with
  | some r => .done s { x with cur := x.cur + 1 } r.1 r.2
  | none => match (if x.schk.getLsbD 0 then x.schkTensor s else none) with
    | none => (rawGet s e c x [(a, n)]).note
    | some t =>
      let cs := t.chunksIn a.toNat n
      match verifyChunks e c t (cs.filter fun k => !(x.seen.any fun q => q.1 = k)) s x with
      | .done s1 x1 _ _ =>
        let mine := x1.seen.filter fun q => cs.contains q.1
        let b1 := mine.findSome? fun q => q.2.2
        if covered t mine a.toNat n then (Moved.done s1 x1 (overlay t mine a.toNat (zerosB n)) b1).note
        else match rawGet s1 e c x1 [(a, n)] with
          | .done s2 x2 l b => (Moved.done s2 x2 (overlay t mine a.toNat l) (b <|> b1)).note
          | o => o
      | o => o

/-- Write the sidecar entries of the chunks that a write touches, reading the rest of a partly written chunk: the engine moves these
bytes too (R172). -/
def writeSidecar (s : State) (e : Nat) (x : Ctx) (a : Word) (n : Nat) (condemned : Bool) : State :=
  match x.schkTensor s with
  | none => s
  | some t =>
    if !condemned ∧ !x.schk.getLsbD 1 then s
    else (t.chunksIn a.toNat n).foldl (fun u c =>
      match (if condemned then some condemnedWord else t.chunkChime u x.asid c) with
      | none => u
      | some w => charge ((writeVa u x.asid (t.chimes + 8 * c) (ofWord w)).getD u) e (8 + if condemned then 0 else (t.chunkRange c).2 - n)) s

/-- A write of a command, in this cycle as far as one piece goes. Condemned bytes are written, and their sidecar entry is mode 7 (R206). -/
def ctxPut (s : State) (e c : Nat) (x : Ctx) (a0 : Word) (l : List Byte) (condemned : Option Blame) : Moved :=
  match x.log[x.cur]? with
  | some r => .done s { x with cur := x.cur + 1 } r.1 r.2
  | none =>
    if l.length ≤ x.put then (Moved.done s x [] condemned).note
    else
      let a := a0 + BitVec.ofNat 64 x.put
      let m := pieceLen s e a (l.length - x.put)
      if m = 0 then .stand s x
      else if x.misses a then let w := walkFor s e c x; .stand w.1 w.2
      else match unitSpan s x.asid x.tlb a m .write with
        | .error r => .stop s x (streamCause r)
        | .ok (t, ps) =>
          let x1 := { x with tlb := t, walked := false }
          let us := spanUnits s (e / 16) 3 ps true
          if fencedOn s us ∨ x.fillMeets ps then .stand s x1
          else
            let bytes := sliceB l x.put m
            let r := if condemned.isSome then (s, none) else transit s us (piecesEvent s x.asid a ps bytes)
            let b := x.gotB <|> r.2
            let s1 := charge (writePieces r.1 (ctxPoster e c) ps bytes) e m
            if x.put + m = l.length then
              let bb := condemned <|> b
              (Moved.done (writeSidecar s1 e x1 a0 l.length bb.isSome) { x1 with put := 0, gotB := none } [] bb).note
            else .stand s1 { x1 with put := x.put + m, gotB := b }

/-! ## Commands that move nothing -/

/-- R400. -/
def execSpat (n : Fin 2) (desc : Word) (s : State) : Out :=
  onCtx s fun e c x =>
    if desc.toNat % 8 ≠ 0 then ctxFault s e c x 0xB2
    else (ctxGet s e c x desc 64).andThen e c fun t x1 d _ => match patternOf d with
      | .error r => ctxFault t e c x1 (streamCause r)
      | .ok p => issued t e c { x1 with pats := x1.pats.set n.val p }

/-- A branch of a command to a word index. -/
def Ctx.jump (x : Ctx) (off : W32) : Int := (x.pc : Int) + off.toInt

/-- R399. -/
def execSloopSet (n : Fin 4) (v : W32) (s : State) : Out :=
  onCtx s fun e c x => issued s e c { x with loops := x.loops.set n.val v }

/-- R399: as LOOP (R77). -/
def execSloop (n : Fin 4) (off : W32) (s : State) : Out :=
  onCtx s fun e c x =>
    let v := x.loops[n]
    if v = 0#32 then issued s e c x
    else
      let x1 := { x with loops := x.loops.set n.val (v - 1) }
      if v = 1#32 then issued s e c x1
      else
        let t := x.jump off
        if t < 0 ∨ (x.words.length : Int) ≤ t then ctxFault s e c x 0x29
        else schedFree (s.setCtx (ctxKey e c) { x1.past with pc := t.toNat, wakeAt := s.cycle + 1 }) (.streamCommandComplete e c)

/-- R214. -/
def execSchk (flags : BitVec 3) (tensor : Option Word) (s : State) : Out :=
  onCtx s fun e c x =>
    match tensor with
    | none => if flags.toNat % 4 ≠ 0 then ctxFault s e c x 0xB3 else issued s e c { x with schk := flags, tensor := none }
    | some d => (ctxGet s e c x d 64).andThen e c fun t x1 l _ =>
      if (tensorOf l).isNone then ctxFault t e c x1 0xB3 else issued t e c { x1 with schk := flags, tensor := some d }

/-! ## Signals (R405, R406, R410) -/

/-- R410: a value on tier 2 or 3 comes from the 1 us poll. Its monitor moves no bytes of a stream (log 43). -/
def execSwait (v : BitVec 40) (addr : Word) (s : State) : Out :=
  onCtx s fun e c x =>
    if addr.toNat % 8 ≠ 0 then ctxFault s e c x 0xB2
    else if x.misses addr then let w := walkFor s e c x; pause w.1 e c w.2
    else match unitSpan s x.asid x.tlb addr 8 .read with
      | .error r => ctxFault s e c x (streamCause r)
      | .ok (t, ps) =>
        let x1 := { x with tlb := t, walked := false }
        let l := readPieces s ps
        if fencedOn s (spanUnits s (e / 16) 3 ps false) ∨ (ps.any Piece.far ∧ unacked s (ctxPoster e c)) ∨ x.fillMeets ps then pause s e c x1
        else if leNat l < v.toNat ∨ (x.begun ∧ quietPieces s ps) then
          if ps.any Piece.far then
            sched (s.setCtx (ctxKey e c) { x1 with status := .waiting }) Config.cyclesPerUs (.monitorPoll (.context e c))
          else pause s e c { x1 with begun := true }
        else issued s e c x1

/-- What the signal of a context waits for: its fills and releases, which it orders, and for a word beyond the device the acknowledgments
of its earlier writes (R175, R272, R279). -/
def signalWaits (s : State) (e c : Nat) (x : Ctx) (far : Bool) : Bool :=
  !x.fills.isEmpty || x.relSlot.isSome || (far && unacked s (ctxPoster e c))

/-- A raise of a signal word (R279), one operation at its home. -/
def signal (addr : Word) (op : AccOp) (s : State) (e c : Nat) (x : Ctx) : State :=
  if addr.toNat % 8 ≠ 0 then ctxFault s e c x 0xB2
  else if x.misses addr then let w := walkFor s e c x; pause w.1 e c w.2
  else match unitSpan s x.asid x.tlb addr 8 .write with
    | .error r => ctxFault s e c x (streamCause r)
    | .ok (t, ps) =>
      let x1 := { x with tlb := t, walked := false }
      if room s e < 8 ∨ fencedOn s (spanUnits s (e / 16) 3 ps true) ∨ signalWaits s e c x (ps.any Piece.far) then pause s e c x1
      else issued (charge (ps.foldl (fun u p => postUnit u (ctxPoster e c) p.1.place op) s) e 8) e c x1

def execSsigSt (v : BitVec 40) (addr : Word) (s : State) : Out := onCtx s fun e c x => signal addr (.store (toLe 8 v.toNat)) s e c x
def execSsigAdd (v : BitVec 40) (addr : Word) (s : State) : Out := onCtx s fun e c x => signal addr (.raise false (v.zeroExtend 64)) s e c x
def execSsigMax (v : BitVec 40) (addr : Word) (s : State) : Out := onCtx s fun e c x => signal addr (.raise true (v.zeroExtend 64)) s e c x

/-- R406: a release, as SSIG. -/
def execSstop (s : State) : Out := onCtx s fun e c x => if signalWaits s e c x false then s else endCtx s e c x 0 0

/-! ## Ring headers (R401, R402) -/

/-- The ring that a core-window address names: core, offset and header; or a cause: of a header that is zeros, which a restore leaves in
an unpinned core, the one that a claim stops with (R246). -/
def ctxRing (s : State) (x : Ctx) (ring : Word) : Except Nat (Nat × Nat × Ring) :=
  let a := ring.toNat
  if a % 32 ≠ 0 then .error 0xB2
  else if bits a 62 2 ≠ 3 ∨ bits a 32 30 ≠ 0 ∨ 2 ^ 20 < bits a 0 20 + 32 then .error 0xB3
  else match windowCore s x.asid (bits a 20 12) with
    | .error r => .error (streamCause r)
    | .ok c =>
      let r := ringAt s c (bits a 0 20)
      if r.ok then .ok (c, bits a 0 20, r) else .error (if isZeroB (rd s (spadKey c (bits a 0 20)) 32) then 0xB4 else 0xB3)

def ctxOwner (e c : Nat) : Nat := 0x8000 + 64 * (e % 64) + c

/-- Rows that a command still has to move: what is left of it, else as it asks; 0 rows mean the rest of a slot. -/
def Ctx.want (x : Ctx) (rows : W32) (p : Pattern) : Nat := if x.begun then x.left else if rows = 0#32 then p.rest else rows.toNat

/-- Read the next k rows of a pattern. -/
def readRows (e c : Nat) (p : Pattern) : Nat → Nat → State → Ctx → Moved
  | 0, _, s, x => .done s x [] none
  | k + 1, i, s, x =>
    match ctxGet s e c x (p.rowAt i) p.rowb with
    | .done s1 x1 l b => match x1.stops b with
      | some cause => .stop s1 x1 cause
      | none => match readRows e c p k (i + 1) s1 x1 with
        | .done s2 x2 l2 b2 => .done s2 x2 (l ++ l2) (b <|> b2)
        | o => o
    | o => o

/-- The chunk data of the next row of a pattern. -/
def rowEvent (s : State) (x : Ctx) (p : Pattern) (l : List Byte) : Event :=
  match unitSpan s x.asid x.tlb (p.rowAt p.pos) p.rowb .read with
  | .error _ => genuine s 0 0 0
  | .ok (_, ps) => piecesEvent s x.asid (p.rowAt p.pos) ps (l.take p.rowb)

/-- Does a ring command fault before it moves any row: too few rows, or rows longer than a slot? A pattern slot that is zero has
none to move (log 32). -/
def rowsBad (per want : Nat) (p : Pattern) : Bool := (per = 0 && p.rowb ≠ 0) || p.rest < want

/-- Read k rows for a claimed slot and send them there, through the core's router to its scratchpad. -/
def pushRows (s : State) (e c : Nat) (x : Ctx) (core off : Nat) (r : Ring) (slot k want : Nat) : State :=
  let p := x.pats[0]
  (readRows e c p k p.pos s x).andThen e c fun s1 x1 bytes b =>
    let key := spadKey core (r.slotOff slot)
    let spot := BitVec.ofNat 64 (3 * 2 ^ 62 + core * 2 ^ 20 + r.slotOff slot)
    let tr := sendTransfer s1 (endUnits s1 (e / 16) 3 (.here key) true) { rowEvent s1 x p bytes with spot := spot } b
    let f : Fill := ⟨spadKey core off, slot, key, bytes, tr.2, b, want = k, false⟩
    let x2 := { x1 with fills := x1.fills ++ [f], pats := x1.pats.set 0 { p with pos := p.pos + k }, left := want - k }
    let s3 := schedFree tr.1 (.engineFillLand e c)
    if want = k then s3.setCtx (ctxKey e c) { x2.past with wakeAt := s.cycle + 1 } else again s3 e c x2

/-- SPUSH: claim one slot and send its rows there (R402). -/
def execSpush (rows : W32) (ring : Word) (s : State) : Out :=
  onCtx s fun e c x =>
    match ctxRing s x ring with
    | .error k => ctxFault s e c x k
    | .ok (core, off, r) =>
      let p := x.pats[0]
      let per := r.size / p.rowb
      let want := x.want rows p
      if rowsBad per want p then ctxFault s e c x 0xB3
      else if want = 0 then issued s e c x
      else match x.log with
        | h :: _ => pushRows s e c { x with cur := 1 } core off r (leNat h.1) (min per want) want
        | [] =>
          if r.owner ≠ 0xFFFF ∧ r.owner ≠ ctxOwner e c then ctxFault s e c x 0xB4
          else if !r.claimable then s
          else
            let cl := r.claim (ctxOwner e c)
            pushRows (putRing s core off cl.1) e c { x with log := [(toLe 4 cl.2, none)], cur := 1 } core off r cl.2 (min per want) want

/-- Write k rows of a ring slot to the next rows of a pattern, one after the other. -/
def pullRows (e c : Nat) (p : Pattern) (base : Word) : Nat → Nat → State → Ctx → Moved
  | 0, _, s, x => .done s x [] none
  | k + 1, i, s, x =>
    match ctxGet s e c x (base + BitVec.ofNat 64 (i * p.rowb)) p.rowb with
    | .done s1 x1 l b => match x1.stops b with
      | some cause => .stop s1 x1 cause
      | none => match ctxPut s1 e c x1 (p.rowAt (p.pos + i)) l b with
        | .done s2 x2 _ b2 => match x2.stops b2 with
          | some cause => .stop s2 x2 cause
          | none => pullRows e c p base k (i + 1) s2 x2
        | o => o
    | o => o

/-- SPULL: drain one slot (R401); it is released once its rows are written. -/
def execSpull (rows : W32) (ring : Word) (s : State) : Out :=
  onCtx s fun e c x =>
    match ctxRing s x ring with
    | .error k => ctxFault s e c x (if k = 0xB4 then 0xB3 else k)
    | .ok (core, off, r) =>
      let p := x.pats[1]
      let per := r.size / p.rowb
      let want := x.want rows p
      let state := (ringSeen s core off).state r.rslot
      if rowsBad per want p then ctxFault s e c x 0xB3
      else if want = 0 then issued s e c x
      else if x.relSlot.isSome then s
      else if !x.midway ∧ state = 3 then ctxFault s e c x (condemnedAt s core (r.slotOff r.rslot)).cause
      else if !x.midway ∧ state ≠ 2 then s
      else
        let k := min per want
        let base := BitVec.ofNat 64 (ring.toNat / 2 ^ 20 * 2 ^ 20 + r.slotOff r.rslot)
        (pullRows e c p base k 0 s x).andThen e c fun s1 x1 _ _ =>
          let x2 := { x1 with pats := x1.pats.set 1 { p with pos := p.pos + k }, left := want - k, relSlot := some (core, off) }
          if want = k then issued s1 e c x2 else again s1 e c x2

/-! ## Copies (R395, R397) -/

/-- Copy one row from an address to the next row of slot 1; `p0` is slot 0 afterwards. -/
def copyRow (s : State) (e c : Nat) (x : Ctx) (a : Word) (p0 p1 : Pattern) (want : Nat) : State :=
  (ctxGet s e c x a p1.rowb).andThen e c fun s1 x1 l b =>
    (ctxPut s1 e c x1 (p1.rowAt p1.pos) l b).andThen e c fun s2 x2 _ _ =>
      let x3 := { x2 with pats := (x2.pats.set 0 p0).set 1 { p1 with pos := p1.pos + 1 }, left := want - 1 }
      if want = 1 then issued s2 e c x3 else again s2 e c x3

def execScopy (rows : W32) (s : State) : Out :=
  onCtx s fun e c x =>
    let p0 := x.pats[0]
    let p1 := x.pats[1]
    let want := x.want rows p0
    if p0.rowb ≠ p1.rowb ∨ p0.rest < want ∨ p1.rest < want then ctxFault s e c x 0xB3
    else if want = 0 then issued s e c x
    else copyRow s e c x (p0.rowAt p0.pos) { p0 with pos := p0.pos + 1 } p1 want

def execSgath (rows : W32) (list : Word) (s : State) : Out :=
  onCtx s fun e c x =>
    let p0 := x.pats[0]
    let p1 := x.pats[1]
    let want := if x.begun then x.left else rows.toNat
    if list.toNat % 4 ≠ 0 then ctxFault s e c x 0xB2
    else if p0.rowb ≠ p1.rowb ∨ p1.rest < want then ctxFault s e c x 0xB3
    else if want = 0 then issued s e c x
    else (ctxGet s e c x (list + BitVec.ofNat 64 (4 * (rows.toNat - want))) 4).andThen e c fun t x1 l _ =>
      let i := leNat l
      if p0.cnt.getD 0 0 ≤ i then ctxFault t e c x1 0xB3
      else copyRow t e c x1 (p0.base + BitVec.ofInt 64 (i * p0.str.getD 0 0)) p0 p1 want

/-! ## The router (R182, R183, R404) -/

/-- One assignment: input entry, expert, gate. -/
structure Assign where
  i : Nat
  expert : Nat
  gate : Nat
  deriving DecidableEq, Repr

/-- Assignments in order of expert, then token, then choice, which is the order of the input. -/
def assigns (es : List Nat) (experts : Nat) : List Assign :=
  let all : List Assign := es.zipIdx.map fun x => ⟨x.2, bits x.1 32 16, bits x.1 0 32⟩
  (List.range experts).flatMap fun q => all.filter fun a => a.expert = q

def keptOf (l : List Assign) (experts cap : Nat) : List Assign :=
  (List.range experts).flatMap fun q =>
    let mine := l.filter fun a => a.expert = q
    if cap = 0 then mine else mine.take cap

/-- Write several areas in order. -/
def writeAreas (e c : Nat) (b : Option Blame) : List (Word × List Byte) → State → Ctx → Moved
  | [], s, x => .done s x [] none
  | (a, l) :: t, s, x => match ctxPut s e c x a l b with
    | .done s1 x1 _ b1 => match x1.stops b1 with
      | some k => .stop s1 x1 k
      | none => writeAreas e c b t s1 x1
    | o => o

/-- A bit map as bytes. -/
def bitBytes (n : Nat) (f : Nat → Bool) : List Byte :=
  (List.range (ceilDiv n 8)).map fun b => BitVec.ofNat 8 (sumNat ((List.range 8).map fun i => if 8 * b + i < n ∧ f (8 * b + i) then 2 ^ i else 0))

/-- What SROUTE writes from its input entries, area by area (R183). -/
def routeAreas (d : List Byte) (es : List Nat) : List (Word × List Byte) :=
  let k := leAt d 12 1
  let ne := leAt d 16 2
  let kept := keptOf (assigns es ne) ne (leAt d 20 4)
  let counts := (List.range ne).map fun q => (kept.filter fun a => a.expert = q).length
  let offs := (List.range ne).map fun q => sumNat (counts.take q)
  let drop := leWord (sliceB d 48 8)
  [(leWord (sliceB d 24 8), kept.flatMap fun a => toLe 8 (a.gate * 2 ^ 32 + a.i % k * 2 ^ 20 + a.i / k)),
    (leWord (sliceB d 32 8), counts.flatMap (toLe 4)), (leWord (sliceB d 40 8), offs.flatMap (toLe 4))] ++
    (if drop = 0#64 then [] else [(drop, bitBytes es.length fun i => !(kept.any fun a => a.i = i))])

/-- A route descriptor within R182. -/
def routeOk (d : List Byte) : Bool :=
  let k := leAt d 12 1
  let ne := leAt d 16 2
  leAt d 8 4 * k ≤ 2 ^ 20 && 1 ≤ k && k ≤ 8 && isZeroB (sliceB d 13 3) && 1 ≤ ne && ne ≤ 4096 && isZeroB (sliceB d 18 2)
    && isZeroB (sliceB d 56 8)

/-- Input entries, and whether each is one. -/
def routeIn (d l : List Byte) : List Nat := (List.range (leAt d 8 4 * leAt d 12 1)).map fun i => leAt l (8 * i) 8
def entriesOk (d : List Byte) (es : List Nat) : Bool := es.all fun v => v < 2 ^ 48 && bits v 32 16 < leAt d 16 2

/-- R404: the descriptor, every input entry, then the areas. DESIGN CHOICE (log 32): the addresses of the input and of the areas may
have any alignment, none being asked for. -/
def execSroute (desc : Word) (s : State) : Out :=
  onCtx s fun e c x =>
    if desc.toNat % 8 ≠ 0 then ctxFault s e c x 0xB2
    else (ctxGet s e c x desc 64).andThen e c fun t x1 d b0 =>
      if !routeOk d then ctxFault t e c x1 0xB3
      else (ctxGet t e c x1 (leWord (d.take 8)) (8 * (leAt d 8 4 * leAt d 12 1))).andThen e c fun t1 x2 l b =>
        let es := routeIn d l
        if !entriesOk d es then ctxFault t1 e c x2 0xB3
        else (writeAreas e c (b0 <|> b) (routeAreas d es) t1 x2).andThen e c fun t2 x3 _ _ => issued t2 e c x3

/-! ## Fills (R180, R181, R206) -/

/-- Have the bytes of a fill passed the units of their path? -/
def Fill.passed (s : State) (f : Fill) : Bool :=
  ((s.dev.transfers.find? fun t => t.id = f.transfer).map fun t => t.hops.isEmpty).getD true

/-- The bytes of the oldest fill of a context land, as many as the engine may move in this cycle. -/
def landBytes (s : State) (e c : Nat) : State :=
  let x := s.ctx (ctxKey e c)
  match x.fills with
  | [] => s
  | f :: rest =>
    if !(s.agenda.any fun a => a.1 ≤ s.cycle && a.2 = Instr.engineFillLand e c) ∨ !f.passed s ∨ f.bytes.isEmpty then s
    else
      let m := min (room s e) f.bytes.length
      let n := if m = f.bytes.length then m else (f.key + m) / 32 * 32 - f.key
      (charge (wr s f.key (f.bytes.take n)) e n).setCtx (ctxKey e c) { x with fills := { f with key := f.key + n, bytes := f.bytes.drop n } :: rest }

/-- Those of all contexts of an engine. -/
def fillBytes (s : State) (e : Nat) : State := ((s.ctxs.map (·.1)).filter fun k => k / 64 = e).foldl (fun t k => landBytes t e (k % 64)) s

/-- ENGINE_FILL_LAND: the oldest fill of the context has landed, once its last byte has. A slot that
is no longer FILLING stops the stream (R393). -/
def execEngineFillLand (engine ctx : Nat) (s : State) : Out :=
  .next (
    let k := ctxKey engine ctx
    let x := s.ctx k
    match x.fills with
    | [] => s
    | f :: rest =>
      let tr := s.dev.transfers.find? fun t => t.id = f.transfer
      if !f.passed s ∨ !f.bytes.isEmpty then sched s 1 (.engineFillLand engine ctx)
      else
        let core := spadCore f.hdr
        let off := (f.hdr - 2 ^ 42) % Config.scratchBytes
        let b := f.condemned <|> tr.bind (·.condemned)
        let s1 := s.modDev fun d => { d with transfers := d.transfers.filter fun t => t.id ≠ f.transfer }
        let r := ringAt s1 core off
        let x1 := { x with fills := rest }
        if r.state f.slotIdx ≠ 1 then
          if f.orphan then s1.setCtx k x1 else ctxFault s1 engine ctx x1 0xB4
        else
          let s2 := putRing s1 core off (r.setState f.slotIdx (if b.isSome then 3 else 2))
          let s3 := match b with
            | some bl => s2.modCore core fun q => { q with condemned := Tbl.put q.condemned (r.slotOff f.slotIdx) bl }
            | none => s2
          -- the command completes when its last slot is FULL (R402)
          s3.setCtx k (if f.last then x1.completed else x1))

end Sys2Proof.Machine
end

