-- ==== Sys2Proof/Machine/Ringer.lean ====
section
/-! DEFINITION. Ringers: collective launches (14 R254 to R257), messages (R258), the commands 0xB0 to 0xBD (R259 to R268, 19
R320, R334 to R349) and the events of a ringer. -/

namespace Sys2Proof.Machine

open Sys2Proof

/-! ## Programs -/

/-- The ringer that has the turn runs a command. -/
def onRinger (s : State) (f : Nat → Ringer → State) : Out :=
  match s.turn with
  | .ringer g => .next (f g (s.ringer g))
  | _ => .fault .noExecutor

/-- Status word of a collective (R256). -/
def Ringer.statusWord (x : Ringer) (status cause : Nat) : Word :=
  BitVec.ofNat 64 (status % 256 + b2n x.late * 2 ^ 8 + b2n x.handshake * 2 ^ 9 + cause % 512 * 65536)

/-- The program stops: status and timeline or the fail word, its staged messages discarded (R347), and the ringer looks
at its queue (R254). -/
def endRinger (s : State) (g : Nat) (x : Ringer) (status cause : Nat) : State :=
  let s1 := match signalEnd s (ringerPoster g) x.asid x.tl x.value (x.statusWord status cause), x.queue with
    | some t, _ => t
    | none, some (h, i) => queueFail s h status i
    | none, none => s
  let s2 : State := { s1 with agenda := s1.agenda.filter fun a => a.2 ≠ Instr.collectiveCommandComplete g ∧ a.2 ≠ Instr.ctimeFire g }
  s2.setRinger g { Ringer.reset with staging := x.staging.filter fun m => m.coll ≠ x.coll }

def rgFault (s : State) (g : Nat) (x : Ringer) (cause : Nat) : State := endRinger s g x 0x20 cause

/-- Behind the command in hand. -/
def Ringer.past (x : Ringer) : Ringer := { x with pc := x.pc + wordsOf (x.words.getD x.pc 0), sent := false, unsent := [], got := [] }

/-- The command has done what it does; it completes after a free latency. -/
def rgIssued (s : State) (g : Nat) (x : Ringer) : State :=
  schedFree (s.setRinger g { x.past with status := .busy }) (.collectiveCommandComplete g)

/-- A command completes, numbered on the program's timeline (R278). -/
def Ringer.completed (x : Ringer) (now : Nat) : Ringer :=
  { x with timeline := x.timeline + 1, status := .running, wakeAt := now }

def execCollectiveCommandComplete (g : Nat) (s : State) : Out :=
  .next (
    let x := s.ringer g
    if x.status = .busy then s.setRinger g (x.completed s.cycle) else s)

/-! ## Collective launches (R255, R256) -/

/-- The status of a type-3 packet; on 0 the rank list and the program. -/
def collStatus (s : State) (b : List Byte) : Nat × List Nat × List Word :=
  let asid := leAt b 2 2
  let prog := leAt b 6 7
  let list := leAt b 13 7
  let rank := leAt b 20 2
  let size := leAt b 22 2
  let tl := leAt b 41 7
  let no := fun (st : Nat) => ((st, [], []) : Nat × List Nat × List Word)
  if leAt b 0 1 ≠ 3 then no 0x04
  else if leAt b 1 1 ≠ 0 ∨ leAt b 40 1 ≠ 0 ∨ !isZeroB (sliceB b 56 8) then no 0x05
  else if !registered s asid then no 0x07
  else
    match hashedHead s asid prog 64 with
    | .error c => no c
    | .ok h =>
        let n := leAt h 8 4
        let ok := decide (1 ≤ n ∧ n ≤ 65536) && isZeroB (h.drop 12)
        let ws := if ok then readVa s asid (prog + 64) (8 * n) else some []
        let sizeOk := decide (1 ≤ size ∧ size ≤ 4096 ∧ rank < size)
        let ls := if 2 ^ 55 ≤ list then none else if sizeOk then readVa s asid list (8 * size) else some []
        if prog % 64 ≠ 0 ∨ list % 8 ≠ 0 ∨ tl % 16 ≠ 0 ∨ 2 ^ 55 ≤ tl ∨ ws.isNone ∨ ls.isNone then no 0x09
        else
          let ents := wordsOfBytes size (ls.getD [])
          if !sizeOk ∨ ents.any (fun w => decide (65536 ≤ w.toNat)) then no 0x0C
          else if !ok then no 0x10
          else (0, ents.map (·.toNat), wordsOfBytes n (ws.getD []))

/-- Has a lasting fault taken the ringer and its port out of use (R209)? -/
def ringerGone (s : State) (g : Nat) : Bool := if h : g < 12 then (s.dev.ports[g]).removed else false

/-- COLLECTIVE_LAUNCH: a ringer that runs a program takes its next packet when it has stopped (R254). -/
def execCollectiveLaunch (hdr : Word) (s : State) : Out :=
  .next (match queueHead s hdr.toNat 3 with
    | none => knowQueue s 3 hdr
    | some k =>
      if (s.ringer k.target).status ≠ .idle then knowQueue s 3 hdr
      else
        let s1 := consume (knowQueue s 3 hdr) k
        let b := k.bytes
        let r := collStatus s b
        let tl := BitVec.ofNat 64 (leAt b 41 7)
        let v := BitVec.ofNat 64 (leAt b 48 8)
        if r.1 ≠ 0 then report s1 hdr k (leAt b 2 2) tl v r.1 0
        -- with its port it is out of use (R209)
        else if ringerGone s k.target then report s1 hdr k (leAt b 2 2) tl v 0x21 0x146
        else
            let x : Ringer := { Ringer.reset with
              status := .running
              words := r.2.2
              asid := leAt b 2 2
              coll := BitVec.ofNat 16 (leAt b 4 2)
              rank := leAt b 20 2
              size := leAt b 22 2
              list := r.2.1
              a0 := BitVec.ofNat 64 (leAt b 24 8)
              a1 := BitVec.ofNat 64 (leAt b 32 8)
              tl := tl
              value := v
              staging := (s.ringer k.target).staging
              queue := some (hdr, k.idx)
              wakeAt := s.cycle + 1 }
            s1.setRinger k.target x)

/-! ## How a command stops short -/

inductive RStop where
  /-- not ready: it goes on in a later turn -/
  | wait
  /-- the receiving ringer has still to grant credit -/
  | credit
  | fault (cause : Nat)
  /-- a check failed: the state with its log entry -/
  | blamed (s : State) (cause : Nat)
  | down

abbrev RM := Except RStop

/-- What a command comes to: the state after its turn, none while it waits. -/
def settle (s : State) (g : Nat) (x : Ringer) (m : RM State) : Option State :=
  match m with
  | .ok t => some t
  | .error .wait => none
  | .error .credit => some ({ s with free := s.free + 1 }.setRinger g { x with credit := true, wakeAt := s.cycle + (Config.latency s.free + 1) })
  | .error (.fault c) => some (rgFault s g x c)
  | .error (.blamed t c) => some (rgFault t g x c)
  | .error .down => some (endRinger s g x 0x21 0x146)

/-- Run a command for the ringer that has the turn. -/
def onRing (s : State) (f : State → Nat → Ringer → Option State) : Out := onRinger s fun g x => (f s g x).getD s

/-! ## Memory -/

/-- Is a core-window address held for a pre-empted partition (R238)? -/
def ringerHeld (s : State) (asid : Nat) (a : Word) : Bool :=
  bits a.toNat 62 2 = 3 && bits a.toNat 32 30 = 0 && (
    let l := bits a.toNat 20 12
    let mine := fun (e : Nat × Part) => e.2.asid = asid && (e.2.phys e.1 l).isSome
    match s.parts.find? mine with
    | some e => match e.2.pre with
      | .cut _ | .saved => true
      | _ => false
    | none => s.savedParts.any mine)

/-- Units between a ringer and a place; a ringer stands on die 0, as its hop identifier says (log 17). -/
def ringerUnits (s : State) (ps : List Piece) (out : Bool) : List W32 := spanUnits s 0 4 ps out

/-- The pieces of an access of a ringer. A fenced unit holds it (R208), and a read beyond the device waits for what the program has
posted before. -/
def ringerSpan (s : State) (g : Nat) (x : Ringer) (a : Word) (n : Nat) (want : Want) : RM (List Piece) :=
  if ringerHeld s x.asid a then .error .wait
  else match unitSpan s x.asid none a n want with
    | .error r => .error (.fault (0xB8 + r))
    | .ok (_, ps) =>
      if fencedOn s (ringerUnits s ps (want ≠ .read)) ∨ (want = .read ∧ ps.any Piece.far ∧ unacked s (ringerPoster g)) then .error .wait
      else .ok ps

/-- Data that passes the units of a path; a failed check stops the program with the blamed cause (R205, R256). -/
def ringerPass (s : State) (us : List W32) (e : Event) : RM State :=
  match transit s us e with
  | (t, none) => .ok t
  | (t, some b) => .error (.blamed t b.cause)

def ringerRead (s : State) (g : Nat) (x : Ringer) (a : Word) (n : Nat) : RM (State × List Byte) := do
  let ps ← ringerSpan s g x a n .read
  let l := readPieces s ps
  let t ← ringerPass s (ringerUnits s ps false ++ [ringerHop g]) (piecesEvent s x.asid a ps l)
  .ok (t, l)

/-- A write; a store to a single-assignment page faults (R170). -/
def ringerWrite (s : State) (g : Nat) (x : Ringer) (a : Word) (l : List Byte) : RM State := do
  let ps ← ringerSpan s g x a l.length .write
  let t ← ringerPass s (ringerUnits s ps true) (piecesEvent s x.asid a ps l)
  .ok (writePieces t (ringerPoster g) ps l)

/-! ## Routes and messages (R249, R252, R258) -/

/-- Port of a device identifier: none where it has no route. -/
def routePort (s : State) (dev : Nat) : Option Nat :=
  let b := (Tbl.find s.dev.routes dev).getD 0
  if bit b 7 ∧ b % 16 < 12 ∧ bits b 4 3 = 0 then some (b % 16) else none

def portActive (s : State) (g : Nat) : Bool := if h : g < 12 then (s.dev.ports[g]).state = .active else false

/-- The ringer of this module that runs a collective as a rank. -/
def ringerOf (s : State) (coll : BitVec 16) (rank : Nat) : Option Nat :=
  (s.ringers.find? fun e => e.2.status ≠ .idle ∧ e.2.coll = coll ∧ e.2.rank = rank).map (·.1)

/-- How a rank is reached: by itself, by another ringer of the module, or through a port; `absent` is a rank of this module whose
program does not run (R270). -/
inductive Way where
  | self
  | near (g : Nat)
  | port (g : Nat) (dev : BitVec 16)
  | absent
  | cut

def wayTo (s : State) (x : Ringer) (rank : Nat) : Way :=
  if rank = x.rank then .self
  else
    let dev := x.list.getD rank 0
    if dev = s.dev.devid.toNat then (match ringerOf s x.coll rank with
      | some g => .near g
      | none => .absent)
    else match routePort s dev with
      | some g => if portActive s g then .port g (BitVec.ofNat 16 dev) else .cut
      | none => .cut

/-- Bytes of a message, header included. -/
def msgBytes (m : Msg) : Nat :=
  64 + m.words.length * (if m.mode = .det then 8 else if m.bf16 then 2 else 4) + m.rows.length + 4 * m.counts.length + 8 * m.table.length

/-- Bytes of the staging buffer. -/
def stagingBytes : Nat := 2 * 1024 * 1024

/-- Has a staging buffer any room? A full one holds the sender: by credit in handshake mode, at the sending port in time-triggered
mode (R258, R268). -/
def stagingFull (l : List Msg) : Bool := stagingBytes ≤ sumNat (l.map msgBytes)

/-- The linear chime word of integers (R199). -/
def linearWord (ws : List Word) : Word := BitVec.ofNat 64 (2 ^ 61 + chimeSum 0 (ws.map fun w => (w.toInt % (chimeP : Int)).toNat))

/-- The chime word of a message: linear over the integers of a deterministic one, else of its images (R199, R264). -/
def msgChime (m : Msg) : Word :=
  if m.mode = .det then linearWord m.words
  else BitVec.ofNat 64 (chimeSum 0 (m.words.map (·.toNat)))

/-- What a message carries; counts, rows and tables have no format, and their chime is free (log 19). -/
def msgEvent (s : State) (m : Msg) : Event :=
  let e := genuine s 0 0 0
  if m.mode = .rows ∨ m.mode = .table then e else { e with expected := m.chime, found := msgChime m }

/-- Send one message (R258): to the own rank it goes into the own staging. A message to another module waits in handshake mode for
the credit of the ringer there, which comes after a free latency (R268, log 43), and passes the port's check (R205). -/
def sendMsg (s : State) (x : Ringer) (m : Msg) : RM (State × Ringer) :=
  match wayTo s x m.dest with
  | .self => if stagingFull x.staging then .error .wait else .ok (s, { x with staging := x.staging ++ [m] })
  | .near g =>
    if stagingFull (s.ringer g).staging then .error .wait
    else .ok (s.setRinger g { s.ringer g with staging := (s.ringer g).staging ++ [m] }, x)
  | .port g dev =>
    if fencedOn s [portHop g] then .error .wait
    else if !x.triggered ∧ !x.credit then .error .credit
    else do
      let t ← ringerPass s [portHop g] (msgEvent s m)
      .ok ({ t with outbox := t.outbox ++ [.message dev m] }, { x with credit := false })
  | .absent => .error .wait
  | .cut => .error .down

/-- Messages leave one by one, in order (R267); one that cannot leave holds those behind it back. -/
def sendMsgs : List Msg → State → Ringer → State × Ringer × Option RStop
  | [], s, x => (s, { x with unsent := [] }, none)
  | m :: t, s, x => match sendMsg s x m with
    | .ok r => sendMsgs t r.1 r.2
    | .error e => (s, { x with unsent := m :: t }, some e)

/-- Send what a command has still to send; what comes then is `done`. -/
def sendOut (s : State) (g : Nat) (x : Ringer) (done : State → Ringer → State) : State :=
  let r := sendMsgs x.unsent s x
  match r.2.2 with
  | none => done r.1 r.2.1
  | some e => (settle r.1 g r.2.1 (.error e)).getD (r.1.setRinger g { r.2.1 with wakeAt := s.cycle + 1 })

/-- A message arrives and waits in staging (R258). What does not fit is held at the port (R268). -/
def execRingerMessageArrival (g : Nat) (msg : Msg) (s : State) : Out :=
  .next (
    let x := s.ringer g
    if s.dev.bstat = 1 then s else s.setRinger g { x with staging := x.staging ++ [msg] })

/-- Take what a command needs out of staging, in the order of arrival: one message of each source (R258). Messages
beyond the buffer's size are still held at the port. -/
def takeMsgs (coll : BitVec 16) (tag : Byte) (srcs : List Nat) : Nat → List Msg → List Msg → List Msg × List Msg
  | _, got, [] => (got, [])
  | used, got, m :: t =>
    if stagingBytes ≤ used then (got, m :: t)
    else if m.coll = coll ∧ m.tag = tag ∧ srcs.contains m.src ∧ !(got.any fun q => q.src = m.src) then
      takeMsgs coll tag srcs used (got ++ [m]) t
    else
      let r := takeMsgs coll tag srcs (used + msgBytes m) got t
      (r.1, m :: r.2)

/-- Has the port of a message that is still missing gone down (R270)? -/
def missingDown (s : State) (x : Ringer) (srcs : List Nat) (got : List Msg) : Bool :=
  srcs.any fun q => !(got.any fun m => m.src = q) && (match wayTo s x q with
    | .cut => true
    | _ => false)

/-- The units a received message has passed (R204). -/
def msgUnits (s : State) (g : Nat) (x : Ringer) (m : Msg) : List W32 :=
  match wayTo s x m.src with
  | .port p _ => [portHop p, ringerHop g]
  | _ => [ringerHop g]

/-- The messages of a command once all have come, in the order of arrival, each checked on its way (R205). -/
def received (s : State) (g : Nat) (x : Ringer) (tag : Byte) (srcs : List Nat) : RM (State × Ringer × List Msg) :=
  let r := takeMsgs x.coll tag srcs 0 x.got x.staging
  let x1 := { x with got := r.1, staging := r.2 }
  if srcs.all fun q => r.1.any fun m => m.src = q then do
    let t ← r.1.foldlM (fun (u : State) m => ringerPass u (msgUnits u g x1 m) (msgEvent u m)) s
    .ok (t, x1, r.1)
  else if missingDown s x srcs r.1 then .error .down
  else .error .wait

/-! ## Operands -/

/-- Count, element size and address of a buffer (R259, R260). -/
structure RBuf where
  cnt : Nat
  es : Nat
  addr : Word
  bf16 : Bool
  dot : Bool
  fold : Bool

def RBuf.fd (b : RBuf) : FD := if b.bf16 then fdBf else fd32
/-- Bytes of an element of fmt. -/
def RBuf.out (b : RBuf) : Nat := if b.bf16 then 2 else 4

def rbuf (x : Ringer) (p : CPay) (addr : Word) : RM RBuf :=
  if p.larg ∧ 2 ^ 24 ≤ x.a0.toNat then .error (.fault 0xBB)
  else
    let cnt := if p.larg then x.a0.toNat else p.cnt.toNat
    let es := if p.dot then 8 else if p.bf16 then 2 else 4
    let a := if p.ix then addr + BitVec.ofNat 64 (x.n[p.ni] * cnt * es) else addr
    if a.toNat % es ≠ 0 then .error (.fault 0xBA) else .ok ⟨cnt, es, a, p.bf16, p.dot, p.fold⟩

/-- Element images of a buffer. -/
def operand (s : State) (g : Nat) (x : Ringer) (b : RBuf) : RM (State × List Nat) := do
  let r ← ringerRead s g x b.addr (b.cnt * b.es)
  .ok (r.1, (pieces b.es b.cnt r.2).map leNat)

/-- The exact value of an element or of a pair's product (R263). -/
def RBuf.value (b : RBuf) (x : Nat) : Val :=
  if b.dot then (Val.mul (fd32.decode (x % 2 ^ 32)) (fd32.decode (x / 2 ^ 32))).1 else b.fd.decode x

/-- ⌊log2 |v|⌋ of a finite nonzero value. -/
def expoOf : Val → Option Int
  | .fin _ m e => if m = 0 then none else some ((m.log2 : Int) + e)
  | _ => none

def maxOpt : Option Int → Option Int → Option Int
  | none, b => b
  | a, none => a
  | some a, some b => some (max a b)

/-- An entry with one more value (R263). -/
def seeValue (x : XEntry) (v : Val) : XEntry :=
  match v with
  | .nan _ => { x with n := true }
  | .inf neg => if neg then { x with m := true } else { x with p := true }
  | _ => { x with e := maxOpt x.e (expoOf v) }

/-- Both infinities show as N too. -/
def closeEntry (x : XEntry) : XEntry := { x with n := x.n || (x.p && x.m) }

def mergeEntry (x y : XEntry) : XEntry := ⟨maxOpt x.e y.e, x.n || y.n, x.p || y.p, x.m || y.m⟩

def emptyEntry : XEntry := ⟨none, false, false, false⟩

/-- Blocks of a table: 256 elements each, or one with fold. -/
def tableBlocks (b : RBuf) : Nat := if b.fold then 1 else ceilDiv b.cnt 256

/-- The local table. -/
def localTable (b : RBuf) (xs : List Nat) : List XEntry :=
  (List.range (tableBlocks b)).map fun k =>
    let part := if b.fold then xs else (xs.drop (256 * k)).take 256
    closeEntry (part.foldl (fun (x : XEntry) v => seeValue x (b.value v)) emptyEntry)

/-- CONTRIB of a value (R264), or cause 0xBB for one that the table does not cover. -/
def contrib (x : XEntry) (v : Val) : RM Int :=
  match v with
  | .nan _ => if x.n then .ok 0 else .error (.fault 0xBB)
  | .inf neg => if (if neg then x.m else x.p) then .ok 0 else .error (.fault 0xBB)
  | .fin neg m e =>
    if m = 0 then .ok 0
    else match x.e with
      | none => .error (.fault 0xBB)
      | some xe =>
        if xe < (m.log2 : Int) + e then .error (.fault 0xBB)
        else
          let k := e + 39 - xe
          let i : Int := if neg then -(m : Int) else m
          .ok (if 0 ≤ k then i * (2 ^ k.toNat : Nat) else i / (2 ^ (-k).toNat : Nat))

/-- Rounding of an exact sum to fmt (R264). -/
def roundSum (f : FD) (x : XEntry) (i : Int) : Nat :=
  if x.n ∨ (x.p ∧ x.m) then f.nan
  else if x.p then f.signed false (f.infCode.getD 0)
  else if x.m then f.signed true (f.infCode.getD 0)
  else match x.e with
    | none => 0
    | some e => (f.put .rne 0#64 (if i = 0 then .zero false else .ofInt i (e - 39))).1

/-- The entry of element i. -/
def entryOf (x : Ringer) (fold : Bool) (i : Nat) : XEntry := x.xt.getD (if fold then 0 else i / 256) emptyEntry

/-- The local operand of a deterministic command: words and width (R264). -/
def detOperand (x : Ringer) (b : RBuf) (xs : List Nat) : RM (List Int × Nat) :=
  if x.xtOf ≠ some (b.cnt, b.fold, b.dot) then .error (.fault 0xBB)
  else do
    let ws ← (xs.zip (List.range xs.length)).mapM fun v => contrib (entryOf x b.fold v.2) (b.value v.1)
    if b.fold then
      let w := 41 + clog2 b.cnt
      -- of no elements a header only is sent (R260)
      if 64 < w then .error (.fault 0xBB) else .ok (if b.cnt = 0 then [] else [ws.foldl (· + ·) 0], w)
    else .ok (ws, 41)

/-- One rounded addition of arrival mode; a NaN is canonical (R265). -/
def arrAdd (f : FD) (a b : Nat) : Nat := (f.arith .add .rne 0#64 a b).1

/-- The canonical image (R113, R265). -/
def canonImage (f : FD) (v : Nat) : Nat := if (f.decode v).isNan then f.nan else v

/-- The local fold of arrival mode (R265): the first element, then each further one added. -/
def arrFold (b : RBuf) (xs : List Nat) : Nat :=
  let ys := if b.dot then xs.map fun v => (fd32.arith .mul .rne 0#64 (v % 2 ^ 32) (v / 2 ^ 32)).1 else xs
  match ys with
  | [] => 0
  | y :: t => canonImage b.fd (t.foldl (arrAdd b.fd) y)

/-- The local operand of arrival mode: with fold one word, none of no elements (R260). -/
def arrOperand (b : RBuf) (xs : List Nat) : List Nat := if b.fold then (if b.cnt = 0 then [] else [arrFold b xs]) else xs

/-- The header of a message of a command. -/
def msgOf (x : Ringer) (dest : Nat) (tag : Byte) (mode : MsgMode) (b : RBuf) (width : Nat) (words : List Word) : Msg :=
  let m : Msg := ⟨x.coll, x.rank, dest, tag, mode, b.fold, b.dot, b.bf16, b.cnt, width, words, [], [], [], 0⟩
  { m with chime := msgChime m }

def intWord (i : Int) : Word := BitVec.ofInt 64 i

/-- Does a message meet what its command expects (R320)? -/
def expected (b : RBuf) (det : Bool) (m : Msg) : Bool :=
  (if det then m.mode = .det else m.mode = .plain || m.mode = .arr) && m.fold = b.fold && m.count = b.cnt && m.bf16 = b.bf16

/-- Images as bytes. -/
def imagesB (es : Nat) (xs : List Nat) : List Byte := xs.flatMap fun v => toLe es v

/-! ## Commands that move data -/

/-- R344. -/
def sendLocal (p : CPay) (addr : Word) (s : State) (g : Nat) (x : Ringer) : RM State := do
  let b ← rbuf x p addr
  let r ← operand s g x b
  let dest := x.n[p.na]
  let m ← if p.dm then do
      let o ← detOperand x b r.2
      .ok (msgOf x dest p.tag .det b o.2 (o.1.map intWord))
    else .ok (msgOf x dest p.tag (if p.fold then .arr else .plain) b 0 ((arrOperand b r.2).map (BitVec.ofNat 64)))
  let t ← sendMsg r.1 x m
  .ok (rgIssued t.1 g t.2)

def tryCsend (p : CPay) (addr : Word) (s : State) (g : Nat) (x : Ringer) : Option State := settle s g x (sendLocal p addr s g x)
def execCsend (p : CPay) (addr : Word) (s : State) : Out := onRing s (tryCsend p addr)

/-- The images a received message gives where it is written as it stands or rounded (R340). -/
def recvImages (x : Ringer) (b : RBuf) (m : Msg) : RM (List Nat) :=
  if m.mode = .det then
    match x.xtOf with
    | some (c, false, _) =>
      if c ≠ b.cnt then .error (.fault 0xBB)
      else .ok ((m.words.zip (List.range m.words.length)).map fun w => roundSum b.fd (entryOf x false w.2) w.1.toInt)
    | _ => .error (.fault 0xBB)
  else .ok (m.words.map (·.toNat))

def recvOne (p : CPay) (addr : Word) (s : State) (g : Nat) (x : Ringer) : RM State := do
  let b ← rbuf x p addr
  let r ← received s g x p.tag [x.n[p.na]]
  let m := r.2.2.headD (msgOf x 0 0 .plain b 0 [])
  if !(expected b (m.mode = .det) m) then .error (.fault 0xBB)
  else do
    let xs ← recvImages x b m
    let t ← ringerWrite r.1 g x b.addr (imagesB b.out xs)
    .ok (rgIssued t g r.2.1)

def tryCrecv (p : CPay) (addr : Word) (s : State) (g : Nat) (x : Ringer) : Option State := settle s g x (recvOne p addr s g x)
def execCrecv (p : CPay) (addr : Word) (s : State) : Out := onRing s (tryCrecv p addr)

/-- The combination of the local operand with messages (R264, R265): wire words with their width, or images. -/
def combine (x : Ringer) (b : RBuf) (det : Bool) (k : Nat) (xs : List Nat) (ms : List Msg) : RM (List Int × Nat) :=
  if ms.any fun m => !(expected b det m) then .error (.fault 0xBB)
  else if det then do
    let o ← detOperand x b xs
    let w := ms.foldl (fun w m => max w m.width) o.2 + clog2 k
    if 64 < w then .error (.fault 0xBB)
    else .ok (ms.foldl (fun (acc : List Int) m => List.zipWith (fun a (c : Word) => a + c.toInt) acc m.words) o.1, w)
  else
    let r := ms.foldl (fun (acc : List Nat) m => List.zipWith (fun a (c : Word) => arrAdd b.fd a c.toNat) acc m.words) (arrOperand b xs)
    .ok (r.map fun v => Int.ofNat (canonImage b.fd v), 0)

/-- A ringer checks what its reducer gives in a deterministic combination: the chime of the sum (R205). -/
def reduced (s : State) (g : Nat) (det : Bool) (ws : List Int) : RM State :=
  let w := linearWord (ws.map intWord)
  if det then ringerPass s [ringerHop g] { genuine s 0 0 0 with expected := w, found := w } else .ok s

/-- A deterministic command faults before it sends or writes, and before its messages have come, where the table does
not cover its operand or its width is too great. -/
def detCheck (x : Ringer) (b : RBuf) (det : Bool) (k : Nat) (xs : List Nat) : RM Unit :=
  if det then do
    let o ← detOperand x b xs
    if 64 < o.2 + clog2 k then .error (.fault 0xBB) else .ok ()
  else .ok ()

/-- R343. -/
def relay (p : CPay) (addr : Word) (s : State) (g : Nat) (x : Ringer) : RM State := do
  let b ← rbuf x p addr
  let l ← operand s g x b
  let _ ← detCheck x b p.dm 2 l.2
  let r ← received l.1 g x p.tag [x.n[p.na]]
  let c ← combine x b p.dm 2 l.2 r.2.2
  let mode : MsgMode := if p.dm then .det else if p.fold then .arr else .plain
  let u ← reduced r.1 g p.dm c.1
  let t ← sendMsg u r.2.1 (msgOf x x.n[p.nb] p.tag mode b c.2 (c.1.map intWord))
  .ok (rgIssued t.1 g t.2)

def tryCrrs (p : CPay) (addr : Word) (s : State) (g : Nat) (x : Ringer) : Option State := settle s g x (relay p addr s g x)
def execCrrs (p : CPay) (addr : Word) (s : State) : Out := onRing s (tryCrrs p addr)

/-- The element that a fold of no elements writes (R264, R342): the rounded empty sum, and in arrival mode a free value, for the spec
states none (log 33). -/
def foldOfNone (s : State) (x : Ringer) (b : RBuf) (det : Bool) : Nat :=
  if det then roundSum b.fd (entryOf x true 0) 0 else (Config.freeWord s.free).toNat % 2 ^ (8 * b.out)

/-- R342. -/
def reduceRing (all : Bool) (p : CPay) (addr : Word) (s : State) (g : Nat) (x : Ringer) : RM State := do
  let b ← rbuf x p addr
  let l ← operand s g x b
  let srcs := if all then (List.range x.size).filter fun q => q ≠ x.rank else [x.n[p.na]]
  let k := if all then x.size else 2
  let _ ← detCheck x b p.dm k l.2
  let r ← received l.1 g x p.tag srcs
  let c ← combine x b p.dm k l.2 r.2.2
  let xs := if p.dm then (c.1.zip (List.range c.1.length)).map fun v => roundSum b.fd (entryOf x b.fold v.2) v.1
    else c.1.map Int.toNat
  let u ← reduced r.1 g p.dm c.1
  let ys := if p.fold ∧ xs.isEmpty then [foldOfNone u x b p.dm] else xs
  if p.fold ∧ x.a1.toNat % b.out ≠ 0 then .error (.fault 0xBA)
  else do
    let t ← ringerWrite { u with free := u.free + 1 } g x (if p.fold then x.a1 else b.addr) (imagesB b.out ys)
    .ok (rgIssued t g r.2.1)

def tryCrrl (all : Bool) (p : CPay) (addr : Word) (s : State) (g : Nat) (x : Ringer) : Option State :=
  settle s g x (reduceRing all p addr s g x)
def execCrrl (all : Bool) (p : CPay) (addr : Word) (s : State) : Out := onRing s (tryCrrl all p addr)

/-- R334: read whole before anything is written. -/
def copyLocal (p : CPay) (addr : Word) (s : State) (g : Nat) (x : Ringer) : RM State := do
  let b ← rbuf x p addr
  let r ← ringerRead s g x b.addr (b.cnt * b.es)
  let t ← ringerWrite r.1 g x (addr + BitVec.ofNat 64 (x.n[p.nb] * b.cnt * b.es)) r.2
  .ok (rgIssued t g x)

def tryCcopy (p : CPay) (addr : Word) (s : State) (g : Nat) (x : Ringer) : Option State := settle s g x (copyLocal p addr s g x)
def execCcopy (p : CPay) (addr : Word) (s : State) : Out := onRing s (tryCcopy p addr)

/-- R337, R263. The local table is sent once; it stands in `xt` until the others' have come. -/
def agree (p : CPay) (addr : Word) (s : State) (g : Nat) (x : Ringer) : RM State := do
  let others := (List.range x.size).filter fun q => q ≠ x.rank
  let sentOn := fun (t : State) (y : Ringer) => t.setRinger g { y with wakeAt := t.cycle + 1 }
  let b ← rbuf x p addr
  let finish := fun (t : State) (y : Ringer) (tb : List XEntry) =>
    (rgIssued t g { y with xt := tb, xtOf := some (b.cnt, b.fold, b.dot) } : State)
  if !x.sent then do
    let l ← operand s g x b
    let tb := localTable b l.2
    if others.isEmpty then .ok (finish l.1 x tb)
    else
      let ms := others.map fun q => ({ msgOf x q p.tag .table b 0 [] with count := tableBlocks b, table := tb } : Msg)
      .ok (sendOut l.1 g { x with sent := true, unsent := ms, xt := tb, xtOf := none } sentOn)
  else if !x.unsent.isEmpty then .ok (sendOut s g x sentOn)
  else do
    let r ← received s g x p.tag others
    if r.2.2.any fun m => m.mode ≠ .table ∨ m.count ≠ tableBlocks b ∨ m.fold ≠ b.fold ∨ m.dot ≠ b.dot then .error (.fault 0xBB)
    else .ok (finish r.1 r.2.1 (r.2.2.foldl (fun acc m => List.zipWith mergeEntry acc m.table) x.xt))

def tryCmaxe (p : CPay) (addr : Word) (s : State) (g : Nat) (x : Ringer) : Option State := settle s g x (agree p addr s g x)
def execCmaxe (p : CPay) (addr : Word) (s : State) : Out := onRing s (tryCmaxe p addr)

/-! ## Uneven all-to-all (R266, R267) -/

/-- A vector descriptor: data, count table, row bytes, experts per rank, capacity. -/
def vectorDesc (s : State) (g : Nat) (x : Ringer) (desc : Word) : RM (State × Word × Word × Nat × Nat × Nat) :=
  if desc.toNat % 8 ≠ 0 then .error (.fault 0xBA)
  else do
    let r ← ringerRead s g x desc 32
    let d := r.2
    let row := leAt d 16 4
    let n := leAt d 20 2
    if row < 8 ∨ 4096 < row ∨ row % 8 ≠ 0 ∨ n = 0 ∨ leAt d 22 2 ≠ 0 then .error (.fault 0xBB)
    else .ok (r.1, leWord (sliceB d 0 8), leWord (sliceB d 8 8), row, n, leAt d 24 8)

/-- The messages of a `CSENDV`, read whole before the first leaves. -/
def rowMsgs (tag : Byte) (desc : Word) (s : State) (g : Nat) (x : Ringer) : RM (State × List Msg) := do
  let v ← vectorDesc s g x desc
  let (t, data, cnt, row, n, _) := v
  let c ← ringerRead t g x cnt (4 * n * x.size)
  let counts := (pieces 4 (n * x.size) c.2).map leNat
  let ms ← (List.range x.size).foldlM (fun (acc : State × List Msg × Nat) q => do
    let cs := (counts.drop (n * q)).take n
    let rows ← ringerRead acc.1 g x (data + BitVec.ofNat 64 (acc.2.2 * row)) (sumNat cs * row)
    let m : Msg := ⟨x.coll, x.rank, q, tag, .rows, false, false, false, n, 0, [], cs.map (BitVec.ofNat 32), rows.2, [], 0⟩
    .ok (rows.1, acc.2.1 ++ [m], acc.2.2 + sumNat cs)) (c.1, [], 0)
  .ok (ms.1, ms.2.1)

def sendRows (tag : Byte) (desc : Word) (s : State) (g : Nat) (x : Ringer) : RM State :=
  let issued := fun (t : State) (y : Ringer) => rgIssued t g y
  if x.sent then .ok (sendOut s g x issued)
  else do
    let r ← rowMsgs tag desc s g x
    .ok (sendOut r.1 g { x with sent := true, unsent := r.2 } issued)

def tryCsendv (tag : Byte) (desc : Word) (s : State) (g : Nat) (x : Ringer) : Option State := settle s g x (sendRows tag desc s g x)
def execCsendv (tag : Byte) (desc : Word) (s : State) : Out := onRing s (tryCsendv tag desc)

def recvRows (tag : Byte) (desc : Word) (s : State) (g : Nat) (x : Ringer) : RM State := do
  let v ← vectorDesc s g x desc
  let (t, data, cnt, row, n, cap) := v
  let r ← received t g x tag (List.range x.size)
  let ms := sortBy (fun (a b : Msg) => a.src ≤ b.src) r.2.2
  let bad := fun (m : Msg) => m.mode ≠ .rows || m.counts.length ≠ n || m.rows.length ≠ sumNat (m.counts.map (·.toNat)) * row
  let rows := ms.flatMap (·.rows)
  if ms.any bad ∨ cap < rows.length then .error (.fault 0xBB)
  else do
    let t1 ← ringerWrite r.1 g x data rows
    let t2 ← ringerWrite t1 g x cnt (ms.flatMap fun m => m.counts.flatMap of32)
    .ok (rgIssued t2 g r.2.1)

def tryCrecvv (tag : Byte) (desc : Word) (s : State) (g : Nat) (x : Ringer) : Option State := settle s g x (recvRows tag desc s g x)
def execCrecvv (tag : Byte) (desc : Word) (s : State) : Out := onRing s (tryCrecvv tag desc)

/-! ## Signals, loops, peers, time -/

/-- R349: a word on tier 2 or 3 is re-read every microsecond. -/
def awaitWord (v : BitVec 40) (addr : Word) (s : State) (g : Nat) (x : Ringer) : RM State :=
  if addr.toNat % 8 ≠ 0 then .error (.fault 0xBA)
  else do
    let ps ← ringerSpan s g x addr 8 .read
    if leNat (readPieces s ps) < v.toNat ∨ (x.sent ∧ quietPieces s ps) then
      if ps.any fun p => p.far then
        .ok (sched (s.setRinger g { x with status := .waiting }) Config.cyclesPerUs (.monitorPoll (.ringer g)))
      else .ok (s.setRinger g { x with sent := true, wakeAt := s.cycle + 1 })
    else .ok (rgIssued s g x)

def tryCwait (v : BitVec 40) (addr : Word) (s : State) (g : Nat) (x : Ringer) : Option State := settle s g x (awaitWord v addr s g x)
def execCwait (v : BitVec 40) (addr : Word) (s : State) : Out := onRing s (tryCwait v addr)

/-- Must a raise of the program wait for the acknowledgments of its earlier writes (R262, R272)? -/
def raiseWaits (s : State) (g : Nat) (ps : List Piece) : Bool := ps.any Piece.far && unacked s (ringerPoster g)

/-- R346, one operation at the home of the word (R279). -/
def ringerSignal (addr : Word) (op : AccOp) (s : State) (g : Nat) (x : Ringer) : RM State :=
  if addr.toNat % 8 ≠ 0 then .error (.fault 0xBA)
  else do
    let ps ← ringerSpan s g x addr 8 .write
    if raiseWaits s g ps then .error .wait
    else .ok (rgIssued (ps.foldl (fun u p => postUnit u (ringerPoster g) p.1.place op) s) g x)

def tryCsig (addr : Word) (op : AccOp) (s : State) (g : Nat) (x : Ringer) : Option State := settle s g x (ringerSignal addr op s g x)
def execCsigSt (v : BitVec 40) (addr : Word) (s : State) : Out := onRing s (tryCsig addr (.store (toLe 8 v.toNat)))
def execCsigAdd (v : BitVec 40) (addr : Word) (s : State) : Out := onRing s (tryCsig addr (.raise false (v.zeroExtend 64)))
def execCsigMax (v : BitVec 40) (addr : Word) (s : State) : Out := onRing s (tryCsig addr (.raise true (v.zeroExtend 64)))

/-- R335, R261. -/
def execCloopSet (n : Fin 4) (c : W32) (s : State) : Out :=
  onRinger s fun g x => rgIssued s g { x with l := x.l.set n.val c, i := x.i.set n.val 0 }

def execCloop (n : Fin 4) (off : W32) (s : State) : Out :=
  onRinger s fun g x =>
    let v := x.l[n]
    if v = 0#32 then rgIssued s g x
    else
      let x1 := { x with l := x.l.set n.val (v - 1), i := x.i.set n.val (x.i[n] + 1) }
      if v = 1#32 then rgIssued s g x1
      else
        let t := (x.pc : Int) + off.toInt
        if t < 0 ∨ (x.words.length : Int) ≤ t then rgFault s g x 0x2D
        else schedFree (s.setRinger g { x1.past with pc := t.toNat, status := .busy }) (.collectiveCommandComplete g)

/-- R339, R261. -/
def execCpeer (k : Fin 4) (lp add : Bool) (j : Fin 4) (abs : Bool) (d : W32) (s : State) : Out :=
  onRinger s fun g x =>
    let i : Int := (x.i[j]).toNat
    let t : Int := if abs then d.toInt else (x.rank : Int) + d.toInt + (if lp then (if add then i else -i) else 0)
    rgIssued s g { x with n := x.n.set k.val (t % (x.size : Int)).toNat }

/-- Cycles that `%time` needs at least for n ns: it counts at no more than twice its rate (R253). -/
def timeWait (n : Nat) : Nat := max 1 (n * 21 / 20)

/-- R268: late, out of step with the leader, or waiting for `%time`. -/
def execCtime (slot : W32) (t : Word) (s : State) : Out :=
  onRinger s fun g x =>
    let now := s.time.toNat
    let w := if slot = 0#32 then 200 else slot.toNat
    if t.toNat < now then rgIssued (logOnly s 0x144 (ringerHop g) 0) g { x with late := true, triggered := !x.handshake }
    else
      let skew := !s.dev.synced || decide (21 * w < s.timeOff.natAbs)
      let s1 := if skew then logOnly s 0x145 (ringerHop g) 0 else s
      let x1 := if skew then { x with handshake := true, triggered := false } else { x with triggered := !x.handshake }
      if now = t.toNat then rgIssued s1 g x1
      else sched (s1.setRinger g { x1 with status := .waiting }) (timeWait (t.toNat - now)) (.ctimeFire g)

/-- CTIME_FIRE: the command completes once `%time` has reached T. -/
def execCtimeFire (g : Nat) (s : State) : Out :=
  .next (
    let x := s.ringer g
    let t := (x.words.getD (x.pc + 1) 0).toNat
    if x.status ≠ .waiting then s
    else if s.time.toNat < t then sched s (timeWait (t - s.time.toNat)) (.ctimeFire g)
    else s.setRinger g (x.past.completed s.cycle))

/-- R347. -/
def execCstop (s : State) : Out := onRinger s fun g x => endRinger s g x 0 0

end Sys2Proof.Machine
end

