-- ==== Sys2Proof/Machine/Links.lean ====
section
/-! DEFINITION. Wildun ports: training (16 R297), links going down (14 R252), the global timebase (R253), what arrives from
a peer (R249, R251, R276). -/

namespace Sys2Proof.Machine

open Sys2Proof

/-! ## Training (R297) -/

def State.port (s : State) (g : Nat) : Port := if h : g < 12 then s.dev.ports[g] else Port.reset
def State.setPort (s : State) (g : Nat) (p : Port) : State :=
  s.modDev fun d => if h : g < 12 then { d with ports := d.ports.set g p } else d

/-- Timeout of a state in ns; none where it has none. -/
def trainTimeout (x : PortState) : Option Nat :=
  match x with
  | .detect => some 10000000
  | .align => some 1000000
  | .equalize => some 5000000
  | .verify => some 2000000
  | .identity => some 100000
  | _ => none

/-- Leave whatever the port was in: its pending training events are void. -/
def quietPort (s : State) (g : Nat) : State :=
  { s with agenda := s.agenda.filter fun a => a.2 ≠ Instr.linkTrainingTimeout g ∧ a.2 ≠ Instr.linkResetExpiry g ∧ a.2 ≠ Instr.rateSelect g ∧
      a.2 ≠ Instr.linkRetryWaitExpiry g }

/-- Bring-up waits for the port no longer: it is ACTIVE, or stays down and retries (R296). -/
def trained (s : State) (g : Nat) : State := s.modDev fun d => { d with training := d.training.map fun l => l.filter (· ≠ g) }

/-- Enter a state: RESET lasts 1 µs, RATE takes a pair at once, the others run against their timeout. -/
def enterPort (s : State) (g : Nat) (x : PortState) : State :=
  let s0 := if x = .reset ∨ x = .active then trained s g else s
  let s1 := (quietPort s0 g).setPort g { s.port g with state := x }
  match x with
  | .reset => sched (s1.setPort g { Port.reset with removed := (s.port g).removed, barred := (s.port g).barred }) (nsCycles 1000) (.linkResetExpiry g)
  | .rate => schedFree s1 (.rateSelect g)
  | x => match trainTimeout x with
    | some n => sched s1 (nsCycles n) (.linkTrainingTimeout g)
    | none => s1

/-- RESET after a wait of 100 ms. -/
def retryLater (s : State) (g : Nat) : State := sched (quietPort (trained s g) g) (nsCycles 100000000) (.linkRetryWaitExpiry g)

/-- Is the port in a state and not waiting for a retry? -/
def inState (s : State) (g : Nat) (x : PortState) : Bool :=
  g < 12 && (s.port g).state = x && !pendingEvent s (.linkRetryWaitExpiry g) && !(s.port g).removed && !(s.port g).barred

def execLinkResetExpiry (port : Nat) (s : State) : Out :=
  .next (if inState s port .reset then enterPort s port .detect else s)

def execPartnerDetect (port lanes : Nat) (s : State) : Out :=
  .next (if inState s port .detect ∧ 2 ≤ lanes then
    enterPort (s.setPort port { s.port port with usable := min lanes 8 }) port .align else s)

def execLaneAlign (port : Nat) (s : State) : Out := .next (if inState s port .align then enterPort s port .equalize else s)

def execEqualizeAgree (port : Nat) (s : State) : Out := .next (if inState s port .equalize then enterPort s port .rate else s)

/-- The list of RATE: lane rate in Gb/s and width. -/
def rateList : List (Nat × Nat) := [(224, 8), (224, 4), (224, 2), (112, 8), (112, 4), (112, 2), (56, 8), (56, 4), (56, 2)]

/-- The next pair from an index on that the usable lanes allow, with the index behind it. -/
def nextRate (usable from_ : Nat) : Option (Nat × Nat × Nat) :=
  ((rateList.zipIdx.drop from_).find? fun x => x.1.2 ≤ usable).map fun x => (x.1.1, x.1.2, x.2 + 1)

def execRateSelect (port : Nat) (s : State) : Out :=
  .next (
    if inState s port .rate then
      match nextRate (s.port port).usable (s.port port).rateIdx with
      | some (r, w, i) => enterPort (s.setPort port { s.port port with rate := r, width := w, rateIdx := i }) port .verify
      | none => retryLater s port
    else s)

def execVerifyDone (port failing : Nat) (s : State) : Out :=
  .next (if inState s port .verify then enterPort s port (if failing < 8 then .identity else .rate) else s)

/-- The port stays down until module reset, and the log says so. -/
def barPort (s : State) (port : Nat) : State :=
  logOnly ((quietPort (trained s port) port).setPort port { s.port port with barred := true, state := .down }) 0x146 (portHop port) 0

/-- Peer slot g holds the partner of port g while that port is ACTIVE (R291). -/
def nameSlot (s : State) (port : Nat) (dev : BitVec 16) : State :=
  s.modDev fun d => if h : port < 16 then { d with peers := d.peers.set port (0x80000000#32 ||| dev.zeroExtend 32) } else d

def execIdentityExchange (port : Nat) (dev : BitVec 16) (hash : Word) (s : State) : Out :=
  .next (
    if inState s port .identity then
      if hash = Config.encodingHash ∧ dev ≠ s.dev.devid then
        nameSlot (enterPort (s.setPort port { s.port port with partner := dev }) port .active) port dev
      else barPort s port
    else s)

def execLinkTrainingTimeout (port : Nat) (s : State) : Out :=
  .next (match (s.port port).state with
    | .detect => if inState s port .detect then retryLater s port else s
    | .align | .equalize => if inState s port (s.port port).state then enterPort s port .reset else s
    | .verify => if inState s port .verify then enterPort s port .rate else s
    | .identity => if inState s port .identity then barPort s port else s
    | _ => s)

def execLinkRetryWaitExpiry (port : Nat) (s : State) : Out :=
  .next (if port < 12 ∧ ((s.port port).state = .detect ∨ (s.port port).state = .rate) then enterPort s port .reset else s)

/-! ## Links going down (R252) -/

/-- Does an access to a peer slot need the port? -/
def slotNeeds (s : State) (port slot : Nat) : Bool := peerPort s slot = some port

/-- The position of an access that waits at a peer behind the port: of a gather a lane that has been sent (R426). -/
def lostLane (s : State) (port : Nat) (g : Agent) (a : Access) : Option Nat :=
  a.open_.find? fun i => (if a.op.byLane then a.lanes.sent.contains i else a.phase = .armed) && (match placeAt s g a i with
    | some (.peer slot _) => slotNeeds s port slot
    | _ => false)

/-- A read that is armed at a peer, or on its way, is answered with the ERR word of cause 0x146 (R276); any other access
that waits there faults with reason 0 of its kind. -/
def dropWaiting (s : State) (port : Nat) (t : State) (e : Nat × Agent) : State :=
  -- the claim of an SQPUT faults at its SQPUT
  let t := match e.2.claim with
    | some (_, _, a) => (match t.agent e.1, a.op with
      | some g, .sqput hdr _ _ => (match resolveNow s g hdr .write with
        | .ok ⟨.peer slot _, _⟩ => if slotNeeds s port slot then claimRefused t g hdr else t
        | _ => t)
      | _, _ => t)
    | none => t
  e.2.outs.foldl (fun u a =>
    match lostLane s port e.2 a with
    | none => u
    | some i => match a.op with
      | .ldp _ => answerAsker u (errWord 0x146 0 0 0) (.agent e.2.core e.2.slot a.id)
      | _ => match u.agent e.1 with
        | some g => failAccess u g a (memCause a.op.kind 0) (a.vas.getD i 0) (if a.op.byLane then i else 0xFFFFFFFF) true
        | none => u) t

/-- Promise words of a record that wait at a peer behind the port. -/
def dropPromises (s : State) (port : Nat) (t : State) (e : Nat × Part) : State :=
  (e.2.records.filter fun r => r.state = .waiting).foldl (fun u r =>
    forN ((r.words s).filter isProm).length u fun i v =>
      match promLoc s e.2 r i, r.answers.getD i none with
      | .ok ⟨.peer slot _, _⟩, none => if slotNeeds s port slot then sched v 0 (.presenceAnswer e.1 r.id i (errWord 0x146 0 0 0)) else v
      | _, _ => v) t

/-- Posted writes that left by the port are acknowledged no more (R273). -/
def dropPosted (s : State) (port : Nat) (t : State) : State :=
  s.posted.foldl (fun u p =>
    match p.place with
    | .peer slot _ => if p.sent && slotNeeds s port slot then sched u 0 (.postedWriteAck p.who.1 p.who.2 p.id false) else u
    | _ => u) t

/-- What a port's leaving ACTIVE does, before the port is what it becomes. A module that loses its path to the leader runs free. -/
def portLost (s : State) (port : Nat) : State :=
  let s1 := s.parts.foldl (dropPromises s port) (dropPosted s port (s.agents.foldl (dropWaiting s port) s))
  let leader := s.dev.leader ≠ s.dev.devid && routePort s s.dev.leader.toNat = some port
  let s2 := s1.modDev fun d =>
    { d with
      synced := d.synced && !leader
      path := d.path && !leader
      peers := if h : port < 16 then
          (if (d.peers[port]).toNat % 65536 = (s.port port).partner.toNat then d.peers.set port (d.peers[port] &&& 0x7FFFFFFF#32) else d.peers)
        else d.peers }
  logOnly { s2 with timeOff := if leader then 0 else s2.timeOff } 0x146 (portHop port) 0

/-- LINK_DOWN: the port leaves ACTIVE and trains again from RESET. -/
def execLinkDown (port : Nat) (s : State) : Out :=
  .next (if port < 12 ∧ (s.port port).state = .active then enterPort (portLost s port) port .reset else s)

/-- A lasting fault of a port or its ringer removes both, and a program that the ringer runs ends as for a link that is down (R209,
R252). -/
def removePort (s : State) (port : Nat) : State :=
  let s0 := if (s.port port).state = .active then portLost s port else s
  let x := s0.ringer port
  let s1 := if x.status = .idle then s0 else endRinger s0 port x 0x21 0x146
  (quietPort s1 port).setPort port { s1.port port with removed := true, state := .down }

/-! ## The timebase (R253) -/

/-- A path to the leader is gained: with no live partition, for the first time after reset, `%time` steps to the leader's
value; else it is caught up with. -/
def execTimebaseSyncGain (leader : Word) (s : State) : Out :=
  .next (
    if !s.dev.gained ∧ s.parts.isEmpty then
      ({ s with time := leader, timeFrac := 0, timeOff := 0 } : State).modDev fun d => { d with gained := true, path := true, synced := true }
    else
      let off : Int := ((leader.toNat : Int) - (s.time.toNat : Int)) * 21 - (s.timeFrac : Int)
      let s1 := ({ s with timeOff := off } : State).modDev fun d => { d with gained := true, path := true, synced := false }
      if off.natAbs ≤ 420 then schedOnce s1 0 .timebaseWithinTolerance else s1)

/-- Within ±20 ns of the leader: synchronised, and corrected by slewing alone from then on. -/
def execTimebaseWithinTolerance (s : State) : Out :=
  .next (if s.timeOff.natAbs ≤ 420 ∧ s.dev.path then s.modDev fun d => { d with synced := true } else s)

/-- One core clock period of `%time`: 10/21 ns; up to twice as much while behind and half as much while ahead before the
module is synchronised; afterwards a correction of at most 1 ns per µs. -/
def tickTime (s : State) : State :=
  let slew : Int :=
    if s.timeOff = 0 then 0
    else if s.dev.synced then (if s.cycle % 100 = 0 then (if 0 < s.timeOff then 1 else -1) else 0)
    else if 0 < s.timeOff then min 10 s.timeOff else -(min 5 (-s.timeOff))
  let n := (((s.timeFrac : Int) + 10 + slew).toNat)
  let s1 := { s with time := s.time + BitVec.ofNat 64 (n / 21), timeFrac := n % 21, timeOff := s.timeOff - slew }
  if !s.dev.synced ∧ s.dev.path ∧ s1.timeOff.natAbs ≤ 420 then schedOnce s1 0 .timebaseWithinTolerance else s1

/-! ## What arrives from a peer (R251) -/

/-- The home of an address that a peer names: HBM or LPDDR (R162). -/
def homeKey (pa : Nat) : Option Nat :=
  if pa < Config.hbmBytes then some (hbmKey pa)
  else if 2 ^ 43 ≤ pa ∧ pa < 2 ^ 43 + Config.lpddrBytes then some (lpddrKey (pa - 2 ^ 43)) else none

def answerPeer (s : State) (port id : Nat) (l : List Byte) : State := { s with outbox := s.outbox ++ [.data port id l] }

/-- The 43-bit address that a peer's access names, and whether it brings data in. -/
def peerTarget : PeerAcc → Option (Nat × Bool)
  | .load pa _ _ | .ldp pa => some (pa, false)
  | .store pa _ | .atom _ _ pa _ _ | .stp pa _ | .pset pa _ | .tlinc pa _ | .raise _ pa _ | .poisonEmpty pa _ => some (pa, true)
  | .forward _ _ => none

/-- Bytes that it moves. -/
def peerBytes : PeerAcc → Nat
  | .load _ n _ => n
  | .store _ l => l.length
  | .atom _ is64 _ _ _ => atomBytes is64
  | _ => 8

/-- A presence store's answer: 0 where it was performed, 1 where the word was FULL, 2 where it was POISON. -/
def presenceByte (s : State) (k : Nat) : Byte :=
  match s.presenceOf k with
  | none => 0#8
  | some .full => 1#8
  | some .poison => 2#8

/-- An access of a peer is performed at its home; what it reads goes back through the port. -/
def peerPerform (s : State) (port id k : Nat) (acc : PeerAcc) : State :=
  match acc with
  | .load _ n sa => answerPeer s port id (readLoc s ⟨.here k, sa⟩ n)
  | .store _ l => answerPeer (wr s k l) port id []
  | .atom fn is64 _ b c =>
    let n := atomBytes is64
    let old := rdNat s k n
    answerPeer (match atomNew fn n old b.toNat c.toNat with
      | some v => wr s k (toLe n v)
      | none => s) port id (toLe n old)
  | .ldp _ => presenceRead s k (.peer port id)
  | .stp _ v => answerPeer (if (s.presenceOf k).isNone then presenceWrite s k .full v else s) port id [presenceByte s k]
  | .poisonEmpty _ v => answerPeer (if (s.presenceOf k).isNone then presenceWrite s k .poison v else s) port id [presenceByte s k]
  | .pset _ none => answerPeer (presenceClear s k) port id [0#8]
  | .pset _ (some v) => answerPeer (presenceWrite s k .poison v) port id [0#8]
  | .tlinc _ v =>
    let old := rdNat s k 8
    answerPeer (wr s k (toLe 8 (satAdd64 old v.toNat))) port id (toLe 8 old)
  | .raise max _ v => answerPeer (applyAt s k (.raise max v)) port id []
  | .forward _ _ => s

/-- Presence accesses; they have a home in HBM alone (R169). -/
def presenceAcc : PeerAcc → Bool
  | .ldp _ | .stp _ _ | .pset _ _ | .poisonEmpty _ _ => true
  | _ => false

/-- An access of a peer at its home, as a local one would be (R251): a fenced unit holds it (R208), its data passes the port and the
memory, which may condemn it (R205). An address beyond the memories, a presence access outside HBM, one in a failing page (R209), and condemned data are answered
empty: the peer faults (log 3). -/
def peerHome (s : State) (port id : Nat) (acc : PeerAcc) : State :=
  match acc, peerTarget acc with
  | .forward dev flit, _ =>
    (match routePort s dev.toNat with
      | some g => if portActive s g then { s with outbox := s.outbox ++ [.forwarded g dev flit] }
        else { s with outbox := s.outbox ++ [.unroutable port id] }
      | none => { s with outbox := s.outbox ++ [.unroutable port id] })
  | _, none => s
  | _, some (pa, write) => match homeKey pa with
    | none => answerPeer s port id []
    | some k =>
      let us := if write then portHop port :: endUnits s 0 5 (.here k) true (peerBytes acc) else endUnits s 0 5 (.here k) false (peerBytes acc) ++ [portHop port]
      if failingPlace s (.here k) ∨ (presenceAcc acc ∧ Config.hbmBytes ≤ pa) then answerPeer s port id []
      else if fencedOn s us then sched s 1 (.peerAccessArrival port id acc)
      else
        -- the chunk and its words are those of the peer's partition (log 19)
        let r := transit s us { genuine s (Config.freeWord (s.free + 1)) 0 0 with key := k }
        match r.2 with
        | some _ => answerPeer r.1 port id []
        | none => peerPerform r.1 port id k acc

/-- PEER_ACCESS_ARRIVAL on an ACTIVE port. -/
def execPeerAccessArrival (port id : Nat) (acc : PeerAcc) (s : State) : Out :=
  .next (if portActive s port then peerHome s port id acc else s)

end Sys2Proof.Machine
end

