-- ==== Sys2Proof/Machine/Image.lean ====
section
/-! DEFINITION. The context image of a partition, written and read (13 R239 to R246). -/

namespace Sys2Proof.Machine

open Sys2Proof

/-! ## Groups (R245) -/

/-- Cores that hold a cell of a RUNNING or FAULTED area. -/
def pinned (s : State) (n : Nat) (p : Part) : List Nat :=
  let cs := (p.records.filter fun r => r.state = .running || r.state = .faulted).flatMap fun r => coresOf (r.cells s)
  (s.live n p).filter cs.contains

/-- Maximal runs of pinned cores among the cores that are not removed. -/
def runsOf (live keep : List Nat) : List (List Nat) :=
  let r := live.foldl (fun (acc : List (List Nat) × List Nat) c =>
    if keep.contains c then (acc.1, acc.2 ++ [c]) else if acc.2.isEmpty then acc else (acc.1 ++ [acc.2], [])) ([], [])
  if r.2.isEmpty then r.1 else r.1 ++ [r.2]

/-- Cells of section 0 in row order: all of a pinned core, of the others those that hold a symbol. -/
def imageCells (s : State) (n : Nat) (p : Part) : List Nat :=
  let keep := pinned s n p
  (s.live n p).flatMap fun c =>
    let all := (List.range 64).map fun i => 64 * c + i
    if keep.contains c then all else all.filter fun i => s.cell i ≠ 0 ∧ s.cell i ≠ blockedWord

def posOf (l : List Nat) (x : Nat) : Nat := l.findIdx (· = x)

/-! ## Records (R46, R239) -/

def recordBytes (r : Record) (start : Nat) : List Byte :=
  let st := if r.state = .admitted then RecState.ready else r.state
  toLe 64 (r.id % 2 ^ 32 + st.code * 2 ^ 32 + r.prio % 8 * 2 ^ 35 + b2n r.ret * 2 ^ 38 + b2n r.blk * 2 ^ 39 + r.passes % 128 * 2 ^ 40
    + r.pend % 65536 * 2 ^ 48 + r.oper % 65536 * 2 ^ 64 + r.node % 2 ^ 18 * 2 ^ 80 + start % 2 ^ 18 * 2 ^ 98 + r.alen % 2 ^ 19 * 2 ^ 128
    + r.gran % 32 * 2 ^ 147 + r.retries % 4 * 2 ^ 152 + r.cause % 512 * 2 ^ 154 + r.ready % 2 ^ 64 * 2 ^ 192 + r.load * 2 ^ 256
    + r.fill * 2 ^ 288 + r.steady * 2 ^ 320 + r.drain * 2 ^ 352 + r.copy.toNat * 2 ^ 384)

def stateOf (c : Nat) : RecState :=
  match c with
  | 0 => .waiting | 1 => .ready | 2 => .admitted | 3 => .running | 4 => .emitting | 5 => .done | 6 => .faulted | _ => .cancelled

/-- A record as it was; what the image does not hold is as for a record that has just begun. -/
def recordOf (b : List Byte) : Record :=
  let v := leNat b
  { copy := BitVec.ofNat 64 (bits v 384 64)
    drain := bits v 352 32
    steady := bits v 320 32
    fill := bits v 288 32
    load := bits v 256 32
    ready := bits v 192 64
    cause := bits v 154 9
    retries := bits v 152 2
    gran := bits v 147 5
    alen := bits v 128 19
    start := bits v 98 18
    node := bits v 80 18
    oper := bits v 64 16
    pend := bits v 48 16
    passes := bits v 40 7
    blk := bit v 39
    ret := bit v 38
    prio := bits v 35 3
    state := stateOf (bits v 32 3)
    id := bits v 0 32
    answers := []
    admittedAt := 0
    startAt := 0
    phase := none
    stopped := none
    rowFull := false
    awaitsTest := none
    cancelHeld := false
    seat := bits v 98 18
    emitAt := 0
    since := 0
    was := stateOf (bits v 32 3)
    freed := false
    unheld := [] }

/-- EMITTING records in the order in which they reached it, steps set aside and row-full ones included; the rest by
identifier. -/
def imageRecords (p : Part) : List Record :=
  let em := (p.inOrder ((p.records.filter fun r => r.state = .emitting).map (·.id))).filterMap p.rec?
  let live := p.records.filter fun r => r.state.isLive
  let other := sortBy (fun (a b : Record) => a.id ≤ b.id) (live.filter fun r => !(em.any fun e => e.id = r.id))
  em ++ other

/-! ## Agents (R242) -/

def Agent.how (g : Agent) : Nat :=
  if g.status = .ended then 1 else if g.trapped.isSome then 3 else if g.xrow.isSome then 2 else 0

/-- The word index of its next instruction: of an earliest disarmed LDP, if one is left (R234). -/
def Agent.savePc (g : Agent) : Nat :=
  match g.outs.find? fun a => a.phase = .armed with
  | some a => a.tr.pc
  | none => g.pc

def agentBytes (s : State) (g : Agent) : List Byte :=
  let chains := (s.core g.core).chains.filter fun c => c.slot = g.slot
  let aux := if g.how = 2 then (g.xrow.map (·.row)).getD 0 else 0
  let fixed := toLe 4 g.rid ++ toLe 2 g.cell ++ toLe 1 g.how ++ toLe 1 g.emits.length ++ toLe 4 g.savePc ++ toLe 4 aux
    ++ (g.s.toList.drop 1).flatMap ofWord ++ toLe 1 (predByte g).toNat.pred ++ zerosB 7 ++ (g.k.toList.drop 1).flatMap of32 ++ toLe 4 chains.length
    ++ of32 g.frm ++ of32 g.fflags ++ of32 g.ftrap ++ of32 g.tms ++ of32 g.mtol ++ zerosB 4
    ++ ofWord g.seed ++ ofWord g.ascl ++ ofWord g.bscl ++ g.lc.toList.flatMap of32 ++ g.li.toList.flatMap of32
    ++ toLe 2 (g.lcell / 64) ++ toLe 1 (g.cell / 65536)
  let vr := (g.v.toList.take (4 * g.gran)).flatMap bytesOfLanes
  let ch := chains.flatMap fun c => toLe 4 c.pc ++ toLe 4 c.row ++ toLe 8 c.row
  let em := g.emits.flatMap fun e => ofWord e.word ++ (match e.payload with
    | some b => padTo 64 (ofWord e.chime ++ b.take (tileBytes e.word))
    | none => [])
  (fixed ++ zerosB (512 - fixed.length)) ++ vr ++ ch ++ em

/-- One agent record, with the bytes behind it: fixed part, registers, chain entries, emissions. -/
structure AgentImage where
  fixed : List Byte
  regs : List Byte
  chains : List Byte
  emits : List Emission
  deriving DecidableEq, Repr

def AgentImage.rid (a : AgentImage) : Nat := leAt a.fixed 0 4
def AgentImage.cell (a : AgentImage) : Nat := leAt a.fixed 4 2 + 65536 * (leAt a.fixed 386 1 % 8)
def AgentImage.how (a : AgentImage) : Nat := leAt a.fixed 6 1

/-- k held emissions at the head of bytes, and what is behind them. -/
def emitsOf : Nat → List Byte → List Emission × List Byte
  | 0, l => ([], l)
  | k + 1, l =>
    let w := leWord (l.take 8)
    -- an emission with a payload is one of EMITT: a TILE word whose payload record follows
    if symKind w = 8 then
      let n := ceilDiv (8 + tileBytes w) 64 * 64
      let r := emitsOf k (l.drop (8 + n))
      (⟨w, some (sliceB l 16 (tileBytes w)), leWord (sliceB l 8 8)⟩ :: r.1, r.2)
    else
      let r := emitsOf k (l.drop 8)
      (⟨w, none, 0⟩ :: r.1, r.2)

/-- n agent records at the head of bytes; the record gives an agent's granules. -/
def agentsIn? (recs : List Record) : Nat → List Byte → Option (List AgentImage)
  | 0, _ => some []
  | n + 1, l =>
    let f := l.take 512
    let gran := ((recs.find? fun r => r.id = leAt f 0 4).map (·.gran)).getD 0
    let nr := 512 * gran
    let nc := 16 * leAt f 300 4
    let e := emitsOf (leAt f 7 1) (l.drop (512 + nr + nc))
    if f.length < 512 ∨ 3 < leAt f 6 1 ∨ 64 < leAt f 7 1 ∨ leAt f 386 1 / 8 ≠ 0 ∨ !isZeroB (f.drop 387) ∨ 63 < leAt f 300 4 then none
    else (agentsIn? recs n e.2).map (⟨f, sliceB l 512 nr, sliceB l (512 + nr) nc, e.1⟩ :: ·)

/-- The agent of a record image in a cell. -/
def AgentImage.agent (a : AgentImage) (n cell : Nat) (r : Record) (node depth lcore id : Nat) (now : Nat) : Agent :=
  let f := a.fixed
  let w32 := fun (o : Nat) => BitVec.ofNat 32 (leAt f o 4)
  let w64 := fun (o : Nat) => BitVec.ofNat 64 (leAt f o 8)
  { Agent.fresh with
    core := cell / 64
    slot := cell % 64
    part := n
    rid := r.id
    oper := r.oper
    status := if a.how = 1 then .ended else .running
    pc := leAt f 8 4
    s := Vector.ofFn fun i : Fin 32 => if i.val = 0 then 0 else w64 (8 + 8 * i.val)
    p := Vector.ofFn fun i : Fin 8 => bit (leAt f 264 1) i.val
    k := Vector.ofFn fun i : Fin 8 => if i.val = 0 then 0 else w32 (268 + 4 * i.val)
    v := Vector.ofFn fun i : Fin 64 => if i.val < 4 * r.gran then lanesOfBytes (sliceB a.regs (128 * i.val) 128) else Vector.replicate 32 0
    cell := a.cell
    alen := r.alen
    lcell := 64 * lcore + cell % 64
    node := node
    depth := depth
    frm := w32 304
    fflags := w32 308
    ftrap := w32 312
    tms := w32 316
    mtol := w32 320
    seed := w64 328
    ascl := w64 336
    bscl := w64 344
    lc := Vector.ofFn fun i : Fin 4 => w32 (352 + 4 * i.val)
    li := Vector.ofFn fun i : Fin 4 => w32 (368 + 4 * i.val)
    gran := r.gran
    emits := a.emits
    nextId := id
    lastIssue := now
    wakeAt := now }

/-! ## Core sections (R243) -/

def packBits (w : Nat) (l : List W32) : List Byte :=
  toLe (elemBytes w l.length) (l.zipIdx.foldl (fun a x => a + x.1.toNat % 2 ^ w * 2 ^ (w * x.2)) 0)

def fill (n : Nat) (l : List Byte) : List Byte := (l ++ zerosB (n - l.length)).take n

def planeHead (p : Plane) : Nat := p.fmt % 32 + b2n p.loaded * 2 ^ 7 + p.kk % 65536 * 2 ^ 16 + p.nn % 256 * 2 ^ 32

def planeData (p : Plane) : List Byte := fill 65536 (if p.loaded then packBits (fmtWidth p.fmt) p.elems else [])

def planeScalesB (p : Plane) : List Byte :=
  if fmtBlock p.fmt = 0 ∨ !p.loaded then zerosB 8192
  else (List.range 8192).map fun i => (Tbl.find p.scales i).getD 0#8

def planeFrom (head : Nat) (data scales : List Byte) : Plane :=
  let f := bits head 0 5
  let kk := bits head 16 16
  let nn := bits head 32 8
  ⟨bit head 7, f, kk, nn, (List.range (kk * nn)).map fun i => BitVec.ofNat 32 (elemAt data (fmtWidth f) i),
    if fmtBlock f = 0 then [] else scales.zipIdx.map fun x => (x.2, x.1)⟩

def entryBytes (e : QEntry) : List Byte :=
  match e with
  | .mma o => fill 64 (toLe 1 1 ++ toLe 1 o.c.val ++ toLe 1 o.fa ++ toLe 1 o.fb ++ toLe 1 (b2n o.chk + 2 * b2n (o.start.isSome || 0 < o.rows))
      ++ toLe 1 o.rows ++ toLe 1 o.slot ++ zerosB 1 ++ ofWord (localAddr o.sA) ++ toLe 4 o.kb ++ toLe 4 o.m ++ toLe 4 o.n ++ toLe 4 o.k)
  | .mswp slot _ => fill 64 (toLe 1 2 ++ zerosB 5 ++ toLe 1 slot)
  | .mzero slot _ c => fill 64 (toLe 1 3 ++ toLe 1 c.val ++ zerosB 4 ++ toLe 1 slot)

/-- A queue entry as read; the number `id` is its agent's. Its scales and tolerance are its agent's, by `ownScales`. -/
def entryOfBytes (b : List Byte) (id : Nat) : QEntry :=
  let slot := leAt b 6 1
  let c : Acc := Fin.ofNat 8 (leAt b 1 1)
  match leAt b 0 1 with
  | 2 => .mswp slot id
  | 3 => .mzero slot id c
  | _ => .mma ⟨bit (leAt b 4 1) 0, c, leAt b 2 1, leAt b 3 1, leAt b 8 8 % 2 ^ 20, leAt b 16 4, leAt b 20 4, leAt b 24 4, leAt b 28 4, slot, id,
      bareTrap 0, 0, 0, none, [], leAt b 5 1, leAt b 5 1, 0, none, none⟩

def coreSection (s : State) (p : Part) (core : Nat) : List Byte :=
  let c := s.core core
  let mask := sumNat (c.tables.toList.zipIdx.map fun x => b2n x.1.isSome * 2 ^ x.2)
  let head := toLe 2 (p.logical core) ++ toLe 1 mask ++ toLe 1 (min 4 c.queue.length) ++ zerosB 4 ++ toLe 8 (planeHead c.active)
    ++ toLe 8 (planeHead c.shadow) ++ c.tiles.toList.flatMap (fun t => toLe 4 t.word) ++ ofWord c.timeline
  head ++ c.tiles.toList.flatMap Tile.bytes ++ planeData c.active ++ planeData c.shadow
    ++ planeScalesB c.active ++ planeScalesB c.shadow
    ++ c.tables.toList.flatMap (fun t => fill 2080 ((t.map (·.bytes)).getD []))
    ++ fill 256 (c.queue.flatMap entryBytes) ++ rd s (spadKey core Config.slotsEnd) 786432

def coreBytes : Nat := 983616

def tileOfWord (w : Nat) (l : List Byte) : Tile :=
  ⟨if bit w 31 then some (bits w 24 7) else none, bit w 23, false, bit w 21, bit w 20, bits w 8 6,
    Vector.ofFn fun i : Fin 1024 => BitVec.ofNat 32 (leAt l (4 * i.val) 4)⟩

/-- Put a core's section into a physical core. -/
def putCore (s : State) (core : Nat) (b : List Byte) (queue : List QEntry) : State :=
  let tables := Vector.ofFn fun i : Fin 8 =>
    if bit (leAt b 2 1) i.val then some (⟨sliceB b (180288 + 2080 * i.val) 2080⟩ : TablePair) else none
  let s1 := s.modCore core fun c =>
    { c with
      tiles := Vector.ofFn fun i : Fin 8 => tileOfWord (leAt b (24 + 4 * i.val) 4) (sliceB b (64 + 4096 * i.val) 4096)
      active := planeFrom (leAt b 8 8) (sliceB b 32832 65536) (sliceB b 163904 8192)
      shadow := planeFrom (leAt b 16 8) (sliceB b 98368 65536) (sliceB b 172096 8192)
      tables := tables
      queue := queue
      timeline := BitVec.ofNat 64 (leAt b 56 8)
      engineFrozen := true
      copies := []
      mrels := []
      chains := [] }
  wr s1 (spadKey core Config.slotsEnd) (sliceB b 197184 786432)

/-! ## Streams (R244) -/

/-- Stopped contexts of an identifier, in engine and context order. -/
def stoppedCtxs (s : State) (asid : Nat) : List (Nat × Ctx) := s.ctxs.filter fun e => e.2.status = .stopped && e.2.asid = asid

def ctxBytes (e : Nat × Ctx) : List Byte :=
  let x := e.2
  let pat := fun (q : Pattern) => fill 64 q.raw
  let pos := fun (q : Pattern) => toLe 4 q.pos
  fill 256 (toLe 2 (e.1 / 64) ++ toLe 1 (e.1 % 64) ++ toLe 1 x.schk.toNat ++ toLe 4 x.pc ++ toLe 4 (if x.begun then x.left else 0) ++ zerosB 4
    ++ ofWord x.tl ++ ofWord x.value ++ ofWord x.timeline ++ x.loops.toList.flatMap of32 ++ ofWord (x.tensor.getD 0)
    ++ pat x.pats[0] ++ pat x.pats[1] ++ pos x.pats[0] ++ pos x.pats[1])

/-- A context of a stream record; its program is the model's (R244 holds none). -/
def ctxOfBytes (b : List Byte) (asid : Nat) (words : List Word) : Ctx :=
  let pat := fun (o q : Nat) =>
    let raw := sliceB b o 64
    match patternOf raw with
      | .ok p => { p with pos := leAt b q 4 }
      | .error _ => Pattern.zero
  let t := leAt b 56 8
  { Ctx.reset with
    status := .stopped
    asid := asid
    words := words
    pc := leAt b 4 4
    left := leAt b 8 4
    begun := leAt b 8 4 ≠ 0
    tl := BitVec.ofNat 64 (leAt b 16 8)
    value := BitVec.ofNat 64 (leAt b 24 8)
    timeline := BitVec.ofNat 64 (leAt b 32 8)
    loops := Vector.ofFn fun i : Fin 4 => BitVec.ofNat 32 (leAt b (40 + 4 * i.val) 4)
    pats := (Vector.replicate 2 Pattern.zero |>.set 0 (pat 64 192)).set 1 (pat 128 196)
    schk := BitVec.ofNat 3 (leAt b 3 1)
    tensor := if t = 0 then none else some (BitVec.ofNat 64 t) }

/-! ## Traps (R224) -/

def trapOfBytes (b : List Byte) (agent : Option Nat) (now : Nat) : RaisedTrap :=
  let e := leAt b 92 4
  let t : Trap := ⟨leAt b 0 2 % 512, leAt b 16 4, leWord (sliceB b 24 8), leWord (sliceB b 32 8), leWord (sliceB b 40 8),
    leWord (sliceB b 48 8), leAt b 56 4, leWord (sliceB b 80 8), BitVec.ofNat 32 (leAt b 88 4), if e = 0xFFFFFFFF then none else some e, false⟩
  ⟨now, bits (leAt b 2 2) 1 2, leAt b 4 4, agent, t, (List.range 4).map fun i => BitVec.ofNat 32 (leAt b (64 + 4 * i) 4), bit (leAt b 2 2) 4,
    bit (leAt b 2 2) 3, leWord (sliceB b 96 8)⟩

/-! ## The whole image (R240, R241) -/

/-- Unhandled traps in queue order, those not queued yet behind in the order in which they would be (R223). -/
def unhandledTraps (s : State) (n : Nat) (p : Part) : List RaisedTrap :=
  p.traps.map (·.raised) ++ sortBy (trapOrder s n) p.raised

/-- The sections, each with its entry count. -/
def imageSections (s : State) (n : Nat) (p : Part) : List (List Byte × Nat) :=
  let cells := imageCells s n p
  let ws := cells.map s.cell
  let tiles := (cells.zip ws).filter fun x => symKind x.2 = 8
  let groups := runsOf (s.live n p) (pinned s n p)
  let recs := imageRecords p
  let ags := (recs.filter fun r => r.state = .running || r.state = .emitting || r.state = .faulted).flatMap fun r => s.agentsOf n r.id
  let cores := groups.flatten
  let ctxs := stoppedCtxs s p.asid
  let traps := unhandledTraps s n p
  [ (ws.flatMap ofWord, ws.length),
    (tiles.flatMap fun x => padTo 64 (ofWord (s.chime x.1) ++ rd s (slotKey x.1) (tileBytes x.2)), tiles.length),
    (groups.flatMap fun g => toLe 4 (posOf cells (64 * g.headD 0)) ++ toLe 2 (p.logical (g.headD 0)) ++ toLe 2 g.length ++ zerosB 8, groups.length),
    (recs.flatMap fun r => recordBytes r (posOf cells r.start), recs.length),
    (ags.flatMap (agentBytes s), ags.length),
    (cores.flatMap (coreSection s p), cores.length),
    (ctxs.flatMap ctxBytes, ctxs.length),
    (traps.flatMap (trapRecord s n), traps.length) ]

/-- The image with its valid word 0. -/
def imageBytes (s : State) (n : Nat) (p : Part) : List Byte :=
  let secs := (imageSections s n p).map fun x => (padTo 64 x.1, x.2)
  let offs := secs.foldl (fun (acc : List Byte × Nat) x => (acc.1 ++ toLe 4 acc.2 ++ toLe 4 x.2, acc.2 + x.1.length)) ([], 256)
  let tq := ((p.traps.head?).map (·.n)).getD p.trapCount
  let head := ofWord Config.encodingHash ++ toLe 4 0 ++ toLe 2 0x140 ++ zerosB 2 ++ toLe 2 p.asid ++ toLe 2 (p.tag n) ++ toLe 1 p.flags ++ zerosB 3
    ++ toLe 8 p.peal ++ toLe 4 p.nextRec ++ toLe 4 (tq % 65536 + 65536 * (unhandledTraps s n p).length)
    ++ ofWord p.lib ++ ofWord p.nodes ++ ofWord p.desc ++ ofWord p.prom ++ ofWord p.tl ++ ofWord p.value ++ toLe 4 p.ndesc ++ toLe 4 p.nprom
    ++ zerosB 32 ++ offs.1 ++ zerosB 64
  head ++ secs.flatMap (·.1)

/-- An image as read back. -/
structure ImageIn where
  head : List Byte
  words : List Word
  pays : List (Option (Word × List Byte))
  /-- first word's index, first logical core, number of cores -/
  groups : List (Nat × Nat × Nat)
  recs : List Record
  agents : List AgentImage
  cores : List (List Byte)
  streams : List (List Byte)
  traps : List (List Byte)
  size : Nat
  deriving DecidableEq, Repr

/-- Offset and count of a section. -/
def sectOf (h : List Byte) (i : Nat) : Nat × Nat := (leAt h (128 + 8 * i) 4, leAt h (132 + 8 * i) 4)

/-- Read the 256-byte header and the sections of an image under an identifier; none where something cannot be read or a
field is invalid (status 0x10). -/
def readContext (s : State) (asid image : Nat) (h : List Byte) : Option ImageIn := do
  let sec := fun (i bytes : Nat) => readVa s asid (image + (sectOf h i).1) bytes
  let ok := leAt h 8 4 = 1 ∧ leAt h 14 2 = 0 ∧ isZeroB (sliceB h 21 3) ∧ isZeroB (sliceB h 96 32) ∧ isZeroB (sliceB h 192 64) ∧
    (List.range 8).all fun i => decide ((sectOf h i).1 % 64 = 0)
  if !(decide ok) then none
  else do
    let w ← sec 0 (8 * (sectOf h 0).2)
    let ws := wordsOfBytes (sectOf h 0).2 w
    if (ws.filter fun x => symKind x = 8).length ≠ (sectOf h 1).2 ∨ !(ws.all fun x => symKind x ≠ 8 || tileSizeOk x) then none
    else do
      let pays ← sec 1 (payloadArea ws)
      let g ← sec 2 (16 * (sectOf h 2).2)
      let rb ← sec 3 (64 * (sectOf h 3).2)
      let recs := (pieces 64 (sectOf h 3).2 rb).map recordOf
      -- agent records differ in length: they reach to the next section
      let ab ← sec 4 ((sectOf h 5).1 - (sectOf h 4).1)
      let ags ← agentsIn? recs (sectOf h 4).2 ab
      let cb ← sec 5 (coreBytes * (sectOf h 5).2)
      let sb ← sec 6 (256 * (sectOf h 6).2)
      let tb ← sec 7 (128 * (sectOf h 7).2)
      let groups := (pieces 16 (sectOf h 2).2 g).map fun b => (leAt b 0 4, leAt b 4 2, leAt b 6 2)
      let streams := pieces 256 (sectOf h 6).2 sb
      let bad := sumNat (groups.map fun x => x.2.2) ≠ (sectOf h 5).2 ∨ (pieces 16 (sectOf h 2).2 g).any (fun b => !isZeroB (b.drop 8)) ∨
        streams.any (fun b => !isZeroB (b.drop 200)) ∨ recs.any (fun r => decide (ws.length ≤ r.start))
      if bad then none
      else some ⟨h, ws, splitPayloads ws pays, groups, recs, ags, pieces coreBytes (sectOf h 5).2 cb, streams, pieces 128 (sectOf h 7).2 tb,
        (sectOf h 7).1 + 128 * (sectOf h 7).2⟩

/-! ## Placement (R246) -/

/-- Cells of a target for the words of an image, group by group; none where they do not fit. `i` is the index of the next
word. -/
def placeContext (groups : List (Nat × Nat × Nat)) : Nat → List Word → Nat → List Nat → Option (List Nat)
  | _, [], _, _ => some []
  | i, w :: t, 0, free =>
    match groups.find? fun g => g.1 = i with
    | some g =>
      let f := free.dropWhile fun c => c % 64 ≠ 0
      if f.length < 64 * g.2.2 then none
      else match f with
        | c :: rest => (placeContext groups (i + 1) t (64 * g.2.2 - 1) rest).map (c :: ·)
        | [] => none
    | none =>
      let after := free.dropWhile fun c => c % 64 ≠ 0
      let f := if symKind w = 1 ∧ symAlign w ∧ t.length + 1 ≤ after.length then after else free
      match f with
      | c :: rest => (placeContext groups (i + 1) t 0 rest).map (c :: ·)
      | [] => none
  | i, _ :: t, k + 1, free =>
    match free with
    | c :: rest => (placeContext groups (i + 1) t k rest).map (c :: ·)
    | [] => none

/-- The core map of a restore: pinned cores keep their logical numbers, every other takes the lowest unused one. -/
def restoreMap (target : List Nat) (kept : List (Nat × Nat)) : Tbl Nat :=
  let used := kept.map (·.1)
  let others := target.filter fun c => !(kept.any fun k => k.2 = c)
  let free := (List.range 4096).filter fun l => !(used.contains l)
  sortBy (fun (a b : Nat × Nat) => a.1 ≤ b.1) (kept ++ free.zip others)

end Sys2Proof.Machine
end

