-- ==== Sys2Proof/Machine/Preempt.lean ====
section
/-! DEFINITION. Pre-emption (13 R232 to R239), the valid word (R240), restoring (R245 to R247), the removal of cores
(11 R209). -/

namespace Sys2Proof.Machine

open Sys2Proof

/-! ## Removed cores (R209) -/

/-- Cores that an entry of the fault map takes with it. -/
def coresTaken (h : W32) : List Nat :=
  let k := hopKind h
  let low := hopLow h
  let level := low / 2048
  let idx := low % 2048
  if k = 0 ∨ k = 9 ∨ k = 10 ∨ k = 11 ∨ k = 13 ∨ k = 14 then [hopCore h]
  else if k ≠ 2 then []
  else if level ≤ 6 then [hopCore h]
  else
    let n := 2 ^ level / 64
    let first := (if level ≤ 16 then 1024 * hopDie h else 0) + n * idx
    (List.range n).map (first + ·)

/-- Cores of the fault map that no live partition spans are removed; the others wait for their partition (R209). -/
def applyRemovals (s : State) : State :=
  ((s.dev.faultMap ++ s.dev.injectedMap).flatMap coresTaken).foldl (fun t c =>
    if c < Config.cores ∧ !(t.core c).removed ∧ !(t.parts.any fun e => e.1 ≤ c && c < e.1 + 2 ^ e.2.j) then
      (t.modCore c fun x => { x with removed := true }).modDev fun d => { d with removedCount := d.removedCount + 1 }
    else t) s

/-! ## The request and the marker (R232, R233) -/

/-- A request for a live partition that is not being saved already. -/
def requestPreempt (s : State) (n : Nat) (wide again : Bool) : State :=
  match s.part n with
  | none => s
  | some p =>
    if p.pre ≠ .none then s
    -- one cut serves a partition-wide stop too (R310)
    else schedOnce ((s.setPart n { p with pre := .asked (wide || p.wideStop), wideStop := false, again := again }).modPcb n fun b => { b with state := 2 }) 0
      (.preemptMarkerArrival n)

/-- Does the root still finish a step or a handler run? -/
def rootBusy (s : State) (n : Nat) (p : Part) : Bool :=
  p.stepNow.isSome || p.run.isSome || !p.urgent.isEmpty || pendingEvent s (.storageStepComplete n)

/-- Deferred reads of the partition's agents and records are disarmed (R234, R239). -/
def disarmAll (s : State) (n : Nat) : State :=
  { s with
    deferred := s.deferred.filter fun d => match d.who with
      | .agent c k _ => ((s.agent (agentKey c k)).map (·.part)) ≠ some n
      | .record q _ _ => q ≠ n
      | .peer _ _ => true
    agenda := s.agenda.filter fun a => match a.2 with
      | .presenceAnswer q _ _ _ => q ≠ n
      | .deferralRetry (.record q _ _) => q ≠ n
      | .admission q => q ≠ n
      | .sweepComplete q => q ≠ n
      | .handlerRunStart q => q ≠ n
      | _ => true }

def AccOp.isLdp : AccOp → Bool
  | .ldp _ => true
  | _ => false

/-- Does the record stand at the exit fault of a TMEAN, whose contributions stand with it (R158)? -/
def exitHeld (s : State) (n rid : Nat) : Bool := (s.agentsOf n rid).any fun g => g.trapped.isSome && atExit g

/-- Every armed LDP is given up, and the agent stands at the first of them (R234). -/
def Agent.giveUp (g : Agent) : Agent :=
  let armed := g.outs.filter fun a => a.phase = .armed && a.op.isLdp
  match armed with
  | [] => g
  | a :: _ =>
    let h := armed.foldl (fun (x : Agent) y => x.finish y.id) g
    if (g.gaveUp.map fun n => decide (n < a.id)).getD false then h else { h with pc := a.tr.pc, redo := [], gaveUp := some a.id }

/-- What an agent has in hand at the cut: a contribution that does not join any more is discarded, unless it stands behind an exit fault
(R234, R158). -/
def standDown (s : State) (g : Agent) : Agent :=
  let h := g.giveUp
  let joined := s.agenda.any fun e => match e.2 with
    | .treeJoinComplete q r _ => q = g.part && r = g.rid
    | _ => false
  if h.status = .joining ∧ !joined ∧ !exitHeld s g.part g.rid then h.unjoin false else h

/-- An agent at the marker. -/
def freezeAgent (s : State) (g : Agent) : Agent := standDown s { g with passStop := none, stepLeft := none, stepSlots := none, halted := none, gaveUp := none }

/-- The marker reaches the cores of the partition and its stream contexts. -/
def freezeAll (s : State) (n : Nat) (p : Part) (wide : Bool) : State :=
  let s1 := (s.live n p).foldl (fun t c => (freezeEngine t c).modCore c fun x =>
    { x with chains := x.chains.map fun ch => { ch with frozen := true } }) (disarmAll s n)
  let s2 : State := { s1 with
    agents := s1.agents.map fun e => if e.2.part = n then (e.1, freezeAgent s e.2) else e
    ctxs := s1.ctxs.map fun e =>
      if e.2.asid = p.asid ∧ e.2.status ≠ .free then
        (e.1, if e.2.midway then { e.2 with stopping := true } else { e.2 with status := .stopped }) else e }
  -- unanswered stops lapse; counters stand still from the cut to the restore (R310, R311)
  let rec1 := fun (r : Record) =>
    let still := r.stopped = some 0 ∨ p.stops.any fun x => x.rid = r.id
    { (if still then r else r.countTo s.cycle) with stopped := none }
  -- an admission is undone (R239)
  let s3 := (p.records.filter fun r => r.state = .admitted).foldl (fun t r =>
    (setRecState t n r.id .ready).modRec n r.id fun q => { q with startAt := 0, phase := none }) s2
  schedOnce (s3.modPart n fun q => { q with
    pre := .cut (wide || q.wideStop)
    wideStop := false
    coming := none
    sweep := none
    sweepQueued := false
    stops := []
    records := q.records.map rec1 }) 1 (.cutComplete n)

/-- PREEMPT_MARKER_ARRIVAL: while the root finishes, it comes again; then the marker is on its way for half a sweep. -/
def execPreemptMarkerArrival (part : Nat) (s : State) : Out :=
  .next (match s.part part with
    | none => s
    | some p => match p.pre with
      | .asked wide =>
        if rootBusy s part p then schedOnce s 1 (.preemptMarkerArrival part)
        else
          let h := sweepTime p.j / 2
          let s : State := { s with agenda := s.agenda.filter fun a => a.2 ≠ Instr.preemptMarkerArrival part }
          schedOnce (s.setPart part { p with pre := .marker (s.cycle + 1 + h) wide, sweep := none, sweepQueued := false }) (1 + h)
            (.preemptMarkerArrival part)
      | .marker reach wide => if s.cycle < reach then s else freezeAll s part p wide
      | _ => s)

/-! ## The cut and the image -/

/-- Accesses that cannot be performed before the restore: those in a late fault that the handler has not answered, and those
that wait for one of them or for an MMA that the cut has frozen (R141, R186; DESIGN CHOICE, log 37: they go on after the
restore). -/
def stuckOuts (s : State) (g : Agent) : List Nat :=
  g.outs.foldl (fun acc a =>
    let behind := fun (f : Access → Bool) => (earlier a.id g.outs).any fun e => acc.contains e.id && f e
    let stuck := a.phase = .faulted || (a.phase = .moving &&
      (if a.op.byLane || a.byGranule then a.open_.all fun i => !a.lanes.sent.contains i && (match placeAt s g a i with
          | some q => mmaAt s g a q || behind fun e => blocksAt s g e a i q
          | none => false)
        else mmaHolds s g a || behind fun e => blocks s g e a))
    if stuck then acc ++ [a.id] else acc) []

/-- The same of a tile copy or plane load that has not begun. -/
def Copy.stuck (s : State) (core : Nat) (x : Copy) : Bool :=
  let c := s.core core
  match x with
  | .mst slot id u _ none _ => mmaBefore c slot id u || mldcBefore c slot id u
  | .mldc slot id u addr false _ =>
    mmaBefore c slot id u || mldcBefore c slot id u || held186 s core slot id fun g => spansOf s g addr 4096 false
  | .mldb slot id _ _ hdr none _ _ _ _ _ => match s.agent (agentKey core slot) with
    | some g => mldbHeld s g id (spansOf s g hdr 16 false)
    | none => false
  | _ => false

/-- Has everything of an agent that was issued before the marker landed (R234)? -/
def agentLanded (s : State) (g : Agent) : Bool :=
  let stuck := stuckOuts s g
  let copies := ((s.core g.core).copies.filter fun x => x.slot = g.slot && x.stuck s g.core).map Copy.id
  (g.outs.all fun a => stuck.contains a.id) && (g.ops.all fun o => o.done || o.cls = .tiles || stuck.contains o.id || copies.contains o.id)
    && (g.posted.all fun p => p.dead) && (g.status ≠ .joining || exitHeld s g.part g.rid) && (g.status ≠ .held || g.xrow.isSome)

/-- Has everything that was issued before the marker landed (R234, R237)? -/
def landed (s : State) (n : Nat) (p : Part) : Bool :=
  (s.agents.all fun e => e.2.part ≠ n || agentLanded s e.2)
  && ((s.live n p).all fun c => ((s.core c).copies.all fun x => x.stuck s c) && !engineRuns (s.core c) && (s.core c).chains.all fun ch => ch.at_ = 0)
  && (s.ctxs.all fun e => !(e.2.stopping && e.2.asid = p.asid))
  && (stoppedCtxs s p.asid).all fun e => e.2.fills.isEmpty && e.2.relSlot.isNone && !unacked s (ctxPoster (e.1 / 64) (e.1 % 64))
    && !pendingEvent s (.streamCommandComplete (e.1 / 64) (e.1 % 64))

/-- What the image has no field for. -/
def keepBeside (s : State) (n : Nat) (p : Part) : State :=
  let cs : List SavedCore := (runsOf (s.live n p) (pinned s n p)).flatten.map fun c =>
    let x := s.core c
    ⟨p.asid, p.logical c, x.chains, x.queue, x.mrels, x.copies⟩
  let ss : List SavedStream := (stoppedCtxs s p.asid).map fun e => ⟨p.asid, e.1 / 64, e.1 % 64, e.2.words⟩
  let ags : List SavedAgent := ((s.agents.map (·.2)).filter fun g => g.part = n && !g.service).map fun g => ⟨p.asid, g.rid, g.cell, g⟩
  { s with
    saved := (s.saved.filter fun x => x.asid ≠ p.asid) ++ ss
    savedCores := (s.savedCores.filter fun x => x.asid ≠ p.asid) ++ cs
    savedAgents := (s.savedAgents.filter fun x => x.asid ≠ p.asid) ++ ags }

/-- The cut looks again at what was on its way: an LDP that has found its word EMPTY since is given up as well (R234), and so are
contributions to a join that has ended in a fault since (R158). -/
def atCut (s : State) (part : Nat) : State :=
  let s0 := disarmAll s part
  { s0 with agents := s0.agents.map fun e => if e.2.part = part then (e.1, standDown s e.2) else e }

/-- The image of a cut, and what the checks of its row payloads leave behind (R205); a blamed payload is condemned in it (R206). -/
def cutImage (s : State) (part : Nat) (p : Part) : State × List Byte :=
  let cells := imageCells s part p
  let c := payloadsLeave s part p 0 ((s.pcb part).save.toNat + 256 + ceilDiv (8 * cells.length) 64 * 64) cells
  (c.1, imageBytes c.2 part p)

/-- CUT_COMPLETE: the cycle behind the cut: the image is written, 64 bytes a cycle; its valid word follows. -/
def execCutComplete (part : Nat) (s : State) : Out :=
  .next (match s.part part with
    | none => s
    | some p => match p.pre with
      | .cut _ =>
        let s := atCut s part
        if !landed s part p then schedOnce s 1 (.cutComplete part)
        else
          let c := cutImage s part p
          let s1 := keepBeside c.1 part p
          let s2 := (writeVa s1 p.asid (s.pcb part).save.toNat c.2).getD s1
          sched s2 (ceilDiv c.2.length 64) (.imageValid part)
      | _ => s)

/-- The partition leaves the device: agents, tiles, engines, contexts; its cells are free for a later launch. -/
def leave (s : State) (n : Nat) (p : Part) : State :=
  let s1 := (s.agents.filter fun e => e.2.part = n).foldl (fun t e => releaseTiles t e.2) s
  { s1 with
    agents := s1.agents.filter fun e => e.2.part ≠ n
    parts := Tbl.drop s1.parts n
    ctxs := s1.ctxs.filter fun e => !(decide (e.2.status = .stopped) && decide (e.2.asid = p.asid))
    agenda := s1.agenda.filter fun a => match a.2 with
      | .trapEnqueue q | .storageStep q | .stepRetryAfterFixed q | .loadComplete q _ => q ≠ n
      | _ => true
    cores := s1.cores.map fun e => if n ≤ e.1 ∧ e.1 < n + p.size then (e.1, { e.2 with
      micros := e.2.micros.filter fun m => m.part ≠ n
      queue := [], copies := [], mrels := [], chains := [], engineFrozen := false, passed := [] }) else e }

/-- IMAGE_VALID: the valid word is written, the block reads 3; a partition-wide stop leaves its record (R309). A partition
that a lasting fault moved is restored from its own save address. -/
def execImageValid (part : Nat) (s : State) : Out :=
  .next (match s.part part with
    | none => s
    | some p => match p.pre with
      | .cut wide =>
        let save := (s.pcb part).save
        let s1 := (writeVa s p.asid (save.toNat + 8) (toLe 4 1)).getD s
        let s2 := if wide then
            appendRecord s1 s1.dev.trace (traceRecord s1 6 0 (p.tag part) 0 0 0xFFFFFFFF [] (s1.root part p) (ofWord save ++ toLe 8 p.peal))
          else s1
        let s3 : State := { leave s2 part p with savedParts := Tbl.put s2.savedParts part { p with pre := .saved } }
        let s4 := applyRemovals (s3.modPcb part fun b => { b with state := 3 })
        if p.again then
          sched (s4.modPcb part fun b => { b with image := save, arg := BitVec.ofNat 32 (p.j + 65536 * p.asid) }) 1 (.pcbRestore part)
        else s4
      | _ => s)

/-- Command 3 (R294). -/
def execPcbPreempt (block : Nat) (s : State) : Out :=
  .next (
    let s1 := s.modPcb block fun b => { b with cmd := 0 }
    if (s1.pcb block).state = 1 then requestPreempt s1 block false false else s1)

/-! ## Restoring (R246, R247) -/

/-- Status of a restore into block n, and what it read. -/
def restoreStatus (s : State) (n : Nat) : Nat × Option (ImageIn × List Nat × List Oper × Option Nat) :=
  let b := s.pcb n
  let j := b.arg.toNat % 16
  let via := b.arg.toNat / 65536
  let head := if 2 ^ 55 ≤ b.image.toNat then none else readVa s via b.image.toNat 256
  if !defaultsOk b then (0x05, none)
  else if !partOk s n j then (0x06, none)
  else match head with
    | none => (0x10, none)
    | some h =>
      if !registered s (leAt h 16 2) then (0x07, none)
      else if leWord (h.take 8) ≠ Config.encodingHash then (0x08, none)
      else match readContext s via b.image.toNat h, readLibrary s (leAt h 16 2) (leAt h 40 8) with
        | some m, .ok (ops, handler) =>
          let free := (freeCells s n j)
          match placeContext m.groups 0 m.words 0 free with
          | none => (0x18, none)
          | some cells => if overlapsLive s n j then (0x1B, none) else (0, some (m, cells, ops, handler))
        | _, _ => (0x10, none)

/-- Physical cores of the groups' sections, with their logical numbers. -/
def keptCores (m : ImageIn) (cells : List Nat) : List (Nat × Nat) :=
  let phys := m.groups.flatMap fun g => (List.range g.2.2).map fun i => (cells.getD (g.1 + 64 * i) 0) / 64
  (m.cores.map fun b => leAt b 0 2).zip phys

/-- A record put back: its start physical; a wait starts again, an admission was undone (R239). A FAULTED one with agents holds
its granules. -/
def ImageIn.record (m : ImageIn) (cells : List Nat) (r : Record) (now : Nat) : Record :=
  { r with start := cells.getD r.start 0, seat := cells.getD r.start 0, admittedAt := now,
           startAt := if r.state = .faulted && m.agents.any (fun a => a.rid = r.id) then max 1 now else 0, rowFull := m.traps.any fun b => leAt b 4 4 = r.id && leAt b 0 2 = 0xC0,
           phase :=
             if r.state = .emitting || m.agents.any (fun a => a.rid = r.id && a.how = 1) then some .drain
             else if !(m.agents.any fun a => a.rid = r.id) then none
             else if r.steady ≠ 0 || r.drain ≠ 0 then some .steady
             else some .fill }

/-- The chain of an entry: as the model kept it, else as its instruction gives it. -/
def chainOf (s : State) (beside : Option SavedCore) (g : Agent) (b : List Byte) (id : Nat) : Option Chain :=
  match beside.bind fun x => x.chains.find? fun c => c.slot = g.slot && c.pc = leAt b 0 4 && c.row = leAt b 4 4 with
  | some c => some { c with frozen := true, at_ := 0 }
  | none => match decode (s.wordAt g (leAt b 0 4)) 0 with
    | .instr (.vchain a n) =>
      let l := rd s (spadKey g.core ((g.sr a).toNat % 2 ^ 20)) 32
      let row := leAt b 4 4
      match chainBody s g (leAt b 0 4 + 1) (n.val + 1) with
      | none => none
      | some body =>
        let inA := leWord (sliceB l 0 8)
        let outA := leWord (sliceB l 8 8)
        let inRing := bit (leAt l 20 1) 0
        let outRing := bit (leAt l 20 1) 1
        let per := fun (ring : Bool) (a : Word) => if ring then max 1 ((ringAt s g.core (headerOff a)).size / 128) else 2 ^ 32
        let r := ringAt s g.core (headerOff outA)
        let outOff := row % per outRing outA
        some ⟨g.slot, id, leAt b 0 4, inA, outA, leAt l 16 4, inRing, outRing, leAt l 21 1, leAt l 22 1, body, row, 0, row % per inRing inA,
          outOff, if outRing ∧ outOff ≠ 0 then some (BitVec.ofNat 64 (r.slotOff ((r.wpos + r.count - 1) % max 1 r.count))) else none, true,
          g.frm, 0, g.seed, 0⟩
    | _ => none

/-- An MMA that only the image holds takes its agent's `%ascl` and `%mtol`. -/
def ownScales (e : QEntry) (g : Agent) : QEntry :=
  match e with
  | .mma o => if o.slot = g.slot ∧ o.tr = bareTrap 0 then .mma { o with ascl := g.ascl, mtol := g.mtol } else e
  | e => e

/-- The agent as the model kept it, if the image holds it at the same instruction. -/
def keptAgent (s : State) (asid : Nat) (a : AgentImage) : Option Agent :=
  (s.savedAgents.find? fun k => k.asid = asid && k.rid = a.rid && k.cell = a.cell && k.agent.savePc = leAt a.fixed 8 4 && k.agent.how = a.how).map
    (·.agent)

/-- What an agent record has no field for. Accesses that the cut has found waiting are resolved again. -/
def Agent.besides (g k : Agent) : Agent :=
  { g with
    status := if k.status = .joining then .joining else g.status
    contrib := if k.status = .joining then k.contrib else none
    join := k.join
    late := k.late
    outs := k.outs.map fun x => { x with locs := [], phase := if x.phase = .faulted || x.op.isFence then x.phase else .parked }
    ops := k.ops.filter fun o => !o.done && o.cls ≠ .tiles
    nextId := k.nextId
    posted := k.posted
    xrow := if k.trapped.isSome then k.xrow else g.xrow
    trapped := k.trapped
    redo := k.redo
    again := k.again
    met := k.met }

/-- An agent put back with its chains, its counted operations and, inside XMEAN, the rows it has still to take. -/
def putAgent (s : State) (n : Nat) (m : ImageIn) (asid : Nat) (a : AgentImage) : State :=
  match s.part n, s.rec? n a.rid with
  | some p, some r =>
    let cell := (r.cells s).getD a.cell r.start
    let g0 := a.agent n cell r (symNode (s.cell cell)) (symDepth (s.cell r.start)) (p.logical (cell / 64)) (2 ^ 32 * s.free) s.cycle
    let x : Option XRow := if a.how ≠ 2 then none else match decode (s.wordAt g0 g0.pc) 0 with
      | .instr (.xmean ring d x y) => some ⟨leAt a.fixed 12 4, (g0.sr y).toNat, g0.sr x, ring, d⟩
      | _ => none
    let tr : Option AFault := if a.how ≠ 3 then none else
      (m.traps.find? fun b => leAt b 4 4 = a.rid && bits (leAt b 2 2) 1 2 = 0).map fun b =>
        let t := trapOfBytes b none s.cycle
        ⟨t.trap, none, t.trap.pc ≠ g0.pc⟩
    let g1 : Agent := { g0 with xrow := x, trapped := tr }
    let g2 := match keptAgent s asid a with
      | some k => g1.besides k
      | none => g1
    let beside := s.savedCores.find? fun x => x.asid = asid && x.core = p.logical (cell / 64)
    let chains := ((pieces 16 (a.chains.length / 16) a.chains).zipIdx.filterMap fun b => chainOf s beside g2 b.1 (g2.nextId + b.2))
    let tiles := sortBy (fun (i j : Nat) => i ≤ j) ((((s.core g2.core).queue.filter fun e => e.slot = g2.slot).map QEntry.id) ++ chains.map (·.id))
    let g3 : Agent := { g2 with ops := g2.ops ++ tiles.map fun i => ⟨.tiles, i, false⟩, nextId := g2.nextId + 128 }
    (State.setAgent { s with free := s.free + 1 } g3.key g3).modCore g3.core fun c =>
      { c with chains := c.chains ++ chains, queue := c.queue.map fun e => ownScales e g3 }
  | _, _ => s

/-- The engine queue of a core section: as the model kept it where it agrees, else as the image gives it. -/
def queueOf (s : State) (asid : Nat) (b : List Byte) : List QEntry :=
  let es := (pieces 64 (leAt b 3 1) (sliceB b 196928 256)).zipIdx
  let beside : List QEntry := ((s.savedCores.find? fun x => x.asid = asid && x.core = leAt b 0 2).map (·.queue)).getD []
  es.map fun (e : List Byte × Nat) =>
    let read : QEntry := entryOfBytes e.1 e.2
    match read, beside[e.2]? with
    | .mma o, some (.mma k) => if o.rows = k.rows ∧ o.slot = k.slot ∧ o.sA = k.sA then
        .mma { k with start := none, limit := none, taken := [], read := k.rows } else read
    | .mswp _ _, some (.mswp i j) => .mswp i j
    | .mzero _ _ _, some (.mzero i j u) => .mzero i j u
    | _, _ => read

/-- The answers of a READY record's promises (R239): as they were; of a record that only the image holds, what the promise
words hold now. -/
def readyAnswers (s : State) (p : Part) (was : Option Record) (r : Record) : List (Option Word) :=
  match was with
  | some q => q.answers
  | none => (List.range ((r.words s).filter isProm).length).map fun i => match promLoc s p r i with
    | .ok ⟨.here k, _⟩ => if (s.presenceOf k).isSome then some (leWord (rd s (hbmKey k) 8)) else none
    | _ => none

/-- What the records of an image have no field for: held cancels, awaited tests (R56, R211), answers, the order of EMITTING
records, the phase that is counted (R311). -/
def recordsBeside (s : State) (p : Part) (old : Option Part) : List Record :=
  p.records.zipIdx.map fun x =>
    let was := old.bind fun (q : Part) => q.rec? x.1.id
    { x.1 with
      emitAt := x.2
      answers := if x.1.state = .ready then readyAnswers s p was x.1 else []
      phase := (was.map (·.phase)).getD x.1.phase
      awaitsTest := was.bind (·.awaitsTest)
      cancelHeld := (was.map (·.cancelHeld)).getD false }

/-- Bytes of a record's retained copy (R210): as they were, else by the words of its area. -/
def retainedSize (s : State) (old : Option Part) (r : Record) : Nat :=
  match old.bind fun (q : Part) => q.retained.find? fun x => x.1 = r.id with
  | some x => x.2.2
  | none => copySize (r.words s)

/-- Write everything an image holds into the target; a payload is placed as at a launch, its chime checked where it arrives (R25,
R205). The image names no launch queue: where the timeline of a restored partition cannot be reached at its end, no fail word
is written (DESIGN CHOICE, log 38). -/
def restoreAll (s : State) (n : Nat) (m : ImageIn) (cells : List Nat) (ops : List Oper) (handler : Option Nat) : State :=
  let h := m.head
  let j := (s.pcb n).arg.toNat % 16
  let asid := leAt h 16 2
  let w := fun (o : Nat) => BitVec.ofNat 64 (leAt h o 8)
  let s0 := unloadTables (clearCells s n j) n j
  let s1 := ((m.words.zip m.pays).zip cells).foldl (fun t x => placeWord t n x.1.1 x.1.2 x.2) s0
  let target := (List.range (2 ^ j)).map (n + ·) |>.filter fun c => !(s.core c).removed
  let kept := keptCores m cells
  let beside := (s.savedParts.find? fun e => e.2.asid = asid).map (·.2)
  let recs0 := m.recs.map fun b => m.record cells b s.cycle
  let tq := leAt h 36 2
  let q0 : Part := { freshPart j asid (leAt h 20 1) with
    peal := leAt h 24 8
    nextRec := leAt h 32 4
    lib := w 40
    nodes := w 48
    desc := w 56
    prom := w 64
    tl := w 72
    value := w 80
    ndesc := leAt h 88 4
    nprom := leAt h 92 4
    opers := ops
    handler := handler
    records := recs0
    emitQ := (recs0.filter fun r => r.state = .emitting && !r.rowFull).zipIdx.map fun x => (x.2, x.1.id)
    map := restoreMap target kept
    mapped := true
    pre := .saved
    retained := (recs0.filter fun r => r.copy ≠ 0).map fun r => (r.id, r.alen, retainedSize s1 beside r)
    heldCancels := (beside.map (·.heldCancels)).getD []
    table := readTable s1 asid (w 48)
    goSeen := goWord s1 asid (w 48)
    streams := m.streams }
  let recs := recordsBeside s1 q0 beside
  let s2 := s1.setPart n { q0 with records := recs }
  -- scratchpads: zero outside the groups, the sections within
  let s3 := target.foldl (fun t c => wr t (spadKey c Config.slotsEnd) (zerosB 786432)) s2
  let s4 := (m.cores.zip (kept.map (·.2))).foldl (fun t x =>
    let k := s.savedCores.find? fun k => k.asid = asid && k.core = leAt x.1 0 2
    (putCore t x.2 x.1 (queueOf s asid x.1)).modCore x.2 fun c => { c with mrels := (k.map (·.rels)).getD [], copies := (k.map (·.copies)).getD [] }) s3
  -- microprograms of running areas, then the agents
  let s5 := (recs.filter fun r => r.state = .running || r.state = .emitting || r.state = .faulted).foldl (fun t r =>
    (coresOf (r.cells t)).foldl (fun u c => match u.part n with
      | some p => loadMicro u n p c r.oper u.cycle
      | none => u) t) s4
  let s6 := m.agents.foldl (fun t a => putAgent t n m asid a) s5
  -- traps keep their order and their places in the queue; those beyond its 64 records wait, and a region that cannot be written ends the
  -- partition once it goes on (R223)
  let ts := m.traps.zipIdx.map fun b =>
    let rid := leAt b.1 4 4
    let cell := leAt b.1 20 4
    let key := (s6.agentsOf n rid).find? fun g => g.cell = cell
    ((⟨tq + b.2, trapOfBytes b.1 (key.map Agent.key) s.cycle⟩ : QueuedTrap), b.1)
  let held := ts.take 64
  let s7 := s6.modPart n fun p =>
    { p with
      traps := held.map (·.1)
      trapCount := tq + held.length
      raised := (ts.drop 64).zipIdx.map fun x =>
        { x.1.1.raised with due := s.cycle + x.2 + if x.1.1.raised.source = 0 then 2 else 0 } }
  let s8 := held.foldl (fun t x =>
    let lost := fun (u : State) => u.modPart n fun p => { p with ended := p.ended <|> some (statusWord 0x01 x.1.raised.trap.cause) }
    if (t.pcb n).trapq = 0 then lost t
    else match writeVa t asid ((t.pcb n).trapq.toNat + 128 * (x.1.n % 64)) x.2 with
      | some u => u
      | none => lost t) s7
  { s8 with savedParts := s8.savedParts.filter fun e => e.2.asid ≠ asid }

/-- Command 4 (R294): from a block that is free or saved. -/
def execPcbRestore (block : Nat) (s : State) : Out :=
  .next (
    let s0 := s.modPcb block fun b => { b with cmd := 0 }
    if (s0.pcb block).state ≠ 0 ∧ (s0.pcb block).state ≠ 3 then s0
    else
      let s1 := applyRemovals s0
      let r := restoreStatus s1 block
      match r.2 with
      | none => s1.modPcb block fun b => { b with rstat := r.1 }
      | some (m, cells, ops, handler) =>
        sched ((restoreAll s1 block m cells ops handler).modPcb block fun b => { b with state := 4 }) (ceilDiv m.size 64)
          (.restorePlacementEnd block))

/-! ## Resuming (R247) -/

/-- HBM engines are 0 to 11 of a die, LPDDR engines 12 to 15 (R172). -/
def engineHbm (e : Nat) : Bool := e % 16 < 12

def freeCtx (s : State) (e : Nat) : Option Nat :=
  (List.range Config.contexts).find? fun c => (s.ctx (ctxKey e c)).status = .free

/-- Where a stream record goes: its own engine and context, else the lowest-numbered engine of its kind. -/
def streamPlace (s : State) (b : List Byte) : Option (Nat × Nat) :=
  let e := leAt b 0 2
  let c := leAt b 2 1
  let gone := fun (x : Nat) => s.dev.faultMap.contains (dieHop 3 (x / 16) x)
  if !gone e ∧ (s.ctx (ctxKey e c)).status = .free then some (e, c)
  else ((List.range Config.engines).filter fun x => engineHbm x = engineHbm e && !gone x).findSome? fun x => (freeCtx s x).map fun y => (x, y)

/-- Ring addresses that a program pushes to. -/
def pushRings : List Word → List Word
  | w :: a :: t => if fld w 56 8 = 0xA1#8 then a :: pushRings t else pushRings (a :: t)
  | _ => []

/-- The owner field of the rings that the context held is rewritten (R246). -/
def reown (s : State) (asid : Nat) (words : List Word) (old new : Nat) : State :=
  (pushRings words).foldl (fun t a =>
    if bits a.toNat 62 2 ≠ 3 then t
    else match windowCore t asid (bits a.toNat 20 12) with
      | .error _ => t
      | .ok c =>
        let r := ringAt t c (bits a.toNat 0 20)
        if r.ok ∧ r.owner = old then putRing t c (bits a.toNat 0 20) { r with owner := new } else t) s

/-- Place the stream records that find a context; the rest stay. -/
def placeStreams (s : State) (n : Nat) (asid : Nat) : List (List Byte) → State
  | [] => s
  | b :: t =>
    match streamPlace s b with
    | none => placeStreams (s.modPart n fun p => { p with streams := p.streams ++ [b] }) n asid t
    | some (e, c) =>
      let words := ((s.saved.find? fun x => x.asid = asid && x.engine = leAt b 0 2 && x.ctx = leAt b 2 1).map (·.words)).getD []
      let s1 := s.setCtx (ctxKey e c) { ctxOfBytes b asid words with fills := (s.ctx (ctxKey e c)).fills }
      placeStreams (reown s1 asid words (ctxOwner (leAt b 0 2) (leAt b 2 1)) (ctxOwner e c)) n asid t

/-- Records go on: promises are read again, admissions and steps start, held cancels act, faults that awaited a self-test
are retried. -/
def resumeRecord (s : State) (n : Nat) (r : Record) : State :=
  match r.state with
  | .waiting =>
    let prom := (r.words s).map fun w => decide (symKind w = 0xA)
    issuePresenceReads (s.modRec n r.id fun q => { q with pend := (prom.filter id).length, answers := prom.map fun _ => none }) n r.id
  | .ready => schedOnce s 0 (.admission n)
  | .emitting => schedOnce s 1 (.storageStep n)
  | .running => (s.agentsOf n r.id).foldl (fun t g => if g.late = [] then t else schedOnce t 0 (.lateFaultRaise g.core g.slot)) s
  | .faulted =>
    let trapped := ((s.part n).map fun p => p.traps.any (fun t => t.raised.rid = r.id) || p.raised.any fun x => x.rid = r.id).getD true
    let tested := (r.awaitsTest.map s.underTest).getD false
    if trapped ∨ tested then s else actCancel (retryRecord ((r.awaitsTest.map (markRetry s)).getD s) n r.id) n r.id
  | _ => s

/-- RESTORE_PLACEMENT_END: once every stream has its context, everything frozen goes on and a sweep starts. -/
def execRestorePlacementEnd (part : Nat) (s : State) : Out :=
  .next (match s.part part with
    | none => s
    | some p =>
      if p.pre ≠ .saved then s
      else
        let s1 := placeStreams (s.setPart part { p with streams := [] }) part p.asid p.streams
        if !(((s1.part part).map fun q => q.streams.isEmpty).getD true) then schedOnce s1 1 (.restorePlacementEnd part)
        else
          let s2 := ((s1.modPart part fun q => { q with pre := .none }).modPcb part fun b => { b with state := 1, rstat := 0 })
          let s3 := (s2.live part p).foldl (fun t c =>
            thawEngine (t.modCore c fun x => { x with chains := x.chains.map fun ch => { ch with frozen := false } }) c) s2
          let s4 : State := { s3 with
            ctxs := s3.ctxs.map fun e => if e.2.status = .stopped ∧ e.2.asid = p.asid then (e.1, { e.2 with status := .running, wakeAt := s.cycle + 1 }) else e
            agents := s3.agents.map fun e => if e.2.part = part then (e.1, { e.2 with wakeAt := s.cycle, lastIssue := s.cycle }) else e }
          -- accesses that the cut found waiting are on their way again
          let s4 : State := (s4.agents.filter fun e => e.2.part = part).foldl (fun t e =>
            (e.2.outs.filter fun a => a.phase = .parked).foldl (fun u a => schedFree u (.translationWalkDone (.agent e.2.core e.2.slot a.id))) t) s4
          let s5 := startSweep s4 part
          let s6 := p.records.foldl (fun t r => resumeRecord t part r) s5
          let s7 := p.heldCancels.foldl (fun t r => schedOnce t 0 (.cancelEffect part r)) (s6.modPart part fun q => { q with heldCancels := [] })
          let s8 := planRun s7 part
          if ((s8.part part).map fun q => q.raised.isEmpty && q.ended.isNone).getD true then s8 else schedOnce s8 0 (.trapEnqueue part))

end Sys2Proof.Machine
end

