-- ==== Sys2Proof/Machine/Observe.lean ====
section
/-! DEFINITION. Debugging, tracing and profiling by source node (17 R303 to R313), voltage domains (16 R298), EBRK. -/

namespace Sys2Proof.Machine

open Sys2Proof

/-! ## Stop slots (R304) -/

/-- A ring transition reads the header and writes some of it (R178, R179). -/
def headerBytes (a : Word) (off n : Nat) : List (Word × Nat × Bool) := [(a, 32, false), (a + BitVec.ofNat 64 off, n, true)]

/-- The slots that `rows` rows of a chain go through (R134). -/
def chainSlots (s : State) (core : Nat) (a : Word) (out : Bool) (rows : Nat) : List (Word × Nat × Bool) :=
  let r := ringAt s core (a.toNat % 2 ^ 20)
  let per := max 1 (r.size / 128)
  (List.range (min r.count (ceilDiv rows per))).map fun i =>
    (localAddr (r.slotOff (((if out then r.wpos else r.rpos) + i) % max 1 r.count)), 128 * min per (rows - i * per), out)

/-- Bytes that an instruction reads or writes, as ranges of effective addresses: base, length, whether it writes. -/
def touched (s : State) (g : Agent) (i : Instr) : List (Word × Nat × Bool) :=
  match i with
  | .ld z _ _ _ m => [(g.ea m, ldBytes z, false)]
  | .ldp _ m => [(g.ea m, 8, false)]
  | .monw is64 _ m => [(g.ea m, atomBytes is64, false)]
  | .vld _ _ _ m => [(g.ea m, 128, false)]
  | .vgath _ _ b x off => (laneAddrs g b x off).map fun a => (a, 4, false)
  | .emitt a b => [(g.sr b, tileBytes (g.sr a), false)]
  | .st z _ _ m _ => [(g.ea m, stBytes z, true)]
  | .stp m _ | .psetEmpty m | .psetPoison _ m => [(g.ea m, 8, true)]
  | .vst _ _ m _ => [(g.ea m, 128, true)]
  | .vscat _ b x off _ => (laneAddrs g b x off).map fun a => (a, 4, true)
  | .atom _ is64 _ _ _ b _ _ off => [(eaA g b off, atomBytes is64, false), (eaA g b off, atomBytes is64, true)]
  | .mst m _ => [(g.ea m, 4096, true)]
  | .mldc _ m => [(g.ea m, 4096, false)]
  | .tmld m _ => [(g.ea m, 2080, false)]
  | .mldb f _ m =>
    let head := match resolveNow s g (g.ea m) .read with
      | .ok l => rdPlace s l.place 16
      | .error _ => []
    [(g.ea m, 16, false), (leWord (head.take 8), planeBytes f.val (leAt head 8 4) (leAt head 12 2) + planeScales f.val (leAt head 8 4) (leAt head 12 2), false)]
  | .vchain a _ =>
    let l := rd s (spadKey g.core ((g.sr a).toNat % 2 ^ 20)) 32
    let rows := leAt l 16 4
    let inA := leWord (l.take 8)
    let outA := leWord (sliceB l 8 8)
    [(g.sr a, 32, false)]
      ++ (if bit (leAt l 20 1) 0 then headerBytes inA 20 12 ++ chainSlots s g.core inA false rows else [(inA, 128 * rows, false)])
      ++ (if bit (leAt l 20 1) 1 then headerBytes outA 12 20 ++ chainSlots s g.core outA true rows else [(outA, 128 * rows, true)])
  | .rinit m => headerBytes (g.ea m) 12 20
  | .acqs _ m => headerBytes (g.ea m) 12 20
  | .fill m _ => headerBytes (g.ea m) 24 8
  | .awaitf _ m => headerBytes (g.ea m) 0 0
  | .rels m => headerBytes (g.ea m) 20 12
  | _ => []

/-- The first watched byte that an instruction touches. -/
def watchHit (s : State) (g : Agent) (i : Instr) (x : StopSlot) : Option Word :=
  (touched s g i).findSome? fun t =>
    let lo := t.1.toNat
    if (if t.2.2 then x.stores else x.loads) ∧ x.lo ≤ x.hi ∧ 0 < t.2.1 ∧ lo ≤ x.hi ∧ x.lo < lo + t.2.1 then
      some (BitVec.ofNat 64 (max lo x.lo)) else none

/-- Does a slot match an agent about to issue an instruction? -/
def slotMatches (s : State) (g : Agent) (i : Option Instr) (x : StopSlot) : Bool :=
  match x.kind with
  | 1 => (nodeAt s g g.pc).1 = x.arg % 2 ^ 18
  | 2 => g.oper = x.oper && g.pc = x.arg
  | 3 => ((i.bind fun j => watchHit s g j x)).isSome
  | _ => false

/-- Slots that match the agent now, the one it has just been stopped by aside. -/
def matching (s : State) (g : Agent) (i : Option Instr) : List (StopSlot × Nat) :=
  (slotsOf s g).filter fun x => slotMatches s g i x.1 && g.passStop ≠ some x.2

/-- Partition-wide slots that match: the root stops at its next peal marker (R309). -/
def wideStops (s : State) (g : Agent) (l : List (StopSlot × Nat)) : State :=
  (l.filter fun x => x.1.wide).foldl (fun t x => t.modPart g.part fun p => disarmSlot { p with wideStop := true } x.2) s

/-! ## Precise stops (R306, R307) -/

/-- Address of a stop's dump. -/
def dumpAddr (p : Part) (seq : Nat) : Nat := ((p.table.map (·.dump.toNat)).getD 0) + 16384 * (seq % 16)

/-- The stop is numbered, the agent dumped, the stop record written. -/
def recordStop (s : State) (n : Nat) (p : Part) (g : Agent) (slot : Nat) : State :=
  let seq := p.stopSeq + 1
  let x := ((g.stepSlots <|> p.table.map (·.slots)).bind fun l => l[slot]?)
  let kind := (x.map (·.kind)).getD 0
  let w := s.wordAt g g.pc
  let i := match decode w 0 with
    | .instr i => some i
    | _ => none
  let addr := (x.bind fun y => if y.kind = 3 then i.bind fun j => watchHit s g j y else none).getD 0
  -- the stopped instruction is the next one to issue, whatever has still to be answered
  let fixed := (agentBytes s { g with outs := [] }).take (512 + 512 * g.gran)
  let dump := (fixed.take 6) ++ [0#8] ++ fixed.drop 7
  let s1 := (writeVa s p.asid (dumpAddr p seq) dump).getD s
  let nd := nodeAt s g g.pc
  let s2 := appendRecord s1 s1.dev.trace (traceRecord s1 4 (b2n g.drowsy) (p.tag n) g.rid nd.1 g.pc nd.2 g.core
    (toLe 4 seq ++ toLe 1 slot ++ toLe 1 kind ++ toLe 2 (if kind = 3 then 0x142 else 0x141) ++ ofWord addr))
  let s3 := (s2.modAgent g.key fun h => { h with stepSlots := none }).modPart n fun q => disarmSlot { q with
    stopSeq := seq
    stops := q.stops ++ [⟨seq, g.rid, g.key, slot, kind, s.cycle⟩] } slot
  if g.service then s3.modAgent g.key fun h => { h with halted := some seq }
  else s3.modRec n g.rid fun r => { (if r.stopped.isSome then { r with admittedAt := s.cycle } else r.countTo s.cycle) with stopped := some seq }

/-- A stop that is not made: its agent has faulted, or another has stopped its area; an MMA that it has frozen goes on. -/
def dropStop (s : State) (g : Agent) (stop : Nat) : State :=
  let row := ((g.stepSlots.bind fun l => l[stop]?).map fun x => decide (x.kind = 4)).getD false
  let s1 := s.modAgent g.key fun h => { h with stepSlots := none }
  if row then rowLapse s1 g.core else s1

/-- PRECISE_STOP: the area stands still from now on; the service agent stands still alone. A stop that finds 16 unanswered waits to be
recorded. -/
def execPreciseStop (core slot stop : Nat) (s : State) : Out :=
  .next (match s.agent (agentKey core slot) with
    | none => rowLapse s core
    | some g => match s.part g.part with
      | none => s
      | some p =>
        if !stoppable s g then dropStop s g stop
        else if 16 ≤ p.stops.length then
          let stands := !g.service && ((s.rec? g.part g.rid).map fun r => r.stopped.isSome).getD false
          sched (if stands then s else halt s g s.cycle) 1 (.preciseStop core slot stop)
        else recordStop s g.part p g stop)

/-- EBRK (R309): a precise stop at itself with slot 0xFF where a debugger is attached; a NOP otherwise, and under go. -/
def execEbrk (s : State) : Out :=
  onAgent s fun g =>
    if g.passStop.isSome ∨ (((s.part g.part).bind (·.table)).map (·.dump)).getD 0 = 0 then s.setAgent g.key { g.next with passStop := none }
    else stopAgent s g 255

/-- The stopped agent of an unanswered stop. -/
def stopOf (s : State) (n seq : Nat) : Option (Stop × Agent) :=
  match (s.part n).bind fun p => p.stops.find? fun x => x.seq = seq with
  | none => none
  | some x => (s.agent x.agent).map fun g => (x, g)

/-- The stop is answered: its cycles do not count (R310, R311), and its instruction issues once unmatched by it. -/
def answerStop (s : State) (n : Nat) (x : Stop) (g : Agent) : State :=
  let s0 := s.modPart n fun p => { p with stops := p.stops.filter fun y => y.seq ≠ x.seq }
  let s1 := if g.service then s0 else s0.modRec n x.rid fun r => { r with admittedAt := s.cycle }
  let s2 := s1.setAgent g.key { g with passStop := some x.slot }
  if x.kind = 4 then thawEngine s2 g.core else s2

/-- The area runs again; what its agents hold is raised. -/
def runArea (s : State) (n : Nat) (rid : Nat) : State :=
  let s1 := s.modRec n rid fun r => { r with stopped := none }
  (s1.agentsOf n rid).foldl (fun t g => if g.late = [] then t else schedOnce t 0 (.lateFaultRaise g.core g.slot)) s1

/-- The stopped agent's area runs again, or the service agent. -/
def runAgain (s : State) (g : Agent) : State :=
  if g.service then s.modAgent g.key fun h => { h with halted := none } else runArea s g.part g.rid

/-- Action 1. -/
def execGoContinue (part seq : Nat) (s : State) : Out :=
  .next (match stopOf s part seq with
    | none => s
    | some (x, g) => runAgain (answerStop s part x g) g)

/-- Action 2: the record stays stopped but for the one agent. -/
def execGoStep (part seq count : Nat) (s : State) : Out :=
  .next (match stopOf s part seq with
    | none => s
    | some (x, g) =>
      let s1 := (answerStop s part x g).modAgent g.key fun h => { h with stepLeft := some (max 1 count, x.slot) }
      if g.late = [] then s1 else schedOnce s1 0 (.lateFaultRaise g.core g.slot))

/-- Action 3: pc, s, p, k and the vector registers come back from the dump first. -/
def execGoReload (part seq : Nat) (s : State) : Out :=
  .next (match stopOf s part seq, s.part part with
    | some (x, g), some p =>
      let h := match readVa s p.asid (dumpAddr p seq) (512 + 512 * g.gran) with
        | none => g
        | some l =>
          let a : AgentImage := ⟨l.take 512, l.drop 512, [], []⟩
          match s.rec? part x.rid with
          | none => g
          | some q =>
            let d := a.agent part (64 * g.core + g.slot) q g.node g.depth (g.lcell / 64) g.nextId s.cycle
            { g with pc := d.pc, s := d.s, p := d.p, k := d.k, v := d.v }
      runAgain (answerStop (s.setAgent g.key h) part x h) g
    | _, _ => s)

/-- PARTITION_WIDE_STOP: the cut of R233 from this peal marker on; one that is asked for already serves both (R310). -/
def execPartitionWideStop (part : Nat) (s : State) : Out :=
  .next (match s.part part with
    | none => s
    | some p =>
      let s1 := s.modPart part fun q => { q with wideStop := false }
      match p.pre with
      | .none => requestPreempt s1 part true false
      | .asked _ => s1.modPart part fun q => { q with pre := .asked true }
      | .marker r _ => s1.modPart part fun q => { q with pre := .marker r true }
      | .cut _ => s1.modPart part fun q => { q with pre := .cut true }
      | .saved => s1)

/-- GEN_CHANGE (R305): the new header and slots, taken up with the next peal marker; a table that cannot be read is as one
at address 0. -/
def execGenChange (part : Nat) (s : State) : Out :=
  .next (match s.part part with
    | none => s
    | some p =>
      let gen := ((readVa s p.asid (p.nodes.toNat + 16) 8).map leWord).getD 0
      match readTable s p.asid p.nodes with
      | some t => s.setPart part { p with newTable := some t }
      -- from now on as without a table (R299)
      | none => s.setPart part { p with newTable := none, coming := none, table := some ⟨[], [], 0, 0, 0, gen⟩ })

/-- Has the trace unit written the word last (R284)? -/
def quietVa (s : State) (asid va : Nat) : Bool :=
  match walkLoc s asid va .read with
  | .ok ⟨.here k, _⟩ | .ok ⟨.host k, _⟩ => s.hushedAt k 8
  | _ => false

/-- Has the cycle written any of the 8 bytes at an address? -/
def writtenVa (s : State) (asid va : Nat) : Bool :=
  match walkLoc s asid va .read with
  | .ok ⟨.here k, _⟩ | .ok ⟨.host k, _⟩ => s.writes.any fun w => w.1 < k + 8 && k < w.1 + w.2
  | _ => false

/-- Watch gen and go (R305, R306): the address monitors of a partition's table, one that could not be read included (R299). A go
word acts when it is written or has changed: one that names no unanswered stop then is ignored. -/
def watchTable (s : State) (e : Nat × Part) : State :=
  let p := e.2
  let n := e.1
  if p.nodes = 0 then s
  else
    let g := ((p.newTable <|> p.rootTable).map (·.gen)).getD 0
    let s1 := match readVa s p.asid (p.nodes.toNat + 16) 8 with
      | some l => if leWord l ≠ g ∧ !quietVa s p.asid (p.nodes.toNat + 16) then schedOnce s 1 (.genChange n) else s
      | none => s
    match readVa s p.asid (p.nodes.toNat + 24) 8 with
      | none => s1
      | some l => if (leWord l = p.goSeen ∧ !writtenVa s p.asid (p.nodes.toNat + 24)) ∨ quietVa s p.asid (p.nodes.toNat + 24) then s1 else
        let s1 := s1.modPart n fun q => { q with goSeen := leWord l }
        let go := leNat l
        let seq := go / 2 ^ 32
        if !(p.stops.any fun x => x.seq = seq) ∨ bits go 8 8 ≠ 0 then s1
        else match go % 256 with
          | 1 => schedOnce s1 1 (.goContinue n seq)
          | 2 => schedOnce s1 1 (.goStep n seq (bits go 16 16))
          | 3 => schedOnce s1 1 (.goReload n seq)
          | _ => s1

/-! ## Samples (R303) -/

/-- One sample of a core. -/
def sample (s : State) (n : Nat) (p : Part) (core : Nat) : State :=
  let r := match (s.core core).issued.head? with
    | some x =>
      traceRecord s 3 0 (p.tag n) x.rid x.node x.pc x.li core
        (toLe 2 (p.logical core) ++ toLe 1 (if x.slot = 64 then 64 else x.lcell % 64) ++ zerosB 1 ++ toLe 4 x.oper)
    | none => traceRecord s 3 2 (p.tag n) 0 0 0xFFFFFFFF [] core (toLe 2 (p.logical core))
  appendRecord s s.dev.trace r

/-- Cores whose `%cycle` is due for a sample; one whose domain skips the cycle has none (R298). -/
def sampleCores (s : State) (n : Nat) (p : Part) : List Nat :=
  match p.table with
  | none => []
  | some t => if t.sper = 0 ∨ !bit t.tmask 2 then [] else (s.live n p).filter fun c => !(s.domain c).stretching && s.coreCycle c % 2 ^ t.sper = 0

/-- PROFILE_SAMPLE: behind everything that has issued in this cycle. -/
def execProfileSample (part : Nat) (s : State) : Out :=
  .next (match s.part part with
    | none => s
    | some p => (sampleCores s part p).foldl (fun t c => sample t part p c) s)

/-! ## Droops (R298, R313) -/

/-- The droop record of a core. -/
def droopRecord (s : State) (v core : Nat) : State :=
  let part := s.parts.find? fun e => e.1 ≤ core && core < e.1 + 2 ^ e.2.j
  let tag := (part.map fun e => e.2.tag e.1).getD 0
  let detail := fun (l : Nat) => toLe 1 v ++ toLe 2 core ++ toLe 1 l ++ zerosB 2 ++ toLe 2 0x147
  appendRecord s s.dev.trace (match (s.core core).issued.head? with
    | some x => traceRecord s 5 0 tag x.rid x.node x.pc x.li core (detail (x.lcell % 64))
    | none => traceRecord s 5 0 tag 0 0 0xFFFFFFFF [] core (detail 0xFF))

def State.setDomain (s : State) (v : Nat) (d : Domain) : State :=
  s.modDev fun x => if h : v < 64 then { x with domains := x.domains.set v d } else x

/-- DROOP_DETECT: every core of the domain writes its record; from the next cycle on the domain skips cycles. -/
def execDroopDetect (v : Nat) (s : State) : Out :=
  .next (
    if h : v < 64 then
      ((List.range 64).foldl (fun t i => droopRecord t v (64 * v + i)) s).setDomain v { s.dev.domains[v] with stretching := true }
    else s)

/-- SUPPLY_RECOVERS. -/
def execSupplyRecovers (v : Nat) (s : State) : Out :=
  .next (if h : v < 64 then s.setDomain v { s.dev.domains[v] with stretching := false } else s)

end Sys2Proof.Machine
end

