-- ==== Sys2Proof/Machine/Integrity.lean ====
section
/-! DEFINITION. The end of a targeted self-test (11 R208, R209, R211). -/

namespace Sys2Proof.Machine

open Sys2Proof

/-- Outcome, test time and transient count are rewritten in place in an entry (R207). -/
def writeOutcome (s : State) (n outcome ns count : Nat) : State :=
  let k := logKey s n
  let f := rdNat s (k + 2) 2
  wr (wr s (k + 2) (toLe 2 (f - f / 4 % 4 * 4 + outcome * 4))) (k + 56) (toLe 4 ns ++ toLe 4 count)

/-- Records that wait for the test of one of these entries are retried without their handler (R211); those of a partition that is being
cut or saved at its restore. -/
def autoRetries (s : State) (entries : List Nat) : State :=
  (s.parts.filter fun e => !e.2.pre.stopped).foldl (fun t e =>
    (e.2.records.filter fun r => (r.awaitsTest.map entries.contains).getD false).foldl (fun u r =>
      actCancel (retryRecord (markRetry u (r.awaitsTest.getD 0)) e.1 r.id) e.1 r.id) t) s

/-- Entries that records wait for although their tests have ended (R208): with outcome 1, or with outcome 2 where no restore is still to
come. -/
def endedTests (s : State) : List Nat :=
  s.parts.flatMap fun e => (e.2.records.filterMap (·.awaitsTest)).filter fun n =>
    let outcome := rdNat s (logKey s n + 2) 2 / 4 % 4
    !s.underTest n && (outcome = 1 || (outcome = 2 && e.2.pre = .none))

/-- Partitions whose dies a removed bridge joined end (R209). -/
def bridgeEnds (s : State) : State :=
  s.parts.foldl (fun t e => if bridgeGone t e.1 e.2.j then endWhole t e.1 0x01 0x107 else t) s

/-- Contexts of a removed engine stop. -/
def engineEnds (s : State) (e cause : Nat) : State :=
  (List.range Config.contexts).foldl (fun t c =>
    let x := t.ctx (ctxKey e c)
    if x.status = .free ∨ x.status = .stopped then t else endCtx t e c x 0x20 cause) s

/-- Live partitions that span a core of a list are pre-empted and restored around it. -/
def moveAway (s : State) (cs : List Nat) : State :=
  s.parts.foldl (fun t e => if cs.any fun c => e.1 ≤ c && c < e.1 + 2 ^ e.2.j then requestPreempt t e.1 false true else t) s

/-- A lasting fault takes its unit out of use (R209). -/
def removeUnit (s : State) (unit : W32) (injected : Bool) : State :=
  let s1 := s.modDev fun d => if injected then { d with injectedMap := d.injectedMap ++ [unit], faultMap := d.faultMap ++ [unit] }
    else { d with faultMap := d.faultMap ++ [unit] }
  match hopKind unit with
  | 1 => bridgeEnds s1
  | 3 => engineEnds s1 (hopLow unit) 0x10F
  | 4 | 5 => removePort s1 (hopLow unit)
  -- the failing rows of a channel: their pages are the hardware's (log 14)
  | 6 | 7 => { s1 with free := s1.free + 1 }.modDev fun d =>
    { d with badPages := d.badPages ++ (Config.failingPages s1.free).map fun p => (p, injected) }
  | _ => applyRemovals (moveAway s1 (coresTaken unit))

/-- SELF_TEST_COMPLETE: the entries get their outcome; a unit that passes returns to service and waiting retries run, one
that fails is removed. A retry after a lasting fault follows the restore. -/
def execSelfTestComplete (unit : W32) (pass : Bool) (s : State) : Out :=
  .next (match s.dev.tests.find? fun t => t.unit = unit with
    -- no test in progress: a fault that came behind a test which its unit passed is retried now (R211)
    | none => if pass then autoRetries s (endedTests s) else s
    | some t =>
      -- the event of such a fault, while a later test of the unit is in progress
      if s.cycle < t.start + nsCycles (testNs (hopKind unit)) then autoRetries s (endedTests s)
      else
      let s1 := s.modDev fun d => { d with tests := d.tests.filter fun x => x.unit ≠ unit }
      let old := (Tbl.find s.dev.transients unit.toNat).getD 0
      let count := if pass then old + 1 else old
      let s2 := s1.modDev fun d => { d with transients := Tbl.put d.transients unit.toNat count }
      let s3 := t.entries.foldl (fun u n => writeOutcome u n (if pass then 1 else 2) (testNs (hopKind unit)) count) s2
      if pass then autoRetries s3 t.entries
      else
        let s4 := removeUnit s3 unit (t.forced = some false)
        -- a record on a core that stays has no restore to wait for
        if coresTaken unit = [] then autoRetries s4 t.entries else s4)

end Sys2Proof.Machine
end

