-- ==== Sys2Proof/Machine/HostIf.lean ====
section
/-! DEFINITION. The host and the management plane (16 R288 to R296): partition control blocks, the device control block,
BAR0 and BAR2, attestation, bring-up; the walker (09 R167) and the 1 us poll (20 R378, 21 R410); NOP (05 R107). -/

namespace Sys2Proof.Machine

open Sys2Proof

/-! ## Commands of the partition control block (R294) -/

/-- A command is taken: the cmd field is cleared. -/
def takeCmd (s : State) (n : Nat) : State := s.modPcb n fun b => { b with cmd := 0 }

/-- Command 1 acts as R56 on the record that arg names: the cancel reaches the root behind the cycle in which the command is taken. -/
def execPcbCancelRecord (block : Nat) (s : State) : Out :=
  .next (
    let t := takeCmd s block
    match t.part block with
    | none => t
    | some _ => sched t 0 (.cancelEffect block (t.pcb block).arg.toNat))

/-- Command 2: the partition ends with status 0x02 (R45). -/
def execPcbCancelPartition (block : Nat) (s : State) : Out :=
  .next (
    let t := takeCmd s block
    if (t.pcb block).state = 1 then endWhole t block 0x02 0 else t)

/-- Command 6: a saved partition is given up; what is held for it faults (R238). -/
def execPcbRelease (block : Nat) (s : State) : Out :=
  .next (
    let t := takeCmd s block
    if (t.pcb block).state ≠ 3 then t
    else State.modPcb { t with savedParts := Tbl.drop t.savedParts block } block fun b => { b with state := 0 })

/-- An event's partition under its new first core. -/
def rekey (n m : Nat) (i : Instr) : Instr :=
  let f := fun (q : Nat) => if q = n then m else q
  match i with
  | .detectionSweep q => .detectionSweep (f q)
  | .sweepComplete q => .sweepComplete (f q)
  | .presenceAnswer q r k v => .presenceAnswer (f q) r k v
  | .deferralRetry (.record q r k) => .deferralRetry (.record (f q) r k)
  | .admission q => .admission (f q)
  | .loadComplete q r => .loadComplete (f q) r
  | .storageStep q => .storageStep (f q)
  | .stepRetryAfterFixed q => .stepRetryAfterFixed (f q)
  | .storageStepComplete q => .storageStepComplete (f q)
  | .cancelEffect q r => .cancelEffect (f q) r
  | .trapEnqueue q => .trapEnqueue (f q)
  | .handlerRunStart q => .handlerRunStart (f q)
  | .treeJoinComplete q r k => .treeJoinComplete (f q) r k
  | .preemptMarkerArrival q => .preemptMarkerArrival (f q)
  | .cutComplete q => .cutComplete (f q)
  | .imageValid q => .imageValid (f q)
  | .restorePlacementEnd q => .restorePlacementEnd (f q)
  | .profileSample q => .profileSample (f q)
  | .genChange q => .genChange (f q)
  | .partitionWideStop q => .partitionWideStop (f q)
  | .goContinue q k => .goContinue (f q) k
  | .goStep q k c => .goStep (f q) k c
  | .goReload q k => .goReload (f q) k
  | i => i

/-- The partition's first core becomes m: its block, agents, microprograms, events and reads go with it. -/
def movePart (s : State) (n m : Nat) : State :=
  if n = m then s
  else match s.part n with
    | none => s
    | some p =>
      let b := s.pcb n
      let s1 : State := { s with
        parts := Tbl.put (Tbl.drop s.parts n) m p
        agents := s.agents.map fun e => if e.2.part = n then (e.1, { e.2 with part := m }) else e
        cores := s.cores.map fun e => (e.1, { e.2 with micros := mapIf (fun x => x.part = n) (fun x => { x with part := m }) e.2.micros })
        agenda := s.agenda.map fun e => (e.1, rekey n m e.2)
        deferred := s.deferred.map fun d => match d.who with
          | .record q r k => if q = n then { d with who := .record m r k } else d
          | _ => d }
      (s1.setPcb m b).modPcb n fun x => { x with state := 0, cmd := 0 }

/-- A mapped partition names its new cores by the lowest unused logical numbers. -/
def mapMore (p : Part) (cores : List Nat) : Part :=
  if !p.mapped then p
  else
    let free := (List.range Config.cores).filter fun l => !(p.map.any fun e => e.1 = l)
    { p with map := sortBy (fun (a b : Nat × Nat) => a.1 ≤ b.1) (p.map ++ free.zip cores) }

/-- The sibling subtree joins the partition: FREE cells, BLOCKED where a core is removed (R70). -/
def extend (s : State) (n : Nat) (p : Part) : State :=
  let m := n - n % 2 ^ (p.j + 1)
  let half := if m = n then n + 2 ^ p.j else m
  let s1 := clearCells s half p.j
  let added := ((List.range (2 ^ p.j)).map (half + ·)).filter fun c => !(s.core c).removed
  let s2 := s1.setPart n { mapMore p added with j := p.j + 1 }
  (movePart s2 n m).modPcb m fun b => { b with rstat := 0 }

/-- Command 5, taken only while a row-full handler runs. -/
def execPcbExtend (block : Nat) (s : State) : Out :=
  .next (
    let t := takeCmd s block
    match t.part block with
    | none => t
    | some p =>
      if !((p.run.map fun q => decide (q.raised.trap.cause = 0xC0)).getD false) then t
      else if p.j = 12 then t.modPcb block fun b => { b with rstat := 0x06 }
      else
        let m := block - block % 2 ^ (p.j + 1)
        let half := if m = block then block + 2 ^ p.j else m
        if overlapsLive t half p.j then t.modPcb block fun b => { b with rstat := 0x1B } else extend t block p)

/-! ## The device control block (R291) -/

/-- A module whose firmware failed serves only BAR0 reads (R295): it takes no write. -/
def serving (s : State) (t : State) : Out := .next (if s.dev.bstat = 1 then s else t)

def execIdtabWrite (v : Word) (s : State) : Out :=
  serving s (if v.toNat % 2 ^ 20 ≠ 0 ∨ !s.parts.isEmpty then s else s.modDev fun d => { d with idtab := v })

/-- Base of link's aperture: [63:55] zero and a multiple of the BAR2 size. -/
def execApertureBaseWrite (link : Fin 2) (v : Word) (s : State) : Out :=
  serving s (
    if 2 ^ 55 ≤ v.toNat ∨ v.toNat % 2 ^ s.dev.bar2size[link] ≠ 0 then s
    else s.modDev fun d => if link = 0 then { d with ap0base := v } else { d with ap1base := v })

def execFcntWrite (s : State) : Out := serving s (s.modDev fun d => { d with fcnt0 := 0, fcnt1 := 0 })

/-- n bytes of a list, zeros behind them. -/
def exactly (n : Nat) (l : List Byte) : List Byte := (l ++ zerosB (n - l.length)).take n

/-- The attestation report (R295). -/
def attestReport (s : State) (nonce : List Byte) : List Byte :=
  let body := exactly 32 nonce ++ toLe 2 s.dev.devid.toNat ++ [0xA1#8] ++ zerosB 5 ++ ofWord Config.encodingHash ++ exactly 64 s.dev.digest
    ++ exactly 64 (Config.shake256 (s.dev.faultMap.flatMap of32 ++ s.dev.badPages.flatMap fun p => toLe 8 p.1))
  body ++ exactly 114 (Config.ed448Sign body) ++ zerosB 30

/-- ATTEST_REQUEST: the register reads 0 once the report is written; while request or report cannot be reached it keeps
the address. -/
def execAttestRequest (addr : Word) (s : State) : Out :=
  serving s (
    let s1 := s.modDev fun d => { d with attest := addr }
    match readVa s 0 addr.toNat 64 with
    | none => s1
    | some l => match writeVa s1 0 (leAt l 32 8) (attestReport s (l.take 32)) with
      | none => s1
      | some t => t.modDev fun d => { d with attest := 0 })

def execPeerSlotWrite (slot : Fin 16) (v : W32) (s : State) : Out :=
  serving s (
    if !s.parts.isEmpty then s
    else s.modDev fun d => { d with peers := d.peers.set slot.val (v &&& 0x8000FFFF#32) })

/-- R286: the low 16 bits are taken. -/
def execArbitrationWrite (idx : Nat) (v : W32) (s : State) : Out :=
  serving s (if 268 ≤ idx then s else s.modDev fun d => { d with arb := Tbl.put d.arb idx (v &&& 0xFFFF#32) })

/-! ## BAR0 (R290) -/

/-- A valid command is noted and taken in the next cycle; one that finds another is ignored whole. -/
def writeCmd (s : State) (n : Nat) (v : Word) : State :=
  let c := bits v.toNat 0 8
  if (s.pcb n).cmd ≠ 0 then s
  else
    let s1 := s.modPcb n fun b => { b with arg := BitVec.ofNat 32 (bits v.toNat 32 32) }
    let ev : Option Instr := match c with
      | 1 => some (.pcbCancelRecord n)
      | 2 => some (.pcbCancelPartition n)
      | 3 => some (.pcbPreempt n)
      | 4 => some (.pcbRestore n)
      | 5 => some (.pcbExtend n)
      | 6 => some (.pcbRelease n)
      | _ => none
    match ev with
    | none => s1
    | some e => sched (s1.modPcb n fun b => { b with cmd := c }) 1 e

/-- Eight bytes at an offset of a partition control block (R293). -/
def writePcb (s : State) (n off : Nat) (v : Word) : State :=
  let lo : W32 := v.truncate 32
  let hi : W32 := (v >>> 32).truncate 32
  let st := (s.pcb n).state
  if off = 0 then writeCmd s n v
  else if st = 1 ∨ st = 2 ∨ st = 4 then s
  else s.modPcb n fun b => match off with
    | 8 => { b with rtab := v }
    | 16 => { b with rcnt := lo }
    | 24 => { b with retain := v }
    | 32 => { b with rbytes := v }
    | 40 => { b with trapq := v }
    | 48 => { b with save := v }
    | 56 => { b with image := v }
    | 64 => { b with frm := lo, ftrap := hi }
    | 72 => { b with tms := lo, mtol := hi }
    | 80 => { b with ascl := v }
    | 88 => { b with bscl := v }
    | 96 => { b with seed := v }
    | 104 => { b with pflags := lo.truncate 8 &&& 1#8 }
    | _ => b

/-- The state an `Out` carries. -/
def outState (s : State) : Out → State
  | .next t => t
  | _ => s

/-- Eight bytes at an offset of the device control block (R291). -/
def writeDcb (s : State) (off : Nat) (v : Word) : State :=
  let go := outState s
  match off with
  | 0x00 => go (execIdtabWrite v s)
  | 0x08 => go (execApertureBaseWrite 0 v s)
  | 0x10 => s.modDev fun d => { d with ap0asid := v &&& 0xFFFF#64 }
  | 0x18 => go (execApertureBaseWrite 1 v s)
  | 0x20 => s.modDev fun d => { d with ap1asid := v &&& 0xFFFF#64 }
  | 0x28 => go (execFcntWrite s)
  | 0x30 => go (execAttestRequest v s)
  | _ =>
    if 0x40 ≤ off ∧ off < 0x80 then
      let k := (off - 0x40) / 4
      let s1 := go (execPeerSlotWrite (Fin.ofNat 16 k) (v.truncate 32) s)
      outState s1 (execPeerSlotWrite (Fin.ofNat 16 (k + 1)) ((v >>> 32).truncate 32) s1)
    else s

/-- Two arbitration registers. -/
def writeArb (s : State) (k : Nat) (v : Word) : State :=
  let s1 := outState s (execArbitrationWrite k (v.truncate 32) s)
  outState s1 (execArbitrationWrite (k + 1) ((v >>> 32).truncate 32) s1)

/-- Eight entries of the route table, [6:4] zero (R290). -/
def writeRoutes (s : State) (i : Nat) (v : Word) : State :=
  forN 8 s fun k t =>
    let b := bits v.toNat (8 * k) 8
    t.modDev fun d => { d with routes := Tbl.put d.routes (i + k) (b % 16 + b / 128 * 128) }

/-- A write at a BAR0 offset; the route table and the time leader are the management plane's alone (R290, R291). -/
def writeBar0 (s : State) (management : Bool) (off : Nat) (v : Word) : State :=
  if off % 8 ≠ 0 then s
  else if 0x1000 ≤ off ∧ off < 0x2000 then
    (if off = 0x1038 ∧ management then s.modDev fun d => { d with leader := v.truncate 16 } else writeDcb s (off - 0x1000) v)
  else if 0x10000 ≤ off ∧ off < 0x10030 then writeArb s ((off - 0x10000) / 4) v
  else if 0x10100 ≤ off ∧ off < 0x10500 then writeArb s (12 + (off - 0x10100) / 4) v
  else if 0x20000 ≤ off ∧ off < 0x30000 ∧ management then writeRoutes s (off - 0x20000) v
  else if 0x100000 ≤ off ∧ off < 0x200000 then writePcb s ((off - 0x100000) / 256) (off % 256) v
  else s

/-- REGISTER_WRITE: eight bytes at a BAR0 offset that is a multiple of 8, from a host link in service or from the management
plane; the management plane's clearing of an error-log entry (R10), its injections (R215); a resizing of BAR2 (R288). -/
def execRegisterWrite (dest : RegTarget) (v : Word) (s : State) : Out :=
  serving s (match dest with
    | .host link off => if s.dev.hostUp[link] then writeBar0 s false off v else s
    | .management off => writeBar0 s true off v
    | .clearEntry n => wr s (logKey s n) (zerosB 64)
    | .inject h => if v.toNat < 4 ∧ hopPresent s (BitVec.ofNat 32 h) then arm s (BitVec.ofNat 32 h) v.toNat else s
    | .resize link =>
      if 30 ≤ v.toNat ∧ v.toNat ≤ 41 then s.modDev fun d => { d with bar2size := d.bar2size.set link.val v.toNat } else s)

/-- The capability block (R292). -/
def capBytes (s : State) : List Byte :=
  let d := s.dev
  let up := sumNat (((List.range 12).filter fun g => (s.port g).state = .active).map fun g => 2 ^ g)
  let fl := b2n d.published + 2 * b2n d.synced + 4 * b2n d.mapLoaded
  if !d.published then zerosB 12 ++ toLe 2 d.bstat ++ zerosB 114
  else ofWord Config.encodingHash ++ toLe 2 d.devid.toNat ++ [0xA1#8] ++ toLe 1 fl ++ toLe 2 d.bstat ++ toLe 2 up ++ toLe 2 d.removedCount
    ++ zerosB 6 ++ ofWord d.elog ++ ofWord d.eidx ++ ofWord d.trace ++ ofWord d.prof ++ zerosB 8 ++ exactly 57 d.idkey ++ zerosB 7

/-- The device control block as it reads. -/
def dcbBytes (s : State) : List Byte :=
  let d := s.dev
  ofWord d.idtab ++ ofWord d.ap0base ++ ofWord d.ap0asid ++ ofWord d.ap1base ++ ofWord d.ap1asid ++ toLe 4 d.fcnt0 ++ toLe 4 d.fcnt1
    ++ ofWord d.attest ++ toLe 8 d.leader.toNat ++ d.peers.toList.flatMap of32

/-- A partition control block as it reads. -/
def pcbBytes (b : Pcb) : List Byte :=
  toLe 1 b.cmd ++ toLe 1 b.state ++ toLe 2 b.rstat ++ of32 b.arg ++ ofWord b.rtab ++ of32 b.rcnt ++ zerosB 4 ++ ofWord b.retain ++ ofWord b.rbytes
    ++ ofWord b.trapq ++ ofWord b.save ++ ofWord b.image ++ of32 b.frm ++ of32 b.ftrap ++ of32 b.tms ++ of32 b.mtol ++ ofWord b.ascl
    ++ ofWord b.bscl ++ ofWord b.seed ++ [b.pflags] ++ zerosB 151

/-- Eight bytes of BAR0 as the host reads them, at an offset that is a multiple of 8. A read changes nothing (R290). -/
def bar0Read (s : State) (off : Nat) : List Byte :=
  let arb := fun (k : Nat) => of32 ((Tbl.find s.dev.arb k).getD 0x1444#32)
  let from_ := fun (l : List Byte) (o : Nat) => exactly 8 (l.drop o)
  if off < 0x1000 then from_ (capBytes s) off
  else if off < 0x2000 then from_ (dcbBytes s) (off - 0x1000)
  else if 0x10000 ≤ off ∧ off < 0x10030 then arb ((off - 0x10000) / 4) ++ arb ((off - 0x10000) / 4 + 1)
  else if 0x10100 ≤ off ∧ off < 0x10500 then arb (12 + (off - 0x10100) / 4) ++ arb (12 + (off - 0x10100) / 4 + 1)
  else if 0x20000 ≤ off ∧ off < 0x30000 then
    (List.range 8).map fun i => BitVec.ofNat 8 ((Tbl.find s.dev.routes (off - 0x20000 + i)).getD 0)
  else if 0x100000 ≤ off ∧ off < 0x200000 then from_ (pcbBytes (s.pcb ((off - 0x100000) / 256))) (off % 256)
  else zerosB 8

/-! ## BAR2 (R289, R275) -/

/-- Base and identifier of a link's aperture. -/
def aperture (s : State) (link : Fin 2) : Nat × Nat :=
  if link = 0 then (s.dev.ap0base.toNat, s.dev.ap0asid.toNat) else (s.dev.ap1base.toNat, s.dev.ap1asid.toNat)

def addFault (s : State) (link : Fin 2) : State :=
  s.modDev fun d =>
    if link = 0 then { d with fcnt0 := min (d.fcnt0 + 1) (2 ^ 32 - 1) } else { d with fcnt1 := min (d.fcnt1 + 1) (2 ^ 32 - 1) }

/-- Does an access reach BAR2 of the link: the link in service, the range within the BAR (R288)? -/
def inBar2 (s : State) (link : Fin 2) (off n : Nat) : Bool := s.dev.hostUp[link] && off + n ≤ 2 ^ s.dev.bar2size[link]

/-- The virtual range of an access: none where the aperture has no base or the range leaves the translated addresses. -/
def apertureVa (s : State) (link : Fin 2) (off n : Nat) : Option Nat :=
  let a := aperture s link
  if a.1 = 0 ∨ 2 ^ 55 < a.1 + off + n then none else some (a.1 + off)

def execBar2Read (link : Fin 2) (off n : Nat) (s : State) : Out :=
  .next (
    let ones := List.replicate n 0xFF#8
    let out := fun (t : State) (l : List Byte) => ({ t with outbox := t.outbox ++ [.hostRead link.val off l] } : State)
    if !inBar2 s link off n then s
    else if !s.dev.published then out s ones
    else match (apertureVa s link off n).bind fun va => readVa s (aperture s link).2 va n with
      | some l => out s l
      | none => out (addFault s link) ones)

def execBar2Write (link : Fin 2) (off : Nat) (bytes : List Byte) (s : State) : Out :=
  .next (
    if !s.dev.published ∨ !inBar2 s link off bytes.length then s
    else match (apertureVa s link off bytes.length).bind fun va => writeVa s (aperture s link).2 va bytes with
      | some t => t
      | none => addFault s link)

/-! ## Bring-up (R295, R296) -/

/-- Everything as at reset; memory, what the fault map keeps and the counter of free values stay. -/
def resetKeep (s : State) : State :=
  { State.reset with
    agenda := []
    free := s.free
    mem := s.mem
    presence := s.presence
    outbox := s.outbox
    dev :=
      { Device.reset with
        faultMap := s.dev.faultMap.filter fun h => !s.dev.injectedMap.contains h
        badPages := s.dev.badPages.filter fun p => !p.2 } }

/-- Steps 5 to 7, once every port is ACTIVE or has failed its first attempt: self-test, fault map, capability block. -/
def bringUp (s : State) : State :=
  let s1 := s.modDev fun d => { d with training := none, faultMap := (d.faultMap ++ Config.powerOnFaults).eraseDups }
  if !Config.faultMapLoads then s1.modDev fun d => { d with bstat := 6 }
  else
    let known := (s1.dev.faultMap ++ Config.storedFaultMap).eraseDups
    let s2 := applyRemovals (s1.modDev fun d =>
      { d with faultMap := known, badPages := (d.badPages ++ Config.storedPages.map fun p => (p, false)).eraseDups, mapLoaded := true })
    let s3 := ((known.filter fun h => hopKind h = 4 || hopKind h = 5).map hopLow).foldl (fun t g => removePort t g) s2
    let buffers := fun (t : State) (base : Word) => wr t (hbmKey base.toNat) (toLe 8 Config.bufferRecords ++ zerosB 56)
    (buffers (buffers s3 Config.traceBase) Config.profBase).modDev fun d => { d with published := true }

/-- What the management plane holds ready for bring-up (R292). -/
def configured (d : Device) : Device :=
  { d with
    devid := Config.deviceId
    leader := Config.timeLeader
    routes := Config.routeTable.map fun e => (e.1, e.2 % 16 + e.2 / 128 % 2 * 128)
    idkey := Config.identityKey
    elog := Config.logBase
    trace := Config.traceBase
    prof := Config.profBase
    synced := Config.timeLeader == Config.deviceId }

/-- MODULE_RESET: firmware and memory channels, each of which may stop bring-up; then the host links, and every port enters RESET. -/
def execModuleReset (s : State) : Out :=
  .next (
    let s0 := resetKeep s
    let digest := Config.shake256 Config.firmware
    let s1 := s0.modDev fun d => { d with digest := digest }
    if !Config.ed448Verify digest Config.firmwareSignature then s1.modDev fun d => { d with bstat := 1 }
    else if !Config.memoryTrains then s1.modDev fun d => { d with bstat := 2 }
    else
      let s2 := s1.modDev fun d => { configured d with hostUp := Vector.ofFn fun l => Config.hostTrains l.val }
      (forN 12 s2 fun g t => enterPort t g .reset).modDev fun d => { d with training := some (List.range 12) })

/-! ## The walker and the 1 us poll -/

/-- TRANSLATION_WALK_DONE: the walker answers an agent's access; a stream context that stood still for its refill goes on. -/
def execTranslationWalkDone (who : Walker) (s : State) : Out :=
  .next (match who with
    | .agent core slot id => walkAnswer s core slot id
    | .context e c =>
      let x := s.ctx (ctxKey e c)
      if x.status = .waiting then s.setCtx (ctxKey e c) { x with status := .running, wakeAt := s.cycle, walked := true } else s)

/-- The far word that an agent's MONW or TLWAIT waits for, and its width; none where it waits for nothing far. -/
def farWait (s : State) (g : Agent) : Option (Loc × Nat) :=
  let at_ := fun (m : MemOp) (n : Nat) => match resolveCached s g (g.ea m) .read with
    | .ok l => if l.place.far then some (l, n) else none
    | .error _ => none
  match decode (s.wordAt g g.pc) 0 with
  | .instr (.monw is64 _ m) => at_ m (atomBytes is64)
  | .instr (.tlwait _ m) => at_ m 8
  | _ => none

/-- MONITOR_POLL: the word is read at its home once; the waiter tests what was read. -/
def execMonitorPoll (who : Poller) (s : State) : Out :=
  .next (match who with
    | .agent core slot => match s.agent (agentKey core slot) with
      | none => s
      | some g => match farWait s g with
        | none => s
        | some (l, n) =>
          State.setAgent { s with free := s.free + 1 } g.key { g with polled := some (leWord (rdPlace s l.place n)) }
    | .context e c =>
      let x := s.ctx (ctxKey e c)
      if x.status = .waiting then s.setCtx (ctxKey e c) { x with status := .running, wakeAt := s.cycle } else s
    | .ringer g =>
      let x := s.ringer g
      if x.status = .waiting then s.setRinger g { x with status := .running, wakeAt := s.cycle } else s)

/-! ## NOP (R107) -/

/-- An agent passes over it; an engine or a ringer completes it at once, numbered on its program's timeline (R278). -/
def execNop (s : State) : Out :=
  match s.turn with
  | .agent c k => match s.agent (agentKey c k) with
    | some g => .next (s.setAgent g.key g.next)
    | none => .fault .noExecutor
  | .context e c =>
    let x := s.ctx (ctxKey e c)
    .next (s.setCtx (ctxKey e c) { x.past.completed with wakeAt := s.cycle + 1 })
  | .ringer g =>
    let x := s.ringer g
    .next (s.setRinger g (x.past.completed (s.cycle + 1)))
  | .nobody | .window => .fault .noExecutor

end Sys2Proof.Machine
end

