-- ==== Sys2Proof/Machine/Scalar.lean ====
section
/-! DEFINITION. Scalar integer instructions, 0x00 to 0x18 (05 R102; entries of 19 to 21). -/

namespace Sys2Proof.Machine

open Sys2Proof

/-- sd := v, and on to the next word. -/
def putS (s : State) (d : Reg) (v : Agent → Word) : Out := agentOp s fun g => .ok (g.setS d (v g)).next

/-- pd := b, and on. -/
def putP (s : State) (d : PReg) (b : Agent → Bool) : Out := agentOp s fun g => .ok (g.setP d (b g)).next

/-- R323. -/
def execAdd (d a b : Reg) (s : State) : Out := putS s d fun g => g.sr a + g.sr b
def execAddi (d a : Reg) (imm : BitVec 40) (s : State) : Out := putS s d fun g => g.sr a + imm.signExtend 64
/-- R409. -/
def execSub (d a b : Reg) (s : State) : Out := putS s d fun g => g.sr a - g.sr b

/-- The half of the 128-bit product (R383). -/
def mulWord (f : MulFn) (x y : Word) : Word :=
  match f with
  | .low => x * y
  | .hi => ((x.signExtend 128 * y.signExtend 128) >>> 64).truncate 64
  | .hiu => ((x.zeroExtend 128 * y.zeroExtend 128) >>> 64).truncate 64

/-- R383. -/
def execMul (f : MulFn) (d a b : Reg) (s : State) : Out := putS s d fun g => mulWord f (g.sr a) (g.sr b)

/-- Quotient truncated toward zero; −2^63 / −1 wraps (R350). -/
def divWord (u : Bool) (x y : Word) : Word := if u then x / y else x.sdiv y
/-- Remainder with the sign of the dividend (R391). -/
def remWord (u : Bool) (x y : Word) : Word := if u then x % y else x.srem y

/-- R350: a zero divisor faults whatever `%ftrap` holds. -/
def execDiv (u : Bool) (d a b : Reg) (s : State) : Out :=
  agentOp s fun g => if g.sr b = 0 then .fault g 0x40 else .ok (g.setS d (divWord u (g.sr a) (g.sr b))).next
/-- R391. -/
def execRem (u : Bool) (d a b : Reg) (s : State) : Out :=
  agentOp s fun g => if g.sr b = 0 then .fault g 0x40 else .ok (g.setS d (remWord u (g.sr a) (g.sr b))).next

/-- R324. -/
def execAnd (d a b : Reg) (s : State) : Out := putS s d fun g => g.sr a &&& g.sr b
def execAndi (d a : Reg) (imm : BitVec 40) (s : State) : Out := putS s d fun g => g.sr a &&& imm.signExtend 64
/-- R385. -/
def execOr (d a b : Reg) (s : State) : Out := putS s d fun g => g.sr a ||| g.sr b
def execOri (d a : Reg) (imm : BitVec 40) (s : State) : Out := putS s d fun g => g.sr a ||| imm.signExtend 64
/-- R434. -/
def execXor (d a b : Reg) (s : State) : Out := putS s d fun g => g.sr a ^^^ g.sr b
def execXori (d a : Reg) (imm : BitVec 40) (s : State) : Out := putS s d fun g => g.sr a ^^^ imm.signExtend 64

/-- Shifts by an unsigned count; 64 and more shift every bit out (R398). -/
def shlWord (x n : Word) : Word := if n.ult 64#64 then x <<< n else 0
def shrWord (ar : Bool) (x n : Word) : Word :=
  if ar then (if n.ult 64#64 then x.sshiftRight n.toNat else x.sshiftRight 63) else if n.ult 64#64 then x >>> n else 0

/-- R398. -/
def execShl (d a b : Reg) (s : State) : Out := putS s d fun g => shlWord (g.sr a) (g.sr b)
def execShli (d a : Reg) (n : BitVec 6) (s : State) : Out := putS s d fun g => shlWord (g.sr a) (n.zeroExtend 64)
def execShr (ar : Bool) (d a b : Reg) (s : State) : Out := putS s d fun g => shrWord ar (g.sr a) (g.sr b)
def execShri (ar : Bool) (d a : Reg) (n : BitVec 6) (s : State) : Out :=
  putS s d fun g => shrWord ar (g.sr a) (n.zeroExtend 64)

def minWord (u : Bool) (x y : Word) : Word := if (if u then x.ule y else x.sle y) then x else y
def maxWord (u : Bool) (x y : Word) : Word := if (if u then y.ule x else y.sle x) then x else y

/-- R373. -/
def execMin (u : Bool) (d a b : Reg) (s : State) : Out := putS s d fun g => minWord u (g.sr a) (g.sr b)
def execMax (u : Bool) (d a b : Reg) (s : State) : Out := putS s d fun g => maxWord u (g.sr a) (g.sr b)

/-- Leading zeros, 64 for 0 (R336). -/
def clzWord (x : Word) : Nat := if x = 0#64 then 64 else 63 - x.toNat.log2
/-- Number of 1 bits (R388). -/
def popWord (x : Word) : Nat := ((List.range 64).filter fun i => x.getLsbD i).length

def execClz (d a : Reg) (s : State) : Out := putS s d fun g => BitVec.ofNat 64 (clzWord (g.sr a))
def execPopc (d a : Reg) (s : State) : Out := putS s d fun g => BitVec.ofNat 64 (popWord (g.sr a))

/-- The low len bits set. -/
def lenMask (lenm1 : BitVec 6) : Word := BitVec.ofNat 64 (2 ^ (lenm1.toNat + 1) - 1)

/-- R329. -/
def bfxWord (x : Word) (pos lenm1 : BitVec 6) : Word := (x >>> pos.toNat) &&& lenMask lenm1
/-- R328. -/
def bfiWord (old x : Word) (pos lenm1 : BitVec 6) : Word :=
  (old &&& ~~~(lenMask lenm1 <<< pos.toNat)) ||| ((x &&& lenMask lenm1) <<< pos.toNat)

def execBfx (d a : Reg) (pos lenm1 : BitVec 6) (s : State) : Out := putS s d fun g => bfxWord (g.sr a) pos lenm1
def execBfi (d a : Reg) (pos lenm1 : BitVec 6) (s : State) : Out :=
  putS s d fun g => bfiWord (g.sr d) (g.sr a) pos lenm1

/-- R396. -/
def execSel (d a b : Reg) (p : PReg) (s : State) : Out := putS s d fun g => if g.pr p then g.sr a else g.sr b

/-- R338. -/
def execCmp (c : Cmp) (d : PReg) (a b : Reg) (s : State) : Out := putP s d fun g => icompare c (g.sr a) (g.sr b)
def execCmpi (c : Cmp) (d : PReg) (a : Reg) (imm : BitVec 36) (s : State) : Out :=
  putP s d fun g => icompare c (g.sr a) (imm.signExtend 64)

/-- R370. -/
def execLea (d a b : Reg) (sh : Fin 8) (s : State) : Out := putS s d fun g => g.sr a + (g.sr b <<< sh.val)

/-- R379. -/
def execMovi (d : Reg) (imm : BitVec 40) (s : State) : Out := putS s d fun _ => imm.signExtend 64
def execMovhi (d : Reg) (imm : BitVec 24) (s : State) : Out :=
  putS s d fun g => (imm ++ (g.sr d).extractLsb' 0 40 : BitVec (24 + 40))

end Sys2Proof.Machine
end

