-- ==== Sys2Proof/Machine/Dispatch.lean ====
section
/-! DEFINITION. The dispatcher: one arm per row of the opcode table, each a direct call of its meaning. -/

namespace Sys2Proof.Machine

open Sys2Proof

def exec (i : Instr) (s : State) : Host.Outcome State Fault Refusal :=
  match i with
  | .expressionLaunch hdr => Sys2Proof.Machine.execExpressionLaunch hdr s
  | .streamLaunch hdr => Sys2Proof.Machine.execStreamLaunch hdr s
  | .collectiveLaunch hdr => Sys2Proof.Machine.execCollectiveLaunch hdr s
  | .detectionSweep part => Sys2Proof.Machine.execDetectionSweep part s
  | .sweepComplete part => Sys2Proof.Machine.execSweepComplete part s
  | .presenceAnswer part rec idx val => Sys2Proof.Machine.execPresenceAnswer part rec idx val s
  | .deferralRetry who => Sys2Proof.Machine.execDeferralRetry who s
  | .admission part => Sys2Proof.Machine.execAdmission part s
  | .loadComplete part rec => Sys2Proof.Machine.execLoadComplete part rec s
  | .storageStep part => Sys2Proof.Machine.execStorageStep part s
  | .stepRetryAfterFixed part => Sys2Proof.Machine.execStepRetryAfterFixed part s
  | .storageStepComplete part => Sys2Proof.Machine.execStorageStepComplete part s
  | .cancelEffect part rec => Sys2Proof.Machine.execCancelEffect part rec s
  | .trapEnqueue part => Sys2Proof.Machine.execTrapEnqueue part s
  | .handlerRunStart part => Sys2Proof.Machine.execHandlerRunStart part s
  | .lateFaultRaise core slot => Sys2Proof.Machine.execLateFaultRaise core slot s
  | .chunkHop transfer => Sys2Proof.Machine.execChunkHop transfer s
  | .selfTestComplete unit pass => Sys2Proof.Machine.execSelfTestComplete unit pass s
  | .mswpEffect core => Sys2Proof.Machine.execMswpEffect core s
  | .mldbLand core => Sys2Proof.Machine.execMldbLand core s
  | .mmaStart core => Sys2Proof.Machine.execMmaStart core s
  | .mmaRowWrite core => Sys2Proof.Machine.execMmaRowWrite core s
  | .mmaComplete core => Sys2Proof.Machine.execMmaComplete core s
  | .mzeroEffect core => Sys2Proof.Machine.execMzeroEffect core s
  | .mstLand core id => Sys2Proof.Machine.execMstLand core id s
  | .mldcLand core id => Sys2Proof.Machine.execMldcLand core id s
  | .mrelEffect core c => Sys2Proof.Machine.execMrelEffect core c s
  | .tmldLand core slot => Sys2Proof.Machine.execTmldLand core slot s
  | .loadDataReturn core slot id => Sys2Proof.Machine.execLoadDataReturn core slot id s
  | .translationWalkDone who => Sys2Proof.Machine.execTranslationWalkDone who s
  | .granuleDrowsy core slot => Sys2Proof.Machine.execGranuleDrowsy core slot s
  | .treeJoinComplete part rec k => Sys2Proof.Machine.execTreeJoinComplete part rec k s
  | .vchainRow core slot => Sys2Proof.Machine.execVchainRow core slot s
  | .xmeanRow core slot => Sys2Proof.Machine.execXmeanRow core slot s
  | .engineFillLand engine ctx => Sys2Proof.Machine.execEngineFillLand engine ctx s
  | .postedWriteAck core slot id arrives => Sys2Proof.Machine.execPostedWriteAck core slot id arrives s
  | .peerAnswer core slot id data => Sys2Proof.Machine.execPeerAnswer core slot id data s
  | .monitorPoll who => Sys2Proof.Machine.execMonitorPoll who s
  | .ringerMessageArrival g msg => Sys2Proof.Machine.execRingerMessageArrival g msg s
  | .ctimeFire g => Sys2Proof.Machine.execCtimeFire g s
  | .preemptMarkerArrival part => Sys2Proof.Machine.execPreemptMarkerArrival part s
  | .cutComplete part => Sys2Proof.Machine.execCutComplete part s
  | .imageValid part => Sys2Proof.Machine.execImageValid part s
  | .restorePlacementEnd part => Sys2Proof.Machine.execRestorePlacementEnd part s
  | .pcbCancelRecord block => Sys2Proof.Machine.execPcbCancelRecord block s
  | .pcbCancelPartition block => Sys2Proof.Machine.execPcbCancelPartition block s
  | .pcbPreempt block => Sys2Proof.Machine.execPcbPreempt block s
  | .pcbRestore block => Sys2Proof.Machine.execPcbRestore block s
  | .pcbExtend block => Sys2Proof.Machine.execPcbExtend block s
  | .pcbRelease block => Sys2Proof.Machine.execPcbRelease block s
  | .idtabWrite v => Sys2Proof.Machine.execIdtabWrite v s
  | .apertureBaseWrite link v => Sys2Proof.Machine.execApertureBaseWrite link v s
  | .fcntWrite => Sys2Proof.Machine.execFcntWrite s
  | .attestRequest addr => Sys2Proof.Machine.execAttestRequest addr s
  | .peerSlotWrite slot v => Sys2Proof.Machine.execPeerSlotWrite slot v s
  | .arbitrationWrite idx v => Sys2Proof.Machine.execArbitrationWrite idx v s
  | .registerWrite dest v => Sys2Proof.Machine.execRegisterWrite dest v s
  | .bar2Read link off n => Sys2Proof.Machine.execBar2Read link off n s
  | .bar2Write link off bytes => Sys2Proof.Machine.execBar2Write link off bytes s
  | .moduleReset => Sys2Proof.Machine.execModuleReset s
  | .linkResetExpiry port => Sys2Proof.Machine.execLinkResetExpiry port s
  | .partnerDetect port lanes => Sys2Proof.Machine.execPartnerDetect port lanes s
  | .laneAlign port => Sys2Proof.Machine.execLaneAlign port s
  | .equalizeAgree port => Sys2Proof.Machine.execEqualizeAgree port s
  | .rateSelect port => Sys2Proof.Machine.execRateSelect port s
  | .verifyDone port failing => Sys2Proof.Machine.execVerifyDone port failing s
  | .identityExchange port dev hash => Sys2Proof.Machine.execIdentityExchange port dev hash s
  | .linkTrainingTimeout port => Sys2Proof.Machine.execLinkTrainingTimeout port s
  | .linkRetryWaitExpiry port => Sys2Proof.Machine.execLinkRetryWaitExpiry port s
  | .linkDown port => Sys2Proof.Machine.execLinkDown port s
  | .timebaseSyncGain leader => Sys2Proof.Machine.execTimebaseSyncGain leader s
  | .droopDetect v => Sys2Proof.Machine.execDroopDetect v s
  | .profileSample part => Sys2Proof.Machine.execProfileSample part s
  | .genChange part => Sys2Proof.Machine.execGenChange part s
  | .preciseStop core slot stop => Sys2Proof.Machine.execPreciseStop core slot stop s
  | .partitionWideStop part => Sys2Proof.Machine.execPartitionWideStop part s
  | .goContinue part seq => Sys2Proof.Machine.execGoContinue part seq s
  | .goStep part seq count => Sys2Proof.Machine.execGoStep part seq count s
  | .goReload part seq => Sys2Proof.Machine.execGoReload part seq s
  | .supplyRecovers v => Sys2Proof.Machine.execSupplyRecovers v s
  | .timebaseWithinTolerance => Sys2Proof.Machine.execTimebaseWithinTolerance s
  | .peerAccessArrival port id acc => Sys2Proof.Machine.execPeerAccessArrival port id acc s
  | .storePerformed core slot id => Sys2Proof.Machine.execStorePerformed core slot id s
  | .streamCommandComplete engine ctx => Sys2Proof.Machine.execStreamCommandComplete engine ctx s
  | .collectiveCommandComplete g => Sys2Proof.Machine.execCollectiveCommandComplete g s
  | .nop => Sys2Proof.Machine.execNop s
  | .add d a b => Sys2Proof.Machine.execAdd d a b s
  | .addi d a imm => Sys2Proof.Machine.execAddi d a imm s
  | .sub d a b => Sys2Proof.Machine.execSub d a b s
  | .mul f d a b => Sys2Proof.Machine.execMul f d a b s
  | .div u d a b => Sys2Proof.Machine.execDiv u d a b s
  | .rem u d a b => Sys2Proof.Machine.execRem u d a b s
  | .and d a b => Sys2Proof.Machine.execAnd d a b s
  | .andi d a imm => Sys2Proof.Machine.execAndi d a imm s
  | .or d a b => Sys2Proof.Machine.execOr d a b s
  | .ori d a imm => Sys2Proof.Machine.execOri d a imm s
  | .xor d a b => Sys2Proof.Machine.execXor d a b s
  | .xori d a imm => Sys2Proof.Machine.execXori d a imm s
  | .shl d a b => Sys2Proof.Machine.execShl d a b s
  | .shli d a n => Sys2Proof.Machine.execShli d a n s
  | .shr ar d a b => Sys2Proof.Machine.execShr ar d a b s
  | .shri ar d a n => Sys2Proof.Machine.execShri ar d a n s
  | .min u d a b => Sys2Proof.Machine.execMin u d a b s
  | .max u d a b => Sys2Proof.Machine.execMax u d a b s
  | .clz d a => Sys2Proof.Machine.execClz d a s
  | .popc d a => Sys2Proof.Machine.execPopc d a s
  | .bfx d a pos lenm1 => Sys2Proof.Machine.execBfx d a pos lenm1 s
  | .bfi d a pos lenm1 => Sys2Proof.Machine.execBfi d a pos lenm1 s
  | .sel d a b p => Sys2Proof.Machine.execSel d a b p s
  | .cmp c d a b => Sys2Proof.Machine.execCmp c d a b s
  | .cmpi c d a imm => Sys2Proof.Machine.execCmpi c d a imm s
  | .lea d a b sh => Sys2Proof.Machine.execLea d a b sh s
  | .movi d imm => Sys2Proof.Machine.execMovi d imm s
  | .movhi d imm => Sys2Proof.Machine.execMovhi d imm s
  | .fadd rm d a b => Sys2Proof.Machine.execFadd rm d a b s
  | .fsub rm d a b => Sys2Proof.Machine.execFsub rm d a b s
  | .fmul rm d a b => Sys2Proof.Machine.execFmul rm d a b s
  | .fdiv rm d a b => Sys2Proof.Machine.execFdiv rm d a b s
  | .ffma rm d a b c => Sys2Proof.Machine.execFfma rm d a b c s
  | .fsqrt rm d a => Sys2Proof.Machine.execFsqrt rm d a s
  | .fmin d a b => Sys2Proof.Machine.execFmin d a b s
  | .fmax d a b => Sys2Proof.Machine.execFmax d a b s
  | .fcmp c d a b => Sys2Proof.Machine.execFcmp c d a b s
  | .fcvt cv rm d a => Sys2Proof.Machine.execFcvt cv rm d a s
  | .fclass d a => Sys2Proof.Machine.execFclass d a s
  | .fsf f rm d a => Sys2Proof.Machine.execFsf f rm d a s
  | .br h off => Sys2Proof.Machine.execBr h off s
  | .brx a => Sys2Proof.Machine.execBrx a s
  | .call h link off => Sys2Proof.Machine.execCall h link off s
  | .ret a => Sys2Proof.Machine.execRet a s
  | .loop h n off => Sys2Proof.Machine.execLoop h n off s
  | .plog d a b t => Sys2Proof.Machine.execPlog d a b t s
  | .pmov m => Sys2Proof.Machine.execPmov m s
  | .yield => Sys2Proof.Machine.execYield s
  | .done => Sys2Proof.Machine.execDone s
  | .ld size acq sc d m => Sys2Proof.Machine.execLd size acq sc d m s
  | .st size rel sc m d => Sys2Proof.Machine.execSt size rel sc m d s
  | .atom fn is64 o sc d base b c off => Sys2Proof.Machine.execAtom fn is64 o sc d base b c off s
  | .fence o sc => Sys2Proof.Machine.execFence o sc s
  | .ldp d m => Sys2Proof.Machine.execLdp d m s
  | .stp m d => Sys2Proof.Machine.execStp m d s
  | .psetEmpty m => Sys2Proof.Machine.execPsetEmpty m s
  | .psetPoison d m => Sys2Proof.Machine.execPsetPoison d m s
  | .monw is64 d m => Sys2Proof.Machine.execMonw is64 d m s
  | .vadd md k d a b => Sys2Proof.Machine.execVadd md k d a b s
  | .vsub md k d a b => Sys2Proof.Machine.execVsub md k d a b s
  | .vmul md k d a b => Sys2Proof.Machine.execVmul md k d a b s
  | .vfma md k d a b c => Sys2Proof.Machine.execVfma md k d a b c s
  | .vmin md k d a b => Sys2Proof.Machine.execVmin md k d a b s
  | .vmax md k d a b => Sys2Proof.Machine.execVmax md k d a b s
  | .vand k d a b => Sys2Proof.Machine.execVand k d a b s
  | .vor k d a b => Sys2Proof.Machine.execVor k d a b s
  | .vxor k d a b => Sys2Proof.Machine.execVxor k d a b s
  | .vshl k d a b => Sys2Proof.Machine.execVshl k d a b s
  | .vshr ar k d a b => Sys2Proof.Machine.execVshr ar k d a b s
  | .vcmp c iw k d a b => Sys2Proof.Machine.execVcmp c iw k d a b s
  | .vsel k d a b => Sys2Proof.Machine.execVsel k d a b s
  | .vcvt cv rm k d a => Sys2Proof.Machine.execVcvt cv rm k d a s
  | .vsf f rm k d a => Sys2Proof.Machine.execVsf f rm k d a s
  | .vred op md k d a => Sys2Proof.Machine.execVred op md k d a s
  | .vperm k d a b => Sys2Proof.Machine.execVperm k d a b s
  | .vshuf k d a b => Sys2Proof.Machine.execVshuf k d a b s
  | .vbc k d a => Sys2Proof.Machine.execVbc k d a s
  | .vidx k d => Sys2Proof.Machine.execVidx k d s
  | .vld acq sc d m => Sys2Proof.Machine.execVld acq sc d m s
  | .vst rel sc m d => Sys2Proof.Machine.execVst rel sc m d s
  | .vgath sc d base idx off => Sys2Proof.Machine.execVgath sc d base idx off s
  | .vscat sc base idx off d => Sys2Proof.Machine.execVscat sc base idx off d s
  | .vchain a n => Sys2Proof.Machine.execVchain a n s
  | .klog d a b t => Sys2Proof.Machine.execKlog d a b t s
  | .kmov m => Sys2Proof.Machine.execKmov m s
  | .mma chk c a b m n k fa fb => Sys2Proof.Machine.execMma chk c a b m n k fa fb s
  | .mldb f tr m => Sys2Proof.Machine.execMldb f tr m s
  | .mzero c => Sys2Proof.Machine.execMzero c s
  | .mst m c => Sys2Proof.Machine.execMst m c s
  | .mldc c m => Sys2Proof.Machine.execMldc c m s
  | .macq c => Sys2Proof.Machine.execMacq c s
  | .mrel c => Sys2Proof.Machine.execMrel c s
  | .tmset src => Sys2Proof.Machine.execTmset src s
  | .tmld m n => Sys2Proof.Machine.execTmld m n s
  | .vmean k d a => Sys2Proof.Machine.execVmean k d a s
  | .xmean ring d a b => Sys2Proof.Machine.execXmean ring d a b s
  | .tmean d a => Sys2Proof.Machine.execTmean d a s
  | .symr d b imm => Sys2Proof.Machine.execSymr d b imm s
  | .symq q d b imm => Sys2Proof.Machine.execSymq q d b imm s
  | .emit a => Sys2Proof.Machine.execEmit a s
  | .emitt a b => Sys2Proof.Machine.execEmitt a b s
  | .tbc d a imm => Sys2Proof.Machine.execTbc d a imm s
  | .tred op d a => Sys2Proof.Machine.execTred op d a s
  | .tscan op ex d a => Sys2Proof.Machine.execTscan op ex d a s
  | .tdesc d a imm => Sys2Proof.Machine.execTdesc d a imm s
  | .cancel a => Sys2Proof.Machine.execCancel a s
  | .chime lin f sc d a b => Sys2Proof.Machine.execChime lin f sc d a b s
  | .rinit m => Sys2Proof.Machine.execRinit m s
  | .acqs d m => Sys2Proof.Machine.execAcqs d m s
  | .fill m a => Sys2Proof.Machine.execFill m a s
  | .awaitf d m => Sys2Proof.Machine.execAwaitf d m s
  | .rels m => Sys2Proof.Machine.execRels m s
  | .wait l sv c x => Sys2Proof.Machine.execWait l sv c x s
  | .tlwait d m => Sys2Proof.Machine.execTlwait d m s
  | .tlinc m d => Sys2Proof.Machine.execTlinc m d s
  | .mfs d n => Sys2Proof.Machine.execMfs d n s
  | .mts n a => Sys2Proof.Machine.execMts n a s
  | .trap n => Sys2Proof.Machine.execTrap n s
  | .rftResume => Sys2Proof.Machine.execRftResume s
  | .rftSkip => Sys2Proof.Machine.execRftSkip s
  | .rftRetry => Sys2Proof.Machine.execRftRetry s
  | .rftPoison => Sys2Proof.Machine.execRftPoison s
  | .rftAbort => Sys2Proof.Machine.execRftAbort s
  | .sqput sys a m => Sys2Proof.Machine.execSqput sys a m s
  | .invtlbAsid a => Sys2Proof.Machine.execInvtlbAsid a s
  | .invtlbPage a => Sys2Proof.Machine.execInvtlbPage a s
  | .invtlbAll => Sys2Proof.Machine.execInvtlbAll s
  | .errinj kind a b => Sys2Proof.Machine.execErrinj kind a b s
  | .spat n desc => Sys2Proof.Machine.execSpat n desc s
  | .spush rows ring => Sys2Proof.Machine.execSpush rows ring s
  | .spull rows ring => Sys2Proof.Machine.execSpull rows ring s
  | .scopy rows => Sys2Proof.Machine.execScopy rows s
  | .sgath rows list => Sys2Proof.Machine.execSgath rows list s
  | .sroute desc => Sys2Proof.Machine.execSroute desc s
  | .sloopSet n c => Sys2Proof.Machine.execSloopSet n c s
  | .sloop n off => Sys2Proof.Machine.execSloop n off s
  | .swait v addr => Sys2Proof.Machine.execSwait v addr s
  | .ssigSt v addr => Sys2Proof.Machine.execSsigSt v addr s
  | .ssigAdd v addr => Sys2Proof.Machine.execSsigAdd v addr s
  | .ssigMax v addr => Sys2Proof.Machine.execSsigMax v addr s
  | .schk flags tensor => Sys2Proof.Machine.execSchk flags tensor s
  | .csend p addr => Sys2Proof.Machine.execCsend p addr s
  | .crecv p addr => Sys2Proof.Machine.execCrecv p addr s
  | .crrs p addr => Sys2Proof.Machine.execCrrs p addr s
  | .crrl all p addr => Sys2Proof.Machine.execCrrl all p addr s
  | .ccopy p addr => Sys2Proof.Machine.execCcopy p addr s
  | .cwait v addr => Sys2Proof.Machine.execCwait v addr s
  | .csigSt v addr => Sys2Proof.Machine.execCsigSt v addr s
  | .csigAdd v addr => Sys2Proof.Machine.execCsigAdd v addr s
  | .csigMax v addr => Sys2Proof.Machine.execCsigMax v addr s
  | .cloopSet n c => Sys2Proof.Machine.execCloopSet n c s
  | .cloop n off => Sys2Proof.Machine.execCloop n off s
  | .cpeer k lp add j abs d => Sys2Proof.Machine.execCpeer k lp add j abs d s
  | .ctime slot t => Sys2Proof.Machine.execCtime slot t s
  | .csendv tag desc => Sys2Proof.Machine.execCsendv tag desc s
  | .crecvv tag desc => Sys2Proof.Machine.execCrecvv tag desc s
  | .cmaxe p addr => Sys2Proof.Machine.execCmaxe p addr s
  | .cstop => Sys2Proof.Machine.execCstop s
  | .mswp => Sys2Proof.Machine.execMswp s
  | .tbar => Sys2Proof.Machine.execTbar s
  | .ebrk => Sys2Proof.Machine.execEbrk s
  | .sstop => Sys2Proof.Machine.execSstop s

end Sys2Proof.Machine
end

