-- ==== Sys2Proof/Machine/Fetch.lean ====
section
/-! DEFINITION. What a fetched word is (05 R107, R108), guards (04 R82), what holds an instruction (R55, R80, R81, R89, R90), the
choice of a core's two instructions a cycle (02 R55, 07 R135), a turn of a stream context and of a ringer. -/

namespace Sys2Proof.Machine

open Sys2Proof

/-- An outcome followed by more. -/
def andThen (o : Out) (f : State → Out) : Out :=
  match o with
  | .next s => f s
  | .fault r => .fault r
  | .refused r => .refused r

/-! ## The fate of a word (R107) -/

/-- What a word comes to with its executor: an instruction, or the cause of an instruction-class fault. -/
inductive Fetched where
  | run (i : Instr)
  | cause (c : Nat)
  deriving DecidableEq, Repr

/-- Privileged majors (R106): PSET, RFT, INVTLB, ERRINJ. -/
def privileged (m : Nat) : Bool := m = 0x46 || m = 0x9B || m = 0x9E || m = 0x9F

/-- Majors that the service agent may not execute (R106, R413): symbol and tree instructions, TMEAN. -/
def cellMajor (m : Nat) : Bool := (0x80 ≤ m && m ≤ 0x87) || m = 0x7C

/-- A special-register number that the instruction may not name (R75). -/
def badSpecial (s : State) (g : Agent) (i : Instr) : Bool :=
  match i with
  | .mfs _ n => (readSpecial s g n.toNat).isNone
  | .mts n _ => !((0x10 ≤ n.toNat && n.toNat ≤ 0x17) || (0x20 ≤ n.toNat && n.toNat ≤ 0x23))
  | _ => false

/-- A reserved value in a field that a well-formed word may hold (R106, R145). -/
def badField : Instr → Bool
  | .tdesc _ _ imm => imm.toNat % 8 ≠ 0 || 64 ≤ imm.toNat
  | .tmset (.imm v) => tmsReserved v
  | _ => false

/-- The first row of R107 that fits a word met by an agent; then R73. -/
def agentFetch (s : State) (g : Agent) (w : Word) : Fetched :=
  let r := rowOf w
  let m := (major w).toNat
  if w = BitVec.allOnes 64 then .cause 0x3D
  else if w = 0#64 then .run .nop
  else if r = 0xA then .cause 0x2B
  else if r = 0xB then .cause 0x2F
  else match decode w 0 with
    | .instr i =>
      if privileged m && !g.service then .cause (4 * r + 2)
      else if (cellMajor m && g.service) || (vregsOf i).any (fun v => 4 * g.gran ≤ v) || badSpecial s g i || badField i then .cause (4 * r + 1)
      else .run i
    | .reserved => if privileged m && !g.service then .cause (4 * r + 2) else .cause (4 * r + 1)
    | .undefined => .cause (4 * r)
    | .allOnes => .cause 0x3D

/-- The first row of R107 that fits a word met by an engine whose commands stand in row `own`. Any word of the rows 0x0 to 0x9 is
one of the wrong engine; of the other engine's row a command is, but a cell marked — holds none and is undefined (DEDUCED from
the order of the table's rows, log 31). A command of two words at the end of its program runs past the last word (R256). -/
def engineFetch (own : Nat) (w : Word) (w2 : Option Word) : Fetched :=
  let r := rowOf w
  if w = BitVec.allOnes 64 then .cause 0x3D
  else if w = 0#64 then .run .nop
  else if r < 0xA then .cause (4 * r + 3)
  else match decode w (w2.getD (BitVec.allOnes 64)) with
    | .undefined => .cause (4 * r)
    | .instr i => if r ≠ own then .cause (4 * r + 3) else if wordsOf w = 2 && w2.isNone then .cause 0x3D else .run i
    | .reserved => .cause (4 * r + if r = own then 1 else 3)
    | .allOnes => .cause 0x3D

/-! ## What holds an instruction -/

/-- Does the word's guard hold (R93)? -/
def guardHolds (g : Agent) (w : Word) : Bool := g.pr (guardOf w).p != (guardOf w).neg

/-- The word that the agent comes to: words with a false guard are dropped before issue (R82). -/
def nextWord (s : State) (g : Agent) : Nat → Nat → Nat
  | 0, pc => pc
  | n + 1, pc =>
    let w := s.wordAt g pc
    match agentFetch s { g with pc := pc } w with
    | .cause _ => pc
    | .run _ => if guardHolds g w then pc else nextWord s g n (pc + 1)

/-- A re-issued instruction passed its guard when it first issued. -/
def issuePc (s : State) (g : Agent) : Nat :=
  if g.redo ≠ [] then g.pc else nextWord s g (s.nwords g + 1 - g.pc) g.pc

def AccOp.dests : AccOp → List RName
  | .load _ d | .ldp d | .atom _ _ d _ _ | .tdesc d | .answered d _ => [.s d.val]
  | .vload d | .gather d _ => [.v d.val]
  | _ => []

/-- Registers that an operation is still to write (R90). -/
def unwritten (s : State) (g : Agent) : List RName :=
  (((g.busy.filter fun b => s.cycle < b.2).map (·.1)) ++ (g.outs.flatMap fun a => a.op.dests)).filter
    fun r => r ≠ .s 0 && r ≠ .p 0 && r ≠ .k 0

/-- Those, and what a chain keeps (R134). -/
def pendingRegs (s : State) (g : Agent) : List RName :=
  unwritten s g ++ ((s.core g.core).chains.filter fun c => c.slot = g.slot).flatMap Chain.names

/-- VSHUF waits for the register that it reads in another agent. -/
def sourceBusy (s : State) (g : Agent) (a : VNum) (b : Reg) : Bool :=
  match s.agentAt g.part g.rid (g.sr b).toNat with
  | none => false
  | some src => (pendingRegs s src).contains (.v a.val)

/-- Does the instruction wait for something that a later cycle may bring (R321)? -/
def waits (s : State) (g : Agent) (i : Instr) : Bool :=
  match i with
  | .monw is64 d m => (tryMonw is64 d m s g).waits
  | .tlwait d m => (tryTlwait d m s g).waits
  | .wait l st c x => (tryWait l st c x s g).waits
  | .rinit m => (tryRinit m s g).waits
  | .acqs d m => (tryAcqs d m s g).waits
  | .fill m a => (tryFill m a s g).waits
  | .awaitf d m => (tryAwaitf d m s g).waits
  | .rels m => (tryRels m s g).waits
  | .mma chk c a b m n k fa fb => (tryMma chk c a b m n k fa fb s g).waits
  | .mswp => (tryMswp s g).waits
  | .mzero c => (tryMzero c s g).waits
  | .mldb f tr m => (tryMldb f tr m s g).waits
  | .macq c => (tryMacq c s g).waits
  | .emitt a b => (tryEmitt a b s g).waits
  | .chime lin f sc d a b => (tryChime lin f sc d a b s g).waits
  | .tbar => (tryTbar s g).waits
  | .sqput sys a m => (trySqput sys a m s g).waits
  | .rftResume => (tryRft .resume s g).waits
  | .rftSkip => (tryRft .skip s g).waits
  | .rftRetry => (tryRft .retry s g).waits
  | .rftPoison => (tryRft .poison s g).waits
  | .rftAbort => (tryRft .abort s g).waits
  | .done => (tryDone s g).waits
  | .vshuf _ _ a b => sourceBusy s g a b
  | _ => false

/-- Instructions that use their own scratchpad as they issue: rings, chains, payloads. -/
def usesPad : Instr → Bool
  | .emitt _ _ | .chime .. | .rinit _ | .acqs _ _ | .fill _ _ | .awaitf _ _ | .rels _ | .vchain .. | .xmean .. => true
  | _ => false

/-- A fenced unit that the instruction needs (R208): the instruction cache, the vector unit, the register pool, the matrix
engine, its own scratchpad. -/
def unitFenced (s : State) (core : Nat) (u : IUnit) (i : Instr) : Bool :=
  fencedOn s (coreHop 13 core 0 :: ((if u = .vector then [coreHop 11 core 0] else []) ++ (if u = .matrix then [coreHop 10 core 0] else [])
    ++ (if (vregsOf i).isEmpty then [] else [coreHop 14 core 0]) ++ (if usesPad i then [coreHop 9 core 0] else [])))

/-- Its loads and stores but for the asynchronous ones, which no fence orders, and the waits and ring transitions, which ask for
themselves (R184, R187). -/
def ordinary (s : State) (g : Agent) (i : Instr) : List (Word × Bool) :=
  match i with
  | .mldb .. | .mldc .. | .mst .. | .vchain .. | .rinit _ | .acqs _ _ | .fill _ _ | .awaitf _ _ | .rels _ => []
  | .tlinc m _ => [(g.ea m, true)]
  | .sqput _ _ m => [(g.ea m, true)]
  | i => (touched s g i).map fun t => (t.1, t.2.2)

/-- Does a fence that still waits for earlier accesses keep the instruction not ready (R359)? An access whose page does not translate
is kept like one to another place than the own scratchpad. -/
def fenceKeeps (s : State) (g : Agent) (i : Instr) : Bool :=
  let fs := g.outs.filter (·.op.isFence)
  !fs.isEmpty && (ordinary s g i).any fun t => fs.any fun f => match f.op, resolveNow s g t.1 .read with
    | .fence o, .ok l => fenceHolds g.core o f.scope l.place t.2
    | .fence o, .error _ => decide (f.scope ≠ .core) && (o ≠ .rel || t.2)
    | _, _ => false

/-- Is the instruction held (R55, R89, R90, R120, R359)? `g` stands at its word. -/
def held (s : State) (g : Agent) (w : Word) (i : Instr) : Bool :=
  let regs := pendingRegs s g
  (namesOf i).any (regs.contains ·) || regs.contains (.p (guardOf w).p.val) || (regs.contains .seed && usesSeed g.frm i) || fenceKeeps s g i
    || ((classOf i).map fun c => decide (63 ≤ g.count c)).getD false
    || unitFenced s g.core (unitOf w) i || waits s g i

/-- Does the area run in this cycle? One that faults in it stands still from the next one on (R221). -/
def Record.goes (r : Record) (now : Nat) : Bool :=
  r.state = .running || (r.state = .faulted && r.since = now && r.was = .running)

/-- May the agent issue at all in this cycle: not ended, held, joining, trapped or late, its code in its core (R53), its area neither frozen
nor cut? Rows of an
XMEAN under way are within one instruction: a late fault waits for its end (R436). -/
def mayIssue (s : State) (g : Agent) : Bool :=
  g.status = .running && g.wakeAt ≤ s.cycle && (g.late.isEmpty || g.xrow.isSome) && g.again.isEmpty && g.trapped.isNone &&
    ((s.micro g.core g.part g.oper).map fun m => decide (m.readyAt ≤ s.cycle)).getD false &&
    (match s.part g.part with
     | none => false
     | some p =>
       (match p.pre with
        | .cut _ | .saved => false
        | _ => true) &&
       ((g.service && (g.halted.isNone || g.stepLeft.isSome)) || (!g.service &&
         match p.rec? g.rid with
          | none => false
          | some r => r.goes s.cycle && (r.stopped.isNone || g.stepLeft.isSome))))

/-! ## Candidates for a slot -/

inductive CandKind where
  | instr (i : Instr)
  | cause (c : Nat)
  /-- the next row of an XMEAN under way -/
  | xrow
  /-- the next body word of a chain -/
  | chain (c : Chain)
  deriving DecidableEq, Repr

structure Cand where
  slot : Nat
  pc : Nat
  kind : CandKind
  unit : IUnit
  prio : Nat
  deriving DecidableEq, Repr

/-- A chain counts beside its agent (R135). -/
def Cand.id (c : Cand) : Nat :=
  match c.kind with
  | .chain _ => 128 + c.slot
  | _ => c.slot

def prioOf (s : State) (g : Agent) : Nat := ((s.rec? g.part g.rid).map (·.prio)).getD 0

/-- What an agent would issue now. -/
def agentCand (s : State) (g : Agent) : Option Cand :=
  if !mayIssue s g then none
  else match g.xrow with
    | some x => if (xmeanTake s g x).waits || fencedOn s [coreHop 11 g.core 0, coreHop 9 g.core 0] then none else some ⟨g.slot, g.pc, .xrow, .vector, prioOf s g⟩
    | none =>
      let h := { g with pc := issuePc s g }
      let w := s.wordAt h h.pc
      match agentFetch s h w with
      | .cause c => some ⟨g.slot, h.pc, .cause c, .plain, prioOf s g⟩
      | .run i =>
        if held s h w i || (g.drowsy && !(vregsOf i).isEmpty) then none
        else some ⟨g.slot, h.pc, .instr i, unitOf w, prioOf s g⟩

def RowAt.waits : RowAt → Bool
  | .wait => true
  | _ => false

/-- Does the chain have a body word to issue? The last word needs its row's input and output; none issues while an operation is
still to write a register of the chain (R90, R134). -/
def chainReady (s : State) (g : Agent) (c : Chain) : Bool :=
  !(c.frozen && c.at_ = 0) && c.wakeAt ≤ s.cycle && !fencedOn s [coreHop 11 g.core 0, coreHop 9 g.core 0] && !((unwritten s g).any c.names.contains) &&
    ((c.at_ ≠ 0 && c.at_ + 1 < c.body.length) || !((chainIn s g.core c).waits || (chainOut s g c).waits || chainHeld s g.core c))

/-- The first chain of each agent of the core, in row order. -/
def chainCands (s : State) (core : Nat) (gs : List Agent) : List Cand :=
  gs.filterMap fun g => match (s.core core).chains.find? fun c => c.slot = g.slot with
    | none => none
    | some c => if chainReady s g c && !g.drowsy then some ⟨g.slot, c.pc + 1 + c.at_, .chain c, .vector, prioOf s g⟩ else none

/-- A unit that an earlier selection of the cycle has taken. -/
def unitTaken (c : Core) (u : IUnit) : Bool :=
  match u with
  | .plain => false
  | .vector => c.vecUsed
  | .matrix => c.matUsed
  | .symbol => c.symUsed

/-- Everything in a core that is ready, in row order; `tried` are those that have issued or been stopped in this cycle. -/
def ready (s : State) (core : Nat) (tried : List Nat) : List Cand :=
  let gs := (s.agents.map (·.2)).filter fun g => g.core = core
  ((gs.filterMap (agentCand s)) ++ chainCands s core gs).filter fun c => !tried.contains c.id

/-- Those whose unit is not taken. -/
def cands (s : State) (core : Nat) (tried : List Nat) : List Cand := (ready s core tried).filter fun c => !unitTaken (s.core core) c.unit

/-- Round-robin rank within a class (R55): from behind the class's position, wrapping once. -/
def Cand.rank (c : Cand) (x : Core) : Nat :=
  let last : Option Nat := (x.rr.toList.getD c.prio none)
  let behind := (last.map fun l => decide (c.slot ≤ l)).getD false
  2 * c.slot + (if c.id = c.slot then 0 else 1) + (if behind then 256 else 0)

/-- The service agent, then one passed by 64 instructions, then the classes in descending priority. -/
def Cand.before (x : Core) (a b : Cand) : Bool :=
  let key := fun (c : Cand) =>
    if c.slot = 64 then 0 else if 64 ≤ (Tbl.find x.passed c.id).getD 0 then 1 else 2 + (7 - c.prio)
  key a < key b || (key a = key b && a.rank x ≤ b.rank x)

def pick (s : State) (core : Nat) (tried : List Nat) : Option Cand :=
  (sortBy (Cand.before (s.core core)) (cands s core tried)).head?

/-! ## Issue -/

/-- What records of this cycle may name of the issue (R303, R313). -/
def issuedBy (s : State) (core : Nat) (c : Cand) : Issued :=
  match s.agent (agentKey core c.slot) with
  | some g => let nd := nodeAt s g c.pc; ⟨c.slot, g.rid, g.lcell, g.oper, c.pc, nd.1, nd.2⟩
  | none => ⟨c.slot, 0, 0, 0, c.pc, 0, []⟩

/-- The slot is taken: by word, unit and class position. -/
def takeSlot (s : State) (core : Nat) (c : Cand) : State :=
  s.modCore core fun x =>
    { x with
      issued := x.issued ++ [issuedBy s core c]
      vecUsed := x.vecUsed || c.unit = .vector
      matUsed := x.matUsed || c.unit = .matrix
      symUsed := x.symUsed || c.unit = .symbol
      passed := Tbl.drop x.passed c.id
      rr := if c.slot = 64 then x.rr else x.rr.set! c.prio (some c.slot) }

/-- A step of the debugger counts its instruction: the last one stops the agent again, DONE lets the area run (R306). -/
def countStep (s : State) (g : Agent) : State :=
  match g.stepLeft with
  | none => s
  | some (n, k) =>
    -- the rows of an XMEAN are one instruction
    if g.xrow.isSome then s
    else if g.status = .ended then runArea (s.setAgent g.key { g with stepLeft := none, stepSlots := none }) g.part g.rid
    else if n ≤ 1 then stopAgent s g k
    else s.setAgent g.key { g with stepLeft := some (n - 1, k) }

/-- What issue leaves behind in the agent: it is awake, and behind a re-issued instruction it goes on at the next one to re-issue
or where it stood. -/
def afterIssue (key pc : Nat) (s : State) : State :=
  match s.agent key with
  | none => s
  | some g =>
    let h : Agent := { g with lastIssue := s.cycle, met := none, polled := none, begun := false }
    let q : Agent := match g.redo with
      | [] => h
      | n :: l => if g.pc = pc then h else { h with pc := n, redo := l }
    countStep (s.setAgent key q) q

/-- The agent stands at the word; an instruction that it has been stopped at is no longer matched. -/
def standAt (s : State) (g : Agent) (pc : Nat) (i : Option Instr) : State :=
  s.setAgent g.key { g with
    pc := pc
    flags0 := g.fflags
    passStop := if i = some Instr.ebrk then g.passStop else none }

/-- Words whose issue ends the fill of their record (R311): scalar float, vector arithmetic, matrix, transformed mean. -/
def working (w : Word) : Bool := (rowOf w = 2 && colOf w ≤ 0xB) || rowOf w = 5 || (rowOf w = 7 && colOf w ≤ 0xC)

/-- Such an issue, or a satisfied AWAITF, ends the fill of the agent's record (R311). -/
def endFill (s : State) (key pc : Nat) (i : Instr) : State :=
  let awaited : Bool := match i with
    | .awaitf _ _ => true
    | _ => false
  match s.agent key with
  | none => s
  | some g => if working (s.wordAt g pc) || (awaited && g.trapped.isNone) then beginSteady s g else s

/-- Run one instruction of an agent: exec with the turn, then what issue leaves behind. -/
def runInstr (s : State) (core slot pc : Nat) (i : Instr) : Out :=
  andThen (exec i { s with turn := .agent core slot }) fun t =>
    .next (afterIssue (agentKey core slot) pc (endFill { t with turn := .nobody } (agentKey core slot) pc i))

/-- A precise stop at the word instead of its issue (R306, R307); partition-wide slots only note the stop (R309). -/
def stopHere (l : List (StopSlot × Nat)) : Option Nat := (l.find? fun x => !x.1.wide).map (·.2)

/-- Has the agent taken a fault in this cycle, or is it not there any more? -/
def faulted (s : State) (key : Nat) : Bool := ((s.agent key).map fun g => g.trapped.isSome || !g.late.isEmpty).getD false

/-- A body word of a chain takes the slot; the last one performs the row (R134, R135). -/
def chainWord (s : State) (core : Nat) (c : Chain) : Out :=
  if c.at_ + 1 < c.body.length then
    .next (s.modCore core fun x => { x with chains := mapIf (fun y => y.slot = c.slot ∧ y.id = c.id) (fun y => { y with at_ := y.at_ + 1 }) x.chains })
  else exec (.vchainRow core c.slot) s

/-- One selected candidate. One that a stop holds takes no slot; one that faults where it would stop takes the fault (R310). -/
def issueCand (s : State) (core : Nat) (c : Cand) : Out :=
  match c.kind, s.agent (agentKey core c.slot) with
  | _, none => .next s
  | .chain ch, some g => chainWord (beginSteady (takeSlot s core c) g) core ch
  | .xrow, some g => andThen (exec (.xmeanRow core c.slot) (takeSlot (s.setAgent g.key { g with flags0 := g.fflags }) core c)) fun t => .next (afterIssue (agentKey core c.slot) c.pc t)
  | .cause k, some g =>
    let h := { g with pc := c.pc }
    let s1 := takeSlot (standAt s h c.pc none) core c
    .next (afterIssue h.key c.pc (match s1.agent h.key with
      | some q => faultNow s1 q k
      | none => s1))
  | .instr i, some g =>
    let h := { g with pc := c.pc }
    let run := fun (t : State) => runInstr (takeSlot (standAt t h c.pc (some i)) core c) core c.slot c.pc i
    let m := matching s h (some i)
    if m.isEmpty then run s
    else match run s, stopHere m with
      | .next t, stop =>
        if faulted t h.key then .next t
        else match stop with
          | some x => .next (stopAgent (wideStops (s.setAgent h.key h) h m) h x)
          | none => run (wideStops s h m)
      | o, _ => o

/-- Would the agent access a vector register now: its next instruction, or the next row of an XMEAN? -/
def reaches (s : State) (g : Agent) : Bool :=
  mayIssue s g && (match g.xrow with
    | some x => !(xmeanTake s g x).waits
    | none =>
      let h := { g with pc := issuePc s g }
      let w := s.wordAt h h.pc
      match agentFetch s h w with
      | .cause _ => false
      | .run i => !(vregsOf i).isEmpty && !held s h w i)

/-- A drowsy agent that accesses a vector register, itself or by its chain, wakes: the access comes six cycles late (R81). -/
def wakeAgent (s : State) (g : Agent) : State :=
  if !g.drowsy then s
  else
    let chain := (s.core g.core).chains.find? fun c => c.slot = g.slot
    let byChain := (chain.map (chainReady s g)).getD false
    if reaches s g then s.setAgent g.key { g with drowsy := false, wakeAt := s.cycle + 6 }
    else if byChain then (s.setAgent g.key { g with drowsy := false }).modCore g.core fun c =>
      { c with chains := mapIf (fun y => y.slot = g.slot) (fun y => { y with wakeAt := s.cycle + 6 }) c.chains }
    else s

/-- At an instruction boundary of an area that runs, a held late fault is raised before the agent issues (R436), and accesses that
RESUME issues again leave once their class has room (R227). -/
def boundary (s : State) (key : Nat) : State :=
  match s.agent key with
  | none => s
  | some g =>
    let runs := (g.service && (g.halted.isNone || g.stepLeft.isSome)) || ((s.rec? g.part g.rid).map fun r => r.state = .running && (r.stopped.isNone || g.stepLeft.isSome)).getD false
    if !runs then s
    else match g.late with
      | f :: t => if g.atBoundary then let h := { g with late := t }; agentFault (s.setAgent key h) h f else s
      | [] => g.again.foldl (fun t id => match t.agent key with
          | some h => reissue t h id
          | none => t) s

/-- Those still ready, their unit among the free ones, have been passed by n instructions more; the others are ready no longer (R55). -/
def countPassed (core n : Nat) (tried : List Nat) (s : State) : State :=
  let x := s.core core
  let left := (cands s core tried).map Cand.id
  s.modCore core fun y => { y with passed := left.map fun k => (k, (Tbl.find x.passed k).getD 0 + n) }

/-- Up to two instructions of two agents (R55). -/
def issueLoop (core : Nat) : Nat → List Nat → State → Out
  | 0, tried, s => .next (countPassed core 0 tried s)
  | n + 1, tried, s =>
    if 2 ≤ (s.core core).issued.length then .next (countPassed core 0 tried s)
    else match pick s core tried with
      | none => .next (countPassed core 0 tried s)
      | some c => andThen (issueCand s core c) fun t =>
          issueLoop core n (c.id :: tried) (countPassed core ((t.core core).issued.length - (s.core core).issued.length) (c.id :: tried) t)

/-- One cycle of a core: none while its voltage domain skips it (R298). -/
def issueCore (core : Nat) (s : State) : Out :=
  if (s.domain core).stretching then .next s
  else
    let keys := (s.agents.filter fun e => e.2.core = core).map (·.1)
    let s1 := keys.foldl boundary s
    let s2 := keys.foldl (fun t k => match t.agent k with
      | some g => wakeAgent t g
      | none => t) s1
    issueLoop core (2 * keys.length + 2) [] s2

/-! ## Events -/

/-- The first event of a kind that is due, and the agenda without it. -/
def dueEvent (now : Nat) (p : Instr → Bool) : List (Nat × Instr) → Option (Instr × List (Nat × Instr))
  | [] => none
  | (d, i) :: t =>
    if now < d then none
    else if p i then some (i, t)
    else (dueEvent now p t).map fun r => (r.1, (d, i) :: r.2)

/-- The core whose access an event is. -/
def arrivalCore : Instr → Option Nat
  | .loadDataReturn c _ _ | .storePerformed c _ _ | .mldbLand c | .mstLand c _ | .mldcLand c _ | .tmldLand c _
  | .deferralRetry (.agent c _ _) => some c
  | _ => none

/-- Run what is due of a kind, also what it makes due; `fuel` bounds one cycle's work. Only events have a place on the agenda. Accesses
that arrive wait for their core's turn. -/
def runDue (p : Instr → Bool) : Nat → State → Out
  | 0, s => .next s
  | n + 1, s =>
    match dueEvent s.cycle p s.agenda with
    | none => .next s
    | some (i, rest) =>
      if (arrivalCore i).isSome then runDue p n { s with agenda := rest, arrivals := s.arrivals ++ [i] }
      else if i.isEvent then andThen (exec i { s with agenda := rest }) (runDue p n) else runDue p n { s with agenda := rest }

/-- Enough for everything on the agenda and what it makes due. -/
def eventFuel (s : State) : Nat := 4 * s.agenda.length + 4096

/-- The events of one part of the cycle. -/
def runEvents (band fuel : Nat) (s : State) : Out := runDue (fun i => eventBand i = band) fuel s

/-! ## Accesses that arrive at their homes (R171, R191, R277) -/

/-- The places of an access that arrives, as far as it is still to be performed. -/
def arrivalPlaces (s : State) (i : Instr) : List Place :=
  match i with
  | .loadDataReturn c k id | .storePerformed c k id => match s.agent (agentKey c k) with
    | none => []
    | some g => (g.outs.filter fun a => a.id = id).flatMap fun a => accPlaces s g a
  | .mstLand c id | .mldcLand c id => (s.core c).copies.flatMap fun x => match x, opAgent s c x.slot id with
      | .mst _ n _ a _ _, some g | .mldc _ n _ a _ _, some g => if n = id then (spansOf s g a 4096 false).map (·.place) else []
      | _, _ => []
  | .mldbLand c => (s.core c).copies.flatMap fun x => match x with
      | .mldb slot id _ _ _ _ _ _ _ _ _ => ((opAgent s c slot id).map fun g => (x.spans s g).map (·.place)).getD []
      | _ => []
  | .tmldLand c k => match s.agent (agentKey c k) with
    | some g => (match s.instrAt g with
      | some (.tmld m _) => (spansOf s g (g.ea m) 2080 false).map (·.place)
      | _ => [])
    | none => []
  | _ => []

/-- Has it a part that comes through the core window, to another core's scratchpad (R191), and one that does not? -/
def byWindow (s : State) (i : Instr) : Bool := (arrivalPlaces s i).any fun p => p.window ((arrivalCore i).getD 0)
def byHome (s : State) (i : Instr) : Bool :=
  match i with
  | .mldbLand _ => true
  | .loadDataReturn c _ _ | .storePerformed c _ _ => !byWindow s i || (arrivalPlaces s i).any fun p => !p.window c
  | _ => !byWindow s i

def execAll : List Instr → State → Out
  | [], s => .next s
  | i :: t, s => andThen (exec i s) (execAll t)

/-- Releases of tiles that a copy which has landed was the last to hold back (R143). -/
def runReleases (s : State) : Out :=
  runDue (fun i => match i with
    | .mrelEffect _ _ => true
    | _ => false) (eventFuel s) s

/-- The turn of a core: its accesses that arrive at their homes, in the order of their arrival, but for what of them comes through the
core window; then its issue slots. -/
def coreTurn (core : Nat) (s : State) : Out :=
  let mine := s.arrivals.filter fun i => arrivalCore i = some core && byHome s i
  let rest := s.arrivals.filter fun i => !(mine.contains i && !byWindow s i)
  andThen (execAll mine { s with arrivals := rest }) fun t => andThen (runReleases t) (issueCore core)

/-- Accesses through the core window come behind the issue of every core, in ascending core number (R191). -/
def windowTurn (s : State) : Out :=
  andThen (execAll (sortBy (fun i j => (arrivalCore i).getD 0 ≤ (arrivalCore j).getD 0) s.arrivals) { s with arrivals := [], turn := .window })
    fun t => runReleases { t with turn := .nobody }

/-- Cores with agents or with an access that arrives, ascending. -/
def busyCores (s : State) : List Nat :=
  sortBy (fun a b => a ≤ b) ((s.agents.map fun e => e.2.core) ++ s.arrivals.filterMap arrivalCore).eraseDups

def coreAll : List Nat → State → Out
  | [], s => .next s
  | c :: t, s => andThen (coreTurn c s) (coreAll t)

/-! ## Stream contexts and ringers -/

/-- A context that a pre-emption has found with a row, slot or SROUTE in hand stops behind it (R237). -/
def stopBehind (key : Nat) (s : State) : State :=
  let x := s.ctx key
  if x.stopping ∧ !x.midway ∧ x.status ≠ .free then s.setCtx key { x with status := .stopped, stopping := false } else s

/-- One turn of a context. -/
def ctxTurn (key : Nat) (s : State) : Out :=
  let x := s.ctx key
  let e := key / 64
  let c := key % 64
  if x.status ≠ .running ∨ s.cycle < x.wakeAt ∨ fencedOn s [dieHop 3 (e / 16) e] then .next s
  else
    let w := x.words.getD x.pc (BitVec.allOnes 64)
    match engineFetch 0xA w x.words[x.pc + 1]? with
    | .cause k => .next (ctxFault s e c x k)
    | .run i => andThen (exec i { s with turn := .context e c }) fun t => .next (stopBehind key { t with turn := .nobody })

def ctxAll : List Nat → State → Out
  | [], s => .next s
  | k :: t, s => andThen (ctxTurn k s) (ctxAll t)

/-- The engines, each with its contexts and then the bytes of its fills that land in this cycle (R191); the slots become FULL behind
every claim of the cycle (R181). -/
def engineAll : List Nat → State → Out
  | [], s => .next s
  | e :: t, s => andThen (ctxAll ((s.ctxs.map (·.1)).filter fun k => k / 64 = e) s) fun u => engineAll t (fillBytes u e)

/-- Engines with contexts, ascending. -/
def engines (s : State) : List Nat := (s.ctxs.map fun e => e.1 / 64).eraseDups

/-- One turn of a ringer. -/
def ringerTurn (g : Nat) (s : State) : Out :=
  let x := s.ringer g
  if x.status ≠ .running ∨ s.cycle < x.wakeAt ∨ fencedOn s [ringerHop g] then .next s
  else
    let w := x.words.getD x.pc (BitVec.allOnes 64)
    match engineFetch 0xB w x.words[x.pc + 1]? with
    | .cause k => .next (rgFault s g x k)
    | .run i => andThen (exec i { s with turn := .ringer g }) fun t => .next { t with turn := .nobody }

def ringerAll : List Nat → State → Out
  | [], s => .next s
  | k :: t, s => andThen (ringerTurn k s) (ringerAll t)

/-! ## The clock -/

/-- A wait that is met while its area stands still stays met (R221, R321): MONW, TLWAIT and AWAITF keep what they read, ACQS, MACQ and
SQPUT that they need wait no longer; WAIT is met for good by what it counts. -/
def latch (s : State) (g : Agent) : State :=
  let stands := ((s.rec? g.part g.rid).map fun r => r.frozen && !r.goes s.cycle).getD false
  if !stands ∨ g.service ∨ g.status ≠ .running ∨ g.met.isSome ∨ g.trapped.isSome then s
  else
    let h := { g with pc := issuePc s g }
    let read : Option (Attempt × Reg) := match decode (s.wordAt h h.pc) 0 with
      | .instr (.monw is64 d m) => some (tryMonw is64 d m s h, d)
      | .instr (.tlwait d m) => some (tryTlwait d m s h, 0)
      | .instr (.awaitf d m) => some (tryAwaitf d m s h, d)
      | .instr (.acqs d m) => some (tryAcqs d m s h, 0)
      | .instr (.macq c) => some (tryMacq c s h, 0)
      | .instr (.sqput sys a m) => some (trySqput sys a m s h, 0)
      | _ => none
    match read with
    | some (.go t, d) => s.setAgent g.key { g with met := some (((t.agent g.key).map fun q => q.sr d).getD 0) }
    | _ => s

/-- What a waiting instruction brings about while it waits: ACQS has passed the tests that stand before its wait (R322), MONW and TLWAIT
see their word as the cycle begins with it (R378), the translation that SQPUT needs is cached (R167). -/
def waiting (s : State) (g : Agent) : State :=
  let h := { g with pc := issuePc s g }
  let stands := g.status = .running && g.lastIssue + 1 ≠ s.cycle && g.xrow.isNone && g.met.isNone && (pendingRegs s g).isEmpty
  if !stands then s
  else match decode (s.wordAt h h.pc) 0, monitorOf s h with
    | .instr (.acqs d m), _ => if (tryAcqs d m s h).waits && !ringHeldAt s h m then s.setAgent g.key { g with begun := true } else s
    | .instr (.sqput _ _ m), _ => cacheVa s g (g.ea m)
    | _, some (a, n) => watchWord s g a n
    | _, none => s

/-- An agent's idle limit (R81), what its wait has met (R221) and its far wait (R378). One that another agent's VSHUF has woken and
that issues nothing does not go drowsy again before it has issued (DESIGN CHOICE, log 29). -/
def tickAgent (s : State) (key : Nat) : State :=
  match s.agent key with
  | none => s
  | some g =>
    let s0 := latch (if g.gran ≠ 0 ∧ g.lastIssue + 1025 = s.cycle then schedOnce s 0 (.granuleDrowsy g.core g.slot) else s) g
    let s1 := match s0.agent key with
      | some h => waiting s0 h
      | none => s0
    if g.status = .running ∧ (farWait s1 g).isSome then
      schedOnce s1 (if g.polled.isNone then 0 else Config.cyclesPerUs) (.monitorPoll (.agent g.core g.slot))
    else s1

/-- What a core's next cycle begins with. -/
def tickCore (s : State) (core : Nat) : State :=
  takeRow (s.modCore core fun c =>
    { c with
      tables := c.landing.foldl (fun t p => t.set p.1.val (some p.2)) c.tables
      landing := []
      issued := []
      vecUsed := false
      matUsed := false
      symUsed := false
      ringSnap := []
      stats := c.tiles.map fun t => BitVec.ofNat 32 t.word }) core

/-- Samples and the monitors of a partition's node table (R303, R305, R306), and code that is to be loaded again. -/
def tickPart (s : State) (e : Nat × Part) : State :=
  let s0 := takeTable s e.1
  match s0.part e.1 with
  | none => s0
  | some p =>
    let s1 := if (sampleCores s0 e.1 p).isEmpty then s0 else schedOnce s0 0 (.profileSample e.1)
    watchTable (reloadCode s1 e.1) (e.1, p)

/-- The core whose clock an event keeps (R298): of its engine, its tiles, its agents' timed operations. -/
def clockOf : Instr → Option Nat
  | .mswpEffect c | .mldbLand c | .mmaStart c | .mmaRowWrite c | .mmaComplete c | .mzeroEffect c | .mstLand c _ | .mldcLand c _
  | .mrelEffect c _ | .tmldLand c _ | .granuleDrowsy c _ => some c
  | _ => none

/-- An MMA under way and a plane load, a cycle of their core's clock later. -/
def QEntry.late : QEntry → QEntry
  | .mma o => .mma { o with start := o.start.map (· + 1) }
  | e => e
def Copy.late (f : Nat → Nat) : Copy → Copy
  | .mldb slot id fmt tr hdr head bscl scales since due t => .mldb slot id fmt tr hdr head bscl scales (f since) (f due) t
  | c => c

/-- A cycle that a voltage domain skips comes for its cores one cycle later: what they wait for moves with their clock, so that no
outcome changes (R298). -/
def stretch (s : State) : State :=
  if s.dev.domains.all fun v => !v.stretching then s
  else
    let hit := fun (c : Nat) => (s.domain c).stretching
    let late := fun (t : Nat) => if s.cycle ≤ t then t + 1 else t
    { s with
      agents := s.agents.map fun e =>
        if hit e.2.core then (e.1, { e.2 with wakeAt := late e.2.wakeAt, lastIssue := e.2.lastIssue + 1, busy := e.2.busy.map fun b => (b.1, late b.2) })
        else e
      cores := s.cores.map fun e =>
        if hit e.1 then (e.1, { e.2 with
          idleAt := late e.2.idleAt
          chains := e.2.chains.map fun c => { c with wakeAt := late c.wakeAt }
          queue := e.2.queue.map QEntry.late
          copies := e.2.copies.map (Copy.late late) }) else e
      agenda := s.agenda.foldl (fun l x => insertEvent (if ((clockOf x.2).map hit).getD false then late x.1 else x.1) x.2 l) [] }

/-- The next cycle: clocks, counters of skipped cycles, what every unit starts a cycle with. -/
def tick (s : State) : State :=
  -- step 4 of bring-up is over (R296)
  let s : State := if s.dev.training = some [] then bringUp s else s
  let s0 := tickTime (stretch { s with cycle := s.cycle + 1 })
  let s1 := s0.modDev fun d =>
    { d with domains := d.domains.map fun v => if v.stretching then { v with skipped := v.skipped + 1 } else v }
  let s2 := (s1.cores.map (·.1)).foldl tickCore s1
  let s3 := (s2.agents.map (·.1)).foldl tickAgent s2
  { watchQueues (s3.parts.foldl tickPart s3) with writes := [] }

end Sys2Proof.Machine
end

