-- ==== Sys2Proof/Machine/Step.lean ====
section
/-! DEFINITION. One step of the machine is one core clock cycle (02 R37, R55): what is due, the cores, the engines and
ringers, what comes behind them, the clock. And the state in which a given instruction is the next one. -/

namespace Sys2Proof.Machine

open Sys2Proof

/-- Slots that streams have drained are released, behind the releases of the agents (R181). -/
def releaseAll (s : State) : State := (s.ctxs.map (·.1)).foldl releaseDrained s

/-- What happens in one cycle: events; the cores in ascending order, each with its accesses that arrive and its issue slots; slots that
streams have drained are released; accesses through the core window (R191); the Tabor engines, each with its fills; the slots filled;
the ringers; host links, ports, the management plane (R277). -/
def turnCycle (s : State) : Out :=
  andThen (runEvents 0 (eventFuel s) s) fun s1 =>
  andThen (coreAll (busyCores s1) s1) fun s3 =>
  andThen (windowTurn (releaseAll s3)) fun s4 =>
  andThen (engineAll (engines s4) s4) fun s5 =>
  andThen (runEvents 1 (eventFuel s5) s5) fun s6 =>
  andThen (ringerAll (s6.ringers.map (·.1)) s6) fun s7 =>
  runEvents 2 (eventFuel s7) s7

/-- Records whose agents have started in this cycle, whatever has become of them in it, although a storage step begun in it moves their
areas: the path is fixed from the states of the cycle before, and they start after the step (R66). -/
def caught (s : State) : List (Nat × Nat) :=
  s.parts.flatMap fun e => match e.2.stepNow with
    | none => []
    | some x =>
      if x.begun ≠ s.cycle then []
      else (e.2.records.filter fun r => r.state ≠ .admitted && r.since = s.cycle && r.was = .admitted &&
        x.moves.any fun m => (r.span s).1 ≤ m.1 && m.1 ≤ (r.span s).2).map fun r => (e.1, r.id)

/-- The cycle, with the starts held that a step of this cycle forbids; `fuel` bounds how many. -/
def wholeCycle : Nat → State → Out
  | 0, s => turnCycle s
  | n + 1, s => andThen (turnCycle s) fun t => match caught t with
    | [] => .next t
    | l => wholeCycle n (l.foldl (fun u x => u.modRec x.1 x.2 fun r => { r with startAt := s.cycle + 1 }) s)

/-- The trace records of what has become FAULTED in the cycle: by then it stands which agent is the trapped one (R221, R302). -/
def traceFaults (s : State) : State :=
  s.parts.foldl (fun t e => (e.2.records.filter fun r => r.state = .faulted && r.since = s.cycle && r.was ≠ .faulted).foldl (fun u r =>
    traceState u e.1 { r with state := r.was } .faulted r.cause) t) s

/-- One cycle. -/
def step (s : State) : Host.Outcome State Fault Refusal := andThen (wholeCycle 8 s) fun t => .next (tick (traceFaults t))

/-- A one-core partition at core 0 whose single agent runs the words: a cell agent of an area of one cell, or the service
agent within a handler's run. Every other part stays. -/
def State.withAgent (s : State) (service : Bool) (words : List Word) : State :=
  let raised : RaisedTrap := ⟨s.cycle, 0, 1, none, bareTrap 0, [], false, false, s.time⟩
  let r : Record := ⟨0, 0, 0, 0, 0, s.cycle, 0, 0, 1, 1, 0, 0, 0, 0, 0, false, false, 0, if service then .faulted else .running, 1, [],
    s.cycle, 0, some .fill, none, false, none, false, 0, 0, 0, .running, false, []⟩
  let p : Part := { freshPart 0 0 0 with
    opers := [⟨0, words, 4, none, false, false⟩]
    records := [r]
    nextRec := 2
    run := if service then some ⟨0, raised⟩ else none }
  let g : Agent := { Agent.fresh with
    slot := if service then 64 else 0
    rid := 1
    alen := 1
    gran := if service then 0 else 1
    lastIssue := s.cycle
    wakeAt := s.cycle }
  let key := if service then 64 else 0
  State.setAgent { s with parts := [(0, p)], agents := [], agenda := [], arrivals := [], ctxs := [], ringers := [] } key g
    |>.modCore 0 fun c => { c with micros := [⟨0, 0, words, s.cycle⟩], removed := false }

/-- `s` with the instruction where the next step fetches it. An agent instruction: the words of the operator that one agent
runs, the service agent where the instruction is privileged; a Tabor or ringer command: the program of context 0 of engine
0 or of ringer 0. What is on the agenda is dropped: bring-up is over. -/
def State.withFetchWord (s : State) (nbits w : Nat) : State :=
  let v := w % 2 ^ nbits
  let w1 : Word := BitVec.ofNat 64 v
  let w2 : Word := BitVec.ofNat 64 (v / 2 ^ 64)
  if rowOf w1 = 0xA then
    { s with
      agenda := []
      agents := []
      ringers := []
      ctxs := [(0, { Ctx.reset with status := .running, words := [w1, w2], wakeAt := s.cycle })] }
  else if rowOf w1 = 0xB then
    { s with
      agenda := []
      agents := []
      ctxs := []
      ringers := [(0, { Ringer.reset with status := .running, words := [w1, w2], size := 1, list := [0], wakeAt := s.cycle })] }
  else s.withAgent (privileged (major w1).toNat) [w1]

end Sys2Proof.Machine
end

