-- ==== Sys2Proof/Safety.lean ====
section
/-! DEFINITION. The terms of the statements: what a safe run is, whose turn it is, and what it is that an instruction changes its
agent alone. A program's own faults are part of the machine (12 R221); the machine itself is safe when no step ends it and its
memory stays one canonical list. -/

namespace Sys2Proof

open Machine

/-- The memory is in its canonical form. -/
def Machine.State.memOk (s : State) : Prop := Mem.wf s.mem = true

/-- A run of n steps that the machine itself does not end. -/
def safeRun (n : Nat) (s : State) : Prop := ∃ t, core.run n s = .next t

/-- The agent has the turn and stands in the table under its own key. -/
def Machine.State.atTurn (s : State) (g : Agent) : Prop :=
  s.turn = .agent g.core g.slot ∧ s.agent g.key = some g

/-- The instruction runs and changes nothing but its agent, which becomes `h`: every byte of memory, every other agent,
core, cell, record, device and clock stays as it was. -/
def Machine.runsTo (i : Instr) (s : State) (g h : Agent) : Prop := exec i s = .next (s.setAgent g.key h)

/-- At every turn of every agent, sd := v and on to the next word; the agent's other registers stay. -/
def Machine.givesS (i : Instr) (d : Reg) (v : Agent → Word) : Prop :=
  ∀ s g, s.atTurn g → runsTo i s g (g.setS d (v g)).next

/-- The same for a predicate. -/
def Machine.givesP (i : Instr) (d : PReg) (v : Agent → Bool) : Prop :=
  ∀ s g, s.atTurn g → runsTo i s g (g.setP d (v g)).next

/-- The same for a lane mask. -/
def Machine.givesK (i : Instr) (d : KReg) (v : Agent → W32) : Prop :=
  ∀ s g, s.atTurn g → runsTo i s g (g.setK d (v g)).next

/-- The same for a vector register, under a lane mask with or without `.z` (07 R129): an active lane takes its value, an
inactive one becomes 0 under `.z` and else stays. -/
def Machine.givesV (i : Instr) (k : VMask) (d : VNum) (v : Agent → Nat → W32) : Prop :=
  ∀ s g, s.atTurn g → runsTo i s g
    (g.setV d (Vector.ofFn fun j : Fin 32 =>
      if (g.kr k.k).getLsbD j.val then v g j.val else if k.z then 0 else (g.vr d)[j])).next

/-- The instruction takes the fault of a cause at its own word, the agent being as it was (12 R221). -/
def Machine.takesFault (i : Instr) (s : State) (g : Agent) (cause : Nat) : Prop :=
  ∃ addr lane, exec i s = .next (faultNow s g cause addr lane) ∨ exec i s = .next (faultNow (s.setAgent g.key g) g cause addr lane)

/-- A floating instruction of a trap kind (06 R122): with the agent `h` that its result, flags and generator make; when a raised
flag is enabled in `%ftrap`, only the flags are set and the fault 0x040 + 8 · kind + reason is taken. -/
def Machine.floats (i : Instr) (s : State) (g : Agent) (kind : Nat) (fl : W32) (h : Agent) : Prop :=
  (trapReason fl g.ftrap = none → runsTo i s g { h with fflags := g.fflags ||| fl })
  ∧ ∀ r, trapReason fl g.ftrap = some r →
      let q : Agent := { g with fflags := g.fflags ||| fl }
      exec i s = .next (faultNow (s.setAgent g.key q) q (0x40 + 8 * kind + r))

/-- A scalar float result: image, flags, generator. -/
def Machine.floatsS (i : Instr) (kind : Nat) (d : Reg) (f : Agent → Word × W32 × Word) : Prop :=
  ∀ s g, s.atTurn g → floats i s g kind (f g).2.1 { (g.setS d (f g).1).next with seed := (f g).2.2 }

/-- Lane results under a mask, active lanes ascending with the generator threaded through (06 R120, 07 R129). -/
def Machine.floatsV (i : Instr) (kind : Nat) (k : VMask) (d : VNum) (f : Agent → Nat → Word → W32 × W32 × Word) : Prop :=
  ∀ s g, s.atTurn g →
    let r := eachLane (g.kr k.k) g.seed (f g)
    floats i s g kind r.2.1 { (g.setV d (maskLanes (g.kr k.k) k.z (g.vr d) r.1)).next with seed := r.2.2 }

/-- The instruction is not ready: nothing at all has changed (19 R321). -/
def Machine.staysPut (i : Instr) (s : State) : Prop := exec i s = .next s

/-- Nothing that would hold an access back: the agent has nothing in flight and no posted write, its core's engine queue is
empty, no unit is under test and no injection is armed. -/
def Machine.State.calm (s : State) (g : Agent) : Prop :=
  g.core < Config.cores ∧ g.outs = [] ∧ g.ops = [] ∧ g.posted = [] ∧ (s.core g.core).queue = [] ∧ s.dev.tests = [] ∧ s.dev.injections = []

/-- The n bytes at an address lie in the agent's local window from this offset, and n divides the offset (09 R159). -/
def Machine.localAt (a : Word) (n off : Nat) : Prop := a = BitVec.ofNat 64 (2 ^ 63 + off) ∧ off + n ≤ 2 ^ 20 ∧ off % n = 0

/-- The access that a memory instruction makes at one address: class, operation, address, width, acquire, release, scope. -/
structure Machine.OneAccess where
  cls : Cls
  op : AccOp
  addr : Word
  width : Nat
  acq : Bool
  rel : Bool
  scope : Scope

/-- LD, ST, ATOM, VLD, VST, LDP, STP, PSET and TLINC as accesses (20 R368, R369, R389, 21 R407, R408, R427, R432, 15 R281, 19
R325). -/
def Machine.accessOf (g : Agent) : Instr → Option OneAccess
  | .ld z acq sc d m => some ⟨.loads, .load z d, g.ea m, ldBytes z, acq, false, sc⟩
  | .st z rel sc m d => some ⟨.stores, .store (toLe (stBytes z) (g.sr d).toNat), g.ea m, stBytes z, false, rel, sc⟩
  | .atom fn is64 o sc d base b c off =>
    some ⟨.loads, .atom fn is64 d (g.sr b) (g.sr c), g.sr base + off.signExtend 64, if is64 then 8 else 4, o = .acq ∨ o = .ar, o = .rel ∨ o = .ar, sc⟩
  | .vld acq sc d m => some ⟨.loads, .vload d, g.ea m, 128, acq, false, sc⟩
  | .vst rel sc m d => some ⟨.stores, .store (bytesOfLanes (g.vr d)), g.ea m, 128, false, rel, sc⟩
  | .ldp d m => some ⟨.loads, .ldp d, g.ea m, 8, true, false, .dev⟩
  | .stp m d => some ⟨.stores, .stp (g.sr d), g.ea m, 8, false, true, .dev⟩
  | .psetEmpty m => if g.service then some ⟨.stores, .psetEmpty, g.ea m, 8, false, false, .dev⟩ else none
  | .psetPoison d m =>
    if g.service ∧ (g.sr d).toNat % 512 < 0x180 then
      some ⟨.stores, .psetPoison (errWord ((g.sr d).toNat % 512) g.rid 0 0), g.ea m, 8, false, false, .dev⟩ else none
  | .tlinc m d => some ⟨.stores, .tlinc (g.sr d), g.ea m, 8, false, true, .dev⟩
  | _ => none

/-- Is it an access to a presence word, which lies outside the local and core windows (09 R170)? -/
def Machine.AccOp.isPresence : AccOp → Bool
  | .ldp _ | .stp _ | .psetEmpty | .psetPoison _ => true
  | _ => false

/-- The agent once an access of it is in flight: counted in its class, and on to the next word. -/
def Machine.Agent.inFlight (g : Agent) (s : State) (x : OneAccess) (locs : List Loc) (phase : Phase) : Agent :=
  let a : Access := ⟨g.nextId, some x.cls, x.op, [x.addr], locs, x.width, x.acq, x.rel, x.scope, phase, { hereTrap s g with addr := x.addr },
    ⟨[], [], []⟩⟩
  { g.next with outs := g.outs ++ [a], ops := g.ops ++ [⟨x.cls, g.nextId, false⟩], nextId := g.nextId + 1 }

/-- One access in hand, at its home or on the way there, and nothing that would hold it back. -/
def Machine.State.alone (s : State) (g : Agent) (a : Access) (ph : Phase) : Prop :=
  s.agent g.key = some g ∧ g.outs = [a] ∧ a.phase = ph ∧ g.posted = [] ∧ (s.core g.core).queue = [] ∧ s.dev.tests = []
    ∧ s.dev.injections = []

/-- The agent once its one access is over: counted out of its class. -/
def Machine.Agent.over (g : Agent) (a : Access) : Agent := { g.opDone a.id with outs := [] }

/-- A stream context has the turn and stands so. -/
def Machine.State.ctxAt (s : State) (e c : Nat) (x : Ctx) : Prop := s.turn = .context e c ∧ s.ctx (ctxKey e c) = x

/-- A ringer has the turn and stands so. -/
def Machine.State.ringerAt (s : State) (g : Nat) (x : Ringer) : Prop := s.turn = .ringer g ∧ s.ringer g = x

/-- A command does what it does and will complete: the context stands behind it. -/
def Machine.issues (i : Instr) (s : State) (e c : Nat) (x : Ctx) : Prop := exec i s = .next (issued s e c x)

/-- A command stops its stream with a cause: status 0x20 (09 R175). -/
def Machine.stopsStream (i : Instr) (s : State) (e c : Nat) (x : Ctx) (cause : Nat) : Prop := exec i s = .next (endCtx s e c x 0x20 cause)

/-- The n bytes at an address lie, through the core window, in a scratchpad of the identifier from this key on (09 R161). -/
def Machine.State.windowAt (s : State) (asid : Nat) (a : Word) (n key : Nat) : Prop :=
  ∃ l off core, a = BitVec.ofNat 64 (3 * 2 ^ 62 + l * 2 ^ 20 + off) ∧ l < 4096 ∧ off < 2 ^ 20 ∧ off + n ≤ 2 ^ 20
    ∧ windowCore s asid l = .ok core ∧ key = spadKey core off

/-- No unit is under test, no injection is armed, no partition is being cut. -/
def Machine.State.settled (s : State) : Prop :=
  s.dev.tests = [] ∧ s.dev.injections = [] ∧ ∀ e ∈ s.parts, e.2.pre = PrePhase.none

/-- What a cycle adds behind its ringers, its stream contexts and its cores (15 R277, 02 R37): the later requesters; the engines'
fills and the ringers; the accesses through the core window and the stream contexts. -/
def Machine.finishRingers (s : State) : Out := runEvents 2 (eventFuel s) s

def Machine.finishEngines (s : State) : Out :=
  andThen (runEvents 1 (eventFuel s) s) fun t => andThen (ringerAll (t.ringers.map (·.1)) t) finishRingers

def Machine.finishCycle (s : State) : Out :=
  andThen (windowTurn (releaseAll s)) fun t => andThen (engineAll (engines t) t) finishEngines

/-- No unit is under test and no injection is armed. -/
def Machine.State.quietUnits (s : State) : Prop := s.dev.tests = [] ∧ s.dev.injections = []

/-- Nothing of a command of the context is in hand. -/
def Machine.Ctx.fresh (x : Ctx) : Prop := x.begun = false ∧ x.log = [] ∧ x.cur = 0 ∧ x.got = [] ∧ x.put = 0 ∧ x.gotB = none

/-- What one turn of a context needs to move n bytes at an address whole (09 R167, R172, R175): they are within what its engine has left
in this cycle, the context holds the translation of their page, they lie at these pieces, and no fill of the context lands there. -/
def Machine.State.reaches (s : State) (e : Nat) (x : Ctx) (a : Word) (n : Nat) (w : Want) (t : Option TlbEntry) (ps : List Piece) : Prop :=
  0 < n ∧ pieceLen s e a n = n ∧ x.misses a = false ∧ unitSpan s x.asid x.tlb a n w = .ok (t, ps) ∧ x.fillMeets ps = false

/-- The context behind an access of its command that is over: with the translation that it now holds, and what the access read. -/
def Machine.Ctx.noted (x : Ctx) (t : Option TlbEntry) (l : List Byte) : Ctx :=
  { x with tlb := t, walked := false, log := x.log ++ [(l, none)], cur := x.cur + 1 }

end Sys2Proof
end

