-- ==== Sys2Proof/Certificates/Slice0/Obligations.lean ====
section
/-! DEFINITION. The statements for the provers, from the numbered rules of spec/. Each docstring names the rules. -/

open Sys2Proof Sys2Proof.Machine

/-! ## Scalar integer -/

/-- ADD, ADDI, SUB, MUL, LEA, MOVI and MOVHI write their result modulo 2^64 (19 R323, 20 R370, R379, R383, 21 R409): sums and differences
wrap, MUL.hi and MUL.hiu give the upper half of the exact 128-bit product, MOVHI keeps bits [39:0]. Nothing else changes but the pc. DIV
and REM with a nonzero divisor (19 R350, 20 R391): the quotient truncated toward zero and the remainder with the sign of the dividend,
-2^63 / -1 giving -2^63 and remainder 0; a zero divisor takes the fault 0x040, whatever `%ftrap` holds. -/
def Obligations.ScalarArithmetic : Prop :=
  ((∀ d a b, givesS (.add d a b) d fun g => BitVec.ofNat 64 ((g.sr a).toNat + (g.sr b).toNat))
   ∧ (∀ d a imm, givesS (.addi d a imm) d fun g => BitVec.ofInt 64 ((g.sr a).toInt + imm.toInt))
   ∧ (∀ d a b, givesS (.sub d a b) d fun g => BitVec.ofInt 64 ((g.sr a).toInt - (g.sr b).toInt))
   ∧ (∀ d a b, givesS (.mul .low d a b) d fun g => BitVec.ofNat 64 ((g.sr a).toNat * (g.sr b).toNat))
   ∧ (∀ d a b, givesS (.mul .hi d a b) d fun g => BitVec.ofInt 64 ((g.sr a).toInt * (g.sr b).toInt / 2 ^ 64))
   ∧ (∀ d a b, givesS (.mul .hiu d a b) d fun g => BitVec.ofNat 64 ((g.sr a).toNat * (g.sr b).toNat / 2 ^ 64))
   ∧ (∀ d a b (sh : Fin 8), givesS (.lea d a b sh) d fun g => BitVec.ofNat 64 ((g.sr a).toNat + (g.sr b).toNat * 2 ^ sh.val))
   ∧ (∀ d imm, givesS (.movi d imm) d fun _ => BitVec.ofInt 64 imm.toInt)
   ∧ (∀ d imm, givesS (.movhi d imm) d fun g => BitVec.ofNat 64 (imm.toNat * 2 ^ 40 + (g.sr d).toNat % 2 ^ 40)))
  ∧ (∀ (u : Bool) (d a b : Reg) (s : State) (g : Agent), s.atTurn g →
       (g.sr b ≠ 0 →
         runsTo (.div u d a b) s g (g.setS d (if u then BitVec.ofNat 64 ((g.sr a).toNat / (g.sr b).toNat)
           else BitVec.ofInt 64 ((g.sr a).toInt.tdiv (g.sr b).toInt))).next
         ∧ runsTo (.rem u d a b) s g (g.setS d (if u then BitVec.ofNat 64 ((g.sr a).toNat % (g.sr b).toNat)
           else BitVec.ofInt 64 ((g.sr a).toInt.tmod (g.sr b).toInt))).next)
       ∧ (g.sr b = 0 → takesFault (.div u d a b) s g 0x40 ∧ takesFault (.rem u d a b) s g 0x40))

/-- AND, OR and XOR with a register and with a sign-extended 40-bit immediate, bit by bit (19 R324, 20 R385, 21 R434). SHL, SHLI, SHR and
SHRI shift by an unsigned count: 64 and more shift every bit out, an arithmetic SHR fills with the sign (21 R398 and its family). BFX
takes len bits from bit pos of sa, zero-extended (19 R329). BFI puts the low len bits of sa at bit pos of sd and keeps sd's other bits (19
R328). CLZ counts leading zeros, 64 for 0 (19 R336); POPC counts 1 bits (20 R388). MIN, MAX (20 R373), SEL (20 R396), CMP and CMPI (19
R338) compare signed, or unsigned under `.u` and codes 6 to 9; CMPI sign-extends its 36-bit immediate. -/
def Obligations.ScalarBits : Prop :=
  ((∀ d a b, givesS (.and d a b) d fun g => g.sr a &&& g.sr b)
   ∧ (∀ d a imm, givesS (.andi d a imm) d fun g => g.sr a &&& imm.signExtend 64)
   ∧ (∀ d a b, givesS (.or d a b) d fun g => g.sr a ||| g.sr b)
   ∧ (∀ d a imm, givesS (.ori d a imm) d fun g => g.sr a ||| imm.signExtend 64)
   ∧ (∀ d a b, givesS (.xor d a b) d fun g => g.sr a ^^^ g.sr b)
   ∧ (∀ d a imm, givesS (.xori d a imm) d fun g => g.sr a ^^^ imm.signExtend 64))
  ∧ ((∀ d a b, givesS (.shl d a b) d fun g => BitVec.ofNat 64 ((g.sr a).toNat * 2 ^ (g.sr b).toNat))
     ∧ (∀ d a (n : BitVec 6), givesS (.shli d a n) d fun g => BitVec.ofNat 64 ((g.sr a).toNat * 2 ^ n.toNat))
     ∧ (∀ d a b, givesS (.shr false d a b) d fun g => BitVec.ofNat 64 ((g.sr a).toNat / 2 ^ (g.sr b).toNat))
     ∧ (∀ d a b, givesS (.shr true d a b) d fun g => BitVec.ofInt 64 ((g.sr a).toInt / 2 ^ (g.sr b).toNat))
     ∧ (∀ d a (n : BitVec 6), givesS (.shri false d a n) d fun g => BitVec.ofNat 64 ((g.sr a).toNat / 2 ^ n.toNat))
     ∧ (∀ d a (n : BitVec 6), givesS (.shri true d a n) d fun g => BitVec.ofInt 64 ((g.sr a).toInt / 2 ^ n.toNat)))
  ∧ ((∀ d a (pos l : BitVec 6), givesS (.bfx d a pos l) d fun g => BitVec.ofNat 64 ((g.sr a).toNat / 2 ^ pos.toNat % 2 ^ (l.toNat + 1)))
     ∧ (∀ d a (pos l : BitVec 6) s g, s.atTurn g → ∃ v : Word,
         runsTo (.bfi d a pos l) s g (g.setS d v).next
         ∧ ∀ j < 64, v.getLsbD j =
           if pos.toNat ≤ j ∧ j < pos.toNat + l.toNat + 1 then (g.sr a).getLsbD (j - pos.toNat) else (g.sr d).getLsbD j)
     ∧ (∀ d a s g, s.atTurn g → ∃ n ≤ 64,
         runsTo (.clz d a) s g (g.setS d (BitVec.ofNat 64 n)).next
         ∧ (g.sr a).toNat < 2 ^ (64 - n) ∧ (n < 64 → 2 ^ (63 - n) ≤ (g.sr a).toNat))
     ∧ (∀ d a, givesS (.popc d a) d fun g => BitVec.ofNat 64 ((List.range 64).countP fun i => (g.sr a).getLsbD i)))
  ∧ ((∀ d a b, givesS (.min false d a b) d fun g => BitVec.ofInt 64 (Min.min (g.sr a).toInt (g.sr b).toInt))
     ∧ (∀ d a b, givesS (.min true d a b) d fun g => BitVec.ofNat 64 (Min.min (g.sr a).toNat (g.sr b).toNat))
     ∧ (∀ d a b, givesS (.max false d a b) d fun g => BitVec.ofInt 64 (Max.max (g.sr a).toInt (g.sr b).toInt))
     ∧ (∀ d a b, givesS (.max true d a b) d fun g => BitVec.ofNat 64 (Max.max (g.sr a).toNat (g.sr b).toNat))
     ∧ (∀ d a b p, givesS (.sel d a b p) d fun g => if g.pr p then g.sr a else g.sr b)
     ∧ ∀ (c : Cmp) (d : PReg) (a : Reg) (x : Agent → Word) (i : Instr),
         ((∃ b, i = .cmp c d a b ∧ x = fun g => g.sr b) ∨ (∃ imm : BitVec 36, i = .cmpi c d a imm ∧ x = fun _ => imm.signExtend 64)) →
         givesP i d fun g => match c with
           | .eq => decide ((g.sr a).toNat = (x g).toNat)
           | .ne => decide ((g.sr a).toNat ≠ (x g).toNat)
           | .lt => decide ((g.sr a).toInt < (x g).toInt)
           | .le => decide ((g.sr a).toInt ≤ (x g).toInt)
           | .gt => decide ((x g).toInt < (g.sr a).toInt)
           | .ge => decide ((x g).toInt ≤ (g.sr a).toInt)
           | .ltu => decide ((g.sr a).toNat < (x g).toNat)
           | .leu => decide ((g.sr a).toNat ≤ (x g).toNat)
           | .gtu => decide ((x g).toNat < (g.sr a).toNat)
           | .geu => decide ((x g).toNat ≤ (g.sr a).toNat))

/-- LEA whole (20 R370): (sa + (sb << sh)) mod 2^64 for sh from 0 to 7, no memory access, no flag; its word for all operands, the example,
and 0x001 for a nonzero fn[11:3], c, fmt, rm or mod. -/
def Obligations.LeaWhole : Prop :=
  (∀ d a b (sh : Fin 8), givesS (.lea d a b sh) d fun g => g.sr a + (g.sr b <<< sh.val))
  ∧ (∀ (d a b : Reg) (sh : Fin 8), decode (BitVec.ofNat 64
      (0x0F * 2 ^ 56 + d.val * 2 ^ 46 + a.val * 2 ^ 40 + b.val * 2 ^ 34 + sh.val * 2 ^ 16)) 0 = .instr (.lea d a b sh))
  ∧ decode 0x0F01420C00070000#64 0 = .instr (.lea 5 2 3 7)
  ∧ ∀ s g w, major w = 0x0F#8 → (8 ≤ (fFn w).toNat ∨ fC w ≠ 0 ∨ fFmt w ≠ 0 ∨ fRm w ≠ 0 ∨ fMod w ≠ 0) →
      agentFetch s g w = .cause 0x01

/-! ## Scalar float -/

/-- FADD, FSUB, FMUL, FDIV, FFMA and FSQRT (19 R354, R360, R364): the exact value of the FP32 images in bits [31:0], rounded once by rm,
rm 6 being `%frm`'s, zero-extended; flags and traps of kind 1 (06 R122). FMIN and FMAX (19 R362), FCVT (19 R357, kind 6), FSF (19 R363,
kind 7), FCLASS (19 R355) and FCMP (19 R356), with their flags and traps; FCLASS sets exactly one bit below bit 10 and no flag. -/
def Obligations.ScalarFloat : Prop :=
  (let lo := fun (w : Word) => ((w.truncate 32 : W32)).toNat
   let img := fun (r : Nat × W32 × Word) => ((BitVec.ofNat 64 r.1 : Word), r.2)
   (∀ rm d a b, floatsS (.fadd rm d a b) 1 d fun g => img (fd32.arith .add (rmEff rm g.frm) g.seed (lo (g.sr a)) (lo (g.sr b))))
   ∧ (∀ rm d a b, floatsS (.fsub rm d a b) 1 d fun g => img (fd32.arith .sub (rmEff rm g.frm) g.seed (lo (g.sr a)) (lo (g.sr b))))
   ∧ (∀ rm d a b, floatsS (.fmul rm d a b) 1 d fun g => img (fd32.arith .mul (rmEff rm g.frm) g.seed (lo (g.sr a)) (lo (g.sr b))))
   ∧ (∀ rm d a b, floatsS (.fdiv rm d a b) 1 d fun g => img (fd32.arith .div (rmEff rm g.frm) g.seed (lo (g.sr a)) (lo (g.sr b))))
   ∧ (∀ rm d a b c, floatsS (.ffma rm d a b c) 1 d fun g =>
       img (fd32.fma (rmEff rm g.frm) g.seed (lo (g.sr a)) (lo (g.sr b)) (lo (g.sr c))))
   ∧ ∀ rm d a, floatsS (.fsqrt rm d a) 1 d fun g =>
       let r := sqrt32 (rmEff rm g.frm) g.seed ((g.sr a).truncate 32); (r.1.zeroExtend 64, r.2))
  ∧ (let lo := fun (w : Word) => (w.truncate 32 : W32)
     (∀ d a b, floatsS (.fmin d a b) 1 d fun g =>
       let r := minMax fd32 false (lo (g.sr a)).toNat (lo (g.sr b)).toNat; (BitVec.ofNat 64 r.1, r.2, g.seed))
     ∧ (∀ d a b, floatsS (.fmax d a b) 1 d fun g =>
       let r := minMax fd32 true (lo (g.sr a)).toNat (lo (g.sr b)).toNat; (BitVec.ofNat 64 r.1, r.2, g.seed))
     ∧ (∀ cv rm d a, floatsS (.fcvt cv rm d a) 6 d fun g => convert cv (rmEff rm g.frm) g.seed (g.sr a))
     ∧ (∀ f rm d a, floatsS (.fsf f rm d a) 7 d fun g =>
       let r := specFn f (rmEff rm g.frm) g.seed (lo (g.sr a)); (r.1.zeroExtend 64, r.2))
     ∧ (∀ d a s g, s.atTurn g → ∃ c < 10, runsTo (.fclass d a) s g (g.setS d (BitVec.ofNat 64 (2 ^ c))).next)
     ∧ ∀ c d a b s g, s.atTurn g →
         let r := fcompare c (lo (g.sr a)) (lo (g.sr b))
         floats (.fcmp c d a b) s g 1 r.2 (g.setP d r.1).next)

/-- Addition and multiplication of FP32 images commute, flags and generator included, in every rounding mode (06 R113, R119: every NaN
produced is the canonical one). Rounding a value that FP32 represents gives its own image, without a flag and without a step of the
generator, in every mode (06 R119, R120). -/
def Obligations.FloatLaws : Prop :=
  (∀ (rm : Rm) (seed : Word) (a b : W32),
     fd32.arith .add rm seed a.toNat b.toNat = fd32.arith .add rm seed b.toNat a.toNat
     ∧ fd32.arith .mul rm seed a.toNat b.toNat = fd32.arith .mul rm seed b.toNat a.toNat)
  ∧ (∀ (rm : Rm) (seed : Word) (x : W32), (val32 x).isNan = false → fd32.put rm seed (val32 x) = (x.toNat, 0, seed))

/-! ## Control, predicates, masks -/

/-- BR, BRX, CALL and RET (04 R88, 19 R330 to R332, 20 R392): a target below the operator's length, taken unsigned, is the next word; CALL
then writes the index of the word behind it into the link register. A target beyond faults with 0x00D. The hint has no effect. NOP changes
nothing but the word it stands at, whoever executes it (05 R107); YIELD takes its slot and keeps the agent from the next cycle alone (21
R435). -/
def Obligations.ControlFlow : Prop :=
  (∀ (s : State) (g : Agent), s.atTurn g →
     (∀ h off, let t := BitVec.ofNat 64 g.pc + off.signExtend 64
       (t.toNat < s.nwords g → runsTo (.br h off) s g { g with pc := t.toNat })
       ∧ (s.nwords g ≤ t.toNat → takesFault (.br h off) s g 0x0D))
     ∧ (∀ h l off, let t := BitVec.ofNat 64 g.pc + off.signExtend 64
       (t.toNat < s.nwords g → runsTo (.call h l off) s g { g.setS l (BitVec.ofNat 64 (g.pc + 1)) with pc := t.toNat })
       ∧ (s.nwords g ≤ t.toNat → takesFault (.call h l off) s g 0x0D))
     ∧ ∀ a, ((g.sr a).toNat < s.nwords g → runsTo (.brx a) s g { g with pc := (g.sr a).toNat }
         ∧ runsTo (.ret a) s g { g with pc := (g.sr a).toNat })
       ∧ (s.nwords g ≤ (g.sr a).toNat → takesFault (.brx a) s g 0x0D ∧ takesFault (.ret a) s g 0x0D))
  ∧ (∀ (s : State) (g : Agent), s.atTurn g →
       runsTo .nop s g g.next ∧ runsTo .yield s g { g.next with wakeAt := s.cycle + 2 })

/-- The hardware loops (04 R77, 20 R371): LOOP with count 0 falls through and changes no counter; else the count falls and the index rises
by one, and the branch is taken unless the count became 0. A taken branch out of range faults and leaves the counters. MTS to `%lcN` sets
the count and clears `%liN`. -/
def Obligations.HardwareLoops : Prop :=
  ∀ (s : State) (g : Agent), s.atTurn g → ∀ (n : Fin 4),
    (∀ h off, let t := BitVec.ofNat 64 g.pc + off.signExtend 64
      let q : Agent := { g with lc := g.lc.set n (g.lc[n] - 1), li := g.li.set n (g.li[n] + 1) }
      (g.lc[n] = 0 → runsTo (.loop h n off) s g g.next)
      ∧ (g.lc[n] = 1 → runsTo (.loop h n off) s g q.next)
      ∧ (1 < g.lc[n].toNat → t.toNat < s.nwords g → runsTo (.loop h n off) s g { q with pc := t.toNat })
      ∧ (1 < g.lc[n].toNat → s.nwords g ≤ t.toNat → takesFault (.loop h n off) s g 0x0D))
    ∧ ∀ a, (g.sr a).toNat < 2 ^ 32 → runsTo (.mts (BitVec.ofNat 6 (0x20 + n.val)) a) s g
        ({ g with lc := g.lc.set n ((g.sr a).truncate 32), li := g.li.set n 0 } : Agent).next

/-- PLOG whole (20 R386): pd := t[2 · pa + pb]; its word for all operands, the example, the reserved fields' 0x00D, the common tables, and
a pd of p0 that discards the result. -/
def Obligations.PlogWhole : Prop :=
  (∀ d a b (t : BitVec 4), givesP (.plog d a b t) d fun g => t.getLsbD (2 * (g.pr a).toNat + (g.pr b).toNat))
  ∧ (∀ (d a b : PReg) (t : BitVec 4), decode (BitVec.ofNat 64
      (0x35 * 2 ^ 56 + d.val * 2 ^ 46 + a.val * 2 ^ 40 + b.val * 2 ^ 34 + t.toNat * 2 ^ 16)) 0 = .instr (.plog d a b t))
  ∧ decode 0x3500C10800060000#64 0 = .instr (.plog 3 1 2 6)
  ∧ (∀ s g w, major w = 0x35#8 → (16 ≤ (fFn w).toNat ∨ fC w ≠ 0 ∨ fFmt w ≠ 0 ∨ fRm w ≠ 0 ∨ fMod w ≠ 0
      ∨ 8 ≤ (fD w).toNat ∨ 8 ≤ (fA w).toNat ∨ 8 ≤ (fB w).toNat) → agentFetch s g w = .cause 0x0D)
  ∧ (∀ a b : Bool, (8#4).getLsbD (2 * a.toNat + b.toNat) = (a && b) ∧ (14#4).getLsbD (2 * a.toNat + b.toNat) = (a || b)
      ∧ (6#4).getLsbD (2 * a.toNat + b.toNat) = (a != b) ∧ (3#4).getLsbD (2 * a.toNat + b.toNat) = !a)
  ∧ ∀ (g : Agent) v, g.setP 0 v = g

/-- KLOG, KMOV and PMOV (20 R366, R367, R387): KLOG bit by bit from t; KMOV between masks and to and from bits [31:0] of a scalar; PMOV
between predicates, all eight to a scalar with bit 0 being 1, and p1 to p7 from sa[7:1]. A write to s0, p0 or k0 is discarded, s0 reads 0,
p0 true and k0 all ones (04 R71, R72); any other register reads what was written last, and a write leaves every other register alone. -/
def Obligations.RegisterMoves : Prop :=
  ((∀ d a b (t : BitVec 4) s g, s.atTurn g → ∃ m : W32, runsTo (.klog d a b t) s g (g.setK d m).next
     ∧ ∀ i < 32, m.getLsbD i = t.getLsbD (2 * ((g.kr a).getLsbD i).toNat + ((g.kr b).getLsbD i).toNat))
   ∧ (∀ d a, givesK (.kmov (.kk d a)) d fun g => g.kr a)
   ∧ (∀ d a, givesS (.kmov (.toS d a)) d fun g => (g.kr a).zeroExtend 64)
   ∧ (∀ d a, givesK (.kmov (.fromS d a)) d fun g => (g.sr a).truncate 32)
   ∧ (∀ d a, givesP (.pmov (.pp d a)) d fun g => g.pr a)
   ∧ (∀ d s g, s.atTurn g → ∃ v : Word, runsTo (.pmov (.toS d)) s g (g.setS d v).next ∧ v.toNat < 256 ∧ v.getLsbD 0 = true
       ∧ ∀ i : Fin 8, v.getLsbD i.val = g.pr i)
   ∧ ∀ a s g, s.atTurn g → ∃ h : Agent, runsTo (.pmov (.fromS a)) s g h.next ∧ (∀ i : Fin 8, i ≠ 0 → h.pr i = (g.sr a).getLsbD i.val)
       ∧ h.pr 0 = true ∧ h = { g with p := h.p })
  ∧ (∀ g : Agent, g.sr 0 = 0 ∧ g.pr 0 = true ∧ g.kr 0 = 0xFFFFFFFF#32
       ∧ (∀ v, g.setS 0 v = g) ∧ (∀ v, g.setP 0 v = g) ∧ (∀ v, g.setK 0 v = g)
       ∧ (∀ (r q : Reg) v, (g.setS r v).sr q = if q = r ∧ r ≠ 0 then v else g.sr q)
       ∧ (∀ (r q : PReg) v, (g.setP r v).pr q = if q = r ∧ r ≠ 0 then v else g.pr q)
       ∧ (∀ (r q : KReg) v, (g.setK r v).kr q = if q = r ∧ r ≠ 0 then v else g.kr q)
       ∧ ∀ (r q : VNum) v, (g.setV r v).vr q = if q = r then v else g.vr q)

/-! ## Vector -/

/-- VADD, VSUB, VMUL, VFMA, VMIN, VMAX in every lane mode, VCVT and VSF: each active lane's result, flags and draws in ascending order,
inactive lanes as R129 says, traps of kind 2, 6 and 7 (07 R129, 06 R122, 21 R419, R420, R425, R430). Lane mode 1 wraps modulo 2^32 and
lane mode 2 clamps to the INT32 range, raising SA where it clamps and nothing else (21 R419, R420, 06 R125). -/
def Obligations.LaneArithmetic : Prop :=
  (let op := fun (o : VOp) (md : LMode) (a b c : VNum) (g : Agent) (i : Nat) (sd : Word) =>
     o.lane md g.frm (laneAt (g.vr a) i) (laneAt (g.vr b) i) (laneAt (g.vr c) i) sd
   (∀ md k d a b, floatsV (.vadd md k d a b) 2 k d (op (.arith .add) md a b b))
   ∧ (∀ md k d a b, floatsV (.vsub md k d a b) 2 k d (op (.arith .sub) md a b b))
   ∧ (∀ md k d a b, floatsV (.vmul md k d a b) 2 k d (op (.arith .mul) md a b b))
   ∧ (∀ md k d a b c, floatsV (.vfma md k d a b c) 2 k d (op .fma md a b c))
   ∧ (∀ md k d a b, floatsV (.vmin md k d a b) 2 k d (op .least md a b b))
   ∧ (∀ md k d a b, floatsV (.vmax md k d a b) 2 k d (op .most md a b b))
   ∧ (∀ cv rm k d a, floatsV (.vcvt cv rm k d a) 6 k d fun g i sd =>
       let r := convert cv (rmEff rm g.frm) sd ((laneAt (g.vr a) i).zeroExtend 64); (r.1.truncate 32, r.2))
   ∧ ∀ f rm k d a, floatsV (.vsf f rm k d a) 7 k d fun g i sd => specFn f (rmEff rm g.frm) sd (laneAt (g.vr a) i))
  ∧ (∀ (o : VOp) (frm x y z : W32) (sd : Word),
       o.lane .iw frm x y z sd = (BitVec.ofInt 32 (o.int x.toInt y.toInt z.toInt), 0, sd)
       ∧ (let v := o.int x.toInt y.toInt z.toInt
          let c := Max.max (-2 ^ 31) (Min.min v (2 ^ 31 - 1))
          o.lane .is frm x y z sd = (BitVec.ofInt 32 c, if c = v then 0 else fSA, sd)))

/-- VAND, VOR, VXOR, VSHL and VSHR lane by lane under the mask: no flag, no draw, nothing else (21 R421). VPERM, VBC, VIDX under the mask,
VSEL in every lane (07 R131, 21 R422, R429); VSHUF's lanes come from the agent of the area that %cell sb names, in the same core and awake
(07 R132, 21 R431). VCMP writes its mask register lane by lane: the comparison in active lanes, else the old bit or 0 under `.z`, with NV
as FCMP raises it and traps of kind 2 (21 R424). VRED's result may be read 6 cycles after issue, its flags never trap (06 R126, 21 R428).
-/
def Obligations.LaneMoves : Prop :=
  ((∀ k d a b, givesV (.vand k d a b) k d fun g i => laneAt (g.vr a) i &&& laneAt (g.vr b) i)
   ∧ (∀ k d a b, givesV (.vor k d a b) k d fun g i => laneAt (g.vr a) i ||| laneAt (g.vr b) i)
   ∧ (∀ k d a b, givesV (.vxor k d a b) k d fun g i => laneAt (g.vr a) i ^^^ laneAt (g.vr b) i)
   ∧ (∀ k d a b, givesV (.vshl k d a b) k d fun g i => BitVec.ofNat 32 ((laneAt (g.vr a) i).toNat * 2 ^ (laneAt (g.vr b) i).toNat))
   ∧ (∀ k d a b, givesV (.vshr false k d a b) k d fun g i => BitVec.ofNat 32 ((laneAt (g.vr a) i).toNat / 2 ^ (laneAt (g.vr b) i).toNat))
   ∧ ∀ k d a b, givesV (.vshr true k d a b) k d fun g i => BitVec.ofInt 32 ((laneAt (g.vr a) i).toInt / 2 ^ (laneAt (g.vr b) i).toNat))
  ∧ ((∀ k d a b, givesV (.vperm k d a b) k d fun g i => laneAt (g.vr a) ((laneAt (g.vr b) i).toNat % 32))
     ∧ (∀ k d a, givesV (.vbc k d a) k d fun g _ => (g.sr a).truncate 32)
     ∧ (∀ k d, givesV (.vidx k d) k d fun _ i => BitVec.ofNat 32 i)
     ∧ (∀ k d a b s g, s.atTurn g → runsTo (.vsel k d a b) s g
         (g.setV d (Vector.ofFn fun i : Fin 32 => if (g.kr k).getLsbD i.val then (g.vr a)[i] else (g.vr b)[i])).next)
     ∧ ∀ k d a b s g src, s.atTurn g → (g.sr b).toNat < g.alen → s.agentAt g.part g.rid (g.sr b).toNat = some src →
         src.core = g.core → a.val < 4 * src.gran → src.drowsy = false →
         runsTo (.vshuf k d a b) s g (g.setV d (maskLanes (g.kr k.k) k.z (g.vr d) (src.vr a))).next)
  ∧ ((∀ c iw k d a b s g, s.atTurn g →
       let hit := fun (i : Nat) => if iw then (icompare c (laneAt (g.vr a) i) (laneAt (g.vr b) i), (0 : W32))
         else fcompare c (laneAt (g.vr a) i) (laneAt (g.vr b) i)
       ∃ (m fl : W32), (∀ i < 32, m.getLsbD i = if (g.kr k.k).getLsbD i then (hit i).1 else !k.z && (g.kr d).getLsbD i)
         ∧ (∀ j, fl.getLsbD j = true ↔ ∃ i < 32, (g.kr k.k).getLsbD i = true ∧ (hit i).2.getLsbD j = true)
         ∧ floats (.vcmp c iw k d a b) s g 2 fl (g.setK d m).next)
     ∧ ∀ op md k d a s g, s.atTurn g →
         let r := reduce op md (g.kr k) (g.vr a)
         runsTo (.vred op md k d a) s g
           { ((g.setS d r.1).later (.s d.val) (s.cycle + 6)).next with fflags := g.fflags ||| r.2 })

/-! ## Memory -/

/-- One byte of a memory in canonical form after bytes are written: the written ones read as written, every other address reads as before
(09 R160; the value of a byte never written is the model's choice, log 1); the form is kept. -/
def Obligations.BytesWritten : Prop :=
  ∀ (m : Mem) (a : Nat) (l : List Byte), Mem.wf m = true →
    Mem.wf (Mem.writeL m a l) = true
    ∧ ∀ k, (Mem.writeL m a l).get k = if h : a ≤ k ∧ k < a + l.length then l[k - a] else m.get k

/-- LD and VLD from the own scratchpad, aligned, with nothing that holds them back, complete as they issue: little-endian bytes, zero- or
sign-extended (20 R368, 21 R427, 05 R96). ST and VST to the own scratchpad, aligned and not held back: the register's low bytes at the
address, the agent on to the next word, nothing else (21 R407, R432, 05 R96). VGATH and VSCAT whose 32 lane addresses sa + SEXT(lane) +
SEXT(off) are aligned and local: each lane loads its word; lanes are stored in ascending order, so that the highest of two lanes at one
address remains (07 R133, 21 R426). ATOM in the own scratchpad, not held back: sd receives the old value, the word the new one; CAS writes
where the old value is sc; signed and unsigned forms compare so (05 R104, 19 R325). VLD and VST here act at once on all their granules;
which of them comes first elsewhere is the model's (log 6). -/
def Obligations.LocalAccesses : Prop :=
  (∀ (s : State) (g : Agent) (off : Nat), s.atTurn g → s.calm g →
     (∀ z acq sc d m, localAt (g.ea m) (ldBytes z) off →
       let v := rdNat s (spadKey g.core off) (ldBytes z)
       runsTo (.ld z acq sc d m) s g { (g.setS d (match z with
         | .s8 => (BitVec.ofNat 8 v).signExtend 64
         | .s16 => (BitVec.ofNat 16 v).signExtend 64
         | .s32 => (BitVec.ofNat 32 v).signExtend 64
         | _ => BitVec.ofNat 64 v)).next with nextId := g.nextId + 1 })
     ∧ ∀ acq sc d m, localAt (g.ea m) 128 off →
       runsTo (.vld acq sc d m) s g { (g.setV d (Vector.ofFn fun i : Fin 32 =>
         BitVec.ofNat 32 (rdNat s (spadKey g.core off + 4 * i.val) 4))).next with nextId := g.nextId + 1 })
  ∧ (∀ (s : State) (g : Agent) (off : Nat), s.atTurn g → s.calm g →
       let h : Agent := { g.next with nextId := g.nextId + 1 }
       (∀ z rel sc m d, localAt (g.ea m) (stBytes z) off →
         exec (.st z rel sc m d) s = .next ((wr s (spadKey g.core off) (toLe (stBytes z) (g.sr d).toNat)).setAgent g.key h))
       ∧ (∀ rel sc m d, localAt (g.ea m) 128 off →
         exec (.vst rel sc m d) s = .next ((wr s (spadKey g.core off) ((g.vr d).toList.flatMap of32)).setAgent g.key h))
       ∧ ∀ o sc, runsTo (.fence o sc) s g h)
  ∧ (∀ (s : State) (g : Agent) (base : Reg) (idx : VNum) (off : BitVec 26) (at_ : Nat → Nat) (d : VNum) (sc : Scope),
       s.atTurn g → s.calm g →
       (∀ i < 32, localAt (g.sr base + (laneAt (g.vr idx) i).signExtend 64 + off.signExtend 64) 4 (at_ i)) →
       runsTo (.vgath sc d base idx off) s g { (g.setV d (Vector.ofFn fun i : Fin 32 =>
         BitVec.ofNat 32 (rdNat s (spadKey g.core (at_ i.val)) 4))).next with nextId := g.nextId + 32 }
       ∧ exec (.vscat sc base idx off d) s = .next (((List.range 32).foldl (fun t i =>
           wr t (spadKey g.core (at_ i)) (of32 (laneAt (g.vr d) i))) s).setAgent g.key { g.next with nextId := g.nextId + 32 }))
  ∧ (∀ (s : State) (g : Agent) (off : Nat) (fn : AtomFn) (is64 : Bool) (o : Order) (sc : Scope) (d base b c : Reg) (imm : BitVec 16),
       s.atTurn g → s.calm g →
       let n := if is64 then 8 else 4
       localAt (g.sr base + imm.signExtend 64) n off →
       let old := rdNat s (spadKey g.core off) n
       let x := (g.sr b).toNat % 2 ^ (8 * n)
       let sg := fun (v : Nat) => (BitVec.ofNat (8 * n) v).toInt
       let new : Option Nat := match fn with
         | .add => some ((old + x) % 2 ^ (8 * n))
         | .and => some (old &&& x)
         | .or => some (old ||| x)
         | .xor => some (old ^^^ x)
         | .smin => some (if sg x < sg old then x else old)
         | .smax => some (if sg old < sg x then x else old)
         | .umin => some (min old x)
         | .umax => some (max old x)
         | .swap => some x
         | .cas => if old = (g.sr c).toNat % 2 ^ (8 * n) then some x else none
         | .fadd => some (addRne (BitVec.ofNat 32 old) (BitVec.ofNat 32 x)).1.toNat
       exec (.atom fn is64 o sc d base b c imm) s = .next (State.setAgent
         (match new with
           | some v => wr s (spadKey g.core off) (toLe n v)
           | none => s) g.key { (g.setS d (BitVec.ofNat 64 old)).next with nextId := g.nextId + 1 }))

/-- Every access at one address, in the order of 18 R318: alignment, the window of a presence word, translation or membership, the page;
then it is in flight towards its home, parked where the core's translation cache has no entry (05 R96, 09 R159, R170, R198, 10 R184).
TDESC reads eight bytes of the descriptor that a TENSOR word names, as an access in flight that no class counts; another word, an offset
that is no multiple of 8 below 64, or an index beyond the table faults (21 R415). -/
def Obligations.AccessIssue : Prop :=
  (∀ (s : State) (g : Agent) (i : Instr) (x : OneAccess), s.atTurn g → accessOf g i = some x →
     (misaligned x.addr x.width = true → takesFault i s g (memCause x.op.kind 2))
     ∧ (misaligned x.addr x.width = false →
       (x.op.isPresence = true → 2 ≤ bits x.addr.toNat 62 2 → takesFault i s g (memCause x.op.kind 3))
       ∧ ((x.op.isPresence = true → bits x.addr.toNat 62 2 < 2) →
         (∀ r, resolve s g x.addr x.op.want = .error r → takesFault i s g (memCause x.op.kind r))
         ∧ (resolve s g x.addr x.op.want = .ok none →
           exec i s = .next (schedFree (s.setAgent g.key (g.inFlight s x [] .parked)) (.translationWalkDone (.agent g.core g.slot g.nextId))))
         ∧ ∀ l, resolve s g x.addr x.op.want = .ok (some l) →
           (∀ c, locCheck x.op l = some c → takesFault i s g c)
           ∧ (locCheck x.op l = none → l.place.own g.core = false →
             exec i s = .next (schedFree (s.setAgent g.key (g.inFlight s x [l] .moving))
               (if x.op.writes && !x.op.reads then .storePerformed g.core g.slot g.nextId else .loadDataReturn g.core g.slot g.nextId))))))
  ∧ (∀ (s : State) (g : Agent) (d a : Reg) (imm : BitVec 28) (p : Part), s.atTurn g → s.part g.part = some p →
       let w := g.sr a
       let i := bits w.toNat 12 20
       let va := p.desc + BitVec.ofNat 64 (64 * i + imm.toNat)
       ((imm.toNat % 8 ≠ 0 ∨ 64 ≤ imm.toNat ∨ symKind w ≠ 9) → takesFault (.tdesc d a imm) s g 0x21)
       ∧ (imm.toNat % 8 = 0 → imm.toNat < 64 → symKind w = 9 →
         (p.ndesc ≤ i → takesFault (.tdesc d a imm) s g 0x83)
         ∧ ∀ l, i < p.ndesc → resolve s g va .read = .ok (some l) → l.place.own g.core = false →
           exec (.tdesc d a imm) s = .next (schedFree (s.setAgent g.key { g.next with
             outs := g.outs ++ [⟨g.nextId, none, .tdesc d, [va], [l], 8, false, false, .core, .moving, { hereTrap s g with addr := va },
               ⟨[], [], []⟩⟩]
             nextId := g.nextId + 1 }) (.loadDataReturn g.core g.slot g.nextId))))

/-- Loads, stores, atomics and TLINC performed at their home (05 R96, R104, 15 R281): the register receives the bytes, or memory does; a
load of an EMPTY word of a single-assignment page gives zeros (09 R170); the sum of TLINC saturates; the access is counted out. Of a wide
access those granules are performed that a free word names, and the others come later: the order of granules is the model's (log 6).
Nothing else changes. What reaches an agent after its access (09 R167, R198, 15 R273, R251, 12 R436): the walker's answer sends a parked
access on and caches the page, or faults it late; a deferred read's answer writes sd; a peer's answer completes its access, and an empty
one faults it (the model's, log 3); the acknowledgment of a posted write takes it off the list, and performs one that the host link has
reported. -/
def Obligations.AccessesPerformed : Prop :=
  (∀ (s : State) (g : Agent) (a : Access) (k : Nat) (sa : Bool), s.alone g a .moving → a.locs = [⟨.here k, sa⟩] → a.width ≤ 32 →
     let load := exec (.loadDataReturn g.core g.slot a.id) s
     let store := exec (.storePerformed g.core g.slot a.id) s
     let data := (List.range a.width).map fun i =>
       if sa = true ∧ s.presenceOf ((k + i) / 8 * 8) = none then 0#8 else Mem.get s.mem (k + i)
     (∀ z d, a.op = .load z d → load = .next (s.setAgent g.key ((g.setS d (ldExtend z (leNat data))).over a)))
     ∧ (∀ d, a.op = .vload d → g.drowsy = false → load = .next (s.setAgent g.key ((g.setV d (lanesOfBytes data)).over a)))
     ∧ (∀ d, a.op = .tdesc d → load = .next (s.setAgent g.key ((g.setS d (leWord data)).over a)))
     ∧ (∀ fn is64 d b c, a.op = .atom fn is64 d b c →
       let n := if is64 then 8 else 4
       load = .next (State.setAgent (match atomNew fn n (rdNat s k n) b.toNat c.toNat with
           | some v => wr s k (toLe n v)
           | none => s) g.key ((g.setS d (BitVec.ofNat 64 (rdNat s k n))).over a)))
     ∧ (∀ l, a.op = .store l → store = .next ((wr s k l).setAgent g.key (g.over a)))
     ∧ ∀ v, a.op = .tlinc v →
       store = .next ((wr s k (toLe 8 (min (rdNat s k 8 + v.toNat) (2 ^ 64 - 1)))).setAgent g.key (g.over a)))
  ∧ (∀ (s : State) (g : Agent) (a : Access) (k : Nat) (sa : Bool), s.alone g a .moving → a.locs = [⟨.here k, sa⟩] → a.width = 128 →
       k % 128 = 0 → a.open_ ≠ [] → a.lanes.sent = [] →
       let named := a.open_.filter fun i => (Config.freeWord s.free).getLsbD i
       let now := if named = [] then a.open_ else named
       let u : State := { s with free := s.free + 1 }
       let gran := fun (i : Nat) => (List.range 32).map fun j =>
         if sa = true ∧ s.presenceOf ((k + 32 * i + j) / 8 * 8) = none then 0#8 else Mem.get s.mem (k + 32 * i + j)
       (∀ l, a.op = .store l →
         let v := now.foldl (fun t i => wr t (k + 32 * i) ((l.drop (32 * i)).take 32)) u
         (now = a.open_ → exec (.storePerformed g.core g.slot a.id) s = .next (v.setAgent g.key (g.over a)))
         ∧ (now ≠ a.open_ → ∃ t, exec (.storePerformed g.core g.slot a.id) s = .next t ∧ t.mem = v.mem
           ∧ t.agent g.key = some { g with outs := [{ a with lanes := { a.lanes with done := now.reverse ++ a.lanes.done } }] }
           ∧ pendingEvent t (.storePerformed g.core g.slot a.id) = true))
       ∧ ∀ d, a.op = .vload d → g.drowsy = false →
         let data := (List.range 4).flatMap fun i => if i ∈ now then gran i else (Tbl.find a.lanes.got i).getD []
         (now = a.open_ → exec (.loadDataReturn g.core g.slot a.id) s = .next (u.setAgent g.key ((g.setV d (lanesOfBytes data)).over a)))
         ∧ (now ≠ a.open_ → ∃ t m, exec (.loadDataReturn g.core g.slot a.id) s = .next t ∧ t.mem = s.mem
           ∧ t.agent g.key = some { g with outs := [{ a with lanes := m }] } ∧ m.done = now.reverse ++ a.lanes.done
           ∧ (∀ i ∈ now, Tbl.find m.got i = some (gran i)) ∧ pendingEvent t (.loadDataReturn g.core g.slot a.id) = true))
  ∧ (∀ (s : State) (g : Agent) (a : Access),
       (∀ va e l, s.alone g a .parked → a.vas = [va] → a.op.kind ≠ kGather → va.toNat < 2 ^ 55 → (s.core g.core).tlb = [] →
         walk s (((s.part g.part).map (·.asid)).getD 0) va.toNat = .ok e → e.check s va.toNat a.op.want = .ok l →
         locCheck a.op l = none →
         exec (.translationWalkDone (.agent g.core g.slot a.id)) s = .next (schedFree
           ((s.modCore g.core fun c => { c with tlb := [e] }).setAgent g.key { g with outs := [{ a with phase := .moving, locs := [l] }] })
           (accEvent g a)))
       ∧ (∀ va r, s.alone g a .parked → a.vas = [va] → a.op.kind ≠ kGather → va.toNat < 2 ^ 55 → (s.core g.core).tlb = [] →
         walk s (((s.part g.part).map (·.asid)).getD 0) va.toNat = .error r →
         exec (.translationWalkDone (.agent g.core g.slot a.id)) s =
           .next (failAccess s g a (memCause a.op.kind r) va 0xFFFFFFFF true))
       ∧ (∀ d v, s.alone g a .moving → a.op = .answered d v →
         exec (.loadDataReturn g.core g.slot a.id) s = .next (s.setAgent g.key ((g.setS d v).over a)))
       ∧ (∀ z d data, s.alone g a .armed → g.reads = [] → g.claim = none → a.op = .load z d →
         (data ≠ [] → exec (.peerAnswer g.core g.slot a.id data) s =
           .next (s.setAgent g.key ((g.setS d (ldExtend z (leNat (data.take a.width)))).over a)))
         ∧ (data = [] → exec (.peerAnswer g.core g.slot a.id data) s =
           .next (failAccess s g a 0x80 (a.vas.headD 0) 0xFFFFFFFF true)))
       ∧ (∀ c w b y q op, s.agent g.key = some g → g.outs = [] → g.posted = [⟨a.id, w, b, false, y⟩] →
         s.posted = [⟨(g.core, g.slot), a.id, q, op, true⟩] →
         let t : State := { s with posted := [] }
         exec (.postedWriteAck g.core g.slot a.id c) s = .next ((match q, c with
           | .host k, true => applyAt t k op
           | _, _ => t).setAgent g.key { g with posted := if c then [] else [⟨a.id, w, b, true, y⟩] })))

/-- The presence states of a word and their transitions at its bank (09 R170): STP fills an EMPTY word and faults on a FULL or POISON one,
PSET empties or poisons any word; a fill answers every read that is armed on it. A presence read at its bank (09 R170, R171): a FULL or
POISON word is answered with its value, an EMPTY one arms the read while its channel's table has room, else the read comes again in 1 us;
a launch that traps poison faults on POISON with 0x09D. The answer is the value of sd. -/
def Obligations.PresenceWords : Prop :=
  (∀ (s : State) (g : Agent) (a : Access) (pa : Nat), s.alone g a .moving → a.locs = [⟨.here pa, true⟩] →
     let store := exec (.storePerformed g.core g.slot a.id) s
     let put := fun (p : Presence) (w : Word) => store = .next (State.setAgent
       { wr s pa (ofWord w) with presence := Tbl.put s.presence pa p } g.key (g.over a))
     ((∀ d ∈ s.deferred, d.pa ≠ pa) →
       (∀ v, a.op = .stp v → s.presenceOf pa = none → put .full v)
       ∧ (∀ v, a.op = .psetPoison v → put .poison v)
       ∧ (a.op = .psetEmpty → store = .next (State.setAgent
           { wr s pa (List.replicate 8 0) with presence := Tbl.drop s.presence pa } g.key (g.over a))))
     ∧ (∀ v, a.op = .stp v → (s.presenceOf pa = some .full → store = .next (failAccess s g a 0xA4 (a.vas.headD 0)))
       ∧ (s.presenceOf pa = some .poison → store = .next (failAccess s g a 0xA5 (a.vas.headD 0))))
     ∧ ∀ v c j id d (q : Agent) (b : Access), a.op = .stp v → s.presenceOf pa = none → s.deferred = [⟨pa, .agent c j id⟩] →
       agentKey c j ≠ g.key → s.agent (agentKey c j) = some q → q.core = c → q.slot = j → q.outs = [b] → b.id = id → b.op = .ldp d →
       ∃ t, store = .next t ∧ t.deferred = [] ∧ t.presenceOf pa = some .full ∧ t.agent g.key = some (g.over a)
         ∧ t.agent (agentKey c j) = some { q with outs := [{ b with op := .answered d v, phase := .moving }] }
         ∧ pendingEvent t (.loadDataReturn c j id) = true)
  ∧ (∀ (s : State) (g : Agent) (a : Access) (pa : Nat) (d : Reg), s.alone g a .moving → a.locs = [⟨.here pa, true⟩] → a.op = .ldp d →
       let read := exec (.loadDataReturn g.core g.slot a.id) s
       let armed := s.setAgent g.key { g with outs := [{ a with phase := .armed }] }
       let room := (s.deferred.filter fun x => channelOf x.pa = channelOf pa).length < 4096
       let w := leWord (rd s pa 8)
       (s.presenceOf pa = some .full ∨ (s.presenceOf pa = some .poison ∧ (s.pcb g.part).pflags.getLsbD 0 = false) →
         read = .next (schedFree (s.setAgent g.key { g with outs := [{ a with op := .answered d w, phase := .moving }] })
           (.loadDataReturn g.core g.slot a.id)))
       ∧ (s.presenceOf pa = some .poison → (s.pcb g.part).pflags.getLsbD 0 = true →
         read = .next (failAccess s g a 0x9D (a.vas.headD 0)))
       ∧ (s.presenceOf pa = none → room →
         read = .next { armed with deferred := s.deferred ++ [⟨pa, .agent g.core g.slot a.id⟩] })
       ∧ (s.presenceOf pa = none → ¬ room →
         read = .next (sched armed 2100 (.deferralRetry (.agent g.core g.slot a.id)))
         ∧ ∀ t, t.agent g.key = some { g with outs := [{ a with phase := .armed }] } → t.presenceOf pa = none → t.deferred = [] →
           exec (.deferralRetry (.agent g.core g.slot a.id)) t =
             .next { t.setAgent g.key { g with outs := [{ a with phase := .armed }] } with deferred := [⟨pa, .agent g.core g.slot a.id⟩] }))

/-- Operations of a class retire in issue order (04 R89): what is left of a class is what stands behind its leading done ones. A late
fault waits for its agent's instruction boundary (12 R436): it is held, its event put on the agenda of this cycle, and raised there unless
the area stands still or an instruction is under way. An access that RESUME issues again alone keeps its place in the order until then (10
R198). -/
def Obligations.AccessEnds : Prop :=
  (∀ (c : Cls) (l : List ClassOp),
     (retire [] l).filter (fun o => o.cls = c) = (l.filter fun o => o.cls = c).dropWhile ClassOp.done)
  ∧ (∀ (s : State) (g : Agent) (a : Access) (c : Nat) (addr : Word) (alone : Bool), s.agent g.key = some g → g.outs = [a] →
       (let t := failAccess s g a c addr 0xFFFFFFFF alone
        let f : AFault := ⟨{ a.tr with cause := c, addr := addr, lane := 0xFFFFFFFF }, if alone then some a.id else none, true⟩
        let h : Agent := { g.opDone a.id with outs := if alone then [{ a with phase := .faulted }] else [] }
        t.agent g.key = some { h with late := g.late ++ [f] } ∧ pendingEvent t (.lateFaultRaise g.core g.slot) = true
          ∧ t.mem = s.mem)
       ∧ ∀ f l, g.late = f :: l →
         (g.status = .running → g.xrow = none →
           g.service = true ∨ ((s.rec? g.part g.rid).map Record.frozen).getD false = false →
           exec (.lateFaultRaise g.core g.slot) s =
             .next (agentFault (s.setAgent g.key { g with late := l }) { g with late := l } f))
         ∧ ((g.status ≠ .running ∨ g.xrow.isSome = true) → exec (.lateFaultRaise g.core g.slot) s = .next s)
         ∧ (g.service = false → g.stepLeft = none → (s.rec? g.part g.rid).map Record.frozen = some true →
           exec (.lateFaultRaise g.core g.slot) s = .next s))

/-- MONW waits until the word differs from sd and then reads it; TLWAIT waits until the word reaches sd; WAIT until every class count is
at most its field (20 R378, 15 R280, 21 R433). Until then nothing at all changes. What a wait that goes on tests is the word as its cycle
began with it (20 R378), but for what the trace unit has written, which wakes no monitor (15 R284). A wait that was met while its area
stood still stays met (12 R221). On tiers 2 and 3 what is tested is the value of the last poll. -/
def Obligations.WaitingInstructions : Prop :=
  ∀ (s : State) (g : Agent), s.atTurn g →
    (∀ is64 d m off, s.calm g → localAt (g.ea m) (if is64 then 8 else 4) off →
      let n := if is64 then 8 else 4
      let seen := fun (v : Nat) => (g.polled = none ∧ v = rdNat s (spadKey g.core off) n) ∨ ∃ w : Word, g.polled = some w ∧ v = w.toNat % 2 ^ (8 * n)
      (∀ v, seen v → g.met = none →
        (v ≠ (g.sr d).toNat % 2 ^ (8 * n) → runsTo (.monw is64 d m) s g { (g.setS d (BitVec.ofNat 64 v)).next with polled := none })
        ∧ (v = (g.sr d).toNat % 2 ^ (8 * n) → staysPut (.monw is64 d m) s))
      ∧ ∀ w, g.met = some w → runsTo (.monw is64 d m) s g { (g.setS d w).next with polled := none })
    ∧ (∀ d m off, s.calm g → localAt (g.ea m) 8 off →
      let seen := fun (v : Nat) => (g.polled = none ∧ v = rdNat s (spadKey g.core off) 8) ∨ ∃ w : Word, g.polled = some w ∧ v = w.toNat
      (∀ v, seen v → g.met = none →
        ((g.sr d).toNat ≤ v → runsTo (.tlwait d m) s g { g.next with polled := none })
        ∧ (v < (g.sr d).toNat → staysPut (.tlwait d m) s))
      ∧ ∀ w, g.met = some w → runsTo (.tlwait d m) s g { g.next with polled := none })
    ∧ (∀ a n off, localAt a n off → 0 < n → n ≤ 8 →
      let now : Word := BitVec.ofNat 64 (rdNat s (spadKey g.core off) n)
      (g.polled = none ∨ s.hushedAt (spadKey g.core off) n = false → watchWord s g a n = s.setAgent g.key { g with polled := some now })
      ∧ (∀ w, g.polled = some w → s.hushedAt (spadKey g.core off) n = true → watchWord s g a n = s.setAgent g.key g))
    ∧ (∀ d m l, s.calm g → misaligned (g.ea m) 8 = false → resolve s g (g.ea m) .read = .ok (some l) → l.place.far = true →
      l.place.unreachable s = false → g.met = none →
      (g.polled = none → staysPut (.tlwait d m) s ∧ staysPut (.monw true d m) s)
      ∧ (∀ v : Word, g.polled = some v → v.toNat < (g.sr d).toNat → staysPut (.tlwait d m) s)
      ∧ (s.instrAt g = some (.tlwait d m) → ∀ k, l.place = .host k →
        exec (.monitorPoll (.agent g.core g.slot)) s = .next (State.setAgent { s with free := s.free + 1 } g.key
          { g with polled := some (BitVec.ofNat 64 (rdNat s k 8)) })))
    ∧ ∀ l st c x : BitVec 6,
      let low := fun (k : Cls) (n : BitVec 6) => (g.ops.countP fun o => o.cls = k) ≤ n.toNat
      let met := low .loads l ∧ low .stores st ∧ low .copies c ∧ low .tiles x
      (met → runsTo (.wait l st c x) s g g.next) ∧ (¬ met → staysPut (.wait l st c x) s)

/-! ## Rings -/

/-- A write of one slot's state leaves every other slot's state (09 R178). RINIT, ACQS, FILL, AWAITF and RELS on a ring in the own
scratchpad, nothing holding them back (09 R178 to R181, 19 R322, R327, R361, 20 R390, R393): the new header, the register, the faults, and
where they wait without any change. No byte outside header bytes 12 to 31 changes. -/
def Obligations.Rings : Prop :=
  (∀ (r : Ring) (i j v : Nat), i < 32 → j < 32 → v < 4 → (r.setState i v).state j = if j = i then v else r.state j)
  ∧ (∀ (s : State) (g : Agent) (m : MemOp) (off : Nat), s.atTurn g → s.calm g → s.memOk → localAt (g.ea m) 32 off →
       Tbl.find (s.core g.core).ringSnap off = none → g.begun = false → (∀ e ∈ s.ctxs, e.2.relSlot ≠ some (g.core, off)) →
       let k := spadKey g.core off
       let r := ringAt s g.core off
       let at_ := fun (i : Nat) => (BitVec.ofNat 64 (2 ^ 63 + (r.base + i * r.size)) : Word)
       let w := r.wpos % r.count
       let p := r.rpos % r.count
       let mine := g.service = false ∧ (r.owner = 0xFFFF ∨ r.owner = g.lcell % 64)
       let room := r.state w = 0 ∧ (r.wpos + 2 ^ 32 - r.rpos) % 2 ^ 32 < r.window
       let becomes := fun (i : Instr) (h : Agent) (q : Ring) => ∃ t, exec i s = .next t ∧ t.agent g.key = some h
         ∧ ringAt t g.core off = q ∧ ∀ a, (a < k + 12 ∨ k + 32 ≤ a) → Mem.get t.mem a = Mem.get s.mem a
       (r.ok = false → takesFault (.rinit m) s g 0x8B
         ∧ (g.met = none → takesFault (.rels m) s g 0x8B
           ∧ ∀ d, takesFault (.acqs d m) s g 0x83 ∧ takesFault (.awaitf d m) s g 0x83 ∧ takesFault (.fill m d) s g 0x8B))
       ∧ (r.ok = true →
         becomes (.rinit m) g.next { r with owner := 0xFFFF, wpos := 0, rpos := 0, states := 0 }
         ∧ (∀ d, (mine → (room ∨ g.met.isSome = true) → becomes (.acqs d m) (g.setS d (at_ w)).next
               { r.setState w 1 with owner := g.lcell % 64, wpos := (r.wpos + 1) % 2 ^ 32 })
             ∧ (mine → ¬ room → g.met = none → staysPut (.acqs d m) s)
             ∧ (¬ mine → g.met = none → takesFault (.acqs d m) s g 0x84))
         ∧ (∀ a i, g.service = false → i < r.count → g.sr a = at_ i → r.state i = 1 → r.owner = g.lcell % 64 →
             becomes (.fill m a) g.next (r.setState i 2))
         ∧ (∀ a, (g.service = true ∨ r.owner ≠ g.lcell % 64 ∨ ∀ i < r.count, g.sr a = at_ i → r.state i ≠ 1) →
             takesFault (.fill m a) s g 0x8C)
         ∧ (∀ d, (g.met = none → r.state p = 2 → runsTo (.awaitf d m) s g (g.setS d (at_ p)).next)
             ∧ (∀ w, g.met = some w → runsTo (.awaitf d m) s g (g.setS d w).next)
             ∧ (g.met = none → r.state p < 2 → staysPut (.awaitf d m) s)
             ∧ (g.met = none → r.state p = 3 → exec (.awaitf d m) s =
                 .next (faultBlamed s g (condemnedAt s g.core (r.base + p * r.size)) (g.ea m) false)))
         ∧ (2 ≤ r.state p → becomes (.rels m) g.next { r.setState p 0 with rpos := (r.rpos + 1) % 2 ^ 32 })
         ∧ (r.state p < 2 → takesFault (.rels m) s g 0x8C)))

/-! ## Symbols -/

/-- SYMR and SYMQ read a cell of the own area by its position among the cells that are not BLOCKED: the word, its kind, its depth below
the area's, the position of the END that closes it, its payload bytes; two cycles later, or half a sweep more when the cell lies in
another core; beyond the area 0x021 (20 R411, R412). EMIT and EMITT append one held emission, at most 64, of a word that R18 allows and
whose depth does not pass 63; the align and retain bits stay in a BAG alone; EMITT copies its payload and gives it its chime word (19
R352, R353, 03 R60). The chime of a list of terms is the sum of each term times its position, counted from 1, modulo 2^61 - 1 (11 R199).
CHIME gives the chime word of its bytes, one cycle for 128 bytes and two more, a TERN2 code of 10 read as a number setting TC (06 R115);
CANCEL reaches the root half a sweep later (11 R213, 19 R333). That a result is written at issue and held back until it may be read is the
model's (log 23), and so are the free words for what no rule states (log 15). -/
def Obligations.Symbols : Prop :=
  (∀ (s : State) (g : Agent) (d b : Reg) (imm : BitVec 28) (r : Record), s.atTurn g → g.service = false →
     s.rec? g.part g.rid = some r →
     let c := (g.sr b).toNat + imm.toNat
     let cells := areaCells s r.start g.alen
     let word := fun (j : Nat) => s.cell (cells.getD j 0)
     let w := word c
     let closes := fun (j : Nat) => symKind (word j) = 3 ∧ symDepth (word j) = symDepth w
     let gives := fun (i : Instr) (v : Word) => runsTo i s g
       ((g.setS d v).later (.s d.val) (s.cycle + 2 + (if cells.getD c 0 / 64 = g.core then 0 else halfSpan cells))).next
     (g.alen ≤ c → takesFault (.symr d b imm) s g 0x21 ∧ ∀ q, takesFault (.symq q d b imm) s g 0x21)
     ∧ (c < g.alen → c < cells.length →
       gives (.symr d b imm) w
       ∧ gives (.symq .kind d b imm) (BitVec.ofNat 64 (symKind w))
       ∧ gives (.symq .depth d b imm) (BitVec.ofNat 64 (symDepth w - g.depth))
       ∧ gives (.symq .bytes d b imm) (BitVec.ofNat 64 (if symKind w = 8 then tileBytes w else 0))
       ∧ (symKind w ≠ 1 → symKind w ≠ 2 → gives (.symq .endc d b imm) (BitVec.ofNat 64 c))
       ∧ ∀ e, (symKind w = 1 ∨ symKind w = 2) → c < e → e < cells.length → closes e → (∀ j, c < j → j < e → ¬ closes j) →
           gives (.symq .endc d b imm) (BitVec.ofNat 64 e)))
  ∧ (∀ (s : State) (g : Agent) (a b : Reg), s.atTurn g → g.service = false →
       let w := g.sr a
       let bare := w &&& 0xFFFFFFFCFFFFFFFF#64
       let kept := if symKind w = 1 then w else bare
       let legal := symKind w ≠ 8 ∧ symKind w < 12 ∧ reservedSym kept = false
       let n := tileBytes w
       let tile := symKind w = 8 ∧ tileFmt w ≤ 27 ∧ symPay w % 4096 = 0 ∧ symSub w = 0
         ∧ (fmtBlock (tileFmt w) ≠ 0 → tileCols w % fmtBlock (tileFmt w) = 0) ∧ 0 < n ∧ n ≤ 4096
       let fits := g.emits.length < 64 ∧ g.depth + symDepth w ≤ 63
       (legal → fits → runsTo (.emit a) s g { g.next with emits := g.emits ++ [⟨kept, none, 0⟩] })
       ∧ (¬ legal → takesFault (.emit a) s g 0xF2)
       ∧ (legal → 64 ≤ g.emits.length → takesFault (.emit a) s g 0xF4)
       ∧ (legal → g.emits.length < 64 → 63 < g.depth + symDepth w → takesFault (.emit a) s g 0xF6)
       ∧ (symKind w ≠ 8 → takesFault (.emitt a b) s g 0xF2)
       ∧ (tile → 64 ≤ g.emits.length → takesFault (.emitt a b) s g 0xF4)
       ∧ (tile → fits → (g.sr b).toNat % 32 ≠ 0 → takesFault (.emitt a b) s g 0x82)
       ∧ ∀ off, tile → fits → s.calm g → g.sr b = BitVec.ofNat 64 (2 ^ 63 + off) → off % 32 = 0 → off + n ≤ 2 ^ 20 →
           let l := rd s (spadKey g.core off) n
           let w' := bare ||| 0x1000#64
           let tern := tileFmt w = 27 ∧ ∃ i < tileRows w * tileCols w, elemAt l 2 i = 2
           ∀ fl : W32, (tern → fl = g.fflags ||| fTC) → (¬ tern → fl = g.fflags) →
           runsTo (.emitt a b) s g
             { g.next with emits := g.emits ++ [⟨w', some l, payloadChime w' l⟩], wakeAt := s.cycle + (n + 1023) / 1024, fflags := fl })
  ∧ (∀ us : List Nat, chimeSum 0 us = ((us.zipIdx.map fun x => (x.2 + 1) * x.1).foldr (· + ·) 0) % (2 ^ 61 - 1))
  ∧ (∀ (s : State) (g : Agent), s.atTurn g →
       (∀ lin (f : Fmt) sc d a b off, s.calm g → g.sr a = BitVec.ofNat 64 (2 ^ 63 + off) → off < 2 ^ 20 →
         let n := (g.sr b).toNat
         let m := n * 8 / fmtWidth f.val
         let k := if sc then m / fmtBlock f.val else 0
         n ≤ 4096 → n * 8 % fmtWidth f.val = 0 → off + n + k ≤ 2 ^ 20 →
         let l := rd s (spadKey g.core off) n
         let tern := lin = true ∧ f.val = 27 ∧ ∃ i < m, elemAt l (fmtWidth f.val) i = 2
         ∀ h : Agent, (tern → h = { g with fflags := g.fflags ||| fTC }) → (¬ tern → h = g) →
         runsTo (.chime lin f sc d a b) s g
           ((h.setS d (chimeWord lin f.val m l (rd s (spadKey g.core off + n) k))).later (.s d.val) (s.cycle + (n + 127) / 128 + 2)).next)
       ∧ (∀ lin (f : Fmt) sc d a b, (4096 < (g.sr b).toNat ∨ (g.sr b).toNat * 8 % fmtWidth f.val ≠ 0) →
         takesFault (.chime lin f sc d a b) s g 0x21)
       ∧ ∀ a p, s.part g.part = some p → exec (.cancel a) s =
         .next (sched (s.setAgent g.key g.next) (sweepTime p.j / 2) (.cancelEffect g.part ((g.sr a).toNat % 2 ^ 32))))

/-! ## Tree operations -/

/-- TBC, TRED, TSCAN, TBAR and TMEAN stand until every agent of the area has arrived: the agent holds its contribution under the next
operation number, nothing else changes, and the join is on the agenda once the last one is there (21 R413, R414, R417, R418, 10 R193, 08
R157). A TBC root beyond the area and a TBAR behind accesses that are not performed (21 R413, R414, 10 R193). What several contributions
that differ do is the model's (log 24). -/
def Obligations.TreeContributions : Prop :=
  (∀ (s : State) (g : Agent) (i : Instr) (c : Contrib), s.atTurn g → g.slot < 64 →
     ((∃ d a imm, i = .tbc d a imm ∧ imm.toNat < g.alen ∧ c = .tbc (g.sr a) imm.toNat d)
       ∨ (∃ op d a, i = .tred op d a ∧ c = .tred op (g.sr a) d)
       ∨ (∃ op ex d a, i = .tscan op ex d a ∧ c = .tscan op ex (g.sr a) d)
       ∨ (i = .tbar ∧ (∀ x ∈ g.outs, x.op.orders = false) ∧ c = .tbar)
       ∨ ∃ d a q, i = .tmean d a ∧ ((tmsShape g.tms).mode ≠ 2 ∨ (pairOf (s.core g.core) (tmsShape g.tms).slot).isSome) ∧ c = .tmean q.1.m q.1.a q.1.n q.2 d g.tms
           ∧ (tmsShape g.tms).take ((pairOf (s.core g.core) (tmsShape g.tms).slot).map (·.1)) ((g.sr a).truncate 32) = .ok q) →
     let h : Agent := { g with status := .joining, contrib := some c, join := g.join + 1 }
     ∃ t, exec i s = .next t ∧ t.agent g.key = some h ∧ (∀ k, k ≠ g.key → t.agent k = s.agent k) ∧ t.mem = s.mem
       ∧ t.parts = s.parts ∧ t.cells = s.cells
       ∧ ((∀ q ∈ (s.setAgent g.key h).agentsOf g.part g.rid, q.status = .ended ∨ g.join + 1 ≤ q.join) →
           pendingEvent t (.treeJoinComplete g.part g.rid (g.join + 1)) = true))
  ∧ (∀ (s : State) (g : Agent), s.atTurn g → g.service = false →
       (∀ d a (imm : BitVec 28), g.alen ≤ imm.toNat → takesFault (.tbc d a imm) s g 0x21)
       ∧ ((∃ x ∈ g.outs, x.op.orders = true) → staysPut .tbar s)
       ∧ ∀ d a, (tmsShape g.tms).mode = 2 → pairOf (s.core g.core) (tmsShape g.tms).slot = none → takesFault (.tmean d a) s g 0x6F)

/-- A complete join goes on in every agent that contributed: its register takes its result, the flags are added, the agent stands behind
its instruction; the others' agents, the memory and the cells stay (21 R413). So a join completes to which every agent of the area has
given the same TBAR, TBC, TRED or TSCAN. TRED of an integer operation gives every agent the combination of all operands; TSCAN gives agent
i that of agents 0 to i, or 0 to i - 1, the identity where there is none (21 R417, R418): sums and bit operations do not depend on the
tree. -/
def Obligations.TreeResults : Prop :=
  (∀ (s : State) (n rid k : Nat) (ref : Contrib) (res : List Word) (fl : W32),
     let ags := s.agentsOf n rid
     s.quietUnits → (∀ g ∈ ags, s.agent g.key = some g) → (ags.map Agent.key).Nodup →
     (∀ g ∈ ags, g.status = .ended ∨ k ≤ g.join) → joinRef ags k = some ref →
     (∀ g ∈ ags, ∀ c, g.given k = some c → ref.agrees c = true ∧ c.tms = ref.tms) →
     joinCompute s n ags k ref = .ok res fl → res.length = ags.length →
     ∃ t, exec (.treeJoinComplete n rid k) s = .next t ∧ t.mem = s.mem ∧ t.cells = s.cells
       ∧ (∀ i (hi : i < ags.length) c, ags[i].given k = some c → t.agent ags[i].key = some
           { ((match c.dest with
               | some d => ags[i].setS d (res.getD i 0)
               | none => ags[i]).next) with status := .running, contrib := none, fflags := ags[i].fflags ||| fl })
       ∧ ∀ q, (∀ g ∈ ags, (g.given k).isSome → g.key ≠ q) → t.agent q = s.agent q)
  ∧ (∀ (s : State) (n rid k : Nat),
       let ags := s.agentsOf n rid
       s.quietUnits → (∀ g ∈ ags, s.agent g.key = some g) → (ags.map Agent.key).Nodup → ags ≠ [] → (∀ g ∈ ags, g.join = k) →
       ((∀ g ∈ ags, g.contrib = some .tbar) ∨ (∃ r, ∀ g ∈ ags, ∃ a d, g.contrib = some (.tbc a r d))
         ∨ (∃ o, ∀ g ∈ ags, ∃ a d, g.contrib = some (.tred o a d)) ∨ ∃ o ex, ∀ g ∈ ags, ∃ a d, g.contrib = some (.tscan o ex a d)) →
       ∃ t fl, exec (.treeJoinComplete n rid k) s = .next t ∧ t.mem = s.mem ∧ t.cells = s.cells
         ∧ ∀ g ∈ ags, ∃ h, t.agent g.key = some h ∧ h.status = .running ∧ h.contrib = none ∧ h.pc = g.pc + 1
           ∧ h.fflags = g.fflags ||| fl)
  ∧ (∀ (xs : List Word), xs ≠ [] → xs.length ≤ 2 ^ 18 → ∀ (o : TreeOp) (f : Word → Word → Word),
       ((o = .add ∧ f = (· + ·)) ∨ (o = .and ∧ f = (· &&& ·)) ∨ (o = .or ∧ f = (· ||| ·)) ∨ (o = .xor ∧ f = (· ^^^ ·))
         ∨ (o = .min ∧ f = fun x y => if x.toInt ≤ y.toInt then x else y)
         ∨ (o = .max ∧ f = fun x y => if y.toInt ≤ x.toInt then x else y)) →
       (∀ ex, treeResults o false ex xs = (xs.map fun _ => xs.foldl f (treeIdentity o), 0))
       ∧ ∀ ex, treeResults o true ex xs =
           ((List.range xs.length).map fun i => (xs.take (if ex then i else i + 1)).foldl f (treeIdentity o), 0))

/-! ## Transformed mean -/

/-- TMSET writes `%tms` and refuses a reserved value (08 R145, R146); TMLD of 2,080 bytes of the own scratchpad holds its agent until the
pair lands, nine cycles after issue, the slot changing at the end of that cycle; a pair out of R151 faults with 0x069 and leaves the slot
(08 R152, R153). VMEAN writes the mean of its active lanes, to be read 8 cycles later, and its flags, which never trap; an entry fault
names its lane (08 R155, 06 R122). XMEAN takes a row of 32 words at a time: row r's mean goes to lane r, 8 cycles later; behind the last
row the agent goes on; no row is a NOP, more than 32 fault with 0x069 (08 R156). The place of the landing within its cycle, and that
results are written at issue and held back, are the model's (log 23). -/
def Obligations.TransformedMeans : Prop :=
  ((∀ (s : State) (g : Agent) (src : TmSrc), s.atTurn g →
     let v : W32 := match src with
       | .imm v => v
       | .reg a => (g.sr a).truncate 32
     let reserved := bits v.toNat 24 2 = 3 ∨ bits v.toNat 16 8 ≠ 0 ∨ (bits v.toNat 30 2 = 0 ∧ bits v.toNat 0 16 = 0)
     (¬ reserved → runsTo (.tmset src) s g { g.next with tms := v }) ∧ (reserved → takesFault (.tmset src) s g 0x1D))
   ∧ ∀ (s : State) (g : Agent) (m : MemOp) (n : Fin 8) (off : Nat),
     g.ea m = BitVec.ofNat 64 (2 ^ 63 + off) → off % 16 = 0 → off + 2080 ≤ 2 ^ 20 → s.calm g →
     let bytes := rd s (spadKey g.core off) 2080
     let good := (tableAt bytes 0).ok = true ∧ (tableAt bytes 1040).ok = true
     let h : Agent := { g with status := .running }
     (s.atTurn g → exec (.tmld m n) s = .next (sched (s.setAgent g.key { g with status := .held }) 9 (.tmldLand g.core g.slot)))
     ∧ (s.agent g.key = some g → g.status = .held → g.reads = [] → s.instrAt g = some (.tmld m n) →
       (good → exec (.tmldLand g.core g.slot) s =
         .next ((s.modCore g.core fun c => { c with landing := c.landing ++ [(n, ⟨bytes⟩)] }).setAgent g.key { h.next with wakeAt := s.cycle + 1 }))
       ∧ (¬ good → exec (.tmldLand g.core g.slot) s = .next (faultNow (s.setAgent g.key h) h 0x69 (g.ea m)))))
  ∧ (∀ (s : State) (core : Nat) (n : Fin 8) (p : TablePair), (s.core core).landing = [(n, p)] →
       ((tickCore s core).core core).tables = (s.core core).tables.set n (some p) ∧ ((tickCore s core).core core).landing = [])
  ∧ (∀ (s : State) (g : Agent) (k : KReg) (d : Reg) (a : VNum), s.atTurn g →
       let mean := (tmsShape g.tms).mean (s.core g.core) (g.kr k) (g.vr a)
       (∀ y, mean = .ok y → runsTo (.vmean k d a) s g
         ({ (g.setS d (y.1.zeroExtend 64)) with fflags := g.fflags ||| y.2 }.later (.s d.val) (s.cycle + 8)).next)
       ∧ ∀ c l, mean = .error (c, l) → exec (.vmean k d a) s = .next (faultNow s g c 0 (l.getD 0xFFFFFFFF)))
  ∧ (let after := fun (s : State) (g : Agent) (x : XRow) (y : W32 × W32) =>
       let h : Agent := { g.setV x.d ((g.vr x.d).set! x.row y.1) with fflags := g.fflags ||| y.2 }.later (.v x.d.val) (s.cycle + 8)
       if x.row + 1 = x.rows then { h.next with xrow := none, wakeAt := s.cycle + 9 }
       else { h with xrow := some { x with row := x.row + 1 } }
     (∀ s g x y off, s.agent g.key = some g → s.calm g → g.xrow = some x → x.ring = false → x.row < x.rows → x.rows ≤ 32 →
       localAt (x.addr + BitVec.ofNat 64 (128 * x.row)) 128 off →
       (tmsShape g.tms).mean (s.core g.core) 0xFFFFFFFF#32 (lanesOfBytes (rd s (spadKey g.core off) 128)) = .ok y →
       exec (.xmeanRow g.core g.slot) s = .next (s.setAgent g.key (after s g x y)))
     ∧ ∀ s g d a b, s.atTurn g → g.xrow = none →
       (32 < (g.sr b).toNat → ∀ ring, takesFault (.xmean ring d a b) s g 0x69)
       ∧ (g.sr b = 0 → ∀ ring, runsTo (.xmean ring d a b) s g g.next)
       ∧ (0 < (g.sr b).toNat → (g.sr b).toNat ≤ 32 → (g.sr a).toNat % 128 ≠ 0 → takesFault (.xmean false d a b) s g 0x82)
       ∧ ∀ y off, s.calm g → 0 < (g.sr b).toNat → (g.sr b).toNat ≤ 32 → localAt (g.sr a) 128 off →
         (tmsShape g.tms).mean (s.core g.core) 0xFFFFFFFF#32 (lanesOfBytes (rd s (spadKey g.core off) 128)) = .ok y →
         let x : XRow := ⟨0, (g.sr b).toNat, g.sr a, false, d⟩
         exec (.xmean false d a b) s = .next (s.setAgent g.key (after s { g with xrow := some x } x y)))

/-! ## Matrix engine -/

/-- MACQ takes a tile that is unowned, and was at the start of the cycle, and leaves it EMPTY, is no change on an owned one, and waits for
another's; MREL by the owner frees the tile, at once or behind its operations; MREL by another faults with 0x084 (04 R79, R80, 07 R143, 20
R372, R380). MSWP exchanges the planes and MZERO empties its tile, each with the engine idle in the next cycle (the model's, log 22), the
timeline one further and the operation counted out (07 R139, R142, R143, 15 R278). -/
def Obligations.Tiles : Prop :=
  (∀ (s : State) (g : Agent) (c : Acc), s.atTurn g →
     let q := s.core g.core
     let t := q.tile c
     let freed : Tile := { t with owner := none, full := false, sat := false, int := false }
     (t.owner = none → (q.stats[c]).getLsbD 31 = true → staysPut (.macq c) s)
     ∧ (t.owner = none → (q.stats[c]).getLsbD 31 = false → exec (.macq c) s =
       .next ((s.setCore g.core (q.setTile c { freed with owner := some g.slot })).setAgent g.key g.next))
     ∧ (t.owner = some g.slot → runsTo (.macq c) s g g.next
       ∧ (tileBusyFor q g.slot g.nextId c = false →
         exec (.mrel c) s = .next ((s.setCore g.core (q.setTile c freed)).setAgent g.key g.next))
       ∧ (tileBusyFor q g.slot g.nextId c = true →
         exec (.mrel c) s = .next ((s.setCore g.core { q with mrels := q.mrels ++ [(g.slot, c, g.nextId)] }).setAgent g.key g.next)))
     ∧ (∀ o, t.owner = some o → o ≠ g.slot → staysPut (.macq c) s)
     ∧ (t.owner ≠ some g.slot → takesFault (.mrel c) s g 0x84)
     ∧ (∀ id, q.mrels = [(g.slot, c, id)] → tileBusyFor q g.slot id c = false →
       exec (.mrelEffect g.core c) s = .next (s.setCore g.core ({ q with mrels := [] }.setTile c freed))))
  ∧ (∀ (s : State) (core slot id : Nat) (rest : List QEntry),
       let c := s.core core
       c.engineFrozen = false → c.idleAt ≤ s.cycle → cutHere s core slot id = false →
       let leaves := fun (t : State) => (t.core core).queue = rest ∧ (t.core core).idleAt = s.cycle + 1
         ∧ (t.core core).timeline = c.timeline + 1 ∧ t.mem = s.mem
         ∧ t.agent (agentKey core slot) = (s.agent (agentKey core slot)).map fun g => g.opDone id
       (c.queue = .mswp slot id :: rest → mldbPending c = false → ∃ t, exec (.mswpEffect core) s = .next t ∧ leaves t
         ∧ (t.core core).active = c.shadow ∧ (t.core core).shadow = c.active ∧ (t.core core).tiles = c.tiles)
       ∧ ∀ u : Acc, c.queue = .mzero slot id u :: rest → ∃ t, exec (.mzeroEffect core) s = .next t ∧ leaves t
         ∧ (t.core core).active = c.active ∧ (t.core core).shadow = c.shadow
         ∧ (t.core core).tile u = { c.tile u with full := false, sat := false, int := false, words := Vector.replicate 1024 0 }
         ∧ ∀ w : Acc, w ≠ u → (t.core core).tile w = c.tile w)

/-- MMA, MSWP and MZERO enter the engine queue of at most four, counted in the tile class, while their agent goes on; the issue checks of
R140 in their order; a full queue holds them (07 R139 to R143, 20 R377, R382, R384). -/
def Obligations.EngineIssue : Prop :=
  ∀ (s : State) (g : Agent) (c : Acc), s.atTurn g →
    let q := s.core g.core
    let owner := (q.tile c).owner = some g.slot
    let enters := fun (i : Instr) (e : QEntry) (start : Instr) => ∃ t, exec i s = .next t
      ∧ t.agent g.key = some { g.next with ops := g.ops ++ [⟨.tiles, g.nextId, false⟩], nextId := g.nextId + 1 }
      ∧ (t.core g.core).queue = q.queue ++ [e] ∧ (t.core g.core).tiles = q.tiles ∧ t.mem = s.mem
      ∧ (q.queue = [] → q.copies = [] → q.chains = [] → g.posted = [] → pendingEvent t start = true)
    (q.queue.length < 4 → enters .mswp (.mswp g.slot g.nextId) (.mswpEffect g.core))
    ∧ (q.queue.length < 4 → owner → enters (.mzero c) (.mzero g.slot g.nextId c) (.mzeroEffect g.core))
    ∧ (4 ≤ q.queue.length → staysPut .mswp s ∧ (owner → staysPut (.mzero c) s))
    ∧ (¬ owner → takesFault (.mzero c) s g 0x84)
    ∧ ∀ chk a b m n k (fa fb : Fmt),
      let i : Instr := .mma chk c a b m n k fa fb
      let mm := (g.sr m).toNat
      let nn := (g.sr n).toNat
      let kk := (g.sr k).toNat
      let whole := fun (f : Nat) => fmtBlock f = 0 ∨ kk % fmtBlock f = 0
      let mode := bits g.ascl.toNat 62 2
      let sc := if fmtBlock fa.val = 0 then 0 else mm * (kk / fmtBlock fa.val)
      let size := elemBytes (fmtWidth fa.val) (mm * kk) + (if mode = 0 then sc else 0)
      (¬ owner → takesFault i s g 0x84)
      ∧ (owner → (mm = 0 ∨ nn = 0 ∨ kk = 0) →
        exec i s = .next ((s.modCore g.core fun x => { x with timeline := x.timeline + 1 }).setAgent g.key g.next))
      ∧ (owner → 0 < mm → 0 < nn → 0 < kk →
        ((32 < mm ∨ 32 < nn) → takesFault i s g 0x59)
        ∧ (mm ≤ 32 → nn ≤ 32 →
          (¬ (whole fa.val ∧ whole fb.val) → takesFault i s g 0x1D)
          ∧ (whole fa.val → whole fb.val →
            (localOff (g.sr a) size = none → takesFault i s g 0x83)
            ∧ ∀ off, localOff (g.sr a) size = some off → (mode = 1 → bits g.ascl.toNat 0 20 + sc ≤ 2 ^ 20) →
              (4 ≤ q.queue.length → staysPut i s)
              ∧ (q.queue.length < 4 → enters i (.mma ⟨chk, c, fa.val, fb.val, off, (g.sr b).toNat, mm, nn, kk, g.slot, g.nextId,
                  hereTrap s g, g.ascl, g.mtol, none, [], 0, 0, 0, none, none⟩) (.mmaStart g.core)))))

/-- An MMA starts when it heads the idle engine's queue: busy, prog 0, the sums cleared in an EMPTY tile; planes or tile that do not fit
refuse it as a late fault 0x059 (07 R140, R141, R436). It completes behind its last row: not busy, flags to the agent, the timeline one
further (07 R141, 06 R123, 15 R278). Row i of an unchecked MMA: each of its N sums is taken group by group, the rest of the tile stays,
the tile is FULL from its first row on (the model's, log 22), prog is i + 1, sat is set by a clamped sum (06 R125, 07 R140, R141, R143).
Integer accumulation of one group adds the exact sum of products once and clamps it to the INT32 range, with no flag (06 R125). -/
def Obligations.MatrixProducts : Prop :=
  (∀ (s : State) (core : Nat) (o : MmaOp) (rest : List QEntry) (g : Agent),
     let c := s.core core
     c.queue = .mma o :: rest → s.agent (agentKey core o.slot) = some g → g.core = core → g.slot = o.slot →
     c.engineFrozen = false → (g.ops.any fun p => p.id = o.id) = true →
     let t := c.tile o.c
     (o.start = none → o.rows = 0 → c.idleAt ≤ s.cycle → c.copies = [] → c.chains = [] → s.dev.tests = [] →
       (∀ x ∈ c.queue, x.slot = o.slot → o.id ≤ x.id) → g.posted = [] → cutHere s core o.slot o.id = false →
       (o.refused c = false → ∃ u, exec (.mmaStart core) s = .next u
         ∧ headMma (u.core core) = some { o with start := some s.cycle, limit := none }
         ∧ (u.core core).tile o.c = { t with
             busy := true, prog := 0, int := intAcc o.fa o.fb
             words := if t.full then t.words else Vector.replicate 1024 0 }
         ∧ pendingEvent u (.mmaRowWrite core) = true ∧ u.mem = s.mem)
       ∧ (o.refused c = true → ∃ u, exec (.mmaStart core) s = .next u ∧ (u.core core).queue = rest
         ∧ (u.core core).tiles = c.tiles
         ∧ u.agent (agentKey core o.slot) = some { g.opDone o.id with late := g.late ++ [⟨{ o.tr with cause := 0x59 }, none, true⟩] }))
     ∧ (o.start.isSome = true → o.rows = o.m → o.err = none → ∃ u, exec (.mmaComplete core) s = .next u
       ∧ (u.core core).queue = rest ∧ (u.core core).idleAt = s.cycle + 1 ∧ (u.core core).timeline = c.timeline + 1
       ∧ (u.core core).tile o.c = { t with busy := false, prog := 0 }
       ∧ u.agent (agentKey core o.slot) = some { g.opDone o.id with fflags := g.fflags ||| o.flags } ∧ u.mem = s.mem))
  ∧ (∀ (s : State) (core : Nat) (o : MmaOp) (rest : List QEntry),
       let c := s.core core
       c.queue = .mma o :: rest → c.engineFrozen = false → o.start.isSome = true → o.chk = false → rowHit s core o (o.rows + 1) = none → o.rows < o.m → o.m ≤ 32 → o.n ≤ 32 →
       o.taken = [] →
       let t := c.tile o.c
       let row := readARow s core o o.rows
       let xs := (aRow o row.1 row.2).map (·.1)
       let col := fun (j : Nat) => (bCol c.active o.kb o.k j).map (·.1)
       let sum := fun (j : Nat) => accElem (intAcc o.fa o.fb) (min (fmtDepth o.fa) (fmtDepth o.fb)) (t.words.toList.getD (32 * o.rows + j) 0) xs (col j)
       ∃ u, exec (.mmaRowWrite core) s = .next u ∧ u.mem = s.mem
         ∧ (let v := (u.core core).tile o.c
           (∀ j < o.n, v.words.toList.getD (32 * o.rows + j) 0 = (sum j).1)
           ∧ (∀ i < 1024, ¬ (32 * o.rows ≤ i ∧ i < 32 * o.rows + o.n) → v.words.toList.getD i 0 = t.words.toList.getD i 0)
           ∧ v.full = true ∧ v.prog = o.rows + 1 ∧ v.owner = t.owner ∧ v.busy = t.busy ∧ v.int = t.int
           ∧ v.sat = (t.sat || (List.range o.n).any fun j => (sum j).2.2))
         ∧ (∀ w : Acc, w ≠ o.c → (u.core core).tile w = c.tile w)
         ∧ pendingEvent u (if o.rows + 1 < o.m then .mmaRowWrite core else .mmaComplete core) = true)
  ∧ (∀ (d : Nat) (c : W32) (xs ys : List Int), xs.length = ys.length → 0 < xs.length → xs.length ≤ d →
       let exact := c.toInt + ((xs.zip ys).map fun p => p.1 * p.2).foldr (· + ·) 0
       let v := Max.max (-2 ^ 31) (Min.min exact (2 ^ 31 - 1))
       accElem true d c (xs.map fun x => Val.ofInt x 0) (ys.map fun y => Val.ofInt y 0) = (BitVec.ofInt 32 v, 0, decide (v ≠ exact)))

/-- MST, MLDC and MLDB at issue: the owner and the alignment are checked, the rest comes after it; they count as copies, and one that
nothing holds is under way at once (07 R137, R143, 20 R375, R376, R381). MST_LAND stores the tile's 4 KiB, MLDC_LAND fills the tile from
memory and keeps its int bit only if it was FULL, MLDB_LAND makes the shadow plane of its header, its data and the scales that the MLDB
read as it was issued (06 R118); each counts out; all in the own scratchpad here (07 R137, R138, R143). When a copy may begin and when an
MLDB reads is the model's (logs 10 and 22). -/
def Obligations.TileCopies : Prop :=
  (∀ (s : State) (g : Agent), s.atTurn g →
     let q := s.core g.core
     let h := fun (n : Nat) => ({ g.next with ops := g.ops ++ [⟨.copies, g.nextId, false⟩], nextId := g.nextId + n } : Agent)
     let alone := q.queue = [] ∧ q.copies = [] ∧ q.chains = [] ∧ q.mrels = [] ∧ g.posted = []
     (∀ m c, let a := g.ea m
       ((q.tile c).owner ≠ some g.slot → takesFault (.mst m c) s g 0x8C ∧ takesFault (.mldc c m) s g 0x84)
       ∧ ((q.tile c).owner = some g.slot →
         (a.toNat % 64 ≠ 0 → takesFault (.mst m c) s g 0x8A ∧ takesFault (.mldc c m) s g 0x82)
         ∧ (a.toNat % 64 = 0 → alone →
           (∃ t, exec (.mst m c) s = .next t ∧ t.agent g.key = some (h 2) ∧ t.mem = s.mem
             ∧ (t.core g.core).copies = [.mst g.slot g.nextId c a (some (q.tile c).bytes) (hereTrap s g)]
             ∧ pendingEvent t (.mstLand g.core g.nextId) = true)
           ∧ ∃ t, exec (.mldc c m) s = .next t ∧ t.agent g.key = some (h 2) ∧ t.mem = s.mem
             ∧ (t.core g.core).copies = [.mldc g.slot g.nextId c a true (hereTrap s g)]
             ∧ pendingEvent t (.mldcLand g.core g.nextId) = true)))
     ∧ ∀ f tr m, let a := g.ea m
       (a.toNat % 16 ≠ 0 → takesFault (.mldb f tr m) s g 0x82)
       ∧ (a.toNat % 16 = 0 → (∃ e ∈ q.queue, e.acc = none) → staysPut (.mldb f tr m) s)
       ∧ (a.toNat % 16 = 0 → alone → (∀ x ∈ g.outs, x.op.writes = false) →
         (∀ l, agentPlaces s g a 16 .read = .ok l → ∀ p ∈ l, p.1.window g.core = false ∧ ∀ n k, p.1 ≠ .peer n k) → ∃ t head due, exec (.mldb f tr m) s = .next t
         ∧ t.agent g.key = some (h 1) ∧ t.mem = s.mem ∧ pendingEvent t (.mldbLand g.core) = true
         ∧ (t.core g.core).copies =
           [.mldb g.slot g.nextId f.val tr a head g.bscl (bScales s g f.val a g.bscl).2 s.cycle due (hereTrap s g)]))
  ∧ (∀ (s : State) (g : Agent) (id off : Nat) (t : Trap), s.agent g.key = some g → g.core < Config.cores → g.outs = [] → g.posted = [] →
       g.reads = [] → s.quietUnits → (g.ops.any fun p => p.id = id) = true →
       let q := s.core g.core
       q.queue = [] → q.chains = [] → q.mrels = [] →
       let a : Word := BitVec.ofNat 64 (2 ^ 63 + off)
       let lands := fun (i : Instr) (u : State) => exec i s = .next u ∧ u.agent g.key = some (g.opDone id)
         ∧ (u.core g.core).copies = []
       (∀ c data, off % 64 = 0 → off + 4096 ≤ 2 ^ 20 → data.length = 4096 → q.copies = [.mst g.slot id c a (some data) t] →
         ∃ u, lands (.mstLand g.core id) u ∧ u.mem = Mem.writeL s.mem (spadKey g.core off) data ∧ (u.core g.core).tiles = q.tiles)
       ∧ (∀ c, off % 64 = 0 → off + 4096 ≤ 2 ^ 20 → q.copies = [.mldc g.slot id c a true t] →
         ∃ u, lands (.mldcLand g.core id) u ∧ u.mem = s.mem
           ∧ (u.core g.core).tile c = { q.tile c with
               full := true
               int := (q.tile c).full && (q.tile c).int
               words := Vector.ofFn fun i : Fin 1024 => BitVec.ofNat 32 (rdNat s (spadKey g.core off + 4 * i.val) 4) })
       ∧ ∀ (f : Fmt) tr head bscl sc since due src,
         let kk := leAt head 8 4
         let nn := leAt head 12 2
         let n := planeBytes f.val kk nn
         let m := if bits bscl.toNat 62 2 = 0 then planeScales f.val kk nn else 0
         q.copies = [.mldb g.slot id f.val tr a (some head) bscl sc since due t] → due ≤ s.cycle → headFault f.val head = none →
         off + 16 ≤ 2 ^ 20 → leWord (head.take 8) = BitVec.ofNat 64 (2 ^ 63 + src) → src < 2 ^ 20 → src + n + m ≤ 2 ^ 20 →
         ∃ u, lands (.mldbLand g.core) u ∧ u.mem = s.mem ∧ (u.core g.core).active = q.active
           ∧ (u.core g.core).shadow = planeOf f.val kk nn tr (rd s (spadKey g.core src) n)
             (if bits bscl.toNat 62 2 = 0 ∧ sc = [] then rd s (spadKey g.core src + n) m else sc) (bits bscl.toNat 62 2 = 2))

/-! ## Chains -/

/-- VCHAIN reads its 32-byte control block and its body words, and goes on behind the body while the chain runs, counted as a tile
operation; a chain of no rows is over at once (07 R134, 21 R423). VCHAIN_ROW on arrays: the row's 128 bytes go to the input register, the
body runs lane by lane with flags that never trap, the output register's 128 bytes are stored, and nothing else of memory changes (07
R134, 06 R122); the rounding mode is that of the issue (04 R75), and the flags reach the agent when the chain is over (06 R123). When a
row is read, and which registers a chain names, is the model's (log 21). -/
def Obligations.Chains : Prop :=
  (∀ (s : State) (g : Agent) (a : Reg) (n : Fin 8) (off : Nat), s.atTurn g → off % 32 = 0 → off < 2 ^ 20 →
     g.sr a = BitVec.ofNat 64 (2 ^ 63 + off) →
     let l := rd s (spadKey g.core off) 32
     let inA := leWord (l.take 8)
     let outA := leWord (sliceB l 8 8)
     let cnt := leAt l 16 4
     let vin := leAt l 21 1
     let vout := leAt l 22 1
     let good := chainLocal inA = true ∧ chainLocal outA = true ∧ leAt l 20 1 = 0 ∧ vin < 4 * g.gran ∧ vout < 4 * g.gran
       ∧ (l.drop 23).all (· = 0#8) = true
     (∀ body, good → chainBody s g (g.pc + 1) (n.val + 1) = some body →
       let h : Agent := { g with nextId := g.nextId + 1, ops := g.ops ++ [⟨.tiles, g.nextId, false⟩], pc := g.pc + n.val + 2 }
       (cnt = 0 → runsTo (.vchain a n) s g (h.opDone g.nextId))
       ∧ (cnt ≠ 0 → exec (.vchain a n) s = .next ((s.setAgent g.key h).modCore g.core fun c =>
           { c with chains := c.chains ++ [⟨g.slot, g.nextId, g.pc, inA, outA, cnt, false, false, vin, vout, body, 0, 0, 0, 0, none, false,
             g.frm, 0, g.seed, 0⟩] })))
     ∧ (good → chainBody s g (g.pc + 1) (n.val + 1) = none → takesFault (.vchain a n) s g 0x19)
     ∧ (chainLocal inA = false → takesFault (.vchain a n) s g 0x83))
  ∧ (∀ (s : State) (g : Agent) (ch : Chain) (i o : Nat), s.agent g.key = some g →
       let q := s.core g.core
       q.chains = [ch] → q.copies = [] → q.queue = [] → q.mrels = [] → g.posted = [] → ch.slot = g.slot → ch.inRing = false → ch.outRing = false →
       ch.frozen = false → ch.row < ch.cnt →
       localAt (ch.inAddr + BitVec.ofNat 64 (128 * ch.row)) 128 i → localAt (ch.outAddr + BitVec.ofNat 64 (128 * ch.row)) 128 o →
       let h := ch.body.foldl bodyStep { g.setV (Fin.ofNat 64 ch.vin) (lanesOfBytes (rd s (spadKey g.core i) 128)) with
         frm := ch.frm, fflags := ch.flags }
       let k : Agent := { h with frm := g.frm, fflags := g.fflags }
       ∃ t, exec (.vchainRow g.core g.slot) s = .next t
         ∧ t.mem = Mem.writeL s.mem (spadKey g.core o) (bytesOfLanes (h.vr (Fin.ofNat 64 ch.vout)))
         ∧ (ch.row + 1 < ch.cnt → t.agent g.key = some k
           ∧ (t.core g.core).chains = [{ ch with
               row := ch.row + 1, at_ := 0, inOff := ch.inOff + 1, outOff := ch.outOff + 1, outSlot := none, flags := h.fflags }])
         ∧ (ch.row + 1 = ch.cnt → t.agent g.key = some { k.opDone ch.id with fflags := g.fflags ||| h.fflags }
           ∧ (t.core g.core).chains = []))

/-! ## Stream commands -/

/-- SPAT, SLOOP, SCHK, SSTOP and NOP of a context: a pattern from its descriptor, the loop registers as R77's, the check flags with their
tensor, the end of the program behind its fills and releases; misaligned or reserved descriptors and a branch out of the program stop the
stream (09 R175, R176, 21 R399, R400, R406, 11 R214). SWAIT goes on once the word has reached its value, is polled in 1 us on tiers 2 and
3, and else keeps only the translation entry that it has read through (09 R167); SSIG stores, adds to or raises the word, behind the
context's fills, as one operation at its home, posted where that is beyond the device (15 R272, R279, 21 R405, R410). When a command
starts behind the one before, that a monitor moves no bytes and that a refill stands before its access are the model's (logs 2, 32 and
43). -/
def Obligations.StreamControl : Prop :=
  (∀ (s : State) (e c : Nat) (x : Ctx), s.ctxAt e c x → s.quietUnits → s.posted = [] → x.tensor = none → x.fresh →
     (∀ n desc, desc.toNat % 8 ≠ 0 → stopsStream (.spat n desc) s e c x 0xB2)
     ∧ (∀ n desc t ps, desc.toNat % 8 = 0 → s.reaches e x desc 64 .read t ps →
       (∀ p, patternOf (readPieces s ps) = .ok p →
         exec (.spat n desc) s = .next (issued (charge s e 64) e c { x with tlb := t, walked := false, pats := x.pats.set n.val p }))
       ∧ ∀ r, patternOf (readPieces s ps) = .error r → exec (.spat n desc) s = .next (endCtx (charge s e 64) e c x 0x20 (0xB0 + r)))
     ∧ (∀ n v, issues (.sloopSet n v) s e c { x with loops := x.loops.set n.val v })
     ∧ (∀ (n : Fin 4) off, let v := x.loops[n]
       let y : Ctx := { x with loops := x.loops.set n.val (v - 1) }
       let t : Int := x.pc + off.toInt
       (v = 0 → issues (.sloop n off) s e c x) ∧ (v = 1 → issues (.sloop n off) s e c y)
       ∧ (1 < v.toNat → 0 ≤ t → t < x.words.length → exec (.sloop n off) s = .next (schedFree (s.setCtx (ctxKey e c)
           { y.past with pc := t.toNat, wakeAt := s.cycle + 1 }) (.streamCommandComplete e c)))
       ∧ (1 < v.toNat → (t < 0 ∨ x.words.length ≤ t) → stopsStream (.sloop n off) s e c x 0x29))
     ∧ (∀ f : BitVec 3, (f.toNat % 4 = 0 → issues (.schk f none) s e c { x with schk := f, tensor := none })
       ∧ (f.toNat % 4 ≠ 0 → stopsStream (.schk f none) s e c x 0xB3))
     ∧ (∀ f d t ps, s.reaches e x d 64 .read t ps →
       ((tensorOf (readPieces s ps)).isSome = true →
         exec (.schk f (some d)) s = .next (issued (charge s e 64) e c { x with tlb := t, walked := false, schk := f, tensor := some d }))
       ∧ (tensorOf (readPieces s ps) = none → exec (.schk f (some d)) s = .next (endCtx (charge s e 64) e c x 0x20 0xB3)))
     ∧ (x.fills = [] → x.relSlot = none → exec .sstop s = .next (endCtx s e c x 0 0))
     ∧ ((x.fills ≠ [] ∨ x.relSlot.isSome = true) → staysPut .sstop s)
     ∧ exec .nop s = .next (s.setCtx (ctxKey e c) { x.past with timeline := x.timeline + 1, wakeAt := s.cycle + 1 }))
  ∧ (∀ (s : State) (e c : Nat) (x : Ctx) (v : BitVec 40) (a : Word), s.ctxAt e c x → s.quietUnits → s.posted = [] →
       (a.toNat % 8 ≠ 0 → stopsStream (.swait v a) s e c x 0xB2 ∧ stopsStream (.ssigSt v a) s e c x 0xB2
         ∧ stopsStream (.ssigAdd v a) s e c x 0xB2 ∧ stopsStream (.ssigMax v a) s e c x 0xB2)
       ∧ (a.toNat % 8 = 0 → x.misses a = true →
         let u := pause (schedFree s (.translationWalkDone (.context e c))) e c { x with status := .waiting }
         exec (.swait v a) s = .next u ∧ exec (.ssigSt v a) s = .next u ∧ exec (.ssigAdd v a) s = .next u
           ∧ exec (.ssigMax v a) s = .next u)
       ∧ (∀ t ps, a.toNat % 8 = 0 → x.misses a = false → unitSpan s x.asid x.tlb a 8 .read = .ok (t, ps) → x.fillMeets ps = false →
         let w := leNat (readPieces s ps)
         let y : Ctx := { x with tlb := t, walked := false }
         let met := v.toNat ≤ w ∧ (x.begun = false ∨ quietPieces s ps = false)
         (met → issues (.swait v a) s e c y)
         ∧ (¬ met → (∀ p ∈ ps, p.1.place.far = false) → exec (.swait v a) s = .next (pause s e c { y with begun := true }))
         ∧ (¬ met → (∃ p ∈ ps, p.1.place.far = true) → exec (.swait v a) s =
             .next (sched (s.setCtx (ctxKey e c) { y with status := .waiting }) 2100 (.monitorPoll (.context e c)))))
       ∧ ∀ t l n, a.toNat % 8 = 0 → x.misses a = false → unitSpan s x.asid x.tlb a 8 .write = .ok (t, [(l, n)]) →
         let y : Ctx := { x with tlb := t, walked := false }
         ((room s e < 8 ∨ x.fills ≠ [] ∨ x.relSlot.isSome = true) → exec (.ssigSt v a) s = .next (pause s e c y)
           ∧ exec (.ssigAdd v a) s = .next (pause s e c y) ∧ exec (.ssigMax v a) s = .next (pause s e c y))
         ∧ (8 ≤ room s e → x.fills = [] → x.relSlot = none →
           let puts := fun (i : Instr) (u : State) => exec i s = .next (issued (charge u e 8) e c y)
           (∀ k, l.place = .here k → let w := rdNat s k 8
             puts (.ssigSt v a) (wr s k (toLe 8 v.toNat)) ∧ puts (.ssigAdd v a) (wr s k (toLe 8 ((w + v.toNat) % 2 ^ 64)))
             ∧ puts (.ssigMax v a) (wr s k (toLe 8 (max w v.toNat))))
           ∧ (l.place.far = true → let u : AccOp → State := postUnit s (4096 + e, c) l.place
             puts (.ssigSt v a) (u (.store (toLe 8 v.toNat))) ∧ puts (.ssigAdd v a) (u (.raise false (v.zeroExtend 64)))
             ∧ puts (.ssigMax v a) (u (.raise true (v.zeroExtend 64))))))

/-- A pattern's row n in nested order, index 0 fastest: its base plus each index times its stride (09 R176). SPUSH of one row claims the
slot at the ring's write position and sends the row there; SPULL of one row takes the FULL slot at the read position and stores it at the
pattern's row; both wait, with nothing changed, while the slot is not theirs to take. A drained slot, once its release is due, is free
again and the read position one further (09 R179 to R181, 21 R401, R402). What of the engine's 512 bytes a row takes, and when a release
is due in its cycle, is the model's (logs 43 and 44). -/
def Obligations.RingStreams : Prop :=
  (∀ (base : Word) (rowb a b c i j k : Nat) (x y z : Int) (raw : List Byte) (pos : Nat), i < a → j < b → k < c →
     (⟨base, rowb, 3, [a, b, c, 0, 0], [x, y, z, 0, 0], raw, pos⟩ : Pattern).rowAt (i + a * (j + b * k))
       = base + BitVec.ofInt 64 (i * x + j * y + k * z))
  ∧ (∀ (s : State) (e c : Nat) (x : Ctx) (ring : Word) (core off : Nat) (r : Ring) (n : Fin 2), s.ctxAt e c x → c < 64 → s.quietUnits →
       s.memOk → s.posted = [] → x.tensor = none → x.fresh → ctxRing s x ring = .ok (core, off, r) →
       Tbl.find (s.core core).ringSnap off = none →
       let p := x.pats[n]
       let i : Instr := if n = 0 then .spush 1 ring else .spull 1 ring
       let moved := fun (y : Ctx) => ({ y with pats := y.pats.set n.val { p with pos := p.pos + 1 } } : Ctx)
       (((0 < p.rowb ∧ r.size / p.rowb = 0) ∨ p.rows - p.pos = 0) → stopsStream i s e c x 0xB3)
       ∧ (0 < p.rowb → 0 < r.size / p.rowb → p.pos < p.rows → n = 0 →
         let own := 0x8000 + 64 * (e % 64) + c
         ((r.owner ≠ 0xFFFF ∧ r.owner ≠ own) → stopsStream i s e c x 0xB4)
         ∧ ((r.owner = 0xFFFF ∨ r.owner = own) →
           (r.claimable = false → exec i s = .next s)
           ∧ ∀ t ps, r.claimable = true →
             let v := putRing s core off (r.claim own).1
             v.reaches e x (p.rowAt p.pos) p.rowb .read t ps →
             ∃ u f, exec i s = .next u ∧ ringAt u core off = (r.claim own).1
               ∧ u.ctx (ctxKey e c) = { (moved { x with tlb := t, walked := false, fills := x.fills ++ [f] }).past with wakeAt := s.cycle + 1 }
               ∧ f.bytes = readPieces v ps ∧ f.key = spadKey core (r.base + r.wpos % r.count * r.size) ∧ f.slotIdx = r.wpos % r.count
               ∧ f.condemned = none ∧ f.last = true ∧ pendingEvent u (.engineFillLand e c) = true))
       ∧ (0 < p.rowb → 0 < r.size / p.rowb → p.pos < p.rows → n = 1 →
         let slot := r.base + r.rpos % r.count * r.size
         ((x.relSlot.isSome = true ∨ r.state (r.rpos % r.count) < 2) → exec i s = .next s)
         ∧ (x.relSlot = none → r.state (r.rpos % r.count) = 3 → stopsStream i s e c x (condemnedAt s core slot).cause)
         ∧ ∀ h qs t ps, x.relSlot = none → r.state (r.rpos % r.count) = 2 →
           s.reaches e x (BitVec.ofNat 64 (ring.toNat / 2 ^ 20 * 2 ^ 20 + slot)) p.rowb .read h qs →
           let l := readPieces s qs
           let v := charge s e p.rowb
           l.length = p.rowb → v.reaches e (x.noted h l) (p.rowAt p.pos) p.rowb .write t ps →
           exec i s = .next (issued (charge (writePieces v (4096 + e, c) ps l) e p.rowb) e c
             { moved { x with tlb := t, walked := false } with relSlot := some (core, off) })))
  ∧ ∀ (s : State) (key core off : Nat), s.memOk → s.posted = [] → (s.ctx key).relSlot = some (core, off) → (ringAt s core off).ok = true →
       let r := ringAt s core off
       let t := releaseDrained s key
       t.ctx key = { s.ctx key with relSlot := none } ∧ t.agents = s.agents
       ∧ ringAt t core off = { r.setState (r.rpos % r.count) 0 with rpos := (r.rpos + 1) % 2 ^ 32 }

/-- SCOPY and SGATH move one row from slot 0's pattern, or from the row of slot 0 that the list names, to the next row of slot 1's (21
R395, R397). A command completes on its context's timeline once its writes are performed (09 R175, 15 R278); a fill that lands makes its
slot FULL, and completes its command where it is the last one (21 R402); a slot that is no longer FILLING stops the stream (09 R180, R181,
20 R393). How a row is cut into pieces where the cycle has no room for all of it is the model's (logs 32 and 43). -/
def Obligations.StreamCopies : Prop :=
  (∀ (s : State) (e c : Nat) (x : Ctx), s.ctxAt e c x → s.quietUnits → s.posted = [] → x.tensor = none → x.fresh →
     let p0 := x.pats[0]
     let p1 := x.pats[1]
     let moves := fun (i : Instr) (v : State) (y : Ctx) (a : Word) (q : Pattern) => ∀ t ps u qs, v.reaches e y a p1.rowb .read t ps →
       let l := readPieces v ps
       let w := charge v e p1.rowb
       l.length = p1.rowb → w.reaches e (y.noted t l) (p1.rowAt p1.pos) p1.rowb .write u qs →
       exec i s = .next (issued (charge (writePieces w (4096 + e, c) qs l) e p1.rowb) e c { x with
         tlb := u, walked := false, pats := (x.pats.set 0 q).set 1 { p1 with pos := p1.pos + 1 } })
     ((p0.rowb ≠ p1.rowb ∨ p0.rows ≤ p0.pos ∨ p1.rows ≤ p1.pos) → stopsStream (.scopy 1) s e c x 0xB3)
     ∧ (p0.rowb = p1.rowb → p0.pos < p0.rows → p1.pos < p1.rows →
       let a := p0.rowAt p0.pos
       moves (.scopy 1) s x a { p0 with pos := p0.pos + 1 }
       ∧ (0 < p1.rowb → pieceLen s e a p1.rowb = 0 → exec (.scopy 1) s = .next (pause s e c x))
       ∧ ∀ m t ps, 0 < m → m < p1.rowb → pieceLen s e a p1.rowb = m → x.misses a = false →
         unitSpan s x.asid x.tlb a m .read = .ok (t, ps) → x.fillMeets ps = false →
         exec (.scopy 1) s = .next (pause (charge s e m) e c { x with tlb := t, walked := false, got := readPieces s ps }))
     ∧ ∀ list t ps, p0.rowb = p1.rowb → p1.pos < p1.rows → list.toNat % 4 = 0 → s.reaches e x list 4 .read t ps →
       let l := readPieces s ps
       let i := leNat l
       (p0.cnt.getD 0 0 ≤ i → exec (.sgath 1 list) s = .next (endCtx (charge s e 4) e c x 0x20 0xB3))
       ∧ (i < p0.cnt.getD 0 0 → moves (.sgath 1 list) (charge s e 4) (x.noted t l) (p0.base + BitVec.ofInt 64 (i * p0.str.getD 0 0)) p0))
  ∧ (∀ (s : State) (e c : Nat) (x : Ctx), s.ctx (ctxKey e c) = x → x.status ≠ .free →
       (s.posted = [] → x.relSlot = none →
         exec (.streamCommandComplete e c) s = .next (s.setCtx (ctxKey e c) { x with timeline := x.timeline + 1 }))
       ∧ (x.relSlot.isSome = true → exec (.streamCommandComplete e c) s = .next (sched s 1 (.streamCommandComplete e c)))
       ∧ ∀ f core off, x.fills = [f] → f.hdr = spadKey core off → off < 2 ^ 20 → f.condemned = none → s.dev.transfers = [] →
         let r := ringAt s core off
         let land := exec (.engineFillLand e c) s
         (f.bytes ≠ [] → land = .next (sched s 1 (.engineFillLand e c)))
         ∧ (f.bytes ≠ [] → f.bytes.length ≤ room s e → (∃ a ∈ s.agenda, a.1 ≤ s.cycle ∧ a.2 = .engineFillLand e c) →
           landBytes s e c = (charge (wr s f.key f.bytes) e f.bytes.length).setCtx (ctxKey e c) { x with
             fills := [{ f with key := f.key + f.bytes.length, bytes := [] }] })
         ∧ (f.bytes = [] → r.state f.slotIdx = 1 → land =
           .next ((putRing s core off (r.setState f.slotIdx 2)).setCtx (ctxKey e c) { x with
             fills := [], timeline := x.timeline + (if f.last then 1 else 0) }))
         ∧ (f.bytes = [] → r.state f.slotIdx ≠ 1 → f.orphan = false →
           land = .next (endCtx s e c { x with fills := [] } 0x20 0xB4)))

/-- The router keeps of each expert's assignments the first ones up to its capacity, in the order of the input, and drops the rest (09
R182, R183). SROUTE reads its descriptor and its entries, and writes the kept assignments by expert, the counts, the offsets, each the sum
of the counts before it, and the drop map where one is asked for (09 R182, R183, 21 R404); so it completes, with all of that stored,
whenever the descriptor and the entries are legal and its areas lie in scratchpads that the stream reaches through the core window. That
the areas may have any alignment, and the length of the drop map, are the model's (log 32), and so is how the cycles' bytes are counted
(log 43). -/
def Obligations.Router : Prop :=
  (∀ (es : List Nat) (ne cap q : Nat), q < ne →
     let mine := (es.zipIdx.map fun x => (⟨x.2, bits x.1 32 16, bits x.1 0 32⟩ : Assign)).filter fun a => a.expert = q
     (keptOf (assigns es ne) ne cap).filter (fun a => a.expert = q) = (if cap = 0 then mine else mine.take cap)
     ∧ ∀ a ∈ keptOf (assigns es ne) ne cap, a.expert < ne)
  ∧ (∀ (s t0 : State) (e c : Nat) (x x1 : Ctx) (desc : Word) (d : List Byte) (b0 : Option Blame),
       s.ctxAt e c x → desc.toNat % 8 = 0 → ctxGet s e c x desc 64 = .done t0 x1 d b0 → x1.stops b0 = none →
       let t := leAt d 8 4
       let k := leAt d 12 1
       let ne := leAt d 16 2
       let cap := leAt d 20 4
       let legal := t * k ≤ 2 ^ 20 ∧ 1 ≤ k ∧ k ≤ 8 ∧ 1 ≤ ne ∧ ne ≤ 4096 ∧ leAt d 13 3 = 0 ∧ leAt d 18 2 = 0 ∧ leAt d 56 8 = 0
       let input := ctxGet t0 e c x1 (leWord (d.take 8)) (8 * (t * k))
       (¬ legal → exec (.sroute desc) s = .next (endCtx t0 e c x1 0x20 0xB3))
       ∧ (legal → (∀ u y, input = .stand u y → exec (.sroute desc) s = .next (pause u e c y))
         ∧ ∀ t1 x2 l b1, input = .done t1 x2 l b1 → x2.stops b1 = none →
           let es := (List.range (t * k)).map fun i => leAt l (8 * i) 8
           ((∃ v ∈ es, 2 ^ 48 ≤ v ∨ ne ≤ bits v 32 16) → exec (.sroute desc) s = .next (endCtx t1 e c x2 0x20 0xB3))
           ∧ ((∀ v ∈ es, v < 2 ^ 48 ∧ bits v 32 16 < ne) →
             let kept := keptOf (assigns es ne) ne cap
             let count := fun (q : Nat) => kept.countP fun a => a.expert = q
             let counts := (List.range ne).map count
             let offs := (List.range ne).map fun q => ((List.range q).map count).foldr (· + ·) 0
             let out := kept.flatMap fun a => toLe 8 (a.gate * 2 ^ 32 + a.i % k * 2 ^ 20 + a.i / k)
             let write := writeAreas e c (b0 <|> b1) [(leWord (sliceB d 24 8), out), (leWord (sliceB d 32 8), counts.flatMap (toLe 4)),
               (leWord (sliceB d 40 8), offs.flatMap (toLe 4))] t1 x2
             leWord (sliceB d 48 8) = 0 →
             (∀ u y, write = .stand u y → exec (.sroute desc) s = .next (pause u e c y))
             ∧ ∀ u x3 r b2, write = .done u x3 r b2 → x3.stops b2 = none → exec (.sroute desc) s = .next (issued u e c x3))))
  ∧ ∀ (s : State) (e c : Nat) (x : Ctx) (desc : Word) (kd ki ko kc kf kx : Nat), s.ctxAt e c x → s.quietUnits → s.posted = [] →
       x.tensor = none → x.fresh → x.fills = [] → desc.toNat % 8 = 0 → s.windowAt x.asid desc 64 kd →
       let d := rd s kd 64
       let t := leAt d 8 4
       let k := leAt d 12 1
       let ne := leAt d 16 2
       let area := fun (off n key : Nat) => s.windowAt x.asid (leWord (sliceB d off 8)) n key
       let es := (List.range (t * k)).map fun i => rdNat s (ki + 8 * i) 8
       t * k ≤ 2 ^ 20 → 1 ≤ k → k ≤ 8 → 1 ≤ ne → ne ≤ 4096 → leAt d 13 3 = 0 → leAt d 18 2 = 0 → leAt d 56 8 = 0 →
       area 0 (8 * (t * k)) ki → (∀ v ∈ es, v < 2 ^ 48 ∧ bits v 32 16 < ne) →
       let kept := keptOf (assigns es ne) ne (leAt d 20 4)
       let count := fun (q : Nat) => kept.countP fun a => a.expert = q
       let out := kept.flatMap fun a => toLe 8 (a.gate * 2 ^ 32 + a.i % k * 2 ^ 20 + a.i / k)
       let counts := ((List.range ne).map count).flatMap (toLe 4)
       let offs := ((List.range ne).map fun q => ((List.range q).map count).foldr (· + ·) 0).flatMap (toLe 4)
       let drop := bitBytes (t * k) fun i => !(kept.any fun a => a.i = i)
       let maps := leWord (sliceB d 48 8) ≠ 0
       area 24 (8 * kept.length) ko → area 32 (4 * ne) kc → area 40 (4 * ne) kf → (maps → area 48 drop.length kx) →
       let put := fun (v : State) (key : Nat) (l : List Byte) => if l = [] then v else wr v key l
       let u := wr (wr (put s ko out) kc counts) kf offs
       let n := 64 + 8 * (t * k) + (8 * kept.length + 8 * ne)
       let y : Ctx := { x with walked := false }
       (leWord (sliceB d 48 8) = 0 → n ≤ room s e → exec (.sroute desc) s = .next (issued (charge u e n) e c y))
       ∧ (maps → n + drop.length ≤ room s e → exec (.sroute desc) s = .next (issued (charge (put u kx drop) e (n + drop.length)) e c y))

/-! ## Collective commands -/

/-- CLOOP, CPEER, CSTOP and NOP of a ringer (14 R261, 19 R335, R339, R347): the loop registers as R77's; a peer number is the absolute
number or the rank plus an offset plus or minus a loop index, modulo the number of ranks. CWAIT and CSIG as SWAIT and SSIG (19 R346,
R349); CTIME: late when T has passed, marked when the module is out of step with the leader by more than its slot, 200 ns if none, else
triggered once `%time` has reached T (14 R268, 19 R348). When an operand is read again is the model's (log 33), and so is when a raise
beyond the device leaves (log 45). -/
def Obligations.RingerControl : Prop :=
  (∀ (s : State) (g : Nat) (x : Ringer), s.ringerAt g x →
     (∀ n v, exec (.cloopSet n v) s = .next (rgIssued s g { x with l := x.l.set n.val v, i := x.i.set n.val 0 }))
     ∧ (∀ (n : Fin 4) off, let v := x.l[n]
       let y : Ringer := { x with l := x.l.set n.val (v - 1), i := x.i.set n.val (x.i[n] + 1) }
       let t : Int := x.pc + off.toInt
       (v = 0 → exec (.cloop n off) s = .next (rgIssued s g x)) ∧ (v = 1 → exec (.cloop n off) s = .next (rgIssued s g y))
       ∧ (1 < v.toNat → 0 ≤ t → t < x.words.length → exec (.cloop n off) s =
           .next (schedFree (s.setRinger g { y.past with pc := t.toNat, status := .busy }) (.collectiveCommandComplete g)))
       ∧ (1 < v.toNat → (t < 0 ∨ x.words.length ≤ t) → exec (.cloop n off) s = .next (endRinger s g x 0x20 0x2D)))
     ∧ (∀ (k j : Fin 4) lp add abs d, let i : Int := x.i[j].toNat
       ∃ m : Nat, exec (.cpeer k lp add j abs d) s = .next (rgIssued s g { x with n := x.n.set k.val m })
         ∧ (0 < x.size → m < x.size ∧ ∃ q : Int, (m : Int) + q * x.size =
             if abs then d.toInt else x.rank + d.toInt + (if lp then (if add then i else -i) else 0)))
     ∧ exec .cstop s = .next (endRinger s g x 0 0)
     ∧ exec .nop s = .next (s.setRinger g { x.past with timeline := x.timeline + 1, status := .running, wakeAt := s.cycle + 1 }))
  ∧ (∀ (s : State) (g : Nat) (x : Ringer), s.ringerAt g x → s.posted = [] →
       (∀ (v : BitVec 40) (a : Word), let done := fun (i : Instr) (u : State) => exec i s = .next (rgIssued u g x)
         (a.toNat % 8 ≠ 0 → exec (.cwait v a) s = .next (endRinger s g x 0x20 0xBA) ∧ exec (.csigSt v a) s = .next (endRinger s g x 0x20 0xBA)
           ∧ exec (.csigAdd v a) s = .next (endRinger s g x 0x20 0xBA) ∧ exec (.csigMax v a) s = .next (endRinger s g x 0x20 0xBA))
         ∧ (∀ ps, a.toNat % 8 = 0 → ringerSpan s g x a 8 .read = .ok ps →
           let w := leNat (readPieces s ps)
           let met := v.toNat ≤ w ∧ (x.sent = false ∨ quietPieces s ps = false)
           (met → done (.cwait v a) s)
           ∧ (¬ met → (∀ p ∈ ps, p.1.place.far = false) → exec (.cwait v a) s =
               .next (s.setRinger g { x with sent := true, wakeAt := s.cycle + 1 }))
           ∧ (¬ met → (∃ p ∈ ps, p.1.place.far = true) → exec (.cwait v a) s =
               .next (sched (s.setRinger g { x with status := .waiting }) 2100 (.monitorPoll (.ringer g)))))
         ∧ ∀ l n, a.toNat % 8 = 0 → ringerSpan s g x a 8 .write = .ok [(l, n)] →
           (∀ k, l.place = .here k → let w := rdNat s k 8
             done (.csigSt v a) (wr s k (toLe 8 v.toNat)) ∧ done (.csigAdd v a) (wr s k (toLe 8 ((w + v.toNat) % 2 ^ 64)))
             ∧ done (.csigMax v a) (wr s k (toLe 8 (max w v.toNat))))
           ∧ (l.place.far = true → let u : AccOp → State := postUnit s (8192 + g, 0) l.place
             done (.csigSt v a) (u (.store (toLe 8 v.toNat))) ∧ done (.csigAdd v a) (u (.raise false (v.zeroExtend 64)))
             ∧ done (.csigMax v a) (u (.raise true (v.zeroExtend 64)))))
       ∧ (∀ (slot : W32) (t : Word), let w := if slot = 0 then 200 else slot.toNat
         (t.toNat < s.time.toNat → exec (.ctime slot t) s =
           .next (rgIssued (logOnly s 0x144 (ringerHop g) 0) g { x with late := true, triggered := !x.handshake }))
         ∧ (s.dev.synced = true → s.timeOff.natAbs ≤ 21 * w →
           (t = s.time → exec (.ctime slot t) s = .next (rgIssued s g { x with triggered := !x.handshake }))
           ∧ (s.time.toNat < t.toNat → exec (.ctime slot t) s = .next (sched
               (s.setRinger g { x with triggered := !x.handshake, status := .waiting }) (timeWait (t.toNat - s.time.toNat)) (.ctimeFire g))))
         ∧ ((s.dev.synced = false ∨ 21 * w < s.timeOff.natAbs) → t = s.time → exec (.ctime slot t) s =
           .next (rgIssued (logOnly s 0x145 (ringerHop g) 0) g { x with handshake := true, triggered := false }))))

/-- What reaches a ringer (14 R258, R268, 15 R278, 20 R378): a command's completion, a message into staging, the time of a CTIME, a poll.
CSEND reads its buffer and sends one message of plain images, of its fold, or of wire words, to the rank in nA: to itself, to another
ringer of the module, or through the port of its route; of no elements a fold sends the header alone (14 R260); a full staging buffer, or
a rank of this module that does not run yet, holds it; without an active port the program ends with status 0x21 (14 R249, R258, R264,
R265, R268, R270, 19 R344). CCOPY copies within the module (19 R334). The latency of a credit is the model's (logs 33 and 43). -/
def Obligations.RingerSends : Prop :=
  (∀ (s : State) (g : Nat) (x : Ringer), s.ringer g = x →
     let t := (x.words.getD (x.pc + 1) 0).toNat
     (x.status = .busy → exec (.collectiveCommandComplete g) s =
       .next (s.setRinger g { x with timeline := x.timeline + 1, status := .running, wakeAt := s.cycle }))
     ∧ (∀ m, s.dev.bstat ≠ 1 → exec (.ringerMessageArrival g m) s = .next (s.setRinger g { x with staging := x.staging ++ [m] }))
     ∧ (x.status = .waiting → t ≤ s.time.toNat → exec (.ctimeFire g) s =
       .next (s.setRinger g { x.past with timeline := x.timeline + 1, status := .running, wakeAt := s.cycle }))
     ∧ (x.status = .waiting → s.time.toNat < t → exec (.ctimeFire g) s = .next (sched s (timeWait (t - s.time.toNat)) (.ctimeFire g)))
     ∧ (x.status = .waiting → exec (.monitorPoll (.ringer g)) s = .next (s.setRinger g { x with status := .running, wakeAt := s.cycle })))
  ∧ (∀ (s : State) (g : Nat) (x : Ringer) (p : CPay) (addr : Word) (b : RBuf) (ps : List Piece), s.ringerAt g x → s.quietUnits →
       rbuf x p addr = .ok b → ringerSpan s g x b.addr (b.cnt * b.es) .read = .ok ps →
       let l := readPieces s ps
       let img := (pieces b.es b.cnt l).map leNat
       let dest := x.n[p.na]
       (∀ m, ((p.dm = false ∧ p.fold = false ∧ m = msgOf x dest p.tag .plain b 0 (img.map (BitVec.ofNat 64)))
           ∨ (p.dm = false ∧ p.fold = true ∧ m = msgOf x dest p.tag .arr b 0 (if b.cnt = 0 then [] else [BitVec.ofNat 64 (arrFold b img)]))
           ∨ (p.dm = true ∧ ∃ o, detOperand x b img = .ok o ∧ m = msgOf x dest p.tag .det b o.2 (o.1.map intWord))) →
         (dest = x.rank → (stagingFull x.staging = false → exec (.csend p addr) s = .next (rgIssued s g { x with staging := x.staging ++ [m] }))
           ∧ (stagingFull x.staging = true → staysPut (.csend p addr) s))
         ∧ (∀ h, wayTo s x dest = .near h → let y := s.ringer h
           (stagingFull y.staging = false → exec (.csend p addr) s =
             .next (rgIssued (s.setRinger h { y with staging := y.staging ++ [m] }) g x))
           ∧ (stagingFull y.staging = true → staysPut (.csend p addr) s))
         ∧ (wayTo s x dest = .absent → staysPut (.csend p addr) s)
         ∧ (∀ q dev, wayTo s x dest = .port q dev →
           ((x.triggered = true ∨ x.credit = true) → exec (.csend p addr) s =
             .next (rgIssued { s with outbox := s.outbox ++ [.message dev m] } g { x with credit := false }))
           ∧ (x.triggered = false → x.credit = false → exec (.csend p addr) s = .next (State.setRinger { s with free := s.free + 1 } g
               { x with credit := true, wakeAt := s.cycle + (Config.latency s.free + 1) })))
         ∧ (wayTo s x dest = .cut → exec (.csend p addr) s = .next (endRinger s g x 0x21 0x146)))
       ∧ ∀ qs, l.length = b.cnt * b.es →
         ringerSpan s g x (addr + BitVec.ofNat 64 (x.n[p.nb] * b.cnt * b.es)) (b.cnt * b.es) .write = .ok qs →
         exec (.ccopy p addr) s = .next (rgIssued (writePieces s (8192 + g, 0) qs l) g x))

/-- CRECV, CRRS, CRRL and CRRL.all with their message staged (14 R258, R262, R264, R265, 19 R320, R340, R342, R343): the message is taken,
what it does not meet stops the program with 0x0BB, else its images, or their combination with the own operand, are written or sent on.
Without the message nothing changes. A deterministic combination does not depend on the order in which its messages have come (14 R262,
R264); the exponent table is merged the same way from either side (14 R263). So they complete when their buffers lie in scratchpads that
the program reaches through the core window and the message staged is the one awaited, agrees and has come whole: CRECV writes images as
they stand, or wire words rounded by the table that CMAXE has left; CRRS in arrival order sends the sums on through the active port of its
route; CRRL writes them, and CRRL.all alone on its collective its own operand (19 R340, R342, R343). The fold of no elements in arrival
order is a free value (log 33); when the credit of a message comes is the model's (log 43). -/
def Obligations.RingerReceives : Prop :=
  (∀ (s : State) (g : Nat) (x : Ringer) (p : CPay) (addr : Word) (b : RBuf) (m : Msg), s.ringerAt g x → s.quietUnits →
     rbuf x p addr = .ok b → x.got = [] → x.staging = [m] → m.coll = x.coll → m.tag = p.tag → m.src = x.n[p.na] →
     (m.mode = .rows ∨ m.mode = .table ∨ m.chime = msgChime m) →
     let y : Ringer := { x with staging := [] }
     (expected b (m.mode = .det) m = false → exec (.crecv p addr) s = .next (endRinger s g x 0x20 0xBB))
     ∧ (∀ xs qs, expected b (m.mode = .det) m = true → recvImages x b m = .ok xs →
       ringerSpan s g x b.addr (imagesB b.out xs).length .write = .ok qs →
       exec (.crecv p addr) s = .next (rgIssued (writePieces s (8192 + g, 0) qs (imagesB b.out xs)) g y))
     ∧ ∀ ps c, ringerSpan s g x b.addr (b.cnt * b.es) .read = .ok ps →
       combine x b p.dm 2 ((pieces b.es b.cnt (readPieces s ps)).map leNat) [m] = .ok c →
       (∀ q dev, wayTo s x x.n[p.nb] = .port q dev → (x.triggered = true ∨ x.credit = true) → exec (.crrs p addr) s = .next (rgIssued { s with
         outbox := s.outbox ++ [.message dev (msgOf x x.n[p.nb] p.tag (if p.dm then .det else if p.fold then .arr else .plain) b c.2
           (c.1.map intWord))] } g { y with credit := false }))
       ∧ ∀ qs, let xs := if p.dm then (c.1.zipIdx).map fun v => roundSum b.fd (entryOf x b.fold v.2) v.1 else c.1.map Int.toNat
         let ys := if p.fold = true ∧ xs = [] then [foldOfNone s x b p.dm] else xs
         let v : State := { s with free := s.free + 1 }
         (p.fold = true → x.a1.toNat % b.out = 0) →
         ringerSpan v g x (if p.fold then x.a1 else b.addr) (imagesB b.out ys).length .write = .ok qs →
         exec (.crrl false p addr) s = .next (rgIssued (writePieces v (8192 + g, 0) qs (imagesB b.out ys)) g y))
  ∧ (∀ (s : State) (g : Nat) (x : Ringer) (p : CPay) (addr : Word) (b : RBuf), s.ringerAt g x → s.quietUnits → rbuf x p addr = .ok b →
       x.got = [] → (∀ m ∈ x.staging, ¬ (m.coll = x.coll ∧ m.tag = p.tag ∧ m.src = x.n[p.na])) →
       (wayTo s x x.n[p.na] ≠ .cut → staysPut (.crecv p addr) s
         ∧ ∀ ps, ringerSpan s g x b.addr (b.cnt * b.es) .read = .ok ps →
           (p.dm = false ∨ detCheck x b true 2 ((pieces b.es b.cnt (readPieces s ps)).map leNat) = .ok ()) →
           staysPut (.crrs p addr) s ∧ staysPut (.crrl false p addr) s)
       ∧ (wayTo s x x.n[p.na] = .cut → exec (.crecv p addr) s = .next (endRinger s g x 0x21 0x146)))
  ∧ ((∀ (x : Ringer) (b : RBuf) (k : Nat) (xs : List Nat) (ms ns : List Msg), ms.Perm ns → combine x b true k xs ms = combine x b true k xs ns)
     ∧ ∀ u v w : XEntry, mergeEntry u v = mergeEntry v u ∧ mergeEntry (mergeEntry u v) w = mergeEntry u (mergeEntry v w))
  ∧ ∀ (s : State) (g : Nat) (x : Ringer) (p : CPay) (addr : Word) (b : RBuf) (k : Nat), s.ringerAt g x → s.settled →
     rbuf x p addr = .ok b → x.got = [] →
     let xs := (List.range b.cnt).map fun i => rdNat s (k + b.es * i) b.es
     let own := if b.fold then (if b.cnt = 0 then [] else [arrFold b xs]) else xs
     let out := fun (l : List Nat) => l.map (canonImage b.fd)
     let orOne := fun (l : List Nat) => if p.fold = true ∧ l = [] then [(Config.freeWord s.free).toNat % 2 ^ (8 * b.out)] else l
     let more : State := { s with free := s.free + 1 }
     (∀ m, x.staging = [m] → m.coll = x.coll → m.tag = p.tag → m.src = x.n[p.na] → m.chime = msgChime m → m.fold = b.fold →
       m.count = b.cnt → m.bf16 = b.bf16 →
       let y : Ringer := { x with staging := [] }
       let sums := out (List.zipWith (fun u (c : Word) => arrAdd b.fd u c.toNat) own m.words)
       ((m.mode = .plain ∨ m.mode = .arr) → s.windowAt x.asid b.addr (b.out * m.words.length) k →
         exec (.crecv p addr) s = .next (rgIssued (wr s k (m.words.flatMap fun w => toLe b.out w.toNat)) g y))
       ∧ (∀ dot, m.mode = .det → x.xtOf = some (b.cnt, false, dot) → s.windowAt x.asid b.addr (b.out * m.words.length) k →
         exec (.crecv p addr) s = .next (rgIssued (wr s k (m.words.zipIdx.flatMap fun w =>
           toLe b.out (roundSum b.fd (x.xt.getD (w.2 / 256) emptyEntry) w.1.toInt))) g y))
       ∧ ((m.mode = .plain ∨ m.mode = .arr) → p.dm = false → s.windowAt x.asid b.addr (b.cnt * b.es) k →
         (∀ q dev, wayTo s x x.n[p.nb] = .port q dev → (x.triggered = true ∨ x.credit = true) →
           exec (.crrs p addr) s = .next (rgIssued { s with
             outbox := s.outbox ++ [.message dev (msgOf x x.n[p.nb] p.tag (if p.fold then .arr else .plain) b 0
               (sums.map fun (v : Nat) => intWord (Int.ofNat v)))] } g { y with credit := false }))
         ∧ ∀ kw, (p.fold = true → x.a1.toNat % b.out = 0) →
           s.windowAt x.asid (if p.fold then x.a1 else b.addr) (b.out * (orOne sums).length) kw →
           exec (.crrl false p addr) s = .next (rgIssued (wr more kw (imagesB b.out (orOne sums))) g y)))
     ∧ ∀ kw, x.size = 1 → x.rank = 0 → p.dm = false → s.windowAt x.asid b.addr (b.cnt * b.es) k →
       (p.fold = true → x.a1.toNat % b.out = 0) → s.windowAt x.asid (if p.fold then x.a1 else b.addr) (b.out * (orOne own).length) kw →
       exec (.crrl true p addr) s = .next (rgIssued (wr more kw (imagesB b.out (orOne (out own)))) g x)

/-- CMAXE sends its local table to every other rank, one by one in ascending order, then takes theirs and keeps the merge; alone it keeps
its own (14 R263, 19 R337). CSENDV and CRECVV move the rows that a count table names, for every rank and number of ranks (14 R266, R267,
19 R341, R345): CSENDV sends each rank its counts and rows, in ascending order, once its descriptor is legal and descriptor, table and
rows lie in scratchpads that the program reaches through the core window; CRECVV writes what every rank has sent, in ascending order, and
stops with 0x0BB where a message disagrees with the descriptor. Messages leave in order, and one that cannot leave holds those behind it
(14 R267). -/
def Obligations.RingerTables : Prop :=
  (∀ (ms : List Msg) (s : State) (x : Ringer), s.quietUnits → x.triggered = true → x.credit = false →
     (∀ m ∈ ms, m.mode = .rows ∨ m.mode = .table ∨ m.chime = msgChime m) →
     let mine := ms.filter fun m => m.dest = x.rank
     let rest := ms.filter fun m => m.dest ≠ x.rank
     mine.length ≤ 1 → (mine ≠ [] → stagingFull x.staging = false) → (∀ m ∈ rest, ∃ q, wayTo s x m.dest = .port q (BitVec.ofNat 16 (x.list.getD m.dest 0))) →
     sendMsgs ms s x = ({ s with outbox := s.outbox ++ rest.map fun m => .message (BitVec.ofNat 16 (x.list.getD m.dest 0)) m },
       { x with staging := x.staging ++ mine, unsent := [] }, none))
  ∧ ∀ (s : State) (g : Nat) (x : Ringer), s.ringerAt g x → s.settled →
    let others := (List.range x.size).filter fun q => q ≠ x.rank
    (∀ p addr b k, rbuf x p addr = .ok b → s.windowAt x.asid b.addr (b.cnt * b.es) k → x.sent = false →
      let tb := localTable b ((List.range b.cnt).map fun i => rdNat s (k + b.es * i) b.es)
      let ms := others.map fun q => ({ msgOf x q p.tag .table b 0 [] with count := tableBlocks b, table := tb } : Msg)
      let y : Ringer := { x with sent := true, unsent := ms, xt := tb, xtOf := none }
      (others = [] → exec (.cmaxe p addr) s = .next (rgIssued s g { x with xt := tb, xtOf := some (b.cnt, b.fold, b.dot) }))
      ∧ (others ≠ [] → x.triggered = true → x.credit = false →
        (∀ q ∈ others, ∃ h, wayTo s x q = .port h (BitVec.ofNat 16 (x.list.getD q 0))) → exec (.cmaxe p addr) s = .next (State.setRinger
          { s with outbox := s.outbox ++ ms.map fun m => .message (BitVec.ofNat 16 (x.list.getD m.dest 0)) m } g
          { y with unsent := [], wakeAt := s.cycle + 1 }))
      ∧ ∀ q l, others = q :: l → wayTo s x q = .absent →
        exec (.cmaxe p addr) s = .next (s.setRinger g { y with wakeAt := s.cycle + 1 }))
    ∧ (∀ p addr b, rbuf x p addr = .ok b → x.sent = true → x.unsent = [] → x.got = [] → (x.staging.map Msg.src).Perm others →
      (∀ m ∈ x.staging, m.coll = x.coll ∧ m.tag = p.tag ∧ m.mode = .table ∧ m.count = tableBlocks b ∧ m.fold = b.fold ∧ m.dot = b.dot) →
      exec (.cmaxe p addr) s = .next (rgIssued s g { x with
        staging := [], xt := x.staging.foldl (fun acc m => List.zipWith mergeEntry acc m.table) x.xt, xtOf := some (b.cnt, b.fold, b.dot) }))
    ∧ ∀ tag desc kd, desc.toNat % 8 = 0 → s.windowAt x.asid desc 32 kd →
      let d := rd s kd 32
      let data := leWord (sliceB d 0 8)
      let cnt := leWord (sliceB d 8 8)
      let row := leAt d 16 4
      let n := leAt d 20 2
      8 ≤ row → row ≤ 4096 → row % 8 = 0 → 0 < n → leAt d 22 2 = 0 →
      (∀ kc kr, s.windowAt x.asid cnt (4 * (n * x.size)) kc → x.sent = false →
        let count := fun (i : Nat) => rdNat s (kc + 4 * i) 4
        let counts := fun (q : Nat) => (List.range n).map fun i => count (n * q + i)
        let first := fun (q : Nat) => sumNat ((List.range (n * q)).map count)
        let ms : List Msg := (List.range x.size).map fun q => ⟨x.coll, x.rank, q, tag, .rows, false, false, false, n, 0, [],
          (counts q).map (BitVec.ofNat 32), rd s (kr + first q * row) (sumNat (counts q) * row), [], 0⟩
        s.windowAt x.asid data (first x.size * row) kr →
        exec (.csendv tag desc) s = .next (sendOut s g { x with sent := true, unsent := ms } fun t y => rgIssued t g y))
      ∧ (x.sent = true → exec (.csendv tag desc) s = .next (sendOut s g x fun t y => rgIssued t g y))
      ∧ ∀ (ms : List Msg) kc kr, x.got = [] → ms.Perm x.staging → ms.map Msg.src = List.range x.size → (∀ m ∈ ms, m.coll = x.coll ∧ m.tag = tag) →
        let whole := ∀ m ∈ ms, m.mode = .rows ∧ m.counts.length = n ∧ m.rows.length = sumNat (m.counts.map (·.toNat)) * row
        let rows := ms.flatMap Msg.rows
        (¬ (whole ∧ rows.length ≤ leAt d 24 8) → exec (.crecvv tag desc) s = .next (endRinger s g x 0x20 0xBB))
        ∧ (whole → rows.length ≤ leAt d 24 8 → s.windowAt x.asid data rows.length kr → s.windowAt x.asid cnt (4 * (n * x.size)) kc →
          exec (.crecvv tag desc) s = .next (rgIssued (wr (wr s kr rows) kc (ms.flatMap fun m => m.counts.flatMap of32)) g
            { x with staging := [] }))

/-! ## Launches -/

/-- An EXPRESSION, STREAM or COLLECTIVE launch takes the packet at the head of its queue, clearing its valid byte and advancing ridx; a
refused one reports its status on its timeline or in the fail word, an accepted stream or collective has its program in a context or
ringer; an empty queue, and a collective launch while the ringer is busy, leave everything but that the queue is known; a packet at the
head of a known queue is seen in the next cycle (02 R41 to R45, 09 R173, R174, 14 R255, R256). That a queue is known from its first launch
event on is the model's (log 28). -/
def Obligations.Launches : Prop :=
  ∀ (s : State) (hdr : Word) (k : Packet),
    let b := k.bytes
    let u := fun (kind : Nat) => consume (knowQueue s kind hdr) k
    let tl : Word := BitVec.ofNat 64 (leAt b 41 7)
    let v : Word := BitVec.ofNat 64 (leAt b 48 8)
    let refuses := fun (st kind : Nat) (i : Instr) => exec i s = .next (report (u kind) hdr k (leAt b 2 2) tl v st 0)
    (queueHead s hdr.toNat 1 = none → exec (.expressionLaunch hdr) s = .next (knowQueue s 1 hdr))
    ∧ (queueHead s hdr.toNat 2 = none → exec (.streamLaunch hdr) s = .next (knowQueue s 2 hdr))
    ∧ (queueHead s hdr.toNat 3 = none → exec (.collectiveLaunch hdr) s = .next (knowQueue s 3 hdr))
    ∧ (∀ kind, (kind, hdr) ∈ (knowQueue s kind hdr).queues)
    ∧ (∀ q ∈ s.queues, (queueHead s q.2.toNat q.1).isSome = true → pendingEvent (watchQueues s) (launchEvent q.1 q.2) = true)
    ∧ (∀ st, queueHead s hdr.toNat 1 = some k → exprStatus s (exprPkt b) k.target = (st, none) → refuses st 1 (.expressionLaunch hdr))
    ∧ (∀ st c ws, queueHead s hdr.toNat 2 = some k → streamStatus s k.target b = (st, c, ws) →
      (st ≠ 0 → refuses st 2 (.streamLaunch hdr))
      ∧ (st = 0 → exec (.streamLaunch hdr) s = .next ((u 2).setCtx (ctxKey k.target c) { Ctx.reset with
          status := .running, asid := leAt b 2 2, words := ws, tl := tl, value := v, fills := (s.ctx (ctxKey k.target c)).fills
          relSlot := (s.ctx (ctxKey k.target c)).relSlot, queue := some (hdr, k.idx), wakeAt := s.cycle + 1 })))
    ∧ ∀ st ls ws, queueHead s hdr.toNat 3 = some k → collStatus s b = (st, ls, ws) →
      ((s.ringer k.target).status ≠ .idle → exec (.collectiveLaunch hdr) s = .next (knowQueue s 3 hdr))
      ∧ ((s.ringer k.target).status = .idle → (st ≠ 0 → refuses st 3 (.collectiveLaunch hdr))
        ∧ (st = 0 → ringerGone s k.target = true → exec (.collectiveLaunch hdr) s = .next (report (u 3) hdr k (leAt b 2 2) tl v 0x21 0x146))
        ∧ (st = 0 → ringerGone s k.target = false → ∃ x : Ringer, exec (.collectiveLaunch hdr) s = .next ((u 3).setRinger k.target x)
          ∧ x.staging = (s.ringer k.target).staging ∧ x.status = .running ∧ x.pc = 0 ∧ x.words = ws ∧ x.list = ls ∧ x.asid = leAt b 2 2 ∧ x.coll = BitVec.ofNat 16 (leAt b 4 2)
          ∧ x.rank = leAt b 20 2 ∧ x.size = leAt b 22 2 ∧ x.a0 = BitVec.ofNat 64 (leAt b 24 8) ∧ x.a1 = BitVec.ofNat 64 (leAt b 32 8)
          ∧ x.tl = tl ∧ x.value = v ∧ x.timeline = 0))

/-- An accepted expression launch leaves a live partition with its first sweep under way and its block live (01 R33, 02 R39, R44, 16
R293). The placer takes the cells in order, one for each word, and skips cells only before an aligned APP (01 R33). That a placement takes
no time, and what a damaged payload names there, are the model's (log 28). -/
def Obligations.Placement : Prop :=
  (∀ (s : State) (hdr : Word) (k : Packet) (m : ImageRead) (ops : List Oper) (h : Option Nat) (cells : List Nat),
     queueHead s hdr.toNat 1 = some k → exprStatus s (exprPkt k.bytes) k.target = (0, some (m, ops, h, cells)) →
     let e := exprPkt k.bytes
     ∃ t p, exec (.expressionLaunch hdr) s = .next t ∧ t.part e.first = some p ∧ (t.pcb e.first).state = 1
       ∧ p.j = e.j ∧ p.asid = e.asid ∧ p.flags = e.flags ∧ p.opers = ops ∧ p.handler = h ∧ p.records = [] ∧ p.peal = 1
       ∧ p.tl = BitVec.ofNat 64 e.tl ∧ p.value = BitVec.ofNat 64 e.value ∧ p.queue = some (hdr, k.idx)
       ∧ (p.sweep.map (·.1)) = some (s.cycle + sweepTime e.j)
       ∧ pendingEvent t (.sweepComplete e.first) = true)
  ∧ (∀ (s : State) (hi : Nat) (ws : List Word) (free : List Nat),
       (∀ cs, placeCells s hi ws free = some cs → cs.length = ws.length ∧ cs.Sublist free)
       ∧ ((∀ w ∈ ws, isApp w = true → symAlign w = false) →
         placeCells s hi ws free = if ws.length ≤ free.length then some (free.take ws.length) else none))

/-! ## Peals and records -/

/-- A sweep starts with the next peal and sees the innermost areas that have no record yet; one asked for while one runs is queued (02
R37, R39). The end of a sweep: a row without an APP and without a live record ends the launch with status 0; an area gets a record,
FAULTED with its cause when it is no application, WAITING while PROM symbols stand, else READY (02 R38, R40, R47, R48). -/
def Obligations.Sweeps : Prop :=
  (∀ (s : State) (n : Nat) (p : Part), s.part n = some p → p.pre = .none →
     (∀ w, p.sweep = some w → exec (.detectionSweep n) s = .next (s.setPart n { p with sweepQueued := true }))
     ∧ (p.sweep = none → ∃ t q, exec (.detectionSweep n) s = .next t ∧ t.part n = some q ∧ q.peal = p.peal + 1
       ∧ q.sweep = some (s.cycle + sweepTime p.j, (innermost s n p).filter fun a =>
           !(p.records.any fun r => (r.span s).1 ≤ a.start && a.start ≤ (r.span s).2))
       ∧ q.sweepQueued = false ∧ q.records = p.records ∧ pendingEvent t (.sweepComplete n) = true ∧ t.cells = s.cells))
  ∧ (∀ (s : State) (n : Nat) (p : Part) (c : Nat) (as : List Area), s.part n = some p → p.pre = .none → p.sweep = some (c, as) →
       p.records = [] → p.sweepQueued = false → p.raised = [] → p.stepNow = none → s.quietUnits →
       (as = [] → exec (.sweepComplete n) s = .next (endPartition (profilePeal (s.setPart n { p with sweep := none, lastCreated := 0 }) n p) n 0 0))
       ∧ ∀ a, as = [a] →
         let r := newRecord s p a
         let f := defect a.words
         ∃ t q, exec (.sweepComplete n) s = .next t ∧ t.part n = some q ∧ q.nextRec = p.nextRec + 1 ∧ q.sweep = none
           ∧ (f ≠ 0 → q.records = [{ r with state := .faulted, cause := f, pend := 0 }] ∧ q.raised.map (·.trap.cause) = [f]
             ∧ pendingEvent t (.trapEnqueue n) = true)
           ∧ (f = 0 → r.pend ≠ 0 → q.records = [r])
           ∧ (f = 0 → r.pend = 0 → q.records = [{ r with state := .ready, ready := s.cycle }] ∧ pendingEvent t (.admission n) = true))

/-- An answer fills its place and lowers pend; with the last one the record is READY (02 R48, R49). Admission of the selected record: its
PROM symbols are replaced, and it is ADMITTED and loads, or FAULTED with the admission fault of R222 (01 R30, 02 R50, R51, 12 R222); a
next selection is on the agenda (that it comes four cycles later is the model's, log 49, and so are the answers of promises that give no
symbol, log 29). LOAD_COMPLETE starts one agent in each cell of the area: registers zero, special registers from the partition's block, at
word 0; the record is RUNNING (02 R53, R54). -/
def Obligations.Admissions : Prop :=
  (∀ (s : State) (n : Nat) (p : Part) (r : Record) (i : Nat) (v : Word), s.part n = some p → p.records = [r] → r.state = .waiting →
     p.pre = .none → p.urgent = [] → p.stepNow = none → r.answers.getD i none = none →
     ∃ t q, exec (.presenceAnswer n r.id i v) s = .next t ∧ t.part n = some q
       ∧ (1 < r.pend → q.records = [{ r with pend := r.pend - 1, answers := r.answers.set i (some v) }])
       ∧ (r.pend = 1 → q.records = [{ r with
           pend := 0, answers := r.answers.set i (some v), state := .ready, ready := s.cycle, startAt := 0, unheld := []
           since := s.cycle, was := if r.since = s.cycle then r.was else .waiting }]
         ∧ pendingEvent t (.admission n) = true))
  ∧ (∀ (s : State) (n : Nat) (p : Part) (r : Record), s.part n = some p → p.pre = .none → p.records = [r] → r.state = .ready →
       r.ret = false → (admissible s n p r = .yes ∨ admissible s n p r = .over) →
       let ws := resolved s r
       let f := admitFault s p r ws
       ∃ t q, exec (.admission n) s = .next t ∧ pendingEvent t (.admission n) = true
         ∧ (∀ i < (r.cells s).length, t.cell ((r.cells s).getD i 0) = ws.getD i 0)
         ∧ t.rec? n r.id = some q
         ∧ (f ≠ 0 → q.state = .faulted ∧ q.cause = f ∧ pendingEvent t (.trapEnqueue n) = true)
         ∧ (f = 0 → q.state = .admitted ∧ resolvedOper p ws = some q.oper ∧ q.gran = p.operGran q.oper ∧ q.prio = p.operPrio q.oper
           ∧ q.admittedAt = s.cycle ∧ s.cycle + 2 ≤ q.startAt ∧ pendingEvent t (.loadComplete n r.id) = true))
  ∧ (∀ (s : State) (n : Nat) (p : Part) (r : Record), s.part n = some p → s.rec? n r.id = some r → p.pre = .none → r.state = .admitted →
       r.startAt ≤ s.cycle → p.stepNow = none → p.urgent = [] → residentAll s n r = true →
       (∀ c ∈ r.unheld, granuleRoom s p r c = true) →
       ∃ t, exec (.loadComplete n r.id) s = .next t ∧ (t.rec? n r.id).map (·.state) = some .running ∧ t.cells = s.cells
         ∧ ∀ i (hi : i < (r.cells s).length), let c := (r.cells s)[i]
           ∃ g, t.agent (agentKey (c / 64) (c % 64)) = some g ∧ g.pc = 0 ∧ g.status = .running ∧ g.cell = i ∧ g.alen = r.alen ∧ g.rid = r.id
             ∧ g.part = n ∧ g.oper = r.oper ∧ g.gran = r.gran ∧ g.core = c / 64 ∧ g.slot = c % 64
             ∧ (∀ q, g.sr q = 0) ∧ (∀ q : PReg, q ≠ 0 → g.pr q = false) ∧ (∀ q : KReg, q ≠ 0 → g.kr q = 0)
             ∧ (∀ q, g.vr q = Vector.replicate 32 0) ∧ g.outs = [] ∧ g.ops = [] ∧ g.emits = [] ∧ g.fflags = 0
             ∧ g.frm = (s.pcb n).frm ∧ g.ftrap = (s.pcb n).ftrap ∧ g.seed = (s.pcb n).seed ∧ g.tms = (s.pcb n).tms
             ∧ g.ascl = (s.pcb n).ascl ∧ g.bscl = (s.pcb n).bscl ∧ g.mtol = (s.pcb n).mtol
             ∧ g.lc = Vector.replicate 4 0 ∧ g.li = Vector.replicate 4 0)

/-- A storage step of the EMITTING record at hand is taken up as planned, is set aside while a fixed area stands in its way, and is row-
full, a trap 0x0C0, without supply; emissions that are not whole terms fault with 0x0F1 (03 R59, R64, R69, 01 R35, 12 R222). A storage
step that completes writes its symbols, frees its other cells and its record, and starts a sweep (02 R39, 03 R59); one set aside is tried
again once a fixed area has left (03 R64). A cancel leaves one ERR of cause 0x143 and waits for the handler of a trapped record (02 R56);
in the cycle of the last agent's DONE it acts behind the issue of that cycle (02 R57). When the parts of a step act is the model's (log
30), and so is the order of events within a cycle (log 44). -/
def Obligations.Steps : Prop :=
  (∀ (s : State) (n : Nat) (p : Part) (r : Record) (c : Nat), s.part n = some p → p.pre = .none → (p.records.filter fun x => x.id = r.id) = [r] →
     r.state = .emitting → p.stepNow = none → p.urgent = [] → p.emitQ = [(c, r.id)] → p.aside = [] → p.raised = [] → p.cancelNow = [] →
     s.dev.tests = [] →
     let p1 : Part := { p with fixedLeft := false }
     let u := s.setPart n p1
     let whole := wholeTerms ((s.agentsOf n r.id).flatMap fun g => g.emits.map (·.word)) []
     let tried := tryPlan u n p1 r .emit (emittedItems u n r)
     (∀ plan, whole = true → tried = .started plan → ∃ t q, exec (.storageStep n) s = .next t ∧ t.part n = some q
       ∧ q.stepNow = some plan ∧ q.emitQ = [] ∧ pendingEvent t (.storageStepComplete n) = true ∧ t.cells = s.cells)
     ∧ (whole = true → tried = .wait → exec (.storageStep n) s = .next (s.setPart n { p1 with emitQ := [], aside := [r.id] }))
     ∧ (whole = true → tried = .full → ∃ t q, exec (.storageStep n) s = .next t ∧ t.part n = some q
       ∧ q.rec? r.id = some { r with rowFull := true } ∧ q.raised.map (·.trap.cause) = [0xC0])
     ∧ (whole = false → ∃ t q, exec (.storageStep n) s = .next t ∧ t.part n = some q
       ∧ q.rec? r.id = some { r with state := .faulted, cause := 0xF1, since := s.cycle, was := if r.since = s.cycle then r.was else .emitting }
       ∧ q.raised.map (·.trap.cause) = [0xF1]))
  ∧ (∀ (s : State) (n : Nat) (p : Part) (r : Record), s.part n = some p → p.pre = .none → p.records = [r] → (∀ g ∈ s.agentsOf n r.id, g.outs = []) →
       (∀ plan, p.stepNow = some plan → plan.doneAt ≤ s.cycle → plan.rid = r.id → plan.kind = .emit → plan.moves = [] →
         (∀ x ∈ plan.writes, x.payload = none) → (plan.writes.map (·.dest) ++ plan.frees).Nodup → p.sweep = none →
         ∃ t q, exec (.storageStepComplete n) s = .next t ∧ t.part n = some q ∧ q.stepNow = none ∧ q.records = [] ∧ t.agentsOf n r.id = []
           ∧ (∀ x ∈ plan.writes, t.cell x.dest = x.word) ∧ (∀ c ∈ plan.frees, t.cell c = 0)
           ∧ (∀ c, c ∉ plan.writes.map (·.dest) ++ plan.frees → t.cell c = s.cell c)
           ∧ pendingEvent t (.storageStep n) = true ∧ pendingEvent t (.admission n) = true ∧ pendingEvent t (.sweepComplete n) = true)
       ∧ (∀ plan, s.dev.tests = [] → p.stepNow = none → p.urgent = [] → p.emitQ = [] → p.aside = [r.id] → wholeTerms ((s.agentsOf n r.id).flatMap fun g => g.emits.map (·.word)) [] = true →
         let p1 : Part := { p with fixedLeft := false }
         let u := s.setPart n p1
         tryPlan u n p1 r .emit (emittedItems u n r) = .started plan → ∃ t q, exec (.stepRetryAfterFixed n) s = .next t
           ∧ t.part n = some q ∧ q.stepNow = some plan ∧ q.aside = [] ∧ pendingEvent t (.storageStepComplete n) = true ∧ t.cells = s.cells)
       ∧ (p.doomed r.id = false →
         ((r.state = .faulted ∨ r.rowFull = true) → exec (.cancelEffect n r.id) s = .next (s.setPart n { p with records := [{ r with cancelHeld := true }] }))
         ∧ (r.rowFull = false → r.state = .running → lastDoneDue s n r.id = true →
           exec (.cancelEffect n r.id) s = .next (schedOnce (s.setPart n { p with cancelNow := p.cancelNow ++ [r.id] }) 0 (.storageStep n)))
         ∧ (r.state ≠ .faulted → r.rowFull = false → (r.state = .running → lastDoneDue s n r.id = false) →
           ∃ t q, exec (.cancelEffect n r.id) s = .next t ∧ t.part n = some q
           ∧ (r.id, .err (errWord 0x143 r.id (symDepth (s.cell r.seat)) (symNode (s.cell r.seat))) .cancelled) ∈ q.urgent
           ∧ t.agentsOf n r.id = [] ∧ pendingEvent t (.storageStep n) = true ∧ t.cells = s.cells)))

/-- DONE waits for its agent's own operations; an agent that has ended stays until the last one of its area, whose DONE makes the record
EMITTING, in line for its storage step (02 R39, 04 R91, 19 R351). A partition that ends leaves the device: its timeline is raised behind
its status word, its agents are gone, its block is free (02 R45, 16 R293). A fault of the handler ends it with status 0x01 and the cause
(12 R225). When a completion word beyond the device leaves is the model's (log 45). -/
def Obligations.Ends : Prop :=
  (∀ (s : State) (g : Agent), s.atTurn g → g.service = false →
     ((∃ c, 0 < g.count c) → staysPut .done s)
     ∧ ∀ p r, (∀ c, g.count c = 0) → s.part g.part = some p → p.rec? g.rid = some r → r.state = .running →
       let rest := (s.setAgent g.key { g with status := .ended }).agentsOf g.part g.rid
       ((∃ h ∈ rest, h.status ≠ .ended) → ∃ t, exec .done s = .next t ∧ t.agent g.key = some { g with status := .ended }
         ∧ (∀ k, k ≠ g.key → t.agent k = s.agent k) ∧ t.mem = s.mem ∧ t.cells = s.cells ∧ t.cores = s.cores
         ∧ (t.rec? g.part g.rid).map (·.state) = some .running)
       ∧ ((∀ h ∈ rest, h.status = .ended) → ∃ t q, exec .done s = .next t ∧ t.agent g.key = some { g with status := .ended }
         ∧ t.part g.part = some q ∧ (q.rec? g.rid).map (·.state) = some .emitting ∧ (s.cycle, g.rid) ∈ q.emitQ
         ∧ pendingEvent t (.storageStep g.part) = true ∧ t.cells = s.cells))
  ∧ (∀ (s : State) (n : Nat) (p : Part), s.part n = some p →
       (∀ status cause u, (∀ e ∈ s.agents, e.2.part = n → e.2.outs = []) →
         signalEnd s (rootPoster n p.size) p.asid p.tl p.value (statusWord status cause) = some u →
         let t := endWhole s n status cause
         t.part n = none ∧ (t.pcb n).state = 0 ∧ (∀ k g, t.agent k = some g → g.part ≠ n) ∧ t.mem = u.mem ∧ t.cells = s.cells)
       ∧ (∀ g cause addr lane, g.part = n → g.service = true → g.stepLeft = none → p.ended = none → faultNow s g cause addr lane =
           schedOnce (s.setPart n { p with ended := some (statusWord 0x01 cause) }) 0 (.trapEnqueue n))
       ∧ ∀ w, p.ended = some w → exec (.trapEnqueue n) s = .next (endWhole s n (w.toNat % 256) (bits w.toNat 16 9)))

/-! ## Faults, traps and the handler -/

/-- A fault freezes its area (12 R221, R223): the record is FAULTED with the cause, the agent stands at its word as the trapped one,
nothing else of it changes, other agents stay, and the trap record is due in the second cycle after. TRAP n takes the fault 0x160 + n (21
R416). -/
def Obligations.AgentFaults : Prop :=
  ∀ (s : State) (g : Agent) (p : Part) (r : Record), s.agent g.key = some g → g.service = false → g.stepLeft = none →
    s.part g.part = some p → p.rec? g.rid = some r → r.state = .running → r.stopped = none → p.raised = [] →
    (∀ cause addr lane, let t := g.trapAt s g.pc cause addr lane
      let u := faultNow s g cause addr lane
      t.cause = cause ∧ t.pc = g.pc ∧ t.word = s.wordAt g g.pc ∧ t.addr = addr ∧ t.lane = lane
      ∧ u.agent g.key = some { g with trapped := some ⟨t, none, false⟩ } ∧ (∀ k, k ≠ g.key → u.agent k = s.agent k)
      ∧ u.cells = s.cells ∧ u.cores = s.cores ∧ pendingEvent u (.trapEnqueue g.part) = true
      ∧ ∃ q, u.part g.part = some q ∧ q.rec? g.rid = some { r with
          state := .faulted, cause := cause, since := s.cycle, was := if r.since = s.cycle then r.was else .running }
        ∧ q.raised.map (fun x => (x.due, x.source, x.rid, x.agent, x.trap)) = [(s.cycle + 2, 0, g.rid, some g.key, t)])
    ∧ (s.turn = .agent g.core g.slot → ∀ n : Fin 32, exec (.trap n) s = .next (faultNow s g (0x160 + n.val)))

/-- The fate of a word (05 R106, R107): all-ones is undefined whoever meets it, 0 is NOP; a command met by an agent and an agent's
instruction met by an engine or a ringer are the wrong engine's; a cell marked — is undefined to an engine or a ringer, one in the other
engine's row too (log 31); PSET, RFT, INVTLB and ERRINJ are the service agent's, and on another agent take the privilege fault of their
row; symbol and tree instructions and TMEAN on the service agent take the reserved fault of theirs. -/
def Obligations.WordFates : Prop :=
  ∀ (s : State) (g : Agent) (w : Word), let m := (major w).toNat
    agentFetch s g (BitVec.allOnes 64) = .cause 0x3D ∧ agentFetch s g 0 = .run .nop
    ∧ (rowOf w = 0xA → agentFetch s g w = .cause 0x2B) ∧ (rowOf w = 0xB → agentFetch s g w = .cause 0x2F)
    ∧ (∀ x : Option Word, engineFetch 0xA (BitVec.allOnes 64) x = .cause 0x3D ∧ engineFetch 0xB (BitVec.allOnes 64) x = .cause 0x3D
      ∧ engineFetch 0xA 0 x = .run .nop ∧ engineFetch 0xB 0 x = .run .nop
      ∧ (rowOf w < 0xA → w ≠ 0 → engineFetch 0xA w x = .cause (4 * rowOf w + 3) ∧ engineFetch 0xB w x = .cause (4 * rowOf w + 3))
      ∧ (decode w (x.getD (BitVec.allOnes 64)) ≠ .undefined →
        (rowOf w = 0xB → engineFetch 0xA w x = .cause 0x2F) ∧ (rowOf w = 0xA → engineFetch 0xB w x = .cause 0x2B))
      ∧ (decode w (x.getD (BitVec.allOnes 64)) = .undefined → 0xA ≤ rowOf w →
        engineFetch 0xA w x = .cause (4 * rowOf w) ∧ engineFetch 0xB w x = .cause (4 * rowOf w)))
    ∧ (g.service = false → (m = 0x46 → agentFetch s g w = .cause 0x12) ∧ (m = 0x9B ∨ m = 0x9E ∨ m = 0x9F → agentFetch s g w = .cause 0x26))
    ∧ (g.service = true → (m = 0x7C → agentFetch s g w = .cause 0x1D) ∧ (0x80 ≤ m ∧ m ≤ 0x87 → agentFetch s g w = .cause 0x21))

/-- A trap that is due is appended to the queue and its 128-byte record written to the ring; a full queue of 64 holds it back; without a
handler or a queue it ends the partition with status 0x01 (12 R223 to R225). A run then takes the oldest trap: the service agent at word 0
of the handler with `%rec` and `%trec` of the trap and the partition's special registers (12 R225, 04 R76). -/
def Obligations.TrapQueue : Prop :=
  ∀ (s : State) (n : Nat) (p : Part), s.part n = some p →
    (∀ x, p.ended = none → p.raised = [x] → x.due ≤ s.cycle →
      (p.unhandled < 64 → (p.handler = none ∨ (s.pcb n).trapq = 0) → exec (.trapEnqueue n) s = .next (endWhole s n 0x01 x.trap.cause))
      ∧ (64 ≤ p.unhandled → exec (.trapEnqueue n) s = .next s)
      ∧ ∀ h u, p.unhandled < 64 → p.handler = some h → (s.pcb n).trapq ≠ 0 → s.quietUnits →
        writeVa s p.asid ((s.pcb n).trapq.toNat + 128 * (p.trapCount % 64)) (trapRecord s n x) = some u →
        ∃ t q, exec (.trapEnqueue n) s = .next t ∧ t.part n = some q ∧ q.raised = [] ∧ q.traps = p.traps ++ [⟨p.trapCount, x⟩]
          ∧ q.trapCount = p.trapCount + 1 ∧ t.mem = u.mem ∧ t.agents = s.agents)
    ∧ ∀ q rest h m, p.traps = q :: rest → p.handler = some h → p.run = none → p.pre = .none → s.micro (s.root n p) n h = some m →
      m.readyAt ≤ s.cycle → (p.lastRft = 0 ∨ p.lastRft + 2 ≤ s.cycle) →
      ∃ t g, exec (.handlerRunStart n) s = .next t ∧ t.part n = some { p with traps := rest, run := some q }
        ∧ t.agent (agentKey (s.root n p) 64) = some g ∧ (∀ k, k ≠ agentKey (s.root n p) 64 → t.agent k = s.agent k)
        ∧ g.service = true ∧ g.status = .running ∧ g.pc = 0 ∧ g.oper = h ∧ g.rid = q.raised.rid
        ∧ g.core = s.root n p ∧ g.lcell = 64 * p.logical (s.root n p)
        ∧ g.trec = BitVec.ofNat 64 ((s.pcb n).trapq.toNat + 128 * (q.n % 64))
        ∧ (∀ r, g.sr r = 0) ∧ (∀ r : PReg, r ≠ 0 → g.pr r = false) ∧ (∀ r : KReg, r ≠ 0 → g.kr r = 0) ∧ g.ops = [] ∧ g.fflags = 0
        ∧ g.frm = (s.pcb n).frm ∧ g.ftrap = (s.pcb n).ftrap ∧ g.seed = (s.pcb n).seed ∧ g.tms = (s.pcb n).tms
        ∧ g.ascl = (s.pcb n).ascl ∧ g.bscl = (s.pcb n).bscl ∧ g.mtol = (s.pcb n).mtol

/-- The returns from a trap (12 R226 to R228): RFT waits for its agent's own operations, then its action is taken and the service agent is
gone. RESUME lets the trapped agent go on at its word, SKIP behind it; RETRY starts the record again from READY, and acts as POISON at the
retry limit; POISON leaves one ERR; ABORT ends the partition. A nonzero [63:48] of the action word, and a cell agent, fault. DONE on the
service agent is RFT.abort. -/
def Obligations.Returns : Prop :=
  ∀ (s : State) (g : Agent), s.atTurn g →
    (g.service = false → takesFault .rftResume s g 0x26 ∧ takesFault .rftSkip s g 0x26 ∧ takesFault .rftRetry s g 0x26
      ∧ takesFault .rftPoison s g 0x26 ∧ takesFault .rftAbort s g 0x26)
    ∧ (g.service = true → exec .done s = exec .rftAbort s
      ∧ ((∃ c, 0 < g.count c) → staysPut .rftResume s ∧ staysPut .rftSkip s ∧ staysPut .rftRetry s ∧ staysPut .rftPoison s ∧ staysPut .rftAbort s)
      ∧ ∀ p q r l, (∀ c, g.count c = 0) → s.part g.part = some p → p.run = some q → p.rec? q.raised.rid = some r →
        walkLoc s p.asid (bits g.trec.toNat 0 55 + 120) .read = .ok l →
        let w := leNat (rdPlace s l.place 8)
        let goes : Record := { r with state := .running, since := s.cycle, was := if r.since = s.cycle then r.was else r.state }
        let gone := fun (i : Instr) (f : State → Part → Record → Prop) => ∃ t y x, exec i s = .next t ∧ t.agent g.key = none
          ∧ t.part g.part = some y ∧ y.run = none ∧ y.lastRft = s.cycle ∧ y.rec? r.id = some x ∧ f t y x
        (bits w 48 16 ≠ 0 → takesFault .rftResume s g 0x25 ∧ takesFault .rftSkip s g 0x25 ∧ takesFault .rftRetry s g 0x25
          ∧ takesFault .rftPoison s g 0x25 ∧ takesFault .rftAbort s g 0x25)
        ∧ (w = 0 → r.rowFull = false → r.cancelHeld = false → (∀ x ∈ s.agentsOf g.part r.id, x.outs = []) →
          (∀ h f, q.raised.agent = some h.key → s.agent h.key = some h → h.key ≠ g.key → q.raised.source = 0 → h.trapped = some f →
            f.late = false → h.status = .running →
            gone .rftResume (fun t _ x => x = goes ∧ t.agent h.key = some { h with trapped := none })
            ∧ (h.redo = [] → h.xrow = none → (isTree f.trap.word = false ∨ f.trap.cause = 0x61) →
              gone .rftSkip fun t _ x => x = goes ∧ t.agent h.key = some { h.next with trapped := none }))
          ∧ (r.retries < p.flags / 8 % 4 → gone .rftRetry fun t _ x => x.state = .ready ∧ x.retries = r.retries + 1 ∧ x.pend = 0
              ∧ t.agentsOf g.part r.id = [] ∧ pendingEvent t (.admission g.part) = true)
          ∧ (r.retries = p.flags / 8 % 4 → exec .rftRetry s = exec .rftPoison s)
          ∧ gone .rftPoison (fun t y _ => (r.id, .err (errWord q.raised.trap.cause r.id (symDepth (s.cell r.seat)) (symNode (s.cell r.seat))) .done)
              ∈ y.urgent ∧ t.agentsOf g.part r.id = [] ∧ pendingEvent t (.storageStep g.part) = true))
        ∧ (bits w 48 16 = 0 → ∃ t, exec .rftAbort s = .next t ∧ t.part g.part = none ∧ (t.pcb g.part).state = 0
          ∧ ∀ k h, t.agent k = some h → h.part ≠ g.part))

/-! ## Special registers and system instructions -/

/-- MFS reads what 04 R74 to R76 give, and MTS writes what R75 allows; a reserved number or value faults with 0x025 (20 R374). On the
service agent `%cell`, `%alen`, `%node`, `%depth` and `%slot` read 0, `%core` the root core's logical number, `%rec` and `%trec` the
record that is trapped (04 R76), and `%part` its partition; that `%lcell` is 64 times the root core's number there is the model's (log
27). -/
def Obligations.SpecialRegisters : Prop :=
  ∀ (s : State) (g : Agent), s.atTurn g →
    let reads := fun (n : Nat) (v : Word) => ∀ d, runsTo (.mfs d (BitVec.ofNat 6 n)) s g (g.setS d v).next
    let nat := fun (v : Nat) => (BitVec.ofNat 64 v : Word)
    (g.service = false → ∀ p, s.part g.part = some p → reads 0 (nat g.cell) ∧ reads 1 (nat g.alen)
      ∧ reads 4 (nat g.node) ∧ reads 5 (nat g.depth) ∧ reads 6 (nat (2 ^ 63 + 4096 * (g.lcell % 64))) ∧ ∀ d, takesFault (.mfs d 0x38) s g 0x25)
    ∧ (g.service = true → reads 0 0 ∧ reads 1 0 ∧ reads 4 0 ∧ reads 5 0 ∧ reads 6 0 ∧ reads 0x38 g.trec)
    ∧ (∀ p, s.part g.part = some p → reads 2 (nat (p.logical g.core)) ∧ reads 3 (nat g.lcell) ∧ reads 7 (nat g.rid)
      ∧ reads 8 (nat (p.logical g.part % 4096 + 4096 * p.j)))
    ∧ reads 0x10 (g.frm.zeroExtend 64) ∧ reads 0x11 (g.fflags.zeroExtend 64) ∧ reads 0x12 (g.ftrap.zeroExtend 64) ∧ reads 0x13 g.seed
    ∧ reads 0x14 (g.tms.zeroExtend 64) ∧ reads 0x15 g.ascl ∧ reads 0x16 g.bscl ∧ reads 0x17 (g.mtol.zeroExtend 64)
    ∧ (∀ i : Fin 4, reads (0x20 + i.val) (g.lc[i].zeroExtend 64) ∧ reads (0x24 + i.val) (g.li[i].zeroExtend 64))
    ∧ (∀ i : Fin 8, reads (0x28 + i.val) ((s.core g.core).stats[i].zeroExtend 64))
    ∧ reads 0x30 s.time ∧ reads 0x31 (nat (s.coreCycle g.core))
    ∧ (∀ n : BitVec 6, (9 ≤ n.toNat ∧ n.toNat < 0x10 ∨ 0x18 ≤ n.toNat ∧ n.toNat < 0x20 ∨ 0x32 ≤ n.toNat ∧ n.toNat < 0x38 ∨ 0x39 ≤ n.toNat) →
      ∀ d, takesFault (.mfs d n) s g 0x25)
    ∧ ∀ a, let v := g.sr a
      let x : W32 := v.truncate 32
      let writes := fun (n : BitVec 6) (c : Prop) (h : Agent) => (c → runsTo (.mts n a) s g h.next) ∧ (¬ c → takesFault (.mts n a) s g 0x25)
      let scale := v.toNat / 2 ^ 62 ≠ 3 ∧ v.toNat / 2 ^ 20 % 2 ^ 42 = 0 ∧ (v.toNat / 2 ^ 62 = 1 ∨ v.toNat % 2 ^ 20 = 0)
      let tmsBad := bits x.toNat 24 2 = 3 ∨ bits x.toNat 16 8 ≠ 0 ∨ (bits x.toNat 30 2 = 0 ∧ bits x.toNat 0 16 = 0)
      writes 0x10 (v.toNat ≤ 5) { g with frm := x } ∧ writes 0x11 (v.toNat < 128) { g with fflags := x }
      ∧ writes 0x12 (∀ i < 64, v.getLsbD i = true → i < 6 ∧ i ≠ 4) { g with ftrap := x } ∧ writes 0x13 (v ≠ 0) { g with seed := v }
      ∧ writes 0x14 (v.toNat < 2 ^ 32 ∧ ¬ tmsBad) { g with tms := x } ∧ writes 0x15 scale { g with ascl := v }
      ∧ writes 0x16 scale { g with bscl := v } ∧ writes 0x17 (v.toNat ≤ 2 ^ 31 ∧ bits v.toNat 23 8 ≠ 255) { g with mtol := x }
      ∧ (∀ i : Fin 4, writes (BitVec.ofNat 6 (0x20 + i.val)) (v.toNat < 2 ^ 32) { g with lc := g.lc.set i x, li := g.li.set i 0 })
      ∧ ∀ n : BitVec 6, (n.toNat < 0x10 ∨ 0x18 ≤ n.toNat ∧ n.toNat < 0x20 ∨ 0x24 ≤ n.toNat) → takesFault (.mts n a) s g 0x25

/-- INVTLB drops what it names from every translation cache and holds its agent until that is complete (09 R168, 20 R365). ERRINJ arms one
present unit (11 R215). SQPUT claims the next index of a queue with room and sends its packet to that slot; it waits while the queue is
full (21 R403). -/
def Obligations.SystemInstructions : Prop :=
  ∀ (s : State) (g : Agent), s.atTurn g →
    (g.service = false → ∀ a b k, takesFault (.invtlbAsid a) s g 0x26 ∧ takesFault (.invtlbPage a) s g 0x26 ∧ takesFault .invtlbAll s g 0x26
      ∧ takesFault (.errinj k a b) s g 0x26)
    ∧ (g.service = true → ∀ (i : Instr) (hit : TlbEntry → Bool),
      ((∃ a, i = .invtlbAsid a ∧ ∀ x, hit x = decide (x.asid = (g.sr a).toNat % 2 ^ 16))
        ∨ (∃ a p, i = .invtlbPage a ∧ s.part g.part = some p ∧ ∀ x, hit x = x.covers p.asid ((g.sr a).toNat % 2 ^ 55))
        ∨ (i = .invtlbAll ∧ ∀ x, hit x = true)) →
      ∃ t n, exec i s = .next t ∧ (∀ c, (t.core c).tlb = (s.core c).tlb.filter fun x => !hit x)
        ∧ (∀ k, (t.ctx k).tlb = (s.ctx k).tlb.filter fun x => !hit x) ∧ t.mem = s.mem ∧ t.parts = s.parts
        ∧ t.agent g.key = some { g.next with wakeAt := s.cycle + 1 + n } ∧ ∀ k, k ≠ g.key → t.agent k = s.agent k)
    ∧ (g.service = true → ∀ (k : Fin 16) a b, let u := BitVec.ofNat 32 (g.sr a).toNat
      let ok := (g.sr a).toNat < 2 ^ 32 ∧ (g.sr b).toNat < 4 ∧ (g.sr a).toNat / 2 ^ 28 = k.val ∧ hopPresent s u = true
      (¬ ok → takesFault (.errinj k a b) s g 0x25)
      ∧ (ok → exec (.errinj k a b) s = .next ((s.modDev fun d => { d with
          injections := (d.injections.filter fun j => j.unit ≠ u) ++ [⟨u, (g.sr b).toNat⟩] }).setAgent g.key g.next)))
    ∧ ∀ sys a m off, g.sr a = BitVec.ofNat 64 (2 ^ 63 + off) → off % 64 = 0 → off + 64 ≤ 2 ^ 20 → s.calm g → s.memOk →
      let q := g.ea m
      let packet := rd s (spadKey g.core off) 64
      (q.toNat % 64 ≠ 0 → takesFault (.sqput sys a m) s g 0x92)
      ∧ (q.toNat % 64 = 0 → packet.headD 0 = 0 → takesFault (.sqput sys a m) s g 0x25)
      ∧ ∀ k sa, q.toNat % 64 = 0 → packet.headD 0 ≠ 0 → resolveCached s g q .write = .ok ⟨.here k, sa⟩ →
        let base := rdNat s k 8
        let cnt := rdNat s (k + 8) 4
        let w := rdNat s (k + 16) 8
        let used := (w + 2 ^ 64 - rdNat s (k + 24) 8) % 2 ^ 64
        let slot := BitVec.ofNat 64 (base + 64 * (w % cnt))
        ((cnt = 0 ∨ 2 ^ 20 < cnt ∨ base % 64 ≠ 0) → takesFault (.sqput sys a m) s g 0x93)
        ∧ (cnt ≠ 0 → cnt ≤ 2 ^ 20 → base % 64 = 0 → cnt ≤ used → staysPut (.sqput sys a m) s)
        ∧ ∀ l, cnt ≠ 0 → cnt ≤ 2 ^ 20 → base % 64 = 0 → used < cnt → resolveCached s g slot .write = .ok l → l.place.own g.core = false →
          ∃ t h, exec (.sqput sys a m) s = .next t ∧ t.agent g.key = some h ∧ h.pc = g.pc + 1 ∧ h.s = g.s
            ∧ h.ops = [⟨.stores, g.nextId, false⟩]
            ∧ h.outs.map (fun x => (x.op, x.locs, x.phase)) = [(.sqput q slot packet, [l], .moving)]
            ∧ rdNat t (k + 16) 8 = (w + 1) % 2 ^ 64 ∧ (∀ y, (y < k + 16 ∨ k + 24 ≤ y) → Mem.get t.mem y = Mem.get s.mem y)
            ∧ pendingEvent t (.storePerformed g.core g.slot g.nextId) = true

/-! ## Integrity, drowsiness, monitors -/

/-- A hop passes sound and condemned data on and blames its unit for a mismatch, which is fenced and tested (11 R205, R206, R208); a unit
under test holds the chunk. A self-test that passes returns its unit to service and counts a transient; a failing one of a core's unit
enters the fault map and removes the core (11 R208, R209). An agent that has issued nothing for the 1,024 cycles before this one is drowsy
(04 R81); a poll gives a waiting agent the far word it waits for, and lets a waiting stream context look again (20 R378, 21 R410); the
walker's answer wakes a stalled context (09 R167). -/
def Obligations.UnitEvents : Prop :=
  ((∀ (s : State) (x : Transfer) (u : W32) (rest : List W32), s.dev.transfers = [x] → x.hops = u :: rest → s.dev.injections = [] →
     let on := s.modDev fun d => { d with transfers := [{ x with hops := rest }] }
     ((∃ y ∈ s.dev.tests, y.unit = u) → exec (.chunkHop x.id) s = .next (sched s 1 (.chunkHop x.id)))
     ∧ (s.dev.tests = [] → (x.condemned.isSome ∨ x.expected = x.found) →
       exec (.chunkHop x.id) s = .next (if rest = [] then on else schedFree on (.chunkHop x.id)))
     ∧ (s.dev.tests = [] → x.condemned = none → x.expected ≠ x.found → ∃ t b, exec (.chunkHop x.id) s = .next t
       ∧ t.dev.transfers = [{ x with hops := rest, condemned := some b }] ∧ b.hop = u ∧ b.cause = 0x100 + 4 * hopKind u ∧ b.chunk = x.chunk
       ∧ t.dev.eidx = s.dev.eidx + 1 ∧ t.dev.tests.map (·.unit) = [u]))
   ∧ ∀ (s : State) (y : Test), s.dev.tests = [y] → (∀ e ∈ s.parts, ∀ r ∈ e.2.records, r.awaitsTest = none) →
     y.start + nsCycles (testNs (hopKind y.unit)) ≤ s.cycle →
     (∃ t, exec (.selfTestComplete y.unit true) s = .next t ∧ t.dev.tests = [] ∧ t.dev.faultMap = s.dev.faultMap ∧ t.parts = s.parts
       ∧ t.cores = s.cores ∧ Tbl.find t.dev.transients y.unit.toNat = some ((Tbl.find s.dev.transients y.unit.toNat).getD 0 + 1))
     ∧ ∀ c, s.parts = [] → y.forced ≠ some false → coresTaken y.unit = [c] → hopKind y.unit ≠ 2 → c < Config.cores → (s.core c).removed = false →
       ∃ t, exec (.selfTestComplete y.unit false) s = .next t ∧ t.dev.tests = [] ∧ t.dev.faultMap = s.dev.faultMap ++ [y.unit]
         ∧ (t.core c).removed = true)
  ∧ ((∀ (s : State) (g : Agent), s.agent g.key = some g →
       (g.lastIssue + 1024 < s.cycle → exec (.granuleDrowsy g.core g.slot) s = .next (s.setAgent g.key { g with drowsy := true }))
       ∧ ∀ l n, farWait s g = some (l, n) → ∃ t, exec (.monitorPoll (.agent g.core g.slot)) s = .next t ∧ t.mem = s.mem
         ∧ t.agent g.key = some { g with polled := some (leWord (rdPlace s l.place n)) } ∧ ∀ k, k ≠ g.key → t.agent k = s.agent k)
     ∧ ∀ (s : State) (e c : Nat) (x : Ctx), s.ctx (ctxKey e c) = x → x.status = .waiting →
       let y : Ctx := { x with status := .running, wakeAt := s.cycle }
       exec (.monitorPoll (.context e c)) s = .next (s.setCtx (ctxKey e c) y)
       ∧ exec (.translationWalkDone (.context e c)) s = .next (s.setCtx (ctxKey e c) { y with walked := true }))

/-! ## Pre-emption -/

/-- A pre-emption asked for waits for the root's work, sends its marker for half a sweep, freezes the partition at the cut, writes the
image once everything issued has landed, then its valid word, and leaves the device (13 R232 to R234, R240). When the image is written,
and how long its valid word takes, is the model's (log 37). -/
def Obligations.Preemption : Prop :=
  ∀ (s : State) (n : Nat) (p : Part), s.part n = some p →
    let b := s.pcb n
    (b.state = 1 → p.pre = .none → ∃ t, exec (.pcbPreempt n) s = .next t ∧ t.part n = some { p with
        pre := .asked p.wideStop, wideStop := false, again := false }
      ∧ t.pcb n = { b with cmd := 0, state := 2 } ∧ pendingEvent t (.preemptMarkerArrival n) = true ∧ t.cells = s.cells)
    ∧ (b.state ≠ 1 → exec (.pcbPreempt n) s = .next (s.setPcb n { b with cmd := 0 }))
    ∧ (∀ wide, p.pre = .asked wide → let h := sweepTime p.j / 2
      (rootBusy s n p = true → exec (.preemptMarkerArrival n) s = .next (schedOnce s 1 (.preemptMarkerArrival n)))
      ∧ (rootBusy s n p = false → exec (.preemptMarkerArrival n) s = .next (schedOnce
        (State.setPart { s with agenda := s.agenda.filter fun a => a.2 ≠ Instr.preemptMarkerArrival n } n { p with
          pre := .marker (s.cycle + 1 + h) wide, sweep := none, sweepQueued := false }) (1 + h) (.preemptMarkerArrival n))))
    ∧ (∀ at_ wide, p.pre = .marker at_ wide →
      (s.cycle < at_ → exec (.preemptMarkerArrival n) s = .next s)
      ∧ (at_ ≤ s.cycle → (p.records.map (·.id)).Nodup → ∃ t q, exec (.preemptMarkerArrival n) s = .next t ∧ t.part n = some q
        ∧ q.pre = .cut (wide || p.wideStop) ∧ q.sweep = none
        ∧ q.stops = [] ∧ q.records.map (·.state) = p.records.map (fun r => if r.state = .admitted then .ready else r.state)
        ∧ q.records.map (·.start) = p.records.map (·.start) ∧ ((∀ r ∈ p.records, r.state ≠ .admitted) → t.mem = s.mem)
        ∧ t.cells = s.cells ∧ pendingEvent t (.cutComplete n) = true
        ∧ ∀ k x, Tbl.find s.ctxs k = some x → x.asid = p.asid → x.status ≠ .free →
          t.ctx k = if x.midway then { x with stopping := true } else { x with status := .stopped }))
    ∧ ∀ wide, p.pre = .cut wide → p.again = false →
      let v := atCut s n
      let c := cutImage v n p
      (landed v n p = false → exec (.cutComplete n) s = .next (schedOnce v 1 (.cutComplete n)))
      ∧ (∀ u, landed v n p = true → writeVa (keepBeside c.1 n p) p.asid b.save.toNat c.2 = some u →
        exec (.cutComplete n) s = .next (sched u (ceilDiv c.2.length 64) (.imageValid n)))
      ∧ (s.quietUnits → (∀ x ∈ imageCells v n p, symKind (v.cell x) = 8 → v.chime x = payloadChime (v.cell x) (slotBytes v x)) →
        c = (v, imageBytes v n p))
      ∧ ∀ u, wide = false → writeVa s p.asid (b.save.toNat + 8) (toLe 4 1) = some u → ∃ t, exec (.imageValid n) s = .next t
        ∧ t.part n = none ∧ (t.pcb n).state = 3 ∧ Tbl.find t.savedParts n = some { p with pre := .saved } ∧ t.mem = u.mem ∧ t.cells = s.cells
        ∧ ∀ k g, t.agent k = some g → g.part ≠ n

/-- A restore into a free or saved block refuses with its status, or places the image and says so; once its time is over and its streams
have contexts, everything goes on with a sweep (13 R246, R247, 16 R294). Commands 1, 2, 5 and 6 of a partition control block (16 R294): a
cancel acts on the record that arg names, a live partition ends with status 0x02, a row-full partition takes its sibling subtree, a saved
one is given up. What is resident at a restore is the model's (log 38). -/
def Obligations.Restoring : Prop :=
  ((∀ (s : State) (n : Nat), let b := s.pcb n
     let u := applyRemovals (s.setPcb n { b with cmd := 0 })
     (b.state ≠ 0 → b.state ≠ 3 → exec (.pcbRestore n) s = .next (s.setPcb n { b with cmd := 0 }))
     ∧ ((b.state = 0 ∨ b.state = 3) →
       (∀ st, restoreStatus u n = (st, none) → exec (.pcbRestore n) s = .next (u.setPcb n { b with cmd := 0, rstat := st }))
       ∧ ∀ m cells ops h, restoreStatus u n = (0, some (m, cells, ops, h)) → ∃ t q, exec (.pcbRestore n) s = .next t ∧ (t.pcb n).state = 4
         ∧ t.part n = some q ∧ q.pre = .saved ∧ q.j = b.arg.toNat % 16 ∧ q.asid = leAt m.head 16 2 ∧ q.opers = ops ∧ q.handler = h
         ∧ q.peal = leAt m.head 24 8 ∧ q.nextRec = leAt m.head 32 4 ∧ q.records.length = m.recs.length
         ∧ pendingEvent t (.restorePlacementEnd n) = true))
   ∧ ∀ (s : State) (n : Nat) (p : Part), s.part n = some p → p.pre = .saved → p.streams = [] → p.heldCancels = [] → p.traps = [] →
     p.sweep = none → (∀ r ∈ p.records, r.state = .running) →
     ∃ t q, exec (.restorePlacementEnd n) s = .next t ∧ t.part n = some q ∧ q.pre = .none ∧ q.records = p.records ∧ q.peal = p.peal + 1
       ∧ (t.pcb n).state = 1 ∧ (t.pcb n).rstat = 0 ∧ pendingEvent t (.sweepComplete n) = true ∧ t.cells = s.cells
       ∧ (∀ k g, s.agent k = some g → g.part = n → t.agent k = some { g with wakeAt := s.cycle, lastIssue := s.cycle })
       ∧ ∀ k g, s.agent k = some g → g.part ≠ n → t.agent k = some g)
  ∧ (∀ (s : State) (n : Nat), let b := s.pcb n
       let u := s.setPcb n { b with cmd := 0 }
       (s.part n = none → exec (.pcbCancelRecord n) s = .next u)
       ∧ (∀ p, s.part n = some p → exec (.pcbCancelRecord n) s = .next (sched u 0 (.cancelEffect n b.arg.toNat)))
       ∧ (b.state = 1 → exec (.pcbCancelPartition n) s = .next (endWhole u n 0x02 0)) ∧ (b.state ≠ 1 → exec (.pcbCancelPartition n) s = .next u)
       ∧ (b.state = 3 → ∃ t, exec (.pcbRelease n) s = .next t ∧ Tbl.find t.savedParts n = none ∧ t.pcb n = { b with cmd := 0, state := 0 }
         ∧ t.mem = s.mem ∧ t.parts = s.parts)
       ∧ (b.state ≠ 3 → exec (.pcbRelease n) s = .next u)
       ∧ ∀ p, s.part n = some p → let full := ∃ q, p.run = some q ∧ q.raised.trap.cause = 0xC0
         let m := n - n % 2 ^ (p.j + 1)
         let half := if m = n then n + 2 ^ p.j else m
         (¬ full → exec (.pcbExtend n) s = .next u)
         ∧ (full → p.j = 12 → exec (.pcbExtend n) s = .next (u.setPcb n { b with cmd := 0, rstat := 0x06 }))
         ∧ (full → p.j ≠ 12 → overlapsLive s half p.j = true → exec (.pcbExtend n) s = .next (u.setPcb n { b with cmd := 0, rstat := 0x1B }))
         ∧ (full → p.j ≠ 12 → overlapsLive s half p.j = false → ∃ t q, exec (.pcbExtend n) s = .next t ∧ t.part m = some q ∧ q.j = p.j + 1
           ∧ q.records = p.records ∧ q.run = p.run ∧ q.asid = p.asid ∧ (t.pcb m).rstat = 0 ∧ (m ≠ n → t.part n = none) ∧ t.mem = s.mem
           ∧ (∀ c k, half ≤ c → c < half + 2 ^ p.j → k < 64 → t.cell (64 * c + k) = if (s.core c).removed then blockedWord else 0)))

/-! ## The host and the management plane -/

/-- The device control block, the arbitration registers and the host's register writes (16 R286, R290, R291, R293, R294): what a write
changes, what it may not change while a partition is live, and the command that a block takes in the next cycle. BAR2 reads and writes
through its aperture of 1 GiB to 2 TiB on a link in service (16 R288), all ones and a counted fault where it cannot (16 R289, 15 R275);
the management plane writes the route table and the leader, clears log entries and arms injections (00 R10, 11 R215, 16 R290, R291); the
attestation report holds its nonce and the device identifier (16 R295), a module whose firmware failed takes no write; module reset keeps
memory, clears the rest and says how far bring-up came (16 R296). The size of BAR2 at reset, what bring-up finds, the units of a register
access and what a reset keeps are the model's (logs 9, 14, 41 and 42). -/
def Obligations.HostInterface : Prop :=
  (∀ (s : State), let live := fun (n : Nat) => (s.pcb n).state = 1 ∨ (s.pcb n).state = 2 ∨ (s.pcb n).state = 4
     let keeps := fun (i : Instr) => exec i s = .next s
     (s.dev.bstat = 1 → (∀ v, keeps (.idtabWrite v) ∧ keeps (.attestRequest v) ∧ ∀ l, keeps (.apertureBaseWrite l v)) ∧ keeps .fcntWrite
       ∧ (∀ k v, keeps (.peerSlotWrite k v)) ∧ (∀ k v, keeps (.arbitrationWrite k v)) ∧ ∀ d v, keeps (.registerWrite d v))
     ∧ (s.dev.bstat ≠ 1 →
       (∀ v, (v.toNat % 2 ^ 20 = 0 ∧ s.parts = [] → exec (.idtabWrite v) s = .next (s.modDev fun d => { d with idtab := v }))
         ∧ (v.toNat % 2 ^ 20 ≠ 0 ∨ s.parts ≠ [] → keeps (.idtabWrite v)))
       ∧ (∀ v, let ok := fun (l : Fin 2) => v.toNat < 2 ^ 55 ∧ v.toNat % 2 ^ s.dev.bar2size[l] = 0
         (ok 0 → exec (.apertureBaseWrite 0 v) s = .next (s.modDev fun d => { d with ap0base := v }))
         ∧ (ok 1 → exec (.apertureBaseWrite 1 v) s = .next (s.modDev fun d => { d with ap1base := v }))
         ∧ ∀ l, ¬ ok l → keeps (.apertureBaseWrite l v))
       ∧ exec .fcntWrite s = .next (s.modDev fun d => { d with fcnt0 := 0, fcnt1 := 0 })
       ∧ (∀ (k : Fin 16) v, (s.parts = [] → exec (.peerSlotWrite k v) s = .next (s.modDev fun d => { d with peers := d.peers.set k (v &&& 0x8000FFFF#32) }))
         ∧ (s.parts ≠ [] → keeps (.peerSlotWrite k v)))
       ∧ (∀ k v, (k < 268 → exec (.arbitrationWrite k v) s = .next (s.modDev fun d => { d with arb := Tbl.put d.arb k (v &&& 0xFFFF#32) }))
         ∧ (268 ≤ k → keeps (.arbitrationWrite k v)))
       ∧ (∀ n v, exec (.registerWrite (.clearEntry n) v) s = .next (wr s (logKey s n) (List.replicate 64 0)))
       ∧ (∀ h v, let u := BitVec.ofNat 32 h
         (v.toNat < 4 → hopPresent s u = true → exec (.registerWrite (.inject h) v) s = .next (s.modDev fun d => { d with
             injections := (d.injections.filter fun j => j.unit ≠ u) ++ [⟨u, v.toNat⟩] }))
         ∧ ((4 ≤ v.toNat ∨ hopPresent s u = false) → keeps (.registerWrite (.inject h) v)))
       ∧ (∀ l v, (30 ≤ v.toNat → v.toNat ≤ 41 → exec (.registerWrite (.resize l) v) s = .next (s.modDev fun d => { d with
             bar2size := d.bar2size.set l.val v.toNat }))
         ∧ ((v.toNat < 30 ∨ 41 < v.toNat) → keeps (.registerWrite (.resize l) v)))
       ∧ (∀ l off v, (s.dev.hostUp[l] = false ∨ off % 8 ≠ 0 ∨ off = 0x1038 ∨ 0x20000 ≤ off ∧ off < 0x30000) → keeps (.registerWrite (.host l off) v))
       ∧ (∀ v : Word, exec (.registerWrite (.management 0x1038) v) s = .next (s.modDev fun d => { d with leader := v.truncate 16 })
         ∧ ∀ off, off % 8 = 0 → 0x20000 ≤ off → off < 0x30000 → ∃ t, exec (.registerWrite (.management off) v) s = .next t ∧ t.parts = s.parts
           ∧ (∀ k < 8, Tbl.find t.dev.routes (off - 0x20000 + k) = some (bits v.toNat (8 * k) 4 + 128 * bits v.toNat (8 * k + 7) 1))
           ∧ ∀ i, (i < off - 0x20000 ∨ off - 0x20000 + 8 ≤ i) → Tbl.find t.dev.routes i = Tbl.find s.dev.routes i)
       ∧ ∀ (from_ : Nat → RegTarget), (from_ = .management ∨ ∃ l, s.dev.hostUp[l] = true ∧ from_ = .host l) → ∀ v : Word,
         exec (.registerWrite (from_ 0x1000) v) s = exec (.idtabWrite v) s
         ∧ exec (.registerWrite (from_ 0x1008) v) s = exec (.apertureBaseWrite 0 v) s
         ∧ exec (.registerWrite (from_ 0x1018) v) s = exec (.apertureBaseWrite 1 v) s
         ∧ exec (.registerWrite (from_ 0x1028) v) s = exec .fcntWrite s ∧ exec (.registerWrite (from_ 0x1030) v) s = exec (.attestRequest v) s
         ∧ ∀ n < 4096, let b := s.pcb n
           (live n → ∀ k, 0 < k → k < 32 → keeps (.registerWrite (from_ (0x100000 + 256 * n + 8 * k)) v))
           ∧ (¬ live n → exec (.registerWrite (from_ (0x100000 + 256 * n + 40)) v) s = .next (s.setPcb n { b with trapq := v })
             ∧ exec (.registerWrite (from_ (0x100000 + 256 * n + 48)) v) s = .next (s.setPcb n { b with save := v })
             ∧ exec (.registerWrite (from_ (0x100000 + 256 * n + 96)) v) s = .next (s.setPcb n { b with seed := v }))
           ∧ (b.cmd ≠ 0 → keeps (.registerWrite (from_ (0x100000 + 256 * n)) v))
           ∧ ∀ (c : Nat) (e : Instr), b.cmd = 0 → v.toNat % 256 = c →
             ((c = 1 ∧ e = .pcbCancelRecord n) ∨ (c = 2 ∧ e = .pcbCancelPartition n) ∨ (c = 3 ∧ e = .pcbPreempt n) ∨ (c = 4 ∧ e = .pcbRestore n)
               ∨ (c = 5 ∧ e = .pcbExtend n) ∨ (c = 6 ∧ e = .pcbRelease n)) →
             ∃ t, exec (.registerWrite (from_ (0x100000 + 256 * n)) v) s = .next t
               ∧ t.pcb n = { b with cmd := c, arg := BitVec.ofNat 32 (v.toNat / 2 ^ 32) } ∧ (s.cycle + 1, e) ∈ t.agenda ∧ t.parts = s.parts))
  ∧ (∀ (s : State),
       (∀ (k : Fin 2) off n, let out := fun (t : State) (l : List Byte) => ({ t with outbox := t.outbox ++ [.hostRead k.val off l] } : State)
         let reaches := s.dev.hostUp[k] = true ∧ off + n ≤ 2 ^ s.dev.bar2size[k]
         (¬ reaches → exec (.bar2Read k off n) s = .next s)
         ∧ (reaches → s.dev.published = false → exec (.bar2Read k off n) s = .next (out s (List.replicate n 0xFF#8)))
         ∧ (reaches → s.dev.published = true → ∀ va, apertureVa s k off n = some va →
           (∀ l, readVa s (aperture s k).2 va n = some l → exec (.bar2Read k off n) s = .next (out s l))
           ∧ (readVa s (aperture s k).2 va n = none → exec (.bar2Read k off n) s = .next (out (addFault s k) (List.replicate n 0xFF#8))))
         ∧ (reaches → s.dev.published = true → apertureVa s k off n = none → exec (.bar2Read k off n) s = .next (out (addFault s k) (List.replicate n 0xFF#8))))
       ∧ (∀ (k : Fin 2) off l, let reaches := s.dev.hostUp[k] = true ∧ off + l.length ≤ 2 ^ s.dev.bar2size[k]
         ((s.dev.published = false ∨ ¬ reaches) → exec (.bar2Write k off l) s = .next s)
         ∧ (reaches → s.dev.published = true → (apertureVa s k off l.length = none → exec (.bar2Write k off l) s = .next (addFault s k))
           ∧ ∀ va, apertureVa s k off l.length = some va →
           (∀ u, writeVa s (aperture s k).2 va l = some u → exec (.bar2Write k off l) s = .next u)
           ∧ (writeVa s (aperture s k).2 va l = none → exec (.bar2Write k off l) s = .next (addFault s k))))
       ∧ (∀ a l u, let report := attestReport s (l.take 32)
         s.dev.bstat ≠ 1 → readVa s 0 a.toNat 64 = some l → writeVa (s.modDev fun d => { d with attest := a }) 0 (leAt l 32 8) report = some u → l.length = 64 →
         exec (.attestRequest a) s = .next (u.modDev fun d => { d with attest := 0 }) ∧ report.length = 320
         ∧ report.take 32 = l.take 32 ∧ leAt report 32 2 = s.dev.devid.toNat)
       ∧ ∃ t, exec .moduleReset s = .next t ∧ t.parts = [] ∧ t.agents = [] ∧ t.cells = [] ∧ t.pcbs = [] ∧ t.ctxs = [] ∧ t.ringers = [] ∧ t.presence = s.presence
         ∧ t.mem = s.mem ∧ t.dev.published = false
         ∧ (let signed := Config.ed448Verify (Config.shake256 Config.firmware) Config.firmwareSignature
           (signed = false → t.dev.bstat = 1) ∧ (signed = true → Config.memoryTrains = false → t.dev.bstat = 2)
           ∧ (signed = true → Config.memoryTrains = true → t.dev.bstat = 0 ∧ t.dev.devid = Config.deviceId ∧ t.dev.elog = Config.logBase
             ∧ t.dev.training = some (List.range 12) ∧ ∀ g < 12, (t.port g).state = .reset ∧ pendingEvent t (.linkResetExpiry g) = true)))
  ∧ (∀ s : State, (s.dev.training ≠ some [] → (tick s).dev.published = s.dev.published ∧ (tick s).dev.bstat = s.dev.bstat)
    ∧ (s.dev.training = some [] → (tick s).dev.training = none
      ∧ (Config.faultMapLoads = true → (tick s).dev.published = true ∧ (tick s).dev.mapLoaded = true ∧ (tick s).dev.bstat = s.dev.bstat)
      ∧ (Config.faultMapLoads = false → (tick s).dev.published = s.dev.published ∧ (tick s).dev.bstat = 6)))

/-! ## Links -/

/-- Training of a port (16 R297): RESET, DETECT, ALIGN, EQUALIZE, RATE, VERIFY, IDENTITY and ACTIVE in order, what a timeout leads to, and
what a link going down leaves (14 R252). The timebase steps to its leader at the first path without a live partition and is caught up with
otherwise; within 20 ns it is synchronised, while it has a path (14 R253). A peer's access is performed at its home and answered through
an ACTIVE port (14 R251); that an empty answer makes the peer fault, as of a failing page (11 R209), is the model's (log 3), and so are
the waits between attempts and the rates of catching up (logs 35 and 36). -/
def Obligations.Links : Prop :=
  (∀ (s : State) (g : Nat), g < 12 → let p := s.port g
     let goes := fun (i : Instr) (q : Port) => ∃ t, exec i s = .next t ∧ t.port g = q ∧ (∀ r, r ≠ g → t.port r = s.port r) ∧ t.parts = s.parts ∧ t.agents = s.agents
     let at_ := fun (x : PortState) => inState s g x = true
     let fresh : Port := { Port.reset with removed := p.removed, barred := p.barred }
     (at_ .reset → goes (.linkResetExpiry g) { p with state := .detect })
     ∧ (∀ n, at_ .detect → (2 ≤ n → goes (.partnerDetect g n) { p with state := .align, usable := Min.min n 8 })
       ∧ (n < 2 → exec (.partnerDetect g n) s = .next s))
     ∧ (at_ .align → goes (.laneAlign g) { p with state := .equalize })
     ∧ (at_ .equalize → goes (.equalizeAgree g) { p with state := .rate })
     ∧ (∀ r w k, at_ .rate → nextRate p.usable p.rateIdx = some (r, w, k) → goes (.rateSelect g) { p with state := .verify, rate := r, width := w, rateIdx := k })
     ∧ (at_ .rate → nextRate p.usable p.rateIdx = none → ∃ t, exec (.rateSelect g) s = .next t ∧ t.port g = p
       ∧ pendingEvent t (.linkRetryWaitExpiry g) = true)
     ∧ (∀ n, at_ .verify → goes (.verifyDone g n) { p with state := if n < 8 then .identity else .rate })
     ∧ (∀ dev hash, at_ .identity →
       (hash = Config.encodingHash ∧ dev ≠ s.dev.devid → goes (.identityExchange g dev hash) { p with state := .active, partner := dev })
       ∧ (hash ≠ Config.encodingHash ∨ dev = s.dev.devid → goes (.identityExchange g dev hash) { p with state := .down, barred := true }))
     ∧ ((at_ .align ∨ at_ .equalize) → goes (.linkTrainingTimeout g) fresh) ∧ (at_ .verify → goes (.linkTrainingTimeout g) { p with state := .rate })
     ∧ (at_ .identity → goes (.linkTrainingTimeout g) { p with state := .down, barred := true })
     ∧ (at_ .detect → ∃ t, exec (.linkTrainingTimeout g) s = .next t ∧ t.port g = p ∧ pendingEvent t (.linkRetryWaitExpiry g) = true)
     ∧ ((p.state = .detect ∨ p.state = .rate) → goes (.linkRetryWaitExpiry g) fresh)
     ∧ (p.state = .active → ∃ t, exec (.linkDown g) s = .next t ∧ t.port g = fresh ∧ (∀ r, r ≠ g → t.port r = s.port r)
       ∧ t.dev.eidx = s.dev.eidx + 1 ∧ ((∀ e ∈ s.agents, e.2.claim = none) → t.parts = s.parts) ∧ pendingEvent t (.linkResetExpiry g) = true))
  ∧ ((∀ (s : State) (v : Word),
       (s.dev.gained = false → s.parts = [] → exec (.timebaseSyncGain v) s =
         .next (({ s with time := v, timeFrac := 0, timeOff := 0 } : State).modDev fun d => { d with gained := true, path := true, synced := true }))
       ∧ ((s.dev.gained = true ∨ s.parts ≠ []) → ∃ t, exec (.timebaseSyncGain v) s = .next t ∧ t.time = s.time ∧ t.dev.synced = false
         ∧ t.timeOff = ((v.toNat : Int) - s.time.toNat) * 21 - s.timeFrac)
       ∧ (s.dev.path = false → exec .timebaseWithinTolerance s = .next s)
       ∧ (s.timeOff.natAbs ≤ 420 → s.dev.path = true → exec .timebaseWithinTolerance s = .next (s.modDev fun d => { d with synced := true })))
     ∧ ∀ (s : State) (port id pa k : Nat), homeKey pa = some k →
       (portActive s port = false → ∀ a, exec (.peerAccessArrival port id a) s = .next s)
       ∧ (portActive s port = true → s.quietUnits → failingPlace s (.here k) = false →
         let put := fun (t : State) (l : List Byte) => ({ t with outbox := t.outbox ++ [.data port id l] } : State)
         (∀ n sa, (sa = false ∨ ∀ i < n, (s.presenceOf ((k + i) / 8 * 8)).isSome = true) →
           exec (.peerAccessArrival port id (.load pa n sa)) s = .next (put s (rd s k n)))
         ∧ (k % 8 = 0 → s.presenceOf k = none → exec (.peerAccessArrival port id (.load pa 8 true)) s = .next (put s (List.replicate 8 0)))
         ∧ (∀ l, exec (.peerAccessArrival port id (.store pa l)) s = .next (put (wr s k l) []))
         ∧ (∀ v, exec (.peerAccessArrival port id (.tlinc pa v)) s =
             .next (put (wr s k (toLe 8 (Min.min (rdNat s k 8 + v.toNat) (2 ^ 64 - 1)))) (toLe 8 (rdNat s k 8))))
         ∧ (∀ b c, exec (.peerAccessArrival port id (.atom .add true pa b c)) s =
             .next (put (wr s k (toLe 8 ((rdNat s k 8 + b.toNat) % 2 ^ 64))) (toLe 8 (rdNat s k 8))))
         ∧ (∀ v, (pa < Config.hbmBytes → s.presenceOf k = some .full → exec (.peerAccessArrival port id (.stp pa v)) s = .next (put s [1]))
           ∧ (Config.hbmBytes ≤ pa → exec (.peerAccessArrival port id (.stp pa v)) s = .next (put s [])))
         ∧ ∀ v, exec (.peerAccessArrival port id (.raise true pa v)) s =
             .next (put (wr s k (toLe 8 (Max.max (rdNat s k 8) v.toNat))) []))
       ∧ (portActive s port = true → failingPlace s (.here k) = true → ∀ n sa,
         exec (.peerAccessArrival port id (.load pa n sa)) s = .next { s with outbox := s.outbox ++ [.data port id []] }))

/-! ## The debugger and the voltage domains -/

/-- EBRK stops where a debugger is attached, also within a step and on the service agent, and is a NOP elsewhere (17 R309); a precise stop
numbers itself, freezes its area and ends the count of its cycles, which go takes up again (17 R310); go continues, steps or reloads the
stopped agent (17 R306, R307); a partition-wide stop asks for a pre-emption (17 R310). A changed node table waits for the next peal marker
(17 R305); a sample appends one record for each core that is due (17 R303); a droop stretches its domain and writes the records of its 64
cores, until the supply recovers (16 R298, 17 R313). That the service agent is stopped by EBRK, and goes on where it stood, is the model's
(log 40). -/
def Obligations.Debugging : Prop :=
  ((∀ (s : State) (g : Agent), s.atTurn g → let off := g.passStop.isSome = true ∨ (((s.part g.part).bind (·.table)).map (·.dump)).getD 0 = 0
     let within := g.stepLeft.isSome
     (off → runsTo .ebrk s g { g.next with passStop := none })
     ∧ (¬ off → ∃ t, exec .ebrk s = .next t ∧ pendingEvent t (.preciseStop g.core g.slot 255) = true ∧ t.mem = s.mem
       ∧ t.agent g.key = some { g with
         stepSlots := some ((slotsOf s g).map (·.1)), stepLeft := none, halted := if within ∧ g.service then some 0 else g.halted }
       ∧ (g.service = false → within = true → (t.rec? g.part g.rid).map (·.stopped) = (s.rec? g.part g.rid).map fun _ => some 0)))
   ∧ (∀ (s : State) (g : Agent) (p : Part) (k : Nat), s.agent g.key = some g → s.part g.part = some p →
     (g.service = false → ∃ r, p.rec? g.rid = some r ∧ r.state = .running ∧ r.stopped = none) → p.pre = .none → p.stops.length < 16 →
     let n := p.stopSeq + 1
     ∃ t q, exec (.preciseStop g.core g.slot k) s = .next t ∧ t.part g.part = some q ∧ q.stopSeq = n ∧ t.cells = s.cells
       ∧ t.agent g.key = some { g with stepSlots := none, halted := if g.service then some n else g.halted }
       ∧ (∀ j, j ≠ g.key → t.agent j = s.agent j)
       ∧ q.stops = p.stops ++ [⟨n, g.rid, g.key, k,
         (((g.stepSlots <|> p.table.map (·.slots)).bind fun l => l[k]?).map (·.kind)).getD 0, s.cycle⟩]
       ∧ (g.service = true → q.records = p.records)
       ∧ ∀ r, g.service = false → p.rec? g.rid = some r → q.rec? g.rid = some { r.countTo s.cycle with stopped := some n })
   ∧ (∀ (s : State) (n : Nat) (p : Part) (x : Stop) (g : Agent), s.part n = some p → p.stops = [x] → x.agent = g.key →
     s.agent g.key = some g → g.service = true → x.kind ≠ 4 → ∃ t q, exec (.goContinue n x.seq) s = .next t
       ∧ t.agent g.key = some { g with passStop := some x.slot, halted := none } ∧ t.part n = some q ∧ q.stops = [] ∧ q.records = p.records)
   ∧ (∀ (s : State) (n : Nat) (p : Part) (x : Stop) (g : Agent) (r : Record), s.part n = some p → p.stops = [x] → x.agent = g.key →
     s.agent g.key = some g → g.service = false → g.part = n → g.rid = x.rid → p.rec? x.rid = some r → x.kind ≠ 4 →
     let goes := fun (i : Instr) (h : Agent) (st : Option Nat) => ∃ t q, exec i s = .next t ∧ t.agent g.key = some h
       ∧ (∀ k, k ≠ g.key → t.agent k = s.agent k) ∧ t.part n = some q ∧ q.stops = [] ∧ t.mem = s.mem
       ∧ q.rec? x.rid = some { r with stopped := st, admittedAt := s.cycle }
     goes (.goContinue n x.seq) { g with passStop := some x.slot } none
     ∧ (∀ c, goes (.goStep n x.seq c) { g with passStop := some x.slot, stepLeft := some (Max.max 1 c, x.slot) } r.stopped)
     ∧ ∀ l, readVa s p.asid (dumpAddr p x.seq) (512 + 512 * g.gran) = some l →
       ∃ h : Agent, goes (.goReload n x.seq) { h with passStop := some x.slot } none ∧ h = { g with pc := h.pc, s := h.s, p := h.p, k := h.k, v := h.v }
         ∧ h.pc = leAt l 8 4 ∧ (∀ i : Reg, i ≠ 0 → h.sr i = BitVec.ofNat 64 (leAt l (8 + 8 * i.val) 8))
         ∧ ∀ i : KReg, i ≠ 0 → h.kr i = BitVec.ofNat 32 (leAt l (268 + 4 * i.val) 4))
   ∧ ∀ (s : State) (n : Nat) (p : Part), s.part n = some p →
     (p.pre = .none → ∃ t, exec (.partitionWideStop n) s = .next t ∧ t.part n = some { p with wideStop := false, pre := .asked true, again := false }
       ∧ (t.pcb n).state = 2 ∧ pendingEvent t (.preemptMarkerArrival n) = true)
     ∧ ∀ w, p.pre = .asked w → exec (.partitionWideStop n) s = .next (s.setPart n { p with wideStop := false, pre := .asked true }))
  ∧ ((∀ (s : State) (n : Nat) (p : Part), s.part n = some p →
       (∀ t, readTable s p.asid p.nodes = some t → exec (.genChange n) s = .next (s.setPart n { p with newTable := some t }))
       ∧ (readTable s p.asid p.nodes = none → ∃ q, exec (.genChange n) s = .next (s.setPart n q) ∧ q = { p with
           newTable := none, coming := none, table := q.table } ∧ q.table.map (fun t => (t.entries, t.slots, t.dump, t.sper, t.tmask)) = some ([], [], 0, 0, 0))
       ∧ (sampleCores s n p = [] → exec (.profileSample n) s = .next s)
       ∧ ∀ c, let k := hbmKey s.dev.trace.toNat
         let cap := rdNat s k 8
         let pos := rdNat s (k + 8) 8
         sampleCores s n p = [c] → s.memOk → cap ≠ 0 → ∃ t, exec (.profileSample n) s = .next t ∧ rdNat t (k + 8) 8 = (pos + 1) % 2 ^ 64
           ∧ rdNat t (k + 64 + 64 * (pos % cap)) 1 = 3 ∧ rdNat t (k + 64 + 64 * (pos % cap) + 2) 2 = p.tag n % 2 ^ 16
           ∧ t.agents = s.agents ∧ t.parts = s.parts ∧ t.cores = s.cores)
     ∧ ∀ (s : State) (v : Nat) (h : v < 64), let k := hbmKey s.dev.trace.toNat
       let cap := rdNat s k 8
       let pos := rdNat s (k + 8) 8
       (∃ t, exec (.droopDetect v) s = .next t ∧ t.dev = { s.dev with domains := s.dev.domains.set v { s.dev.domains[v] with stretching := true } }
         ∧ t.agents = s.agents ∧ t.parts = s.parts ∧ t.cores = s.cores
         ∧ (s.memOk → cap ≠ 0 → rdNat t (k + 8) 8 = (pos + 64) % 2 ^ 64)
         ∧ (s.memOk → 64 ≤ cap → pos + 64 ≤ 2 ^ 64 → ∀ i < 64, let at_ := k + 64 + 64 * ((pos + i) % cap)
           rdNat t at_ 1 = 5 ∧ rdNat t (at_ + 48) 1 = v ∧ rdNat t (at_ + 49) 2 = 64 * v + i))
       ∧ exec (.supplyRecovers v) s = .next (s.modDev fun d => { d with domains := d.domains.set v { s.dev.domains[v] with stretching := false } }))

/-! ## Encodings -/

/-- Words written out from the encodings of 05 R94 to R106, 09 R177 and 14 R259 decode to what they stand for, guards, register numbers,
reserved values and immediates at their ends included. -/
def Obligations.DecodeWords : Prop :=
  decode 0x01B7DE7400000000#64 0 = .instr (.sub 31 30 29) ∧ guardOf 0x01B7DE7400000000#64 = ⟨true, 3⟩
  ∧ decode 0x0200420C00020000#64 0 = .instr (.mul .hiu 1 2 3)
  ∧ decode 0x1601C46FFFFFFFFF#64 0 = .instr (.cmpi .ltu 7 4 (-1))
  ∧ decode 0x2300420C40000600#64 0 = .instr (.ffma .dyn 1 2 3 4)
  ∧ decode 0x30001FFFFFFFFFFF#64 0 = .instr (.br .likely (-1))
  ∧ decode 0x4001420E97FFFFFF#64 0 = .instr (.ld .s16 true .dev 5 ⟨2, 3, -1⟩)
  ∧ decode 0x4200420C49B98000#64 0 = .instr (.atom .cas true .ar .sys 1 2 3 4 0x8000)
  ∧ decode 0x500F3DF80000130B#64 0 = .instr (.vadd (.fp .bf16 .rup) ⟨3, true⟩ 60 61 62)
  ∧ decode 0x700A08418832B601#64 0 = .instr (.mma true 5 1 2 3 4 6 10 27)
  ∧ decode 0x7800000080000100#64 0 = .instr (.tmset (.imm 0x80000100))
  ∧ decode 0x8601050130000000#64 0 = .instr (.tscan .max true 4 5)
  ∧ decode 0x95000000000420C4#64 0 = .instr (.wait 1 2 3 4)
  ∧ decode 0x9B00000000030000#64 0 = .instr .rftPoison
  ∧ decode 0xA780000000000007#64 0x1000 = .instr (.swait 7 0x1000)
  ∧ decode 0xB8068000FFFFFFFF#64 0 = .instr (.cpeer 1 true false 2 false (-1))
  ∧ decode 0x0101420C00000001#64 0 = .reserved ∧ decode 0x1901420C00000000#64 0 = .undefined ∧ decode (BitVec.allOnes 64) 0 = .allOnes

/-- Decode and encode agree (05 R92 to R106, 09 R177, 14 R259): every well-formed instruction under every guard is read back from its
words, the word 0 being NOP (R107), and every word that is read as an instruction is the one that encodes it. -/
def Obligations.EncodeDecode : Prop :=
  (∀ (g : Guard) (i : Instr) (x : Word), i.wf = true → i.isEvent = false → (encode g i ≠ [0#64] ∨ i = .nop) →
    ∃ w rest, encode g i = w :: rest ∧ decode w (rest.headD x) = .instr i ∧ rest.length + 1 = wordsOf w
      ∧ (rowOf w < 0xA → i ≠ .nop → guardOf w = g))
  ∧ ∀ (w x : Word) (i : Instr), decode w x = .instr i →
    i.wf = true ∧ i.isEvent = false ∧ encode (guardOf w) i = if wordsOf w = 2 then [w, x] else [w]

/-! ## The machine -/

/-- A step of the machine runs the decoded instruction (02 R37, R55, 05 R107, 15 R277): of an agent, a stream context or a ringer that is
alone and ready, what a cycle does is exec of the instruction at its word, between the agent's standing at that word and what issue and
the end of the cycle add; then the clock moves on, unless the cycle held an agent back that a storage step of the same cycle catches (03
R66). -/
def Obligations.StepRunsDecoded : Prop :=
  (∀ s t : State, turnCycle s = .next t → caught t = [] → step s = .next (tick (traceFaults t)))
  ∧ ∀ (s : State) (i : Instr), s.agenda = [] → s.arrivals = [] →
    (∀ (g : Agent) (w : Word), s.agents = [(g.key, g)] → s.ctxs = [] → s.ringers = [] → (s.domain g.core).stretching = false →
      (s.core g.core).issued = [] → unitTaken (s.core g.core) (unitOf w) = false → (s.core g.core).chains = [] →
      mayIssue s g = true → g.xrow = none → g.redo = [] → g.drowsy = false → s.wordAt g g.pc = w → guardHolds g w = true →
      agentFetch s g w = .run i → held s g w i = false → matching s g (some i) = [] →
      turnCycle s = andThen (runInstr (takeSlot (standAt s g g.pc (some i)) g.core ⟨g.slot, g.pc, .instr i, unitOf w, prioOf s g⟩)
          g.core g.slot g.pc i)
        fun t => andThen (issueLoop g.core 3 [g.slot] (countPassed g.core (t.core g.core).issued.length [g.slot] t)) finishCycle)
    ∧ (∀ (g : Agent) (w : Word), decode w 0 = .instr i → rowOf w < 0xA → (privileged (major w).toNat = true → g.service = true) →
      (cellMajor (major w).toNat = true → g.service = false) → (∀ v ∈ vregsOf i, v < 4 * g.gran) → badSpecial s g i = false →
      badField i = false → agentFetch s g w = .run i)
    ∧ (∀ e c x, e < 64 → c < 64 → s.agents = [] → s.ringers = [] → s.ctxs = [(ctxKey e c, x)] → x.status = .running → x.wakeAt ≤ s.cycle →
      x.relSlot = none → s.dev.tests = [] → let w := x.words.getD x.pc (BitVec.allOnes 64)
      engineFetch 0xA w x.words[x.pc + 1]? = .run i →
      turnCycle s = andThen (exec i { s with turn := .context e c }) fun t =>
        finishEngines (fillBytes (stopBehind (ctxKey e c) { t with turn := .nobody }) e))
    ∧ ∀ g x, s.agents = [] → s.ctxs = [] → s.ringers = [(g, x)] → x.status = .running → x.wakeAt ≤ s.cycle → s.dev.tests = [] →
      engineFetch 0xB (x.words.getD x.pc (BitVec.allOnes 64)) x.words[x.pc + 1]? = .run i →
      turnCycle s = andThen (exec i { s with turn := .ringer g }) fun t => finishRingers { t with turn := .nobody }

/-- No step ends the machine: a fault of a program, a stream or a ringer is a next state (09 R174, 12 R221, 14 R256). -/
def Obligations.StepProgress : Prop := ∀ s : State, ∃ t, step s = .next t

/-- The memory (the windows and homes of 09 R159, R162) stays one canonical list of bytes through every step. The form of the list is the
model's (log 1). -/
def Obligations.MemoryStaysCanonical : Prop := ∀ s t : State, s.memOk → step s = .next t → t.memOk

/-- Reset (04 R78, 07 R136, 16 R286, R290 to R293): nothing is written, placed or live, tiles are unowned and EMPTY, blocks have their
defaults, arbitration registers read 0x1444, and the management plane's bring-up is the first thing that happens. That memory reads 0, and
the values of tiles, counters and registers for which no rule gives one, are the model's (logs 1, 4, 5 and 8). -/
def Obligations.ResetValues : Prop :=
  let s := State.reset
  s.memOk ∧ (∀ k, Mem.get s.mem k = 0) ∧ s.parts = [] ∧ s.agents = [] ∧ s.presence = [] ∧ (∀ c, s.cell c = 0)
  ∧ (∀ c i, (s.core c).removed = false ∧ (s.core c).queue = [] ∧ ((s.core c).tile i).owner = none ∧ ((s.core c).tile i).full = false
    ∧ (s.core c).active.loaded = false ∧ (s.core c).shadow.loaded = false)
  ∧ (∀ n, (s.pcb n).state = 0 ∧ (s.pcb n).cmd = 0 ∧ (s.pcb n).tms = 0x100 ∧ (s.pcb n).seed = 1 ∧ (s.pcb n).frm = 0 ∧ (s.pcb n).ftrap = 0
    ∧ (s.pcb n).trapq = 0)
  ∧ (∀ k, s.ctx k = Ctx.reset ∧ s.ringer k = Ringer.reset) ∧ (∀ g, (s.port g).state = .reset)
  ∧ bar0Read s 0x10000 = [0x44, 0x14, 0, 0, 0x44, 0x14, 0, 0] ∧ bar0Read s 0x1000 = List.replicate 8 0 ∧ s.dev.published = false
  ∧ s.agenda = [(0, .moduleReset)]
end

