-- ==== Sys2Proof/Laws/Agent.lean ====
section
/-! SUPPORT. What each register write leaves of an agent, field by field, and what reads give after writes (04 R71, R72). -/

namespace Sys2Proof.Machine

/-! `setS` writes `s` alone. -/

@[simp] theorem Agent.setS_core (g : Agent) (r : Reg) (x : Word) : (g.setS r x).core = g.core := by unfold Agent.setS; split <;> rfl
@[simp] theorem Agent.setS_slot (g : Agent) (r : Reg) (x : Word) : (g.setS r x).slot = g.slot := by unfold Agent.setS; split <;> rfl
@[simp] theorem Agent.setS_part (g : Agent) (r : Reg) (x : Word) : (g.setS r x).part = g.part := by unfold Agent.setS; split <;> rfl
@[simp] theorem Agent.setS_rid (g : Agent) (r : Reg) (x : Word) : (g.setS r x).rid = g.rid := by unfold Agent.setS; split <;> rfl
@[simp] theorem Agent.setS_oper (g : Agent) (r : Reg) (x : Word) : (g.setS r x).oper = g.oper := by unfold Agent.setS; split <;> rfl
@[simp] theorem Agent.setS_status (g : Agent) (r : Reg) (x : Word) : (g.setS r x).status = g.status := by unfold Agent.setS; split <;> rfl
@[simp] theorem Agent.setS_pc (g : Agent) (r : Reg) (x : Word) : (g.setS r x).pc = g.pc := by unfold Agent.setS; split <;> rfl
@[simp] theorem Agent.setS_p (g : Agent) (r : Reg) (x : Word) : (g.setS r x).p = g.p := by unfold Agent.setS; split <;> rfl
@[simp] theorem Agent.setS_k (g : Agent) (r : Reg) (x : Word) : (g.setS r x).k = g.k := by unfold Agent.setS; split <;> rfl
@[simp] theorem Agent.setS_v (g : Agent) (r : Reg) (x : Word) : (g.setS r x).v = g.v := by unfold Agent.setS; split <;> rfl
@[simp] theorem Agent.setS_cell (g : Agent) (r : Reg) (x : Word) : (g.setS r x).cell = g.cell := by unfold Agent.setS; split <;> rfl
@[simp] theorem Agent.setS_alen (g : Agent) (r : Reg) (x : Word) : (g.setS r x).alen = g.alen := by unfold Agent.setS; split <;> rfl
@[simp] theorem Agent.setS_lcell (g : Agent) (r : Reg) (x : Word) : (g.setS r x).lcell = g.lcell := by unfold Agent.setS; split <;> rfl
@[simp] theorem Agent.setS_node (g : Agent) (r : Reg) (x : Word) : (g.setS r x).node = g.node := by unfold Agent.setS; split <;> rfl
@[simp] theorem Agent.setS_depth (g : Agent) (r : Reg) (x : Word) : (g.setS r x).depth = g.depth := by unfold Agent.setS; split <;> rfl
@[simp] theorem Agent.setS_frm (g : Agent) (r : Reg) (x : Word) : (g.setS r x).frm = g.frm := by unfold Agent.setS; split <;> rfl
@[simp] theorem Agent.setS_fflags (g : Agent) (r : Reg) (x : Word) : (g.setS r x).fflags = g.fflags := by unfold Agent.setS; split <;> rfl
@[simp] theorem Agent.setS_ftrap (g : Agent) (r : Reg) (x : Word) : (g.setS r x).ftrap = g.ftrap := by unfold Agent.setS; split <;> rfl
@[simp] theorem Agent.setS_seed (g : Agent) (r : Reg) (x : Word) : (g.setS r x).seed = g.seed := by unfold Agent.setS; split <;> rfl
@[simp] theorem Agent.setS_tms (g : Agent) (r : Reg) (x : Word) : (g.setS r x).tms = g.tms := by unfold Agent.setS; split <;> rfl
@[simp] theorem Agent.setS_ascl (g : Agent) (r : Reg) (x : Word) : (g.setS r x).ascl = g.ascl := by unfold Agent.setS; split <;> rfl
@[simp] theorem Agent.setS_bscl (g : Agent) (r : Reg) (x : Word) : (g.setS r x).bscl = g.bscl := by unfold Agent.setS; split <;> rfl
@[simp] theorem Agent.setS_mtol (g : Agent) (r : Reg) (x : Word) : (g.setS r x).mtol = g.mtol := by unfold Agent.setS; split <;> rfl
@[simp] theorem Agent.setS_lc (g : Agent) (r : Reg) (x : Word) : (g.setS r x).lc = g.lc := by unfold Agent.setS; split <;> rfl
@[simp] theorem Agent.setS_li (g : Agent) (r : Reg) (x : Word) : (g.setS r x).li = g.li := by unfold Agent.setS; split <;> rfl
@[simp] theorem Agent.setS_gran (g : Agent) (r : Reg) (x : Word) : (g.setS r x).gran = g.gran := by unfold Agent.setS; split <;> rfl
@[simp] theorem Agent.setS_emits (g : Agent) (r : Reg) (x : Word) : (g.setS r x).emits = g.emits := by unfold Agent.setS; split <;> rfl
@[simp] theorem Agent.setS_outs (g : Agent) (r : Reg) (x : Word) : (g.setS r x).outs = g.outs := by unfold Agent.setS; split <;> rfl
@[simp] theorem Agent.setS_ops (g : Agent) (r : Reg) (x : Word) : (g.setS r x).ops = g.ops := by unfold Agent.setS; split <;> rfl
@[simp] theorem Agent.setS_nextId (g : Agent) (r : Reg) (x : Word) : (g.setS r x).nextId = g.nextId := by unfold Agent.setS; split <;> rfl
@[simp] theorem Agent.setS_posted (g : Agent) (r : Reg) (x : Word) : (g.setS r x).posted = g.posted := by unfold Agent.setS; split <;> rfl
@[simp] theorem Agent.setS_busy (g : Agent) (r : Reg) (x : Word) : (g.setS r x).busy = g.busy := by unfold Agent.setS; split <;> rfl
@[simp] theorem Agent.setS_join (g : Agent) (r : Reg) (x : Word) : (g.setS r x).join = g.join := by unfold Agent.setS; split <;> rfl
@[simp] theorem Agent.setS_contrib (g : Agent) (r : Reg) (x : Word) : (g.setS r x).contrib = g.contrib := by unfold Agent.setS; split <;> rfl
@[simp] theorem Agent.setS_xrow (g : Agent) (r : Reg) (x : Word) : (g.setS r x).xrow = g.xrow := by unfold Agent.setS; split <;> rfl
@[simp] theorem Agent.setS_lastIssue (g : Agent) (r : Reg) (x : Word) : (g.setS r x).lastIssue = g.lastIssue := by unfold Agent.setS; split <;> rfl
@[simp] theorem Agent.setS_drowsy (g : Agent) (r : Reg) (x : Word) : (g.setS r x).drowsy = g.drowsy := by unfold Agent.setS; split <;> rfl
@[simp] theorem Agent.setS_wakeAt (g : Agent) (r : Reg) (x : Word) : (g.setS r x).wakeAt = g.wakeAt := by unfold Agent.setS; split <;> rfl
@[simp] theorem Agent.setS_late (g : Agent) (r : Reg) (x : Word) : (g.setS r x).late = g.late := by unfold Agent.setS; split <;> rfl
@[simp] theorem Agent.setS_trapped (g : Agent) (r : Reg) (x : Word) : (g.setS r x).trapped = g.trapped := by unfold Agent.setS; split <;> rfl
@[simp] theorem Agent.setS_trec (g : Agent) (r : Reg) (x : Word) : (g.setS r x).trec = g.trec := by unfold Agent.setS; split <;> rfl
@[simp] theorem Agent.setS_passStop (g : Agent) (r : Reg) (x : Word) : (g.setS r x).passStop = g.passStop := by unfold Agent.setS; split <;> rfl
@[simp] theorem Agent.setS_stepLeft (g : Agent) (r : Reg) (x : Word) : (g.setS r x).stepLeft = g.stepLeft := by unfold Agent.setS; split <;> rfl
@[simp] theorem Agent.setS_redo (g : Agent) (r : Reg) (x : Word) : (g.setS r x).redo = g.redo := by unfold Agent.setS; split <;> rfl
@[simp] theorem Agent.setS_again (g : Agent) (r : Reg) (x : Word) : (g.setS r x).again = g.again := by unfold Agent.setS; split <;> rfl
@[simp] theorem Agent.setS_met (g : Agent) (r : Reg) (x : Word) : (g.setS r x).met = g.met := by unfold Agent.setS; split <;> rfl
@[simp] theorem Agent.setS_polled (g : Agent) (r : Reg) (x : Word) : (g.setS r x).polled = g.polled := by unfold Agent.setS; split <;> rfl
@[simp] theorem Agent.setS_reads (g : Agent) (r : Reg) (x : Word) : (g.setS r x).reads = g.reads := by unfold Agent.setS; split <;> rfl
@[simp] theorem Agent.setS_claim (g : Agent) (r : Reg) (x : Word) : (g.setS r x).claim = g.claim := by unfold Agent.setS; split <;> rfl
@[simp] theorem Agent.setS_stepSlots (g : Agent) (r : Reg) (x : Word) : (g.setS r x).stepSlots = g.stepSlots := by unfold Agent.setS; split <;> rfl
@[simp] theorem Agent.setS_halted (g : Agent) (r : Reg) (x : Word) : (g.setS r x).halted = g.halted := by unfold Agent.setS; split <;> rfl
@[simp] theorem Agent.setS_gaveUp (g : Agent) (r : Reg) (x : Word) : (g.setS r x).gaveUp = g.gaveUp := by unfold Agent.setS; split <;> rfl
@[simp] theorem Agent.setS_begun (g : Agent) (r : Reg) (x : Word) : (g.setS r x).begun = g.begun := by unfold Agent.setS; split <;> rfl
@[simp] theorem Agent.setS_flags0 (g : Agent) (r : Reg) (x : Word) : (g.setS r x).flags0 = g.flags0 := by unfold Agent.setS; split <;> rfl

/-! `setP` writes `p` alone. -/

@[simp] theorem Agent.setP_core (g : Agent) (r : PReg) (x : Bool) : (g.setP r x).core = g.core := by unfold Agent.setP; split <;> rfl
@[simp] theorem Agent.setP_slot (g : Agent) (r : PReg) (x : Bool) : (g.setP r x).slot = g.slot := by unfold Agent.setP; split <;> rfl
@[simp] theorem Agent.setP_part (g : Agent) (r : PReg) (x : Bool) : (g.setP r x).part = g.part := by unfold Agent.setP; split <;> rfl
@[simp] theorem Agent.setP_rid (g : Agent) (r : PReg) (x : Bool) : (g.setP r x).rid = g.rid := by unfold Agent.setP; split <;> rfl
@[simp] theorem Agent.setP_oper (g : Agent) (r : PReg) (x : Bool) : (g.setP r x).oper = g.oper := by unfold Agent.setP; split <;> rfl
@[simp] theorem Agent.setP_status (g : Agent) (r : PReg) (x : Bool) : (g.setP r x).status = g.status := by unfold Agent.setP; split <;> rfl
@[simp] theorem Agent.setP_pc (g : Agent) (r : PReg) (x : Bool) : (g.setP r x).pc = g.pc := by unfold Agent.setP; split <;> rfl
@[simp] theorem Agent.setP_s (g : Agent) (r : PReg) (x : Bool) : (g.setP r x).s = g.s := by unfold Agent.setP; split <;> rfl
@[simp] theorem Agent.setP_k (g : Agent) (r : PReg) (x : Bool) : (g.setP r x).k = g.k := by unfold Agent.setP; split <;> rfl
@[simp] theorem Agent.setP_v (g : Agent) (r : PReg) (x : Bool) : (g.setP r x).v = g.v := by unfold Agent.setP; split <;> rfl
@[simp] theorem Agent.setP_cell (g : Agent) (r : PReg) (x : Bool) : (g.setP r x).cell = g.cell := by unfold Agent.setP; split <;> rfl
@[simp] theorem Agent.setP_alen (g : Agent) (r : PReg) (x : Bool) : (g.setP r x).alen = g.alen := by unfold Agent.setP; split <;> rfl
@[simp] theorem Agent.setP_lcell (g : Agent) (r : PReg) (x : Bool) : (g.setP r x).lcell = g.lcell := by unfold Agent.setP; split <;> rfl
@[simp] theorem Agent.setP_node (g : Agent) (r : PReg) (x : Bool) : (g.setP r x).node = g.node := by unfold Agent.setP; split <;> rfl
@[simp] theorem Agent.setP_depth (g : Agent) (r : PReg) (x : Bool) : (g.setP r x).depth = g.depth := by unfold Agent.setP; split <;> rfl
@[simp] theorem Agent.setP_frm (g : Agent) (r : PReg) (x : Bool) : (g.setP r x).frm = g.frm := by unfold Agent.setP; split <;> rfl
@[simp] theorem Agent.setP_fflags (g : Agent) (r : PReg) (x : Bool) : (g.setP r x).fflags = g.fflags := by unfold Agent.setP; split <;> rfl
@[simp] theorem Agent.setP_ftrap (g : Agent) (r : PReg) (x : Bool) : (g.setP r x).ftrap = g.ftrap := by unfold Agent.setP; split <;> rfl
@[simp] theorem Agent.setP_seed (g : Agent) (r : PReg) (x : Bool) : (g.setP r x).seed = g.seed := by unfold Agent.setP; split <;> rfl
@[simp] theorem Agent.setP_tms (g : Agent) (r : PReg) (x : Bool) : (g.setP r x).tms = g.tms := by unfold Agent.setP; split <;> rfl
@[simp] theorem Agent.setP_ascl (g : Agent) (r : PReg) (x : Bool) : (g.setP r x).ascl = g.ascl := by unfold Agent.setP; split <;> rfl
@[simp] theorem Agent.setP_bscl (g : Agent) (r : PReg) (x : Bool) : (g.setP r x).bscl = g.bscl := by unfold Agent.setP; split <;> rfl
@[simp] theorem Agent.setP_mtol (g : Agent) (r : PReg) (x : Bool) : (g.setP r x).mtol = g.mtol := by unfold Agent.setP; split <;> rfl
@[simp] theorem Agent.setP_lc (g : Agent) (r : PReg) (x : Bool) : (g.setP r x).lc = g.lc := by unfold Agent.setP; split <;> rfl
@[simp] theorem Agent.setP_li (g : Agent) (r : PReg) (x : Bool) : (g.setP r x).li = g.li := by unfold Agent.setP; split <;> rfl
@[simp] theorem Agent.setP_gran (g : Agent) (r : PReg) (x : Bool) : (g.setP r x).gran = g.gran := by unfold Agent.setP; split <;> rfl
@[simp] theorem Agent.setP_emits (g : Agent) (r : PReg) (x : Bool) : (g.setP r x).emits = g.emits := by unfold Agent.setP; split <;> rfl
@[simp] theorem Agent.setP_outs (g : Agent) (r : PReg) (x : Bool) : (g.setP r x).outs = g.outs := by unfold Agent.setP; split <;> rfl
@[simp] theorem Agent.setP_ops (g : Agent) (r : PReg) (x : Bool) : (g.setP r x).ops = g.ops := by unfold Agent.setP; split <;> rfl
@[simp] theorem Agent.setP_nextId (g : Agent) (r : PReg) (x : Bool) : (g.setP r x).nextId = g.nextId := by unfold Agent.setP; split <;> rfl
@[simp] theorem Agent.setP_posted (g : Agent) (r : PReg) (x : Bool) : (g.setP r x).posted = g.posted := by unfold Agent.setP; split <;> rfl
@[simp] theorem Agent.setP_busy (g : Agent) (r : PReg) (x : Bool) : (g.setP r x).busy = g.busy := by unfold Agent.setP; split <;> rfl
@[simp] theorem Agent.setP_join (g : Agent) (r : PReg) (x : Bool) : (g.setP r x).join = g.join := by unfold Agent.setP; split <;> rfl
@[simp] theorem Agent.setP_contrib (g : Agent) (r : PReg) (x : Bool) : (g.setP r x).contrib = g.contrib := by unfold Agent.setP; split <;> rfl
@[simp] theorem Agent.setP_xrow (g : Agent) (r : PReg) (x : Bool) : (g.setP r x).xrow = g.xrow := by unfold Agent.setP; split <;> rfl
@[simp] theorem Agent.setP_lastIssue (g : Agent) (r : PReg) (x : Bool) : (g.setP r x).lastIssue = g.lastIssue := by unfold Agent.setP; split <;> rfl
@[simp] theorem Agent.setP_drowsy (g : Agent) (r : PReg) (x : Bool) : (g.setP r x).drowsy = g.drowsy := by unfold Agent.setP; split <;> rfl
@[simp] theorem Agent.setP_wakeAt (g : Agent) (r : PReg) (x : Bool) : (g.setP r x).wakeAt = g.wakeAt := by unfold Agent.setP; split <;> rfl
@[simp] theorem Agent.setP_late (g : Agent) (r : PReg) (x : Bool) : (g.setP r x).late = g.late := by unfold Agent.setP; split <;> rfl
@[simp] theorem Agent.setP_trapped (g : Agent) (r : PReg) (x : Bool) : (g.setP r x).trapped = g.trapped := by unfold Agent.setP; split <;> rfl
@[simp] theorem Agent.setP_trec (g : Agent) (r : PReg) (x : Bool) : (g.setP r x).trec = g.trec := by unfold Agent.setP; split <;> rfl
@[simp] theorem Agent.setP_passStop (g : Agent) (r : PReg) (x : Bool) : (g.setP r x).passStop = g.passStop := by unfold Agent.setP; split <;> rfl
@[simp] theorem Agent.setP_stepLeft (g : Agent) (r : PReg) (x : Bool) : (g.setP r x).stepLeft = g.stepLeft := by unfold Agent.setP; split <;> rfl
@[simp] theorem Agent.setP_redo (g : Agent) (r : PReg) (x : Bool) : (g.setP r x).redo = g.redo := by unfold Agent.setP; split <;> rfl
@[simp] theorem Agent.setP_again (g : Agent) (r : PReg) (x : Bool) : (g.setP r x).again = g.again := by unfold Agent.setP; split <;> rfl
@[simp] theorem Agent.setP_met (g : Agent) (r : PReg) (x : Bool) : (g.setP r x).met = g.met := by unfold Agent.setP; split <;> rfl
@[simp] theorem Agent.setP_polled (g : Agent) (r : PReg) (x : Bool) : (g.setP r x).polled = g.polled := by unfold Agent.setP; split <;> rfl
@[simp] theorem Agent.setP_reads (g : Agent) (r : PReg) (x : Bool) : (g.setP r x).reads = g.reads := by unfold Agent.setP; split <;> rfl
@[simp] theorem Agent.setP_claim (g : Agent) (r : PReg) (x : Bool) : (g.setP r x).claim = g.claim := by unfold Agent.setP; split <;> rfl
@[simp] theorem Agent.setP_stepSlots (g : Agent) (r : PReg) (x : Bool) : (g.setP r x).stepSlots = g.stepSlots := by unfold Agent.setP; split <;> rfl
@[simp] theorem Agent.setP_halted (g : Agent) (r : PReg) (x : Bool) : (g.setP r x).halted = g.halted := by unfold Agent.setP; split <;> rfl
@[simp] theorem Agent.setP_gaveUp (g : Agent) (r : PReg) (x : Bool) : (g.setP r x).gaveUp = g.gaveUp := by unfold Agent.setP; split <;> rfl
@[simp] theorem Agent.setP_begun (g : Agent) (r : PReg) (x : Bool) : (g.setP r x).begun = g.begun := by unfold Agent.setP; split <;> rfl
@[simp] theorem Agent.setP_flags0 (g : Agent) (r : PReg) (x : Bool) : (g.setP r x).flags0 = g.flags0 := by unfold Agent.setP; split <;> rfl

/-! `setK` writes `k` alone. -/

@[simp] theorem Agent.setK_core (g : Agent) (r : KReg) (x : W32) : (g.setK r x).core = g.core := by unfold Agent.setK; split <;> rfl
@[simp] theorem Agent.setK_slot (g : Agent) (r : KReg) (x : W32) : (g.setK r x).slot = g.slot := by unfold Agent.setK; split <;> rfl
@[simp] theorem Agent.setK_part (g : Agent) (r : KReg) (x : W32) : (g.setK r x).part = g.part := by unfold Agent.setK; split <;> rfl
@[simp] theorem Agent.setK_rid (g : Agent) (r : KReg) (x : W32) : (g.setK r x).rid = g.rid := by unfold Agent.setK; split <;> rfl
@[simp] theorem Agent.setK_oper (g : Agent) (r : KReg) (x : W32) : (g.setK r x).oper = g.oper := by unfold Agent.setK; split <;> rfl
@[simp] theorem Agent.setK_status (g : Agent) (r : KReg) (x : W32) : (g.setK r x).status = g.status := by unfold Agent.setK; split <;> rfl
@[simp] theorem Agent.setK_pc (g : Agent) (r : KReg) (x : W32) : (g.setK r x).pc = g.pc := by unfold Agent.setK; split <;> rfl
@[simp] theorem Agent.setK_s (g : Agent) (r : KReg) (x : W32) : (g.setK r x).s = g.s := by unfold Agent.setK; split <;> rfl
@[simp] theorem Agent.setK_p (g : Agent) (r : KReg) (x : W32) : (g.setK r x).p = g.p := by unfold Agent.setK; split <;> rfl
@[simp] theorem Agent.setK_v (g : Agent) (r : KReg) (x : W32) : (g.setK r x).v = g.v := by unfold Agent.setK; split <;> rfl
@[simp] theorem Agent.setK_cell (g : Agent) (r : KReg) (x : W32) : (g.setK r x).cell = g.cell := by unfold Agent.setK; split <;> rfl
@[simp] theorem Agent.setK_alen (g : Agent) (r : KReg) (x : W32) : (g.setK r x).alen = g.alen := by unfold Agent.setK; split <;> rfl
@[simp] theorem Agent.setK_lcell (g : Agent) (r : KReg) (x : W32) : (g.setK r x).lcell = g.lcell := by unfold Agent.setK; split <;> rfl
@[simp] theorem Agent.setK_node (g : Agent) (r : KReg) (x : W32) : (g.setK r x).node = g.node := by unfold Agent.setK; split <;> rfl
@[simp] theorem Agent.setK_depth (g : Agent) (r : KReg) (x : W32) : (g.setK r x).depth = g.depth := by unfold Agent.setK; split <;> rfl
@[simp] theorem Agent.setK_frm (g : Agent) (r : KReg) (x : W32) : (g.setK r x).frm = g.frm := by unfold Agent.setK; split <;> rfl
@[simp] theorem Agent.setK_fflags (g : Agent) (r : KReg) (x : W32) : (g.setK r x).fflags = g.fflags := by unfold Agent.setK; split <;> rfl
@[simp] theorem Agent.setK_ftrap (g : Agent) (r : KReg) (x : W32) : (g.setK r x).ftrap = g.ftrap := by unfold Agent.setK; split <;> rfl
@[simp] theorem Agent.setK_seed (g : Agent) (r : KReg) (x : W32) : (g.setK r x).seed = g.seed := by unfold Agent.setK; split <;> rfl
@[simp] theorem Agent.setK_tms (g : Agent) (r : KReg) (x : W32) : (g.setK r x).tms = g.tms := by unfold Agent.setK; split <;> rfl
@[simp] theorem Agent.setK_ascl (g : Agent) (r : KReg) (x : W32) : (g.setK r x).ascl = g.ascl := by unfold Agent.setK; split <;> rfl
@[simp] theorem Agent.setK_bscl (g : Agent) (r : KReg) (x : W32) : (g.setK r x).bscl = g.bscl := by unfold Agent.setK; split <;> rfl
@[simp] theorem Agent.setK_mtol (g : Agent) (r : KReg) (x : W32) : (g.setK r x).mtol = g.mtol := by unfold Agent.setK; split <;> rfl
@[simp] theorem Agent.setK_lc (g : Agent) (r : KReg) (x : W32) : (g.setK r x).lc = g.lc := by unfold Agent.setK; split <;> rfl
@[simp] theorem Agent.setK_li (g : Agent) (r : KReg) (x : W32) : (g.setK r x).li = g.li := by unfold Agent.setK; split <;> rfl
@[simp] theorem Agent.setK_gran (g : Agent) (r : KReg) (x : W32) : (g.setK r x).gran = g.gran := by unfold Agent.setK; split <;> rfl
@[simp] theorem Agent.setK_emits (g : Agent) (r : KReg) (x : W32) : (g.setK r x).emits = g.emits := by unfold Agent.setK; split <;> rfl
@[simp] theorem Agent.setK_outs (g : Agent) (r : KReg) (x : W32) : (g.setK r x).outs = g.outs := by unfold Agent.setK; split <;> rfl
@[simp] theorem Agent.setK_ops (g : Agent) (r : KReg) (x : W32) : (g.setK r x).ops = g.ops := by unfold Agent.setK; split <;> rfl
@[simp] theorem Agent.setK_nextId (g : Agent) (r : KReg) (x : W32) : (g.setK r x).nextId = g.nextId := by unfold Agent.setK; split <;> rfl
@[simp] theorem Agent.setK_posted (g : Agent) (r : KReg) (x : W32) : (g.setK r x).posted = g.posted := by unfold Agent.setK; split <;> rfl
@[simp] theorem Agent.setK_busy (g : Agent) (r : KReg) (x : W32) : (g.setK r x).busy = g.busy := by unfold Agent.setK; split <;> rfl
@[simp] theorem Agent.setK_join (g : Agent) (r : KReg) (x : W32) : (g.setK r x).join = g.join := by unfold Agent.setK; split <;> rfl
@[simp] theorem Agent.setK_contrib (g : Agent) (r : KReg) (x : W32) : (g.setK r x).contrib = g.contrib := by unfold Agent.setK; split <;> rfl
@[simp] theorem Agent.setK_xrow (g : Agent) (r : KReg) (x : W32) : (g.setK r x).xrow = g.xrow := by unfold Agent.setK; split <;> rfl
@[simp] theorem Agent.setK_lastIssue (g : Agent) (r : KReg) (x : W32) : (g.setK r x).lastIssue = g.lastIssue := by unfold Agent.setK; split <;> rfl
@[simp] theorem Agent.setK_drowsy (g : Agent) (r : KReg) (x : W32) : (g.setK r x).drowsy = g.drowsy := by unfold Agent.setK; split <;> rfl
@[simp] theorem Agent.setK_wakeAt (g : Agent) (r : KReg) (x : W32) : (g.setK r x).wakeAt = g.wakeAt := by unfold Agent.setK; split <;> rfl
@[simp] theorem Agent.setK_late (g : Agent) (r : KReg) (x : W32) : (g.setK r x).late = g.late := by unfold Agent.setK; split <;> rfl
@[simp] theorem Agent.setK_trapped (g : Agent) (r : KReg) (x : W32) : (g.setK r x).trapped = g.trapped := by unfold Agent.setK; split <;> rfl
@[simp] theorem Agent.setK_trec (g : Agent) (r : KReg) (x : W32) : (g.setK r x).trec = g.trec := by unfold Agent.setK; split <;> rfl
@[simp] theorem Agent.setK_passStop (g : Agent) (r : KReg) (x : W32) : (g.setK r x).passStop = g.passStop := by unfold Agent.setK; split <;> rfl
@[simp] theorem Agent.setK_stepLeft (g : Agent) (r : KReg) (x : W32) : (g.setK r x).stepLeft = g.stepLeft := by unfold Agent.setK; split <;> rfl
@[simp] theorem Agent.setK_redo (g : Agent) (r : KReg) (x : W32) : (g.setK r x).redo = g.redo := by unfold Agent.setK; split <;> rfl
@[simp] theorem Agent.setK_again (g : Agent) (r : KReg) (x : W32) : (g.setK r x).again = g.again := by unfold Agent.setK; split <;> rfl
@[simp] theorem Agent.setK_met (g : Agent) (r : KReg) (x : W32) : (g.setK r x).met = g.met := by unfold Agent.setK; split <;> rfl
@[simp] theorem Agent.setK_polled (g : Agent) (r : KReg) (x : W32) : (g.setK r x).polled = g.polled := by unfold Agent.setK; split <;> rfl
@[simp] theorem Agent.setK_reads (g : Agent) (r : KReg) (x : W32) : (g.setK r x).reads = g.reads := by unfold Agent.setK; split <;> rfl
@[simp] theorem Agent.setK_claim (g : Agent) (r : KReg) (x : W32) : (g.setK r x).claim = g.claim := by unfold Agent.setK; split <;> rfl
@[simp] theorem Agent.setK_stepSlots (g : Agent) (r : KReg) (x : W32) : (g.setK r x).stepSlots = g.stepSlots := by unfold Agent.setK; split <;> rfl
@[simp] theorem Agent.setK_halted (g : Agent) (r : KReg) (x : W32) : (g.setK r x).halted = g.halted := by unfold Agent.setK; split <;> rfl
@[simp] theorem Agent.setK_gaveUp (g : Agent) (r : KReg) (x : W32) : (g.setK r x).gaveUp = g.gaveUp := by unfold Agent.setK; split <;> rfl
@[simp] theorem Agent.setK_begun (g : Agent) (r : KReg) (x : W32) : (g.setK r x).begun = g.begun := by unfold Agent.setK; split <;> rfl
@[simp] theorem Agent.setK_flags0 (g : Agent) (r : KReg) (x : W32) : (g.setK r x).flags0 = g.flags0 := by unfold Agent.setK; split <;> rfl

/-! `setV` writes `v` alone. -/

@[simp] theorem Agent.setV_core (g : Agent) (r : VNum) (x : Lanes) : (g.setV r x).core = g.core := rfl
@[simp] theorem Agent.setV_slot (g : Agent) (r : VNum) (x : Lanes) : (g.setV r x).slot = g.slot := rfl
@[simp] theorem Agent.setV_part (g : Agent) (r : VNum) (x : Lanes) : (g.setV r x).part = g.part := rfl
@[simp] theorem Agent.setV_rid (g : Agent) (r : VNum) (x : Lanes) : (g.setV r x).rid = g.rid := rfl
@[simp] theorem Agent.setV_oper (g : Agent) (r : VNum) (x : Lanes) : (g.setV r x).oper = g.oper := rfl
@[simp] theorem Agent.setV_status (g : Agent) (r : VNum) (x : Lanes) : (g.setV r x).status = g.status := rfl
@[simp] theorem Agent.setV_pc (g : Agent) (r : VNum) (x : Lanes) : (g.setV r x).pc = g.pc := rfl
@[simp] theorem Agent.setV_s (g : Agent) (r : VNum) (x : Lanes) : (g.setV r x).s = g.s := rfl
@[simp] theorem Agent.setV_p (g : Agent) (r : VNum) (x : Lanes) : (g.setV r x).p = g.p := rfl
@[simp] theorem Agent.setV_k (g : Agent) (r : VNum) (x : Lanes) : (g.setV r x).k = g.k := rfl
@[simp] theorem Agent.setV_cell (g : Agent) (r : VNum) (x : Lanes) : (g.setV r x).cell = g.cell := rfl
@[simp] theorem Agent.setV_alen (g : Agent) (r : VNum) (x : Lanes) : (g.setV r x).alen = g.alen := rfl
@[simp] theorem Agent.setV_lcell (g : Agent) (r : VNum) (x : Lanes) : (g.setV r x).lcell = g.lcell := rfl
@[simp] theorem Agent.setV_node (g : Agent) (r : VNum) (x : Lanes) : (g.setV r x).node = g.node := rfl
@[simp] theorem Agent.setV_depth (g : Agent) (r : VNum) (x : Lanes) : (g.setV r x).depth = g.depth := rfl
@[simp] theorem Agent.setV_frm (g : Agent) (r : VNum) (x : Lanes) : (g.setV r x).frm = g.frm := rfl
@[simp] theorem Agent.setV_fflags (g : Agent) (r : VNum) (x : Lanes) : (g.setV r x).fflags = g.fflags := rfl
@[simp] theorem Agent.setV_ftrap (g : Agent) (r : VNum) (x : Lanes) : (g.setV r x).ftrap = g.ftrap := rfl
@[simp] theorem Agent.setV_seed (g : Agent) (r : VNum) (x : Lanes) : (g.setV r x).seed = g.seed := rfl
@[simp] theorem Agent.setV_tms (g : Agent) (r : VNum) (x : Lanes) : (g.setV r x).tms = g.tms := rfl
@[simp] theorem Agent.setV_ascl (g : Agent) (r : VNum) (x : Lanes) : (g.setV r x).ascl = g.ascl := rfl
@[simp] theorem Agent.setV_bscl (g : Agent) (r : VNum) (x : Lanes) : (g.setV r x).bscl = g.bscl := rfl
@[simp] theorem Agent.setV_mtol (g : Agent) (r : VNum) (x : Lanes) : (g.setV r x).mtol = g.mtol := rfl
@[simp] theorem Agent.setV_lc (g : Agent) (r : VNum) (x : Lanes) : (g.setV r x).lc = g.lc := rfl
@[simp] theorem Agent.setV_li (g : Agent) (r : VNum) (x : Lanes) : (g.setV r x).li = g.li := rfl
@[simp] theorem Agent.setV_gran (g : Agent) (r : VNum) (x : Lanes) : (g.setV r x).gran = g.gran := rfl
@[simp] theorem Agent.setV_emits (g : Agent) (r : VNum) (x : Lanes) : (g.setV r x).emits = g.emits := rfl
@[simp] theorem Agent.setV_outs (g : Agent) (r : VNum) (x : Lanes) : (g.setV r x).outs = g.outs := rfl
@[simp] theorem Agent.setV_ops (g : Agent) (r : VNum) (x : Lanes) : (g.setV r x).ops = g.ops := rfl
@[simp] theorem Agent.setV_nextId (g : Agent) (r : VNum) (x : Lanes) : (g.setV r x).nextId = g.nextId := rfl
@[simp] theorem Agent.setV_posted (g : Agent) (r : VNum) (x : Lanes) : (g.setV r x).posted = g.posted := rfl
@[simp] theorem Agent.setV_busy (g : Agent) (r : VNum) (x : Lanes) : (g.setV r x).busy = g.busy := rfl
@[simp] theorem Agent.setV_join (g : Agent) (r : VNum) (x : Lanes) : (g.setV r x).join = g.join := rfl
@[simp] theorem Agent.setV_contrib (g : Agent) (r : VNum) (x : Lanes) : (g.setV r x).contrib = g.contrib := rfl
@[simp] theorem Agent.setV_xrow (g : Agent) (r : VNum) (x : Lanes) : (g.setV r x).xrow = g.xrow := rfl
@[simp] theorem Agent.setV_lastIssue (g : Agent) (r : VNum) (x : Lanes) : (g.setV r x).lastIssue = g.lastIssue := rfl
@[simp] theorem Agent.setV_drowsy (g : Agent) (r : VNum) (x : Lanes) : (g.setV r x).drowsy = g.drowsy := rfl
@[simp] theorem Agent.setV_wakeAt (g : Agent) (r : VNum) (x : Lanes) : (g.setV r x).wakeAt = g.wakeAt := rfl
@[simp] theorem Agent.setV_late (g : Agent) (r : VNum) (x : Lanes) : (g.setV r x).late = g.late := rfl
@[simp] theorem Agent.setV_trapped (g : Agent) (r : VNum) (x : Lanes) : (g.setV r x).trapped = g.trapped := rfl
@[simp] theorem Agent.setV_trec (g : Agent) (r : VNum) (x : Lanes) : (g.setV r x).trec = g.trec := rfl
@[simp] theorem Agent.setV_passStop (g : Agent) (r : VNum) (x : Lanes) : (g.setV r x).passStop = g.passStop := rfl
@[simp] theorem Agent.setV_stepLeft (g : Agent) (r : VNum) (x : Lanes) : (g.setV r x).stepLeft = g.stepLeft := rfl
@[simp] theorem Agent.setV_redo (g : Agent) (r : VNum) (x : Lanes) : (g.setV r x).redo = g.redo := rfl
@[simp] theorem Agent.setV_again (g : Agent) (r : VNum) (x : Lanes) : (g.setV r x).again = g.again := rfl
@[simp] theorem Agent.setV_met (g : Agent) (r : VNum) (x : Lanes) : (g.setV r x).met = g.met := rfl
@[simp] theorem Agent.setV_polled (g : Agent) (r : VNum) (x : Lanes) : (g.setV r x).polled = g.polled := rfl
@[simp] theorem Agent.setV_reads (g : Agent) (r : VNum) (x : Lanes) : (g.setV r x).reads = g.reads := rfl
@[simp] theorem Agent.setV_claim (g : Agent) (r : VNum) (x : Lanes) : (g.setV r x).claim = g.claim := rfl
@[simp] theorem Agent.setV_stepSlots (g : Agent) (r : VNum) (x : Lanes) : (g.setV r x).stepSlots = g.stepSlots := rfl
@[simp] theorem Agent.setV_halted (g : Agent) (r : VNum) (x : Lanes) : (g.setV r x).halted = g.halted := rfl
@[simp] theorem Agent.setV_gaveUp (g : Agent) (r : VNum) (x : Lanes) : (g.setV r x).gaveUp = g.gaveUp := rfl
@[simp] theorem Agent.setV_begun (g : Agent) (r : VNum) (x : Lanes) : (g.setV r x).begun = g.begun := rfl
@[simp] theorem Agent.setV_flags0 (g : Agent) (r : VNum) (x : Lanes) : (g.setV r x).flags0 = g.flags0 := rfl

/-! `next` writes `pc` alone. -/

@[simp] theorem Agent.next_core (g : Agent) : (g.next).core = g.core := rfl
@[simp] theorem Agent.next_slot (g : Agent) : (g.next).slot = g.slot := rfl
@[simp] theorem Agent.next_part (g : Agent) : (g.next).part = g.part := rfl
@[simp] theorem Agent.next_rid (g : Agent) : (g.next).rid = g.rid := rfl
@[simp] theorem Agent.next_oper (g : Agent) : (g.next).oper = g.oper := rfl
@[simp] theorem Agent.next_status (g : Agent) : (g.next).status = g.status := rfl
@[simp] theorem Agent.next_s (g : Agent) : (g.next).s = g.s := rfl
@[simp] theorem Agent.next_p (g : Agent) : (g.next).p = g.p := rfl
@[simp] theorem Agent.next_k (g : Agent) : (g.next).k = g.k := rfl
@[simp] theorem Agent.next_v (g : Agent) : (g.next).v = g.v := rfl
@[simp] theorem Agent.next_cell (g : Agent) : (g.next).cell = g.cell := rfl
@[simp] theorem Agent.next_alen (g : Agent) : (g.next).alen = g.alen := rfl
@[simp] theorem Agent.next_lcell (g : Agent) : (g.next).lcell = g.lcell := rfl
@[simp] theorem Agent.next_node (g : Agent) : (g.next).node = g.node := rfl
@[simp] theorem Agent.next_depth (g : Agent) : (g.next).depth = g.depth := rfl
@[simp] theorem Agent.next_frm (g : Agent) : (g.next).frm = g.frm := rfl
@[simp] theorem Agent.next_fflags (g : Agent) : (g.next).fflags = g.fflags := rfl
@[simp] theorem Agent.next_ftrap (g : Agent) : (g.next).ftrap = g.ftrap := rfl
@[simp] theorem Agent.next_seed (g : Agent) : (g.next).seed = g.seed := rfl
@[simp] theorem Agent.next_tms (g : Agent) : (g.next).tms = g.tms := rfl
@[simp] theorem Agent.next_ascl (g : Agent) : (g.next).ascl = g.ascl := rfl
@[simp] theorem Agent.next_bscl (g : Agent) : (g.next).bscl = g.bscl := rfl
@[simp] theorem Agent.next_mtol (g : Agent) : (g.next).mtol = g.mtol := rfl
@[simp] theorem Agent.next_lc (g : Agent) : (g.next).lc = g.lc := rfl
@[simp] theorem Agent.next_li (g : Agent) : (g.next).li = g.li := rfl
@[simp] theorem Agent.next_gran (g : Agent) : (g.next).gran = g.gran := rfl
@[simp] theorem Agent.next_emits (g : Agent) : (g.next).emits = g.emits := rfl
@[simp] theorem Agent.next_outs (g : Agent) : (g.next).outs = g.outs := rfl
@[simp] theorem Agent.next_ops (g : Agent) : (g.next).ops = g.ops := rfl
@[simp] theorem Agent.next_nextId (g : Agent) : (g.next).nextId = g.nextId := rfl
@[simp] theorem Agent.next_posted (g : Agent) : (g.next).posted = g.posted := rfl
@[simp] theorem Agent.next_busy (g : Agent) : (g.next).busy = g.busy := rfl
@[simp] theorem Agent.next_join (g : Agent) : (g.next).join = g.join := rfl
@[simp] theorem Agent.next_contrib (g : Agent) : (g.next).contrib = g.contrib := rfl
@[simp] theorem Agent.next_xrow (g : Agent) : (g.next).xrow = g.xrow := rfl
@[simp] theorem Agent.next_lastIssue (g : Agent) : (g.next).lastIssue = g.lastIssue := rfl
@[simp] theorem Agent.next_drowsy (g : Agent) : (g.next).drowsy = g.drowsy := rfl
@[simp] theorem Agent.next_wakeAt (g : Agent) : (g.next).wakeAt = g.wakeAt := rfl
@[simp] theorem Agent.next_late (g : Agent) : (g.next).late = g.late := rfl
@[simp] theorem Agent.next_trapped (g : Agent) : (g.next).trapped = g.trapped := rfl
@[simp] theorem Agent.next_trec (g : Agent) : (g.next).trec = g.trec := rfl
@[simp] theorem Agent.next_passStop (g : Agent) : (g.next).passStop = g.passStop := rfl
@[simp] theorem Agent.next_stepLeft (g : Agent) : (g.next).stepLeft = g.stepLeft := rfl
@[simp] theorem Agent.next_redo (g : Agent) : (g.next).redo = g.redo := rfl
@[simp] theorem Agent.next_again (g : Agent) : (g.next).again = g.again := rfl
@[simp] theorem Agent.next_met (g : Agent) : (g.next).met = g.met := rfl
@[simp] theorem Agent.next_polled (g : Agent) : (g.next).polled = g.polled := rfl
@[simp] theorem Agent.next_reads (g : Agent) : (g.next).reads = g.reads := rfl
@[simp] theorem Agent.next_claim (g : Agent) : (g.next).claim = g.claim := rfl
@[simp] theorem Agent.next_stepSlots (g : Agent) : (g.next).stepSlots = g.stepSlots := rfl
@[simp] theorem Agent.next_halted (g : Agent) : (g.next).halted = g.halted := rfl
@[simp] theorem Agent.next_gaveUp (g : Agent) : (g.next).gaveUp = g.gaveUp := rfl
@[simp] theorem Agent.next_begun (g : Agent) : (g.next).begun = g.begun := rfl
@[simp] theorem Agent.next_flags0 (g : Agent) : (g.next).flags0 = g.flags0 := rfl

@[simp] theorem Agent.setS_zero (g : Agent) (x : Word) : g.setS 0 x = g := by simp [Agent.setS]
@[simp] theorem Agent.setP_zero (g : Agent) (x : Bool) : g.setP 0 x = g := by simp [Agent.setP]
@[simp] theorem Agent.setK_zero (g : Agent) (x : W32) : g.setK 0 x = g := by simp [Agent.setK]

@[simp] theorem Agent.next_pc (g : Agent) : g.next.pc = g.pc + 1 := rfl
@[simp] theorem Agent.sr_zero (g : Agent) : g.sr 0 = 0 := rfl
@[simp] theorem Agent.pr_zero (g : Agent) : g.pr 0 = true := rfl
@[simp] theorem Agent.kr_zero (g : Agent) : g.kr 0 = 0xFFFFFFFF#32 := rfl
@[simp] theorem Agent.next_sr (g : Agent) (r : Reg) : g.next.sr r = g.sr r := rfl
@[simp] theorem Agent.next_pr (g : Agent) (r : PReg) : g.next.pr r = g.pr r := rfl
@[simp] theorem Agent.next_kr (g : Agent) (r : KReg) : g.next.kr r = g.kr r := rfl
@[simp] theorem Agent.next_vr (g : Agent) (r : VNum) : g.next.vr r = g.vr r := rfl
@[simp] theorem Agent.next_key (g : Agent) : g.next.key = g.key := rfl
@[simp] theorem Agent.next_service (g : Agent) : g.next.service = g.service := rfl

@[simp] theorem Agent.setS_key (g : Agent) (r : Reg) (x : Word) : (g.setS r x).key = g.key := by simp [Agent.key]
@[simp] theorem Agent.setS_service (g : Agent) (r : Reg) (x : Word) : (g.setS r x).service = g.service := by simp [Agent.service]
@[simp] theorem Agent.setP_key (g : Agent) (r : PReg) (x : Bool) : (g.setP r x).key = g.key := by simp [Agent.key]
@[simp] theorem Agent.setP_service (g : Agent) (r : PReg) (x : Bool) : (g.setP r x).service = g.service := by simp [Agent.service]
@[simp] theorem Agent.setK_key (g : Agent) (r : KReg) (x : W32) : (g.setK r x).key = g.key := by simp [Agent.key]
@[simp] theorem Agent.setK_service (g : Agent) (r : KReg) (x : W32) : (g.setK r x).service = g.service := by simp [Agent.service]
@[simp] theorem Agent.setV_key (g : Agent) (r : VNum) (x : Lanes) : (g.setV r x).key = g.key := rfl
@[simp] theorem Agent.setV_service (g : Agent) (r : VNum) (x : Lanes) : (g.setV r x).service = g.service := rfl

/-- A register other than s0 reads what was written last; a write leaves every other register. -/
theorem Agent.sr_setS (g : Agent) (r q : Reg) (x : Word) : (g.setS r x).sr q = if q = r ∧ r ≠ 0 then x else g.sr q := by
  unfold Agent.setS Agent.sr
  by_cases hr : r = 0
  · simp [hr]
  · by_cases hq : q = 0
    · subst hq; simp [hr, Ne.symm hr]
    · simp only [hr, hq, if_false, ne_eq, not_false_eq_true, and_true]
      by_cases h : q = r
      · subst h; simp
      · have : r.val ≠ q.val := fun e => h (Fin.ext e.symm)
        simp [h, this]

end Sys2Proof.Machine
end

