-- ==== Sys2Proof/Laws/Memory.lean ====
section
/-! SUPPORT. Tables and memory: reads after writes, and that every memory operation keeps the canonical form. -/

namespace Sys2Proof.Machine

open Sys2Proof

/-! ## Tables -/

@[simp] theorem Tbl.find_put_same {α : Type} (t : Tbl α) (k : Nat) (a : α) : Tbl.find (Tbl.put t k a) k = some a := by
  induction t with
  | nil => simp [Tbl.put, Tbl.find]
  | cons h t ih =>
    obtain ⟨q, b⟩ := h
    simp only [Tbl.put]
    split
    · simp [Tbl.find]
    · split
      · simp [Tbl.find]
      · rename_i h1 h2; simp [Tbl.find, Ne.symm h2, ih]

theorem Tbl.find_put_other {α : Type} (t : Tbl α) (k j : Nat) (a : α) (h : j ≠ k) :
    Tbl.find (Tbl.put t k a) j = Tbl.find t j := by
  induction t with
  | nil => simp [Tbl.put, Tbl.find, Ne.symm h]
  | cons x t ih =>
    obtain ⟨q, b⟩ := x
    simp only [Tbl.put]
    split
    · simp [Tbl.find, Ne.symm h]
    · split
      · rename_i h1 h2; subst h2; simp [Tbl.find, Ne.symm h]
      · simp [Tbl.find, ih]

@[simp] theorem Tbl.put_put {α : Type} (t : Tbl α) (k : Nat) (a b : α) : Tbl.put (Tbl.put t k a) k b = Tbl.put t k b := by
  induction t with
  | nil => simp [Tbl.put]
  | cons x t ih =>
    obtain ⟨q, c⟩ := x
    simp only [Tbl.put]
    split
    · simp [Tbl.put]
    · split
      · simp [Tbl.put]
      · rename_i h1 h2; simp [Tbl.put, h1, h2, ih]

@[simp] theorem Tbl.find_drop_same {α : Type} (t : Tbl α) (k : Nat) : Tbl.find (Tbl.drop t k) k = none := by
  induction t with
  | nil => rfl
  | cons x t ih =>
    obtain ⟨q, c⟩ := x
    simp only [Tbl.drop]
    split
    · exact ih
    · rename_i h; simp [Tbl.find, h, ih]

theorem Tbl.find_drop_other {α : Type} (t : Tbl α) (k j : Nat) (h : j ≠ k) : Tbl.find (Tbl.drop t k) j = Tbl.find t j := by
  induction t with
  | nil => rfl
  | cons x t ih =>
    obtain ⟨q, c⟩ := x
    simp only [Tbl.drop]
    split
    · rename_i e; subst e; simp [Tbl.find, Ne.symm h, ih]
    · simp [Tbl.find, ih]

/-! ## Homes of state, at the key written and at any other -/

@[simp] theorem State.agent_setAgent (s : State) (k : Nat) (g : Agent) : (s.setAgent k g).agent k = some g := by
  simp [State.setAgent, State.agent]

theorem State.agent_setAgent_other (s : State) (k j : Nat) (g : Agent) (h : j ≠ k) : (s.setAgent k g).agent j = s.agent j := by
  simp [State.setAgent, State.agent, Tbl.find_put_other _ _ _ _ h]

@[simp] theorem State.setAgent_setAgent (s : State) (k : Nat) (a b : Agent) : (s.setAgent k a).setAgent k b = s.setAgent k b := by
  simp [State.setAgent]

@[simp] theorem State.core_setCore (s : State) (c : Nat) (x : Core) : (s.setCore c x).core c = x := by
  simp [State.setCore, State.core]

theorem State.core_setCore_other (s : State) (c j : Nat) (x : Core) (h : j ≠ c) : (s.setCore c x).core j = s.core j := by
  simp [State.setCore, State.core, Tbl.find_put_other _ _ _ _ h]

@[simp] theorem State.part_setPart (s : State) (n : Nat) (p : Part) : (s.setPart n p).part n = some p := by
  simp [State.setPart, State.part]

theorem State.part_setPart_other (s : State) (n j : Nat) (p : Part) (h : j ≠ n) : (s.setPart n p).part j = s.part j := by
  simp [State.setPart, State.part, Tbl.find_put_other _ _ _ _ h]

@[simp] theorem State.setPart_setPart (s : State) (n : Nat) (p q : Part) : (s.setPart n p).setPart n q = s.setPart n q := by
  simp [State.setPart]

@[simp] theorem State.pcb_setPcb (s : State) (n : Nat) (p : Pcb) : (s.setPcb n p).pcb n = p := by
  simp [State.setPcb, State.pcb]

@[simp] theorem State.ctx_setCtx (s : State) (k : Nat) (x : Ctx) : (s.setCtx k x).ctx k = x := by
  simp [State.setCtx, State.ctx]

theorem State.ctx_setCtx_other (s : State) (k j : Nat) (x : Ctx) (h : j ≠ k) : (s.setCtx k x).ctx j = s.ctx j := by
  simp [State.setCtx, State.ctx, Tbl.find_put_other _ _ _ _ h]

@[simp] theorem State.setCtx_setCtx (s : State) (k : Nat) (x y : Ctx) : (s.setCtx k x).setCtx k y = s.setCtx k y := by
  simp [State.setCtx]

@[simp] theorem State.ringer_setRinger (s : State) (k : Nat) (x : Ringer) : (s.setRinger k x).ringer k = x := by
  simp [State.setRinger, State.ringer]

@[simp] theorem State.setRinger_setRinger (s : State) (k : Nat) (x y : Ringer) :
    (s.setRinger k x).setRinger k y = s.setRinger k y := by simp [State.setRinger]

/-- A symbol reads as written last, and a write leaves every other cell. -/
theorem State.cell_setCell (s : State) (c j : Nat) (w : Word) : (s.setCell c w).cell j = if j = c then w else s.cell j := by
  by_cases h : j = c
  · subst h; by_cases hw : w = 0#64 <;> simp [State.setCell, State.cell, hw]
  · by_cases hw : w = 0#64 <;>
      simp [State.setCell, State.cell, hw, h, Tbl.find_put_other _ _ _ _ h, Tbl.find_drop_other _ _ _ h]

/-! ## One byte of memory -/

/-- Every key of a canonical memory's tail lies above its head. -/
theorem Mem.wf_cons {a : Nat} {b : Byte} {m : Mem} (h : Mem.wf ((a, b) :: m) = true) :
    b ≠ unlisted ∧ Mem.wf m = true ∧ (∀ x ∈ m.head?, a < x.1) := by
  cases m with
  | nil => simp_all [Mem.wf]
  | cons y m => obtain ⟨c, d⟩ := y; simp_all [Mem.wf]

theorem Mem.wf_of_cons {a : Nat} {b : Byte} {m : Mem} (hb : b ≠ unlisted) (hm : Mem.wf m = true)
    (h : ∀ x ∈ m.head?, a < x.1) : Mem.wf ((a, b) :: m) = true := by
  cases m with
  | nil => simpa [Mem.wf] using hb
  | cons y m => obtain ⟨c, d⟩ := y; simp_all [Mem.wf]

/-- Below the first key nothing is listed. -/
theorem Mem.get_below {m : Mem} {a : Nat} (h : ∀ x ∈ m.head?, a < x.1) : Mem.get m a = unlisted := by
  cases m with
  | nil => rfl
  | cons y m => obtain ⟨c, d⟩ := y; simp_all [Mem.get]

/-- The first key after a write is the written one or the first one before. -/
theorem Mem.head_set {m : Mem} {a k : Nat} {b : Byte} (hm : Mem.wf m = true) (ha : k < a) (h : ∀ x ∈ m.head?, k < x.1) :
    ∀ x ∈ (Mem.set m a b).head?, k < x.1 := by
  cases m with
  | nil => simp only [Mem.set]; split <;> simp_all
  | cons y m =>
    obtain ⟨c, d⟩ := y
    have w := Mem.wf_cons hm
    simp only [Mem.set]
    by_cases h1 : a < c
    · by_cases h2 : b = unlisted <;> simp_all
    · by_cases h3 : a = c
      · subst h3
        by_cases h2 : b = unlisted
        · simp only [h1, h2, if_true, if_false]; intro x hx; exact Nat.lt_trans ha (w.2.2 x hx)
        · simp_all
      · rw [if_neg h1, if_neg h3]; simp_all

/-- A write keeps the canonical form. -/
theorem Mem.wf_set (m : Mem) (a : Nat) (b : Byte) (h : Mem.wf m = true) : Mem.wf (Mem.set m a b) = true := by
  induction m with
  | nil => simp only [Mem.set]; split <;> simp_all [Mem.wf]
  | cons y m ih =>
    obtain ⟨c, d⟩ := y
    obtain ⟨hd, hm, hh⟩ := Mem.wf_cons h
    simp only [Mem.set]
    split
    · split
      · exact h
      · rename_i h1 h2; exact Mem.wf_of_cons h2 h (by simpa using h1)
    · split
      · split
        · exact hm
        · rename_i h1 h2 h3; subst h2; exact Mem.wf_of_cons h3 hm hh
      · rename_i h1 h2
        exact Mem.wf_of_cons hd (ih hm) (Mem.head_set hm (by omega) hh)

/-- A byte reads as written last, and a write leaves every other byte. -/
theorem Mem.get_set (m : Mem) (a j : Nat) (b : Byte) (h : Mem.wf m = true) :
    Mem.get (Mem.set m a b) j = if j = a then b else Mem.get m j := by
  induction m with
  | nil =>
    simp only [Mem.set, Mem.get]
    split <;> split <;> simp_all [Mem.get]
  | cons y m ih =>
    obtain ⟨c, d⟩ := y
    obtain ⟨hd, hm, hh⟩ := Mem.wf_cons h
    have ih := ih hm
    simp only [Mem.set]
    split
    · split
      · split
        · rename_i h1 h2 h3; subst h3; simp [Mem.get, h1, h2]
        · rfl
      · rename_i h1 h2
        simp only [Mem.get]
        split
        · rename_i h3; rw [if_neg (by omega), if_pos (by omega)]
        · split
          · rfl
          · rfl
    · split
      · rename_i h1 h2; subst h2
        split
        · rename_i h3
          simp only [Mem.get]
          by_cases e : j = a
          · subst e; simp [h3, Mem.get_below hh]
          · simp only [e, if_false]
            split
            · rename_i h4; exact Mem.get_below fun x hx => Nat.lt_trans h4 (hh x hx)
            · rfl
        · simp only [Mem.get]
          split
          · rename_i h4; rw [if_neg (by omega)]
          · by_cases e : j = a <;> simp [e]
      · rename_i h1 h2
        simp only [Mem.get, ih]
        split
        · rename_i h4; rw [if_neg (by omega)]
        · split
          · rename_i h5; rw [if_neg (by omega)]
          · rfl

/-! ## Runs of bytes -/

theorem Mem.wf_writeL (l : List Byte) : ∀ (m : Mem) (a : Nat), Mem.wf m = true → Mem.wf (Mem.writeL m a l) = true := by
  induction l with
  | nil => intro m a h; exact h
  | cons b l ih => intro m a h; exact ih _ _ (Mem.wf_set m a b h)

/-- A byte after a write of a run of bytes. -/
theorem Mem.get_writeL (l : List Byte) : ∀ (m : Mem) (a j : Nat), Mem.wf m = true →
    Mem.get (Mem.writeL m a l) j = if a ≤ j ∧ j < a + l.length then l.getD (j - a) unlisted else Mem.get m j := by
  induction l with
  | nil => intro m a j h; simp only [Mem.writeL, List.length_nil]; rw [if_neg (by omega)]
  | cons b l ih =>
    intro m a j h
    simp only [Mem.writeL, ih _ _ _ (Mem.wf_set m a b h), Mem.get_set _ _ _ _ h, List.length_cons]
    by_cases e : j = a
    · subst e; rw [if_neg (by omega)]; simp
    · by_cases h1 : a + 1 ≤ j ∧ j < a + 1 + l.length
      · rw [if_pos h1, if_pos (by omega), show j - a = (j - (a + 1)) + 1 by omega]; simp
      · rw [if_neg h1, if_neg e, if_neg (by omega)]

theorem Mem.readN_length (m : Mem) (n : Nat) : ∀ a, (Mem.readN m a n).length = n := by
  induction n with
  | zero => intro a; rfl
  | succ n ih => intro a; simp [Mem.readN, ih]

/-! A slice of a run read is the run read there. -/

theorem Mem.readN_drop (m : Mem) (i : Nat) : ∀ a n, (Mem.readN m a n).drop i = Mem.readN m (a + i) (n - i) := by
  induction i with
  | zero => intro a n; rfl
  | succ i ih =>
    intro a n
    cases n with
    | zero => simp [Mem.readN]
    | succ n => simp [Mem.readN, ih, Nat.add_assoc, Nat.add_comm 1 i]
theorem Mem.readN_take (m : Mem) (j : Nat) : ∀ a n, (Mem.readN m a n).take j = Mem.readN m a (min j n) := by
  induction j with
  | zero => intro a n; simp [Mem.readN]
  | succ j ih =>
    intro a n
    cases n with
    | zero => simp [Mem.readN]
    | succ n => simp [Mem.readN, ih, Nat.succ_min_succ]
theorem leAt_rd (s : State) (k n off j : Nat) (h : off + j ≤ n) : leAt (rd s k n) off j = rdNat s (k + off) j := by
  simp only [leAt, sliceB, rd, rdNat, Mem.readN_drop, Mem.readN_take]
  rw [Nat.min_eq_left (by omega)]

/-! ## The state's memory -/

theorem State.memOk_reset : State.reset.memOk := rfl

theorem wr_memOk (s : State) (k : Nat) (l : List Byte) (h : s.memOk) : (wr s k l).memOk := Mem.wf_writeL l s.mem k h

theorem wrPlace_memOk (s : State) (p : Place) (l : List Byte) (h : s.memOk) : (wrPlace s p l).memOk := by
  cases p <;> first | exact wr_memOk s _ l h | exact h

/-- A state whose memory is another's is as canonical as it. -/
theorem State.memOk_of_mem {s t : State} (e : t.mem = s.mem) (h : s.memOk) : t.memOk := by
  unfold State.memOk at *; rw [e]; exact h

theorem appendRecord_memOk (s : State) (b : Word) (r : List Byte) (h : s.memOk) : (appendRecord s b r).memOk := by
  simp only [appendRecord]; split
  · exact h
  · exact wr_memOk _ _ _ (wr_memOk _ _ _ h)

theorem foldl_inv {σ β : Type} (P : σ → Prop) (f : σ → β → σ) (hf : ∀ x b, P x → P (f x b)) (l : List β) :
    ∀ x, P x → P (l.foldl f x) := by
  induction l with
  | nil => intro x h; exact h
  | cons b l ih => intro x h; exact ih _ (hf x b h)

theorem writeVa_memOk (s t : State) (asid va : Nat) (l : List Byte) (h : s.memOk) (e : writeVa s asid va l = some t) : t.memOk := by
  simp only [writeVa] at e
  split at e
  · cases e; exact h
  split at e
  · cases e
  · refine foldl_inv (fun x : Option State => ∀ u, x = some u → u.memOk) _ ?_ _ (some s) (by intro u e; cases e; exact h) t e
    intro x b hx u hu
    cases x with
    | none => simp at hu
    | some v =>
      simp only at hu
      split at hu
      · cases hu
      · cases hu; exact wrPlace_memOk _ _ _ (hx v rfl)

theorem applyAt_memOk (s : State) (k : Nat) (op : AccOp) (h : s.memOk) : (applyAt s k op).memOk := by
  unfold applyAt; split <;> first | exact wr_memOk _ _ _ h | exact h

theorem sendPosted_memOk (s : State) (p : Posted) (h : s.memOk) : (sendPosted s p).memOk := by
  unfold sendPosted; split
  · exact applyAt_memOk _ _ _ h
  · exact h
  · exact h

theorem postFar_memOk (s : State) (who : Nat × Nat) (id : Nat) (p : Place) (op : AccOp) (h : s.memOk) : (postFar s who id p op).memOk := by
  simp only [postFar]; split
  · exact h
  · exact sendPosted_memOk _ _ h

/-- A posted write of an engine, a ringer or a root keeps the canonical form, whichever home it has. -/
theorem postUnit_memOk (s : State) (who : Nat × Nat) (p : Place) (op : AccOp) (h : s.memOk) : (postUnit s who p op).memOk := by
  unfold postUnit; split
  · exact applyAt_memOk _ _ _ h
  · exact postFar_memOk _ _ _ _ _ h

theorem signalEnd_memOk (s t : State) (who : Nat × Nat) (a : Nat) (tl v w : Word) (h : s.memOk) (e : signalEnd s who a tl v w = some t) :
    t.memOk := by
  simp only [signalEnd] at e
  split at e
  · cases e
  · split at e
    · cases e
    · cases e; exact postUnit_memOk _ _ _ _ (postUnit_memOk _ _ _ _ h)

end Sys2Proof.Machine
end

