-- ==== Sys2Proof/Laws/State.lean ====
section
/-! SUPPORT. What each update of the state and of an agent leaves: one lemma per field, and per home of state. -/

namespace Sys2Proof.Machine

/-! `setCore` writes `cores` alone. -/

@[simp] theorem State.setCore_cycle (s : State) (c : Nat) (x : Core) : (s.setCore c x).cycle = s.cycle := rfl
@[simp] theorem State.setCore_time (s : State) (c : Nat) (x : Core) : (s.setCore c x).time = s.time := rfl
@[simp] theorem State.setCore_timeFrac (s : State) (c : Nat) (x : Core) : (s.setCore c x).timeFrac = s.timeFrac := rfl
@[simp] theorem State.setCore_timeOff (s : State) (c : Nat) (x : Core) : (s.setCore c x).timeOff = s.timeOff := rfl
@[simp] theorem State.setCore_agenda (s : State) (c : Nat) (x : Core) : (s.setCore c x).agenda = s.agenda := rfl
@[simp] theorem State.setCore_turn (s : State) (c : Nat) (x : Core) : (s.setCore c x).turn = s.turn := rfl
@[simp] theorem State.setCore_free (s : State) (c : Nat) (x : Core) : (s.setCore c x).free = s.free := rfl
@[simp] theorem State.setCore_arrivals (s : State) (c : Nat) (x : Core) : (s.setCore c x).arrivals = s.arrivals := rfl
@[simp] theorem State.setCore_mem (s : State) (c : Nat) (x : Core) : (s.setCore c x).mem = s.mem := rfl
@[simp] theorem State.setCore_presence (s : State) (c : Nat) (x : Core) : (s.setCore c x).presence = s.presence := rfl
@[simp] theorem State.setCore_deferred (s : State) (c : Nat) (x : Core) : (s.setCore c x).deferred = s.deferred := rfl
@[simp] theorem State.setCore_posted (s : State) (c : Nat) (x : Core) : (s.setCore c x).posted = s.posted := rfl
@[simp] theorem State.setCore_queues (s : State) (c : Nat) (x : Core) : (s.setCore c x).queues = s.queues := rfl
@[simp] theorem State.setCore_moved (s : State) (c : Nat) (x : Core) : (s.setCore c x).moved = s.moved := rfl
@[simp] theorem State.setCore_hushed (s : State) (c : Nat) (x : Core) : (s.setCore c x).hushed = s.hushed := rfl
@[simp] theorem State.setCore_writes (s : State) (c : Nat) (x : Core) : (s.setCore c x).writes = s.writes := rfl
@[simp] theorem State.setCore_cells (s : State) (c : Nat) (x : Core) : (s.setCore c x).cells = s.cells := rfl
@[simp] theorem State.setCore_cellChime (s : State) (c : Nat) (x : Core) : (s.setCore c x).cellChime = s.cellChime := rfl
@[simp] theorem State.setCore_agents (s : State) (c : Nat) (x : Core) : (s.setCore c x).agents = s.agents := rfl
@[simp] theorem State.setCore_parts (s : State) (c : Nat) (x : Core) : (s.setCore c x).parts = s.parts := rfl
@[simp] theorem State.setCore_saved (s : State) (c : Nat) (x : Core) : (s.setCore c x).saved = s.saved := rfl
@[simp] theorem State.setCore_savedCores (s : State) (c : Nat) (x : Core) : (s.setCore c x).savedCores = s.savedCores := rfl
@[simp] theorem State.setCore_savedAgents (s : State) (c : Nat) (x : Core) : (s.setCore c x).savedAgents = s.savedAgents := rfl
@[simp] theorem State.setCore_savedParts (s : State) (c : Nat) (x : Core) : (s.setCore c x).savedParts = s.savedParts := rfl
@[simp] theorem State.setCore_ctxs (s : State) (c : Nat) (x : Core) : (s.setCore c x).ctxs = s.ctxs := rfl
@[simp] theorem State.setCore_ringers (s : State) (c : Nat) (x : Core) : (s.setCore c x).ringers = s.ringers := rfl
@[simp] theorem State.setCore_pcbs (s : State) (c : Nat) (x : Core) : (s.setCore c x).pcbs = s.pcbs := rfl
@[simp] theorem State.setCore_dev (s : State) (c : Nat) (x : Core) : (s.setCore c x).dev = s.dev := rfl
@[simp] theorem State.setCore_outbox (s : State) (c : Nat) (x : Core) : (s.setCore c x).outbox = s.outbox := rfl
@[simp] theorem State.setCore_home_agent (s : State) (c : Nat) (x : Core) (j : Nat) : (s.setCore c x).agent j = s.agent j := rfl
@[simp] theorem State.setCore_home_part (s : State) (c : Nat) (x : Core) (j : Nat) : (s.setCore c x).part j = s.part j := rfl
@[simp] theorem State.setCore_home_pcb (s : State) (c : Nat) (x : Core) (j : Nat) : (s.setCore c x).pcb j = s.pcb j := rfl
@[simp] theorem State.setCore_home_ctx (s : State) (c : Nat) (x : Core) (j : Nat) : (s.setCore c x).ctx j = s.ctx j := rfl
@[simp] theorem State.setCore_home_ringer (s : State) (c : Nat) (x : Core) (j : Nat) : (s.setCore c x).ringer j = s.ringer j := rfl
@[simp] theorem State.setCore_home_cell (s : State) (c : Nat) (x : Core) (j : Nat) : (s.setCore c x).cell j = s.cell j := rfl
@[simp] theorem State.setCore_home_chime (s : State) (c : Nat) (x : Core) (j : Nat) : (s.setCore c x).chime j = s.chime j := rfl

/-! `setAgent` writes `agents` alone. -/

@[simp] theorem State.setAgent_cycle (s : State) (k : Nat) (x : Agent) : (s.setAgent k x).cycle = s.cycle := rfl
@[simp] theorem State.setAgent_time (s : State) (k : Nat) (x : Agent) : (s.setAgent k x).time = s.time := rfl
@[simp] theorem State.setAgent_timeFrac (s : State) (k : Nat) (x : Agent) : (s.setAgent k x).timeFrac = s.timeFrac := rfl
@[simp] theorem State.setAgent_timeOff (s : State) (k : Nat) (x : Agent) : (s.setAgent k x).timeOff = s.timeOff := rfl
@[simp] theorem State.setAgent_agenda (s : State) (k : Nat) (x : Agent) : (s.setAgent k x).agenda = s.agenda := rfl
@[simp] theorem State.setAgent_turn (s : State) (k : Nat) (x : Agent) : (s.setAgent k x).turn = s.turn := rfl
@[simp] theorem State.setAgent_free (s : State) (k : Nat) (x : Agent) : (s.setAgent k x).free = s.free := rfl
@[simp] theorem State.setAgent_arrivals (s : State) (k : Nat) (x : Agent) : (s.setAgent k x).arrivals = s.arrivals := rfl
@[simp] theorem State.setAgent_mem (s : State) (k : Nat) (x : Agent) : (s.setAgent k x).mem = s.mem := rfl
@[simp] theorem State.setAgent_presence (s : State) (k : Nat) (x : Agent) : (s.setAgent k x).presence = s.presence := rfl
@[simp] theorem State.setAgent_deferred (s : State) (k : Nat) (x : Agent) : (s.setAgent k x).deferred = s.deferred := rfl
@[simp] theorem State.setAgent_posted (s : State) (k : Nat) (x : Agent) : (s.setAgent k x).posted = s.posted := rfl
@[simp] theorem State.setAgent_queues (s : State) (k : Nat) (x : Agent) : (s.setAgent k x).queues = s.queues := rfl
@[simp] theorem State.setAgent_moved (s : State) (k : Nat) (x : Agent) : (s.setAgent k x).moved = s.moved := rfl
@[simp] theorem State.setAgent_hushed (s : State) (k : Nat) (x : Agent) : (s.setAgent k x).hushed = s.hushed := rfl
@[simp] theorem State.setAgent_writes (s : State) (k : Nat) (x : Agent) : (s.setAgent k x).writes = s.writes := rfl
@[simp] theorem State.setAgent_cells (s : State) (k : Nat) (x : Agent) : (s.setAgent k x).cells = s.cells := rfl
@[simp] theorem State.setAgent_cellChime (s : State) (k : Nat) (x : Agent) : (s.setAgent k x).cellChime = s.cellChime := rfl
@[simp] theorem State.setAgent_cores (s : State) (k : Nat) (x : Agent) : (s.setAgent k x).cores = s.cores := rfl
@[simp] theorem State.setAgent_parts (s : State) (k : Nat) (x : Agent) : (s.setAgent k x).parts = s.parts := rfl
@[simp] theorem State.setAgent_saved (s : State) (k : Nat) (x : Agent) : (s.setAgent k x).saved = s.saved := rfl
@[simp] theorem State.setAgent_savedCores (s : State) (k : Nat) (x : Agent) : (s.setAgent k x).savedCores = s.savedCores := rfl
@[simp] theorem State.setAgent_savedAgents (s : State) (k : Nat) (x : Agent) : (s.setAgent k x).savedAgents = s.savedAgents := rfl
@[simp] theorem State.setAgent_savedParts (s : State) (k : Nat) (x : Agent) : (s.setAgent k x).savedParts = s.savedParts := rfl
@[simp] theorem State.setAgent_ctxs (s : State) (k : Nat) (x : Agent) : (s.setAgent k x).ctxs = s.ctxs := rfl
@[simp] theorem State.setAgent_ringers (s : State) (k : Nat) (x : Agent) : (s.setAgent k x).ringers = s.ringers := rfl
@[simp] theorem State.setAgent_pcbs (s : State) (k : Nat) (x : Agent) : (s.setAgent k x).pcbs = s.pcbs := rfl
@[simp] theorem State.setAgent_dev (s : State) (k : Nat) (x : Agent) : (s.setAgent k x).dev = s.dev := rfl
@[simp] theorem State.setAgent_outbox (s : State) (k : Nat) (x : Agent) : (s.setAgent k x).outbox = s.outbox := rfl
@[simp] theorem State.setAgent_home_core (s : State) (k : Nat) (x : Agent) (j : Nat) : (s.setAgent k x).core j = s.core j := rfl
@[simp] theorem State.setAgent_home_part (s : State) (k : Nat) (x : Agent) (j : Nat) : (s.setAgent k x).part j = s.part j := rfl
@[simp] theorem State.setAgent_home_pcb (s : State) (k : Nat) (x : Agent) (j : Nat) : (s.setAgent k x).pcb j = s.pcb j := rfl
@[simp] theorem State.setAgent_home_ctx (s : State) (k : Nat) (x : Agent) (j : Nat) : (s.setAgent k x).ctx j = s.ctx j := rfl
@[simp] theorem State.setAgent_home_ringer (s : State) (k : Nat) (x : Agent) (j : Nat) : (s.setAgent k x).ringer j = s.ringer j := rfl
@[simp] theorem State.setAgent_home_cell (s : State) (k : Nat) (x : Agent) (j : Nat) : (s.setAgent k x).cell j = s.cell j := rfl
@[simp] theorem State.setAgent_home_chime (s : State) (k : Nat) (x : Agent) (j : Nat) : (s.setAgent k x).chime j = s.chime j := rfl

/-! `setPart` writes `parts` alone. -/

@[simp] theorem State.setPart_cycle (s : State) (n : Nat) (x : Part) : (s.setPart n x).cycle = s.cycle := rfl
@[simp] theorem State.setPart_time (s : State) (n : Nat) (x : Part) : (s.setPart n x).time = s.time := rfl
@[simp] theorem State.setPart_timeFrac (s : State) (n : Nat) (x : Part) : (s.setPart n x).timeFrac = s.timeFrac := rfl
@[simp] theorem State.setPart_timeOff (s : State) (n : Nat) (x : Part) : (s.setPart n x).timeOff = s.timeOff := rfl
@[simp] theorem State.setPart_agenda (s : State) (n : Nat) (x : Part) : (s.setPart n x).agenda = s.agenda := rfl
@[simp] theorem State.setPart_turn (s : State) (n : Nat) (x : Part) : (s.setPart n x).turn = s.turn := rfl
@[simp] theorem State.setPart_free (s : State) (n : Nat) (x : Part) : (s.setPart n x).free = s.free := rfl
@[simp] theorem State.setPart_arrivals (s : State) (n : Nat) (x : Part) : (s.setPart n x).arrivals = s.arrivals := rfl
@[simp] theorem State.setPart_mem (s : State) (n : Nat) (x : Part) : (s.setPart n x).mem = s.mem := rfl
@[simp] theorem State.setPart_presence (s : State) (n : Nat) (x : Part) : (s.setPart n x).presence = s.presence := rfl
@[simp] theorem State.setPart_deferred (s : State) (n : Nat) (x : Part) : (s.setPart n x).deferred = s.deferred := rfl
@[simp] theorem State.setPart_posted (s : State) (n : Nat) (x : Part) : (s.setPart n x).posted = s.posted := rfl
@[simp] theorem State.setPart_queues (s : State) (n : Nat) (x : Part) : (s.setPart n x).queues = s.queues := rfl
@[simp] theorem State.setPart_moved (s : State) (n : Nat) (x : Part) : (s.setPart n x).moved = s.moved := rfl
@[simp] theorem State.setPart_hushed (s : State) (n : Nat) (x : Part) : (s.setPart n x).hushed = s.hushed := rfl
@[simp] theorem State.setPart_writes (s : State) (n : Nat) (x : Part) : (s.setPart n x).writes = s.writes := rfl
@[simp] theorem State.setPart_cells (s : State) (n : Nat) (x : Part) : (s.setPart n x).cells = s.cells := rfl
@[simp] theorem State.setPart_cellChime (s : State) (n : Nat) (x : Part) : (s.setPart n x).cellChime = s.cellChime := rfl
@[simp] theorem State.setPart_cores (s : State) (n : Nat) (x : Part) : (s.setPart n x).cores = s.cores := rfl
@[simp] theorem State.setPart_agents (s : State) (n : Nat) (x : Part) : (s.setPart n x).agents = s.agents := rfl
@[simp] theorem State.setPart_saved (s : State) (n : Nat) (x : Part) : (s.setPart n x).saved = s.saved := rfl
@[simp] theorem State.setPart_savedCores (s : State) (n : Nat) (x : Part) : (s.setPart n x).savedCores = s.savedCores := rfl
@[simp] theorem State.setPart_savedAgents (s : State) (n : Nat) (x : Part) : (s.setPart n x).savedAgents = s.savedAgents := rfl
@[simp] theorem State.setPart_savedParts (s : State) (n : Nat) (x : Part) : (s.setPart n x).savedParts = s.savedParts := rfl
@[simp] theorem State.setPart_ctxs (s : State) (n : Nat) (x : Part) : (s.setPart n x).ctxs = s.ctxs := rfl
@[simp] theorem State.setPart_ringers (s : State) (n : Nat) (x : Part) : (s.setPart n x).ringers = s.ringers := rfl
@[simp] theorem State.setPart_pcbs (s : State) (n : Nat) (x : Part) : (s.setPart n x).pcbs = s.pcbs := rfl
@[simp] theorem State.setPart_dev (s : State) (n : Nat) (x : Part) : (s.setPart n x).dev = s.dev := rfl
@[simp] theorem State.setPart_outbox (s : State) (n : Nat) (x : Part) : (s.setPart n x).outbox = s.outbox := rfl
@[simp] theorem State.setPart_home_core (s : State) (n : Nat) (x : Part) (j : Nat) : (s.setPart n x).core j = s.core j := rfl
@[simp] theorem State.setPart_home_agent (s : State) (n : Nat) (x : Part) (j : Nat) : (s.setPart n x).agent j = s.agent j := rfl
@[simp] theorem State.setPart_home_pcb (s : State) (n : Nat) (x : Part) (j : Nat) : (s.setPart n x).pcb j = s.pcb j := rfl
@[simp] theorem State.setPart_home_ctx (s : State) (n : Nat) (x : Part) (j : Nat) : (s.setPart n x).ctx j = s.ctx j := rfl
@[simp] theorem State.setPart_home_ringer (s : State) (n : Nat) (x : Part) (j : Nat) : (s.setPart n x).ringer j = s.ringer j := rfl
@[simp] theorem State.setPart_home_cell (s : State) (n : Nat) (x : Part) (j : Nat) : (s.setPart n x).cell j = s.cell j := rfl
@[simp] theorem State.setPart_home_chime (s : State) (n : Nat) (x : Part) (j : Nat) : (s.setPart n x).chime j = s.chime j := rfl

/-! `setPcb` writes `pcbs` alone. -/

@[simp] theorem State.setPcb_cycle (s : State) (n : Nat) (x : Pcb) : (s.setPcb n x).cycle = s.cycle := rfl
@[simp] theorem State.setPcb_time (s : State) (n : Nat) (x : Pcb) : (s.setPcb n x).time = s.time := rfl
@[simp] theorem State.setPcb_timeFrac (s : State) (n : Nat) (x : Pcb) : (s.setPcb n x).timeFrac = s.timeFrac := rfl
@[simp] theorem State.setPcb_timeOff (s : State) (n : Nat) (x : Pcb) : (s.setPcb n x).timeOff = s.timeOff := rfl
@[simp] theorem State.setPcb_agenda (s : State) (n : Nat) (x : Pcb) : (s.setPcb n x).agenda = s.agenda := rfl
@[simp] theorem State.setPcb_turn (s : State) (n : Nat) (x : Pcb) : (s.setPcb n x).turn = s.turn := rfl
@[simp] theorem State.setPcb_free (s : State) (n : Nat) (x : Pcb) : (s.setPcb n x).free = s.free := rfl
@[simp] theorem State.setPcb_arrivals (s : State) (n : Nat) (x : Pcb) : (s.setPcb n x).arrivals = s.arrivals := rfl
@[simp] theorem State.setPcb_mem (s : State) (n : Nat) (x : Pcb) : (s.setPcb n x).mem = s.mem := rfl
@[simp] theorem State.setPcb_presence (s : State) (n : Nat) (x : Pcb) : (s.setPcb n x).presence = s.presence := rfl
@[simp] theorem State.setPcb_deferred (s : State) (n : Nat) (x : Pcb) : (s.setPcb n x).deferred = s.deferred := rfl
@[simp] theorem State.setPcb_posted (s : State) (n : Nat) (x : Pcb) : (s.setPcb n x).posted = s.posted := rfl
@[simp] theorem State.setPcb_queues (s : State) (n : Nat) (x : Pcb) : (s.setPcb n x).queues = s.queues := rfl
@[simp] theorem State.setPcb_moved (s : State) (n : Nat) (x : Pcb) : (s.setPcb n x).moved = s.moved := rfl
@[simp] theorem State.setPcb_hushed (s : State) (n : Nat) (x : Pcb) : (s.setPcb n x).hushed = s.hushed := rfl
@[simp] theorem State.setPcb_writes (s : State) (n : Nat) (x : Pcb) : (s.setPcb n x).writes = s.writes := rfl
@[simp] theorem State.setPcb_cells (s : State) (n : Nat) (x : Pcb) : (s.setPcb n x).cells = s.cells := rfl
@[simp] theorem State.setPcb_cellChime (s : State) (n : Nat) (x : Pcb) : (s.setPcb n x).cellChime = s.cellChime := rfl
@[simp] theorem State.setPcb_cores (s : State) (n : Nat) (x : Pcb) : (s.setPcb n x).cores = s.cores := rfl
@[simp] theorem State.setPcb_agents (s : State) (n : Nat) (x : Pcb) : (s.setPcb n x).agents = s.agents := rfl
@[simp] theorem State.setPcb_parts (s : State) (n : Nat) (x : Pcb) : (s.setPcb n x).parts = s.parts := rfl
@[simp] theorem State.setPcb_saved (s : State) (n : Nat) (x : Pcb) : (s.setPcb n x).saved = s.saved := rfl
@[simp] theorem State.setPcb_savedCores (s : State) (n : Nat) (x : Pcb) : (s.setPcb n x).savedCores = s.savedCores := rfl
@[simp] theorem State.setPcb_savedAgents (s : State) (n : Nat) (x : Pcb) : (s.setPcb n x).savedAgents = s.savedAgents := rfl
@[simp] theorem State.setPcb_savedParts (s : State) (n : Nat) (x : Pcb) : (s.setPcb n x).savedParts = s.savedParts := rfl
@[simp] theorem State.setPcb_ctxs (s : State) (n : Nat) (x : Pcb) : (s.setPcb n x).ctxs = s.ctxs := rfl
@[simp] theorem State.setPcb_ringers (s : State) (n : Nat) (x : Pcb) : (s.setPcb n x).ringers = s.ringers := rfl
@[simp] theorem State.setPcb_dev (s : State) (n : Nat) (x : Pcb) : (s.setPcb n x).dev = s.dev := rfl
@[simp] theorem State.setPcb_outbox (s : State) (n : Nat) (x : Pcb) : (s.setPcb n x).outbox = s.outbox := rfl
@[simp] theorem State.setPcb_home_core (s : State) (n : Nat) (x : Pcb) (j : Nat) : (s.setPcb n x).core j = s.core j := rfl
@[simp] theorem State.setPcb_home_agent (s : State) (n : Nat) (x : Pcb) (j : Nat) : (s.setPcb n x).agent j = s.agent j := rfl
@[simp] theorem State.setPcb_home_part (s : State) (n : Nat) (x : Pcb) (j : Nat) : (s.setPcb n x).part j = s.part j := rfl
@[simp] theorem State.setPcb_home_ctx (s : State) (n : Nat) (x : Pcb) (j : Nat) : (s.setPcb n x).ctx j = s.ctx j := rfl
@[simp] theorem State.setPcb_home_ringer (s : State) (n : Nat) (x : Pcb) (j : Nat) : (s.setPcb n x).ringer j = s.ringer j := rfl
@[simp] theorem State.setPcb_home_cell (s : State) (n : Nat) (x : Pcb) (j : Nat) : (s.setPcb n x).cell j = s.cell j := rfl
@[simp] theorem State.setPcb_home_chime (s : State) (n : Nat) (x : Pcb) (j : Nat) : (s.setPcb n x).chime j = s.chime j := rfl

/-! `setCtx` writes `ctxs` alone. -/

@[simp] theorem State.setCtx_cycle (s : State) (k : Nat) (x : Ctx) : (s.setCtx k x).cycle = s.cycle := rfl
@[simp] theorem State.setCtx_time (s : State) (k : Nat) (x : Ctx) : (s.setCtx k x).time = s.time := rfl
@[simp] theorem State.setCtx_timeFrac (s : State) (k : Nat) (x : Ctx) : (s.setCtx k x).timeFrac = s.timeFrac := rfl
@[simp] theorem State.setCtx_timeOff (s : State) (k : Nat) (x : Ctx) : (s.setCtx k x).timeOff = s.timeOff := rfl
@[simp] theorem State.setCtx_agenda (s : State) (k : Nat) (x : Ctx) : (s.setCtx k x).agenda = s.agenda := rfl
@[simp] theorem State.setCtx_turn (s : State) (k : Nat) (x : Ctx) : (s.setCtx k x).turn = s.turn := rfl
@[simp] theorem State.setCtx_free (s : State) (k : Nat) (x : Ctx) : (s.setCtx k x).free = s.free := rfl
@[simp] theorem State.setCtx_arrivals (s : State) (k : Nat) (x : Ctx) : (s.setCtx k x).arrivals = s.arrivals := rfl
@[simp] theorem State.setCtx_mem (s : State) (k : Nat) (x : Ctx) : (s.setCtx k x).mem = s.mem := rfl
@[simp] theorem State.setCtx_presence (s : State) (k : Nat) (x : Ctx) : (s.setCtx k x).presence = s.presence := rfl
@[simp] theorem State.setCtx_deferred (s : State) (k : Nat) (x : Ctx) : (s.setCtx k x).deferred = s.deferred := rfl
@[simp] theorem State.setCtx_posted (s : State) (k : Nat) (x : Ctx) : (s.setCtx k x).posted = s.posted := rfl
@[simp] theorem State.setCtx_queues (s : State) (k : Nat) (x : Ctx) : (s.setCtx k x).queues = s.queues := rfl
@[simp] theorem State.setCtx_moved (s : State) (k : Nat) (x : Ctx) : (s.setCtx k x).moved = s.moved := rfl
@[simp] theorem State.setCtx_hushed (s : State) (k : Nat) (x : Ctx) : (s.setCtx k x).hushed = s.hushed := rfl
@[simp] theorem State.setCtx_writes (s : State) (k : Nat) (x : Ctx) : (s.setCtx k x).writes = s.writes := rfl
@[simp] theorem State.setCtx_cells (s : State) (k : Nat) (x : Ctx) : (s.setCtx k x).cells = s.cells := rfl
@[simp] theorem State.setCtx_cellChime (s : State) (k : Nat) (x : Ctx) : (s.setCtx k x).cellChime = s.cellChime := rfl
@[simp] theorem State.setCtx_cores (s : State) (k : Nat) (x : Ctx) : (s.setCtx k x).cores = s.cores := rfl
@[simp] theorem State.setCtx_agents (s : State) (k : Nat) (x : Ctx) : (s.setCtx k x).agents = s.agents := rfl
@[simp] theorem State.setCtx_parts (s : State) (k : Nat) (x : Ctx) : (s.setCtx k x).parts = s.parts := rfl
@[simp] theorem State.setCtx_saved (s : State) (k : Nat) (x : Ctx) : (s.setCtx k x).saved = s.saved := rfl
@[simp] theorem State.setCtx_savedCores (s : State) (k : Nat) (x : Ctx) : (s.setCtx k x).savedCores = s.savedCores := rfl
@[simp] theorem State.setCtx_savedAgents (s : State) (k : Nat) (x : Ctx) : (s.setCtx k x).savedAgents = s.savedAgents := rfl
@[simp] theorem State.setCtx_savedParts (s : State) (k : Nat) (x : Ctx) : (s.setCtx k x).savedParts = s.savedParts := rfl
@[simp] theorem State.setCtx_ringers (s : State) (k : Nat) (x : Ctx) : (s.setCtx k x).ringers = s.ringers := rfl
@[simp] theorem State.setCtx_pcbs (s : State) (k : Nat) (x : Ctx) : (s.setCtx k x).pcbs = s.pcbs := rfl
@[simp] theorem State.setCtx_dev (s : State) (k : Nat) (x : Ctx) : (s.setCtx k x).dev = s.dev := rfl
@[simp] theorem State.setCtx_outbox (s : State) (k : Nat) (x : Ctx) : (s.setCtx k x).outbox = s.outbox := rfl
@[simp] theorem State.setCtx_home_core (s : State) (k : Nat) (x : Ctx) (j : Nat) : (s.setCtx k x).core j = s.core j := rfl
@[simp] theorem State.setCtx_home_agent (s : State) (k : Nat) (x : Ctx) (j : Nat) : (s.setCtx k x).agent j = s.agent j := rfl
@[simp] theorem State.setCtx_home_part (s : State) (k : Nat) (x : Ctx) (j : Nat) : (s.setCtx k x).part j = s.part j := rfl
@[simp] theorem State.setCtx_home_pcb (s : State) (k : Nat) (x : Ctx) (j : Nat) : (s.setCtx k x).pcb j = s.pcb j := rfl
@[simp] theorem State.setCtx_home_ringer (s : State) (k : Nat) (x : Ctx) (j : Nat) : (s.setCtx k x).ringer j = s.ringer j := rfl
@[simp] theorem State.setCtx_home_cell (s : State) (k : Nat) (x : Ctx) (j : Nat) : (s.setCtx k x).cell j = s.cell j := rfl
@[simp] theorem State.setCtx_home_chime (s : State) (k : Nat) (x : Ctx) (j : Nat) : (s.setCtx k x).chime j = s.chime j := rfl

/-! `setRinger` writes `ringers` alone. -/

@[simp] theorem State.setRinger_cycle (s : State) (k : Nat) (x : Ringer) : (s.setRinger k x).cycle = s.cycle := rfl
@[simp] theorem State.setRinger_time (s : State) (k : Nat) (x : Ringer) : (s.setRinger k x).time = s.time := rfl
@[simp] theorem State.setRinger_timeFrac (s : State) (k : Nat) (x : Ringer) : (s.setRinger k x).timeFrac = s.timeFrac := rfl
@[simp] theorem State.setRinger_timeOff (s : State) (k : Nat) (x : Ringer) : (s.setRinger k x).timeOff = s.timeOff := rfl
@[simp] theorem State.setRinger_agenda (s : State) (k : Nat) (x : Ringer) : (s.setRinger k x).agenda = s.agenda := rfl
@[simp] theorem State.setRinger_turn (s : State) (k : Nat) (x : Ringer) : (s.setRinger k x).turn = s.turn := rfl
@[simp] theorem State.setRinger_free (s : State) (k : Nat) (x : Ringer) : (s.setRinger k x).free = s.free := rfl
@[simp] theorem State.setRinger_arrivals (s : State) (k : Nat) (x : Ringer) : (s.setRinger k x).arrivals = s.arrivals := rfl
@[simp] theorem State.setRinger_mem (s : State) (k : Nat) (x : Ringer) : (s.setRinger k x).mem = s.mem := rfl
@[simp] theorem State.setRinger_presence (s : State) (k : Nat) (x : Ringer) : (s.setRinger k x).presence = s.presence := rfl
@[simp] theorem State.setRinger_deferred (s : State) (k : Nat) (x : Ringer) : (s.setRinger k x).deferred = s.deferred := rfl
@[simp] theorem State.setRinger_posted (s : State) (k : Nat) (x : Ringer) : (s.setRinger k x).posted = s.posted := rfl
@[simp] theorem State.setRinger_queues (s : State) (k : Nat) (x : Ringer) : (s.setRinger k x).queues = s.queues := rfl
@[simp] theorem State.setRinger_moved (s : State) (k : Nat) (x : Ringer) : (s.setRinger k x).moved = s.moved := rfl
@[simp] theorem State.setRinger_hushed (s : State) (k : Nat) (x : Ringer) : (s.setRinger k x).hushed = s.hushed := rfl
@[simp] theorem State.setRinger_writes (s : State) (k : Nat) (x : Ringer) : (s.setRinger k x).writes = s.writes := rfl
@[simp] theorem State.setRinger_cells (s : State) (k : Nat) (x : Ringer) : (s.setRinger k x).cells = s.cells := rfl
@[simp] theorem State.setRinger_cellChime (s : State) (k : Nat) (x : Ringer) : (s.setRinger k x).cellChime = s.cellChime := rfl
@[simp] theorem State.setRinger_cores (s : State) (k : Nat) (x : Ringer) : (s.setRinger k x).cores = s.cores := rfl
@[simp] theorem State.setRinger_agents (s : State) (k : Nat) (x : Ringer) : (s.setRinger k x).agents = s.agents := rfl
@[simp] theorem State.setRinger_parts (s : State) (k : Nat) (x : Ringer) : (s.setRinger k x).parts = s.parts := rfl
@[simp] theorem State.setRinger_saved (s : State) (k : Nat) (x : Ringer) : (s.setRinger k x).saved = s.saved := rfl
@[simp] theorem State.setRinger_savedCores (s : State) (k : Nat) (x : Ringer) : (s.setRinger k x).savedCores = s.savedCores := rfl
@[simp] theorem State.setRinger_savedAgents (s : State) (k : Nat) (x : Ringer) : (s.setRinger k x).savedAgents = s.savedAgents := rfl
@[simp] theorem State.setRinger_savedParts (s : State) (k : Nat) (x : Ringer) : (s.setRinger k x).savedParts = s.savedParts := rfl
@[simp] theorem State.setRinger_ctxs (s : State) (k : Nat) (x : Ringer) : (s.setRinger k x).ctxs = s.ctxs := rfl
@[simp] theorem State.setRinger_pcbs (s : State) (k : Nat) (x : Ringer) : (s.setRinger k x).pcbs = s.pcbs := rfl
@[simp] theorem State.setRinger_dev (s : State) (k : Nat) (x : Ringer) : (s.setRinger k x).dev = s.dev := rfl
@[simp] theorem State.setRinger_outbox (s : State) (k : Nat) (x : Ringer) : (s.setRinger k x).outbox = s.outbox := rfl
@[simp] theorem State.setRinger_home_core (s : State) (k : Nat) (x : Ringer) (j : Nat) : (s.setRinger k x).core j = s.core j := rfl
@[simp] theorem State.setRinger_home_agent (s : State) (k : Nat) (x : Ringer) (j : Nat) : (s.setRinger k x).agent j = s.agent j := rfl
@[simp] theorem State.setRinger_home_part (s : State) (k : Nat) (x : Ringer) (j : Nat) : (s.setRinger k x).part j = s.part j := rfl
@[simp] theorem State.setRinger_home_pcb (s : State) (k : Nat) (x : Ringer) (j : Nat) : (s.setRinger k x).pcb j = s.pcb j := rfl
@[simp] theorem State.setRinger_home_ctx (s : State) (k : Nat) (x : Ringer) (j : Nat) : (s.setRinger k x).ctx j = s.ctx j := rfl
@[simp] theorem State.setRinger_home_cell (s : State) (k : Nat) (x : Ringer) (j : Nat) : (s.setRinger k x).cell j = s.cell j := rfl
@[simp] theorem State.setRinger_home_chime (s : State) (k : Nat) (x : Ringer) (j : Nat) : (s.setRinger k x).chime j = s.chime j := rfl

/-! `setCell` writes `cells` alone. -/

@[simp] theorem State.setCell_cycle (s : State) (c : Nat) (w : Word) : (s.setCell c w).cycle = s.cycle := rfl
@[simp] theorem State.setCell_time (s : State) (c : Nat) (w : Word) : (s.setCell c w).time = s.time := rfl
@[simp] theorem State.setCell_timeFrac (s : State) (c : Nat) (w : Word) : (s.setCell c w).timeFrac = s.timeFrac := rfl
@[simp] theorem State.setCell_timeOff (s : State) (c : Nat) (w : Word) : (s.setCell c w).timeOff = s.timeOff := rfl
@[simp] theorem State.setCell_agenda (s : State) (c : Nat) (w : Word) : (s.setCell c w).agenda = s.agenda := rfl
@[simp] theorem State.setCell_turn (s : State) (c : Nat) (w : Word) : (s.setCell c w).turn = s.turn := rfl
@[simp] theorem State.setCell_free (s : State) (c : Nat) (w : Word) : (s.setCell c w).free = s.free := rfl
@[simp] theorem State.setCell_arrivals (s : State) (c : Nat) (w : Word) : (s.setCell c w).arrivals = s.arrivals := rfl
@[simp] theorem State.setCell_mem (s : State) (c : Nat) (w : Word) : (s.setCell c w).mem = s.mem := rfl
@[simp] theorem State.setCell_presence (s : State) (c : Nat) (w : Word) : (s.setCell c w).presence = s.presence := rfl
@[simp] theorem State.setCell_deferred (s : State) (c : Nat) (w : Word) : (s.setCell c w).deferred = s.deferred := rfl
@[simp] theorem State.setCell_posted (s : State) (c : Nat) (w : Word) : (s.setCell c w).posted = s.posted := rfl
@[simp] theorem State.setCell_queues (s : State) (c : Nat) (w : Word) : (s.setCell c w).queues = s.queues := rfl
@[simp] theorem State.setCell_moved (s : State) (c : Nat) (w : Word) : (s.setCell c w).moved = s.moved := rfl
@[simp] theorem State.setCell_hushed (s : State) (c : Nat) (w : Word) : (s.setCell c w).hushed = s.hushed := rfl
@[simp] theorem State.setCell_writes (s : State) (c : Nat) (w : Word) : (s.setCell c w).writes = s.writes := rfl
@[simp] theorem State.setCell_cellChime (s : State) (c : Nat) (w : Word) : (s.setCell c w).cellChime = s.cellChime := rfl
@[simp] theorem State.setCell_cores (s : State) (c : Nat) (w : Word) : (s.setCell c w).cores = s.cores := rfl
@[simp] theorem State.setCell_agents (s : State) (c : Nat) (w : Word) : (s.setCell c w).agents = s.agents := rfl
@[simp] theorem State.setCell_parts (s : State) (c : Nat) (w : Word) : (s.setCell c w).parts = s.parts := rfl
@[simp] theorem State.setCell_saved (s : State) (c : Nat) (w : Word) : (s.setCell c w).saved = s.saved := rfl
@[simp] theorem State.setCell_savedCores (s : State) (c : Nat) (w : Word) : (s.setCell c w).savedCores = s.savedCores := rfl
@[simp] theorem State.setCell_savedAgents (s : State) (c : Nat) (w : Word) : (s.setCell c w).savedAgents = s.savedAgents := rfl
@[simp] theorem State.setCell_savedParts (s : State) (c : Nat) (w : Word) : (s.setCell c w).savedParts = s.savedParts := rfl
@[simp] theorem State.setCell_ctxs (s : State) (c : Nat) (w : Word) : (s.setCell c w).ctxs = s.ctxs := rfl
@[simp] theorem State.setCell_ringers (s : State) (c : Nat) (w : Word) : (s.setCell c w).ringers = s.ringers := rfl
@[simp] theorem State.setCell_pcbs (s : State) (c : Nat) (w : Word) : (s.setCell c w).pcbs = s.pcbs := rfl
@[simp] theorem State.setCell_dev (s : State) (c : Nat) (w : Word) : (s.setCell c w).dev = s.dev := rfl
@[simp] theorem State.setCell_outbox (s : State) (c : Nat) (w : Word) : (s.setCell c w).outbox = s.outbox := rfl
@[simp] theorem State.setCell_home_core (s : State) (c : Nat) (w : Word) (j : Nat) : (s.setCell c w).core j = s.core j := rfl
@[simp] theorem State.setCell_home_agent (s : State) (c : Nat) (w : Word) (j : Nat) : (s.setCell c w).agent j = s.agent j := rfl
@[simp] theorem State.setCell_home_part (s : State) (c : Nat) (w : Word) (j : Nat) : (s.setCell c w).part j = s.part j := rfl
@[simp] theorem State.setCell_home_pcb (s : State) (c : Nat) (w : Word) (j : Nat) : (s.setCell c w).pcb j = s.pcb j := rfl
@[simp] theorem State.setCell_home_ctx (s : State) (c : Nat) (w : Word) (j : Nat) : (s.setCell c w).ctx j = s.ctx j := rfl
@[simp] theorem State.setCell_home_ringer (s : State) (c : Nat) (w : Word) (j : Nat) : (s.setCell c w).ringer j = s.ringer j := rfl
@[simp] theorem State.setCell_home_chime (s : State) (c : Nat) (w : Word) (j : Nat) : (s.setCell c w).chime j = s.chime j := rfl

/-! `setChime` writes `cellChime` alone. -/

@[simp] theorem State.setChime_cycle (s : State) (c : Nat) (w : Word) : (s.setChime c w).cycle = s.cycle := rfl
@[simp] theorem State.setChime_time (s : State) (c : Nat) (w : Word) : (s.setChime c w).time = s.time := rfl
@[simp] theorem State.setChime_timeFrac (s : State) (c : Nat) (w : Word) : (s.setChime c w).timeFrac = s.timeFrac := rfl
@[simp] theorem State.setChime_timeOff (s : State) (c : Nat) (w : Word) : (s.setChime c w).timeOff = s.timeOff := rfl
@[simp] theorem State.setChime_agenda (s : State) (c : Nat) (w : Word) : (s.setChime c w).agenda = s.agenda := rfl
@[simp] theorem State.setChime_turn (s : State) (c : Nat) (w : Word) : (s.setChime c w).turn = s.turn := rfl
@[simp] theorem State.setChime_free (s : State) (c : Nat) (w : Word) : (s.setChime c w).free = s.free := rfl
@[simp] theorem State.setChime_arrivals (s : State) (c : Nat) (w : Word) : (s.setChime c w).arrivals = s.arrivals := rfl
@[simp] theorem State.setChime_mem (s : State) (c : Nat) (w : Word) : (s.setChime c w).mem = s.mem := rfl
@[simp] theorem State.setChime_presence (s : State) (c : Nat) (w : Word) : (s.setChime c w).presence = s.presence := rfl
@[simp] theorem State.setChime_deferred (s : State) (c : Nat) (w : Word) : (s.setChime c w).deferred = s.deferred := rfl
@[simp] theorem State.setChime_posted (s : State) (c : Nat) (w : Word) : (s.setChime c w).posted = s.posted := rfl
@[simp] theorem State.setChime_queues (s : State) (c : Nat) (w : Word) : (s.setChime c w).queues = s.queues := rfl
@[simp] theorem State.setChime_moved (s : State) (c : Nat) (w : Word) : (s.setChime c w).moved = s.moved := rfl
@[simp] theorem State.setChime_hushed (s : State) (c : Nat) (w : Word) : (s.setChime c w).hushed = s.hushed := rfl
@[simp] theorem State.setChime_writes (s : State) (c : Nat) (w : Word) : (s.setChime c w).writes = s.writes := rfl
@[simp] theorem State.setChime_cells (s : State) (c : Nat) (w : Word) : (s.setChime c w).cells = s.cells := rfl
@[simp] theorem State.setChime_cores (s : State) (c : Nat) (w : Word) : (s.setChime c w).cores = s.cores := rfl
@[simp] theorem State.setChime_agents (s : State) (c : Nat) (w : Word) : (s.setChime c w).agents = s.agents := rfl
@[simp] theorem State.setChime_parts (s : State) (c : Nat) (w : Word) : (s.setChime c w).parts = s.parts := rfl
@[simp] theorem State.setChime_saved (s : State) (c : Nat) (w : Word) : (s.setChime c w).saved = s.saved := rfl
@[simp] theorem State.setChime_savedCores (s : State) (c : Nat) (w : Word) : (s.setChime c w).savedCores = s.savedCores := rfl
@[simp] theorem State.setChime_savedAgents (s : State) (c : Nat) (w : Word) : (s.setChime c w).savedAgents = s.savedAgents := rfl
@[simp] theorem State.setChime_savedParts (s : State) (c : Nat) (w : Word) : (s.setChime c w).savedParts = s.savedParts := rfl
@[simp] theorem State.setChime_ctxs (s : State) (c : Nat) (w : Word) : (s.setChime c w).ctxs = s.ctxs := rfl
@[simp] theorem State.setChime_ringers (s : State) (c : Nat) (w : Word) : (s.setChime c w).ringers = s.ringers := rfl
@[simp] theorem State.setChime_pcbs (s : State) (c : Nat) (w : Word) : (s.setChime c w).pcbs = s.pcbs := rfl
@[simp] theorem State.setChime_dev (s : State) (c : Nat) (w : Word) : (s.setChime c w).dev = s.dev := rfl
@[simp] theorem State.setChime_outbox (s : State) (c : Nat) (w : Word) : (s.setChime c w).outbox = s.outbox := rfl
@[simp] theorem State.setChime_home_core (s : State) (c : Nat) (w : Word) (j : Nat) : (s.setChime c w).core j = s.core j := rfl
@[simp] theorem State.setChime_home_agent (s : State) (c : Nat) (w : Word) (j : Nat) : (s.setChime c w).agent j = s.agent j := rfl
@[simp] theorem State.setChime_home_part (s : State) (c : Nat) (w : Word) (j : Nat) : (s.setChime c w).part j = s.part j := rfl
@[simp] theorem State.setChime_home_pcb (s : State) (c : Nat) (w : Word) (j : Nat) : (s.setChime c w).pcb j = s.pcb j := rfl
@[simp] theorem State.setChime_home_ctx (s : State) (c : Nat) (w : Word) (j : Nat) : (s.setChime c w).ctx j = s.ctx j := rfl
@[simp] theorem State.setChime_home_ringer (s : State) (c : Nat) (w : Word) (j : Nat) : (s.setChime c w).ringer j = s.ringer j := rfl
@[simp] theorem State.setChime_home_cell (s : State) (c : Nat) (w : Word) (j : Nat) : (s.setChime c w).cell j = s.cell j := rfl

/-! `modDev` writes `dev` alone. -/

@[simp] theorem State.modDev_cycle (s : State) (f : Device → Device) : (s.modDev f).cycle = s.cycle := rfl
@[simp] theorem State.modDev_time (s : State) (f : Device → Device) : (s.modDev f).time = s.time := rfl
@[simp] theorem State.modDev_timeFrac (s : State) (f : Device → Device) : (s.modDev f).timeFrac = s.timeFrac := rfl
@[simp] theorem State.modDev_timeOff (s : State) (f : Device → Device) : (s.modDev f).timeOff = s.timeOff := rfl
@[simp] theorem State.modDev_agenda (s : State) (f : Device → Device) : (s.modDev f).agenda = s.agenda := rfl
@[simp] theorem State.modDev_turn (s : State) (f : Device → Device) : (s.modDev f).turn = s.turn := rfl
@[simp] theorem State.modDev_free (s : State) (f : Device → Device) : (s.modDev f).free = s.free := rfl
@[simp] theorem State.modDev_arrivals (s : State) (f : Device → Device) : (s.modDev f).arrivals = s.arrivals := rfl
@[simp] theorem State.modDev_mem (s : State) (f : Device → Device) : (s.modDev f).mem = s.mem := rfl
@[simp] theorem State.modDev_presence (s : State) (f : Device → Device) : (s.modDev f).presence = s.presence := rfl
@[simp] theorem State.modDev_deferred (s : State) (f : Device → Device) : (s.modDev f).deferred = s.deferred := rfl
@[simp] theorem State.modDev_posted (s : State) (f : Device → Device) : (s.modDev f).posted = s.posted := rfl
@[simp] theorem State.modDev_queues (s : State) (f : Device → Device) : (s.modDev f).queues = s.queues := rfl
@[simp] theorem State.modDev_moved (s : State) (f : Device → Device) : (s.modDev f).moved = s.moved := rfl
@[simp] theorem State.modDev_hushed (s : State) (f : Device → Device) : (s.modDev f).hushed = s.hushed := rfl
@[simp] theorem State.modDev_writes (s : State) (f : Device → Device) : (s.modDev f).writes = s.writes := rfl
@[simp] theorem State.modDev_cells (s : State) (f : Device → Device) : (s.modDev f).cells = s.cells := rfl
@[simp] theorem State.modDev_cellChime (s : State) (f : Device → Device) : (s.modDev f).cellChime = s.cellChime := rfl
@[simp] theorem State.modDev_cores (s : State) (f : Device → Device) : (s.modDev f).cores = s.cores := rfl
@[simp] theorem State.modDev_agents (s : State) (f : Device → Device) : (s.modDev f).agents = s.agents := rfl
@[simp] theorem State.modDev_parts (s : State) (f : Device → Device) : (s.modDev f).parts = s.parts := rfl
@[simp] theorem State.modDev_saved (s : State) (f : Device → Device) : (s.modDev f).saved = s.saved := rfl
@[simp] theorem State.modDev_savedCores (s : State) (f : Device → Device) : (s.modDev f).savedCores = s.savedCores := rfl
@[simp] theorem State.modDev_savedAgents (s : State) (f : Device → Device) : (s.modDev f).savedAgents = s.savedAgents := rfl
@[simp] theorem State.modDev_savedParts (s : State) (f : Device → Device) : (s.modDev f).savedParts = s.savedParts := rfl
@[simp] theorem State.modDev_ctxs (s : State) (f : Device → Device) : (s.modDev f).ctxs = s.ctxs := rfl
@[simp] theorem State.modDev_ringers (s : State) (f : Device → Device) : (s.modDev f).ringers = s.ringers := rfl
@[simp] theorem State.modDev_pcbs (s : State) (f : Device → Device) : (s.modDev f).pcbs = s.pcbs := rfl
@[simp] theorem State.modDev_outbox (s : State) (f : Device → Device) : (s.modDev f).outbox = s.outbox := rfl
@[simp] theorem State.modDev_home_core (s : State) (f : Device → Device) (j : Nat) : (s.modDev f).core j = s.core j := rfl
@[simp] theorem State.modDev_home_agent (s : State) (f : Device → Device) (j : Nat) : (s.modDev f).agent j = s.agent j := rfl
@[simp] theorem State.modDev_home_part (s : State) (f : Device → Device) (j : Nat) : (s.modDev f).part j = s.part j := rfl
@[simp] theorem State.modDev_home_pcb (s : State) (f : Device → Device) (j : Nat) : (s.modDev f).pcb j = s.pcb j := rfl
@[simp] theorem State.modDev_home_ctx (s : State) (f : Device → Device) (j : Nat) : (s.modDev f).ctx j = s.ctx j := rfl
@[simp] theorem State.modDev_home_ringer (s : State) (f : Device → Device) (j : Nat) : (s.modDev f).ringer j = s.ringer j := rfl
@[simp] theorem State.modDev_home_cell (s : State) (f : Device → Device) (j : Nat) : (s.modDev f).cell j = s.cell j := rfl
@[simp] theorem State.modDev_home_chime (s : State) (f : Device → Device) (j : Nat) : (s.modDev f).chime j = s.chime j := rfl

/-! `wr` writes `mem` alone. -/

@[simp] theorem wr_cycle (s : State) (k : Nat) (l : List Byte) : (wr s k l).cycle = s.cycle := rfl
@[simp] theorem wr_time (s : State) (k : Nat) (l : List Byte) : (wr s k l).time = s.time := rfl
@[simp] theorem wr_timeFrac (s : State) (k : Nat) (l : List Byte) : (wr s k l).timeFrac = s.timeFrac := rfl
@[simp] theorem wr_timeOff (s : State) (k : Nat) (l : List Byte) : (wr s k l).timeOff = s.timeOff := rfl
@[simp] theorem wr_agenda (s : State) (k : Nat) (l : List Byte) : (wr s k l).agenda = s.agenda := rfl
@[simp] theorem wr_turn (s : State) (k : Nat) (l : List Byte) : (wr s k l).turn = s.turn := rfl
@[simp] theorem wr_free (s : State) (k : Nat) (l : List Byte) : (wr s k l).free = s.free := rfl
@[simp] theorem wr_arrivals (s : State) (k : Nat) (l : List Byte) : (wr s k l).arrivals = s.arrivals := rfl
@[simp] theorem wr_presence (s : State) (k : Nat) (l : List Byte) : (wr s k l).presence = s.presence := rfl
@[simp] theorem wr_deferred (s : State) (k : Nat) (l : List Byte) : (wr s k l).deferred = s.deferred := rfl
@[simp] theorem wr_posted (s : State) (k : Nat) (l : List Byte) : (wr s k l).posted = s.posted := rfl
@[simp] theorem wr_queues (s : State) (k : Nat) (l : List Byte) : (wr s k l).queues = s.queues := rfl
@[simp] theorem wr_moved (s : State) (k : Nat) (l : List Byte) : (wr s k l).moved = s.moved := rfl
@[simp] theorem wr_cells (s : State) (k : Nat) (l : List Byte) : (wr s k l).cells = s.cells := rfl
@[simp] theorem wr_cellChime (s : State) (k : Nat) (l : List Byte) : (wr s k l).cellChime = s.cellChime := rfl
@[simp] theorem wr_cores (s : State) (k : Nat) (l : List Byte) : (wr s k l).cores = s.cores := rfl
@[simp] theorem wr_agents (s : State) (k : Nat) (l : List Byte) : (wr s k l).agents = s.agents := rfl
@[simp] theorem wr_parts (s : State) (k : Nat) (l : List Byte) : (wr s k l).parts = s.parts := rfl
@[simp] theorem wr_saved (s : State) (k : Nat) (l : List Byte) : (wr s k l).saved = s.saved := rfl
@[simp] theorem wr_savedCores (s : State) (k : Nat) (l : List Byte) : (wr s k l).savedCores = s.savedCores := rfl
@[simp] theorem wr_savedAgents (s : State) (k : Nat) (l : List Byte) : (wr s k l).savedAgents = s.savedAgents := rfl
@[simp] theorem wr_savedParts (s : State) (k : Nat) (l : List Byte) : (wr s k l).savedParts = s.savedParts := rfl
@[simp] theorem wr_ctxs (s : State) (k : Nat) (l : List Byte) : (wr s k l).ctxs = s.ctxs := rfl
@[simp] theorem wr_ringers (s : State) (k : Nat) (l : List Byte) : (wr s k l).ringers = s.ringers := rfl
@[simp] theorem wr_pcbs (s : State) (k : Nat) (l : List Byte) : (wr s k l).pcbs = s.pcbs := rfl
@[simp] theorem wr_dev (s : State) (k : Nat) (l : List Byte) : (wr s k l).dev = s.dev := rfl
@[simp] theorem wr_outbox (s : State) (k : Nat) (l : List Byte) : (wr s k l).outbox = s.outbox := rfl
@[simp] theorem wr_home_core (s : State) (k : Nat) (l : List Byte) (j : Nat) : (wr s k l).core j = s.core j := rfl
@[simp] theorem wr_home_agent (s : State) (k : Nat) (l : List Byte) (j : Nat) : (wr s k l).agent j = s.agent j := rfl
@[simp] theorem wr_home_part (s : State) (k : Nat) (l : List Byte) (j : Nat) : (wr s k l).part j = s.part j := rfl
@[simp] theorem wr_home_pcb (s : State) (k : Nat) (l : List Byte) (j : Nat) : (wr s k l).pcb j = s.pcb j := rfl
@[simp] theorem wr_home_ctx (s : State) (k : Nat) (l : List Byte) (j : Nat) : (wr s k l).ctx j = s.ctx j := rfl
@[simp] theorem wr_home_ringer (s : State) (k : Nat) (l : List Byte) (j : Nat) : (wr s k l).ringer j = s.ringer j := rfl
@[simp] theorem wr_home_cell (s : State) (k : Nat) (l : List Byte) (j : Nat) : (wr s k l).cell j = s.cell j := rfl
@[simp] theorem wr_home_chime (s : State) (k : Nat) (l : List Byte) (j : Nat) : (wr s k l).chime j = s.chime j := rfl

/-! `sched` writes `agenda` alone. -/

@[simp] theorem sched_cycle (s : State) (n : Nat) (i : Instr) : (sched s n i).cycle = s.cycle := rfl
@[simp] theorem sched_time (s : State) (n : Nat) (i : Instr) : (sched s n i).time = s.time := rfl
@[simp] theorem sched_timeFrac (s : State) (n : Nat) (i : Instr) : (sched s n i).timeFrac = s.timeFrac := rfl
@[simp] theorem sched_timeOff (s : State) (n : Nat) (i : Instr) : (sched s n i).timeOff = s.timeOff := rfl
@[simp] theorem sched_turn (s : State) (n : Nat) (i : Instr) : (sched s n i).turn = s.turn := rfl
@[simp] theorem sched_free (s : State) (n : Nat) (i : Instr) : (sched s n i).free = s.free := rfl
@[simp] theorem sched_arrivals (s : State) (n : Nat) (i : Instr) : (sched s n i).arrivals = s.arrivals := rfl
@[simp] theorem sched_mem (s : State) (n : Nat) (i : Instr) : (sched s n i).mem = s.mem := rfl
@[simp] theorem sched_presence (s : State) (n : Nat) (i : Instr) : (sched s n i).presence = s.presence := rfl
@[simp] theorem sched_deferred (s : State) (n : Nat) (i : Instr) : (sched s n i).deferred = s.deferred := rfl
@[simp] theorem sched_posted (s : State) (n : Nat) (i : Instr) : (sched s n i).posted = s.posted := rfl
@[simp] theorem sched_queues (s : State) (n : Nat) (i : Instr) : (sched s n i).queues = s.queues := rfl
@[simp] theorem sched_moved (s : State) (n : Nat) (i : Instr) : (sched s n i).moved = s.moved := rfl
@[simp] theorem sched_hushed (s : State) (n : Nat) (i : Instr) : (sched s n i).hushed = s.hushed := rfl
@[simp] theorem sched_writes (s : State) (n : Nat) (i : Instr) : (sched s n i).writes = s.writes := rfl
@[simp] theorem sched_cells (s : State) (n : Nat) (i : Instr) : (sched s n i).cells = s.cells := rfl
@[simp] theorem sched_cellChime (s : State) (n : Nat) (i : Instr) : (sched s n i).cellChime = s.cellChime := rfl
@[simp] theorem sched_cores (s : State) (n : Nat) (i : Instr) : (sched s n i).cores = s.cores := rfl
@[simp] theorem sched_agents (s : State) (n : Nat) (i : Instr) : (sched s n i).agents = s.agents := rfl
@[simp] theorem sched_parts (s : State) (n : Nat) (i : Instr) : (sched s n i).parts = s.parts := rfl
@[simp] theorem sched_saved (s : State) (n : Nat) (i : Instr) : (sched s n i).saved = s.saved := rfl
@[simp] theorem sched_savedCores (s : State) (n : Nat) (i : Instr) : (sched s n i).savedCores = s.savedCores := rfl
@[simp] theorem sched_savedAgents (s : State) (n : Nat) (i : Instr) : (sched s n i).savedAgents = s.savedAgents := rfl
@[simp] theorem sched_savedParts (s : State) (n : Nat) (i : Instr) : (sched s n i).savedParts = s.savedParts := rfl
@[simp] theorem sched_ctxs (s : State) (n : Nat) (i : Instr) : (sched s n i).ctxs = s.ctxs := rfl
@[simp] theorem sched_ringers (s : State) (n : Nat) (i : Instr) : (sched s n i).ringers = s.ringers := rfl
@[simp] theorem sched_pcbs (s : State) (n : Nat) (i : Instr) : (sched s n i).pcbs = s.pcbs := rfl
@[simp] theorem sched_dev (s : State) (n : Nat) (i : Instr) : (sched s n i).dev = s.dev := rfl
@[simp] theorem sched_outbox (s : State) (n : Nat) (i : Instr) : (sched s n i).outbox = s.outbox := rfl
@[simp] theorem sched_home_core (s : State) (n : Nat) (i : Instr) (j : Nat) : (sched s n i).core j = s.core j := rfl
@[simp] theorem sched_home_agent (s : State) (n : Nat) (i : Instr) (j : Nat) : (sched s n i).agent j = s.agent j := rfl
@[simp] theorem sched_home_part (s : State) (n : Nat) (i : Instr) (j : Nat) : (sched s n i).part j = s.part j := rfl
@[simp] theorem sched_home_pcb (s : State) (n : Nat) (i : Instr) (j : Nat) : (sched s n i).pcb j = s.pcb j := rfl
@[simp] theorem sched_home_ctx (s : State) (n : Nat) (i : Instr) (j : Nat) : (sched s n i).ctx j = s.ctx j := rfl
@[simp] theorem sched_home_ringer (s : State) (n : Nat) (i : Instr) (j : Nat) : (sched s n i).ringer j = s.ringer j := rfl
@[simp] theorem sched_home_cell (s : State) (n : Nat) (i : Instr) (j : Nat) : (sched s n i).cell j = s.cell j := rfl
@[simp] theorem sched_home_chime (s : State) (n : Nat) (i : Instr) (j : Nat) : (sched s n i).chime j = s.chime j := rfl

/-! `schedFree` writes `agenda` and `free` alone. -/

@[simp] theorem schedFree_cycle (s : State) (i : Instr) : (schedFree s i).cycle = s.cycle := rfl
@[simp] theorem schedFree_time (s : State) (i : Instr) : (schedFree s i).time = s.time := rfl
@[simp] theorem schedFree_timeFrac (s : State) (i : Instr) : (schedFree s i).timeFrac = s.timeFrac := rfl
@[simp] theorem schedFree_timeOff (s : State) (i : Instr) : (schedFree s i).timeOff = s.timeOff := rfl
@[simp] theorem schedFree_turn (s : State) (i : Instr) : (schedFree s i).turn = s.turn := rfl
@[simp] theorem schedFree_arrivals (s : State) (i : Instr) : (schedFree s i).arrivals = s.arrivals := rfl
@[simp] theorem schedFree_mem (s : State) (i : Instr) : (schedFree s i).mem = s.mem := rfl
@[simp] theorem schedFree_presence (s : State) (i : Instr) : (schedFree s i).presence = s.presence := rfl
@[simp] theorem schedFree_deferred (s : State) (i : Instr) : (schedFree s i).deferred = s.deferred := rfl
@[simp] theorem schedFree_posted (s : State) (i : Instr) : (schedFree s i).posted = s.posted := rfl
@[simp] theorem schedFree_queues (s : State) (i : Instr) : (schedFree s i).queues = s.queues := rfl
@[simp] theorem schedFree_moved (s : State) (i : Instr) : (schedFree s i).moved = s.moved := rfl
@[simp] theorem schedFree_hushed (s : State) (i : Instr) : (schedFree s i).hushed = s.hushed := rfl
@[simp] theorem schedFree_writes (s : State) (i : Instr) : (schedFree s i).writes = s.writes := rfl
@[simp] theorem schedFree_cells (s : State) (i : Instr) : (schedFree s i).cells = s.cells := rfl
@[simp] theorem schedFree_cellChime (s : State) (i : Instr) : (schedFree s i).cellChime = s.cellChime := rfl
@[simp] theorem schedFree_cores (s : State) (i : Instr) : (schedFree s i).cores = s.cores := rfl
@[simp] theorem schedFree_agents (s : State) (i : Instr) : (schedFree s i).agents = s.agents := rfl
@[simp] theorem schedFree_parts (s : State) (i : Instr) : (schedFree s i).parts = s.parts := rfl
@[simp] theorem schedFree_saved (s : State) (i : Instr) : (schedFree s i).saved = s.saved := rfl
@[simp] theorem schedFree_savedCores (s : State) (i : Instr) : (schedFree s i).savedCores = s.savedCores := rfl
@[simp] theorem schedFree_savedAgents (s : State) (i : Instr) : (schedFree s i).savedAgents = s.savedAgents := rfl
@[simp] theorem schedFree_savedParts (s : State) (i : Instr) : (schedFree s i).savedParts = s.savedParts := rfl
@[simp] theorem schedFree_ctxs (s : State) (i : Instr) : (schedFree s i).ctxs = s.ctxs := rfl
@[simp] theorem schedFree_ringers (s : State) (i : Instr) : (schedFree s i).ringers = s.ringers := rfl
@[simp] theorem schedFree_pcbs (s : State) (i : Instr) : (schedFree s i).pcbs = s.pcbs := rfl
@[simp] theorem schedFree_dev (s : State) (i : Instr) : (schedFree s i).dev = s.dev := rfl
@[simp] theorem schedFree_outbox (s : State) (i : Instr) : (schedFree s i).outbox = s.outbox := rfl
@[simp] theorem schedFree_home_core (s : State) (i : Instr) (j : Nat) : (schedFree s i).core j = s.core j := rfl
@[simp] theorem schedFree_home_agent (s : State) (i : Instr) (j : Nat) : (schedFree s i).agent j = s.agent j := rfl
@[simp] theorem schedFree_home_part (s : State) (i : Instr) (j : Nat) : (schedFree s i).part j = s.part j := rfl
@[simp] theorem schedFree_home_pcb (s : State) (i : Instr) (j : Nat) : (schedFree s i).pcb j = s.pcb j := rfl
@[simp] theorem schedFree_home_ctx (s : State) (i : Instr) (j : Nat) : (schedFree s i).ctx j = s.ctx j := rfl
@[simp] theorem schedFree_home_ringer (s : State) (i : Instr) (j : Nat) : (schedFree s i).ringer j = s.ringer j := rfl
@[simp] theorem schedFree_home_cell (s : State) (i : Instr) (j : Nat) : (schedFree s i).cell j = s.cell j := rfl
@[simp] theorem schedFree_home_chime (s : State) (i : Instr) (j : Nat) : (schedFree s i).chime j = s.chime j := rfl

end Sys2Proof.Machine
end

