-- ==== Sys2Proof/Laws/Ops.lean ====
section
/-! SUPPORT. What each shared operation comes to: running a meaning for the agent that has the turn, waiting, the end of an
access, its arrival, the taking of a fault; and that each keeps memory canonical. -/

namespace Sys2Proof.Machine

open Sys2Proof

/-! ## Running a meaning (Ops.lean) -/

/-- At the agent's turn its function decides; a meaning of an agent never stops the machine there. -/
theorem onAgent_at {s : State} {g : Agent} (h : s.atTurn g) (f : Agent → State) : onAgent s f = .next (f g) := by
  have e : s.agent (agentKey g.core g.slot) = some g := h.2
  simp [onAgent, h.1, e]

/-- All an agent's meaning can come to: a next state at an agent's turn, or the stop that no step makes. -/
theorem onAgent_cases (s : State) (f : Agent → State) :
    (∃ g, s.turn = .agent g.core g.slot ∧ onAgent s f = .next (f g)) ∨
    (∃ c k g, s.turn = .agent c k ∧ s.agent (agentKey c k) = some g ∧ onAgent s f = .next (f g)) ∨
    onAgent s f = .fault .noExecutor := by
  unfold onAgent
  split
  · split
    · exact .inr (.inl ⟨_, _, _, ‹_›, ‹_›, rfl⟩)
    · exact .inr (.inr rfl)
  · exact .inr (.inr rfl)

theorem agentOp_ok {s : State} {g h : Agent} (a : s.atTurn g) (f : Agent → Eff) (e : f g = .ok h) :
    agentOp s f = .next (s.setAgent g.key h) := by simp [agentOp, onAgent_at a, e]

theorem agentOp_trap {s : State} {g h : Agent} (a : s.atTurn g) (f : Agent → Eff) {c : Nat} {w : Word} {l : Nat}
    (e : f g = .trap h c w l) : agentOp s f = .next (faultNow (s.setAgent g.key h) h c w l) := by
  simp [agentOp, onAgent_at a, e]

theorem cellOnly_cell {s : State} {g : Agent} (a : s.atTurn g) (h : g.service = false) (c : Nat) (f : Agent → State) :
    cellOnly s c f = .next (f g) := by simp [cellOnly, onAgent_at a, h]

theorem cellOnly_service {s : State} {g : Agent} (a : s.atTurn g) (h : g.service = true) (c : Nat) (f : Agent → State) :
    cellOnly s c f = .next (faultNow s g c) := by simp [cellOnly, onAgent_at a, h]

theorem serviceOnly_service {s : State} {g : Agent} (a : s.atTurn g) (h : g.service = true) (c : Nat) (f : Agent → State) :
    serviceOnly s c f = .next (f g) := by simp [serviceOnly, onAgent_at a, h]

theorem serviceOnly_cell {s : State} {g : Agent} (a : s.atTurn g) (h : g.service = false) (c : Nat) (f : Agent → State) :
    serviceOnly s c f = .next (faultNow s g c) := by simp [serviceOnly, onAgent_at a, h]

/-! ## Waiting (R321) -/

@[simp] theorem attempt_wait (s : State) (g : Agent) : attempt s g .wait = s := rfl
@[simp] theorem attempt_go (s t : State) (g : Agent) : attempt s g (.go t) = t := rfl
@[simp] theorem attempt_trap (s : State) (g : Agent) (c : Nat) (a : Word) : attempt s g (.trap c a) = faultNow s g c a := rfl
@[simp] theorem attempt_blamed (s : State) (g : Agent) (b : Blame) (a : Word) :
    attempt s g (.blamed b a) = faultBlamed s g b a false := rfl

/-! ## The end of an access -/

/-- The last access of an agent leaves its list and is counted out; nothing else of the state changes. -/
theorem finishAccess_last (s : State) (g h : Agent) (a : Access) (ho : h.outs = [a]) :
    finishAccess (s.setAgent g.key h) g.key a.id = s.setAgent g.key (h.over a) := by
  simp [finishAccess, Agent.finish, Agent.over, dropFences, ho]

theorem finishAccess_alone (s : State) (g : Agent) (a : Access) (hs : s.agent g.key = some g) (ho : g.outs = [a]) :
    finishAccess s g.key a.id = s.setAgent g.key (g.over a) := by
  simp [finishAccess, hs, Agent.finish, Agent.over, dropFences, ho]

theorem findSome_none {α β : Type} (l : List α) : l.findSome? (fun _ => (none : Option β)) = none := by
  induction l <;> simp_all

/-- Where no injection is armed, genuine data passes every unit (R205). -/
theorem transit_quiet (s : State) (us : List W32) (e : Event) (h : s.dev.injections = []) (g : e.expected = e.found) :
    transit s us e = (s, none) := by
  have : us.findSome? (fun u => s.dev.injections.find? fun i => i.unit = u) = none := by rw [h]; simp [findSome_none]
  simp [transit, this, g]

theorem passPart_quiet (s : State) (g : Agent) (a : Access) (i : Nat) (p : Place) (h : s.dev.injections = []) :
    passPart s g a i p = (s, none) := transit_quiet s _ _ h rfl

/-- An access that nothing holds back is delivered when its event comes: any but that of a gather or scatter, which goes lane
by lane, a wide one in this module's memory, which goes granule by granule, and one whose data wakes drowsy vector registers. -/
theorem arrive_alone (s : State) (g : Agent) (a : Access) (h : s.alone g a .moving) (l : a.op.byLane = false)
    (b : a.byGranule = false) (v : g.drowsy = false ∨ a.op.toVector = false) : arrive s g.core g.slot a.id = deliver s g a := by
  obtain ⟨h1, h2, h3, h4, h5, h6, h7⟩ := h
  have : s.agent (agentKey g.core g.slot) = some g := h1
  have w : ¬(g.drowsy = true ∧ a.op.toVector = true) := by rcases v with v | v <;> simp [v]
  simp only [arrive, this, h2, List.find?_cons_of_pos, decide_true, h3, ne_eq, not_true_eq_false, if_false, w, l, b, Bool.false_eq_true,
    false_and]
  simp [postedDead, h4, mayPerform, h2, earlier, postedBlocks, postedAt, mmaHolds, mmaAt, mmaUnread, h5, fencedOn, h6, checked,
    passPart_quiet _ _ _ _ _ h7]
  cases firstPlace a <;> rfl

/-! ## Changes that leave memory as it is -/

@[simp] theorem State.modCore_mem (s : State) (c : Nat) (f : Core → Core) : (s.modCore c f).mem = s.mem := rfl
@[simp] theorem State.modPcb_mem (s : State) (c : Nat) (f : Pcb → Pcb) : (s.modPcb c f).mem = s.mem := rfl
@[simp] theorem State.modAgent_mem (s : State) (k : Nat) (f : Agent → Agent) : (s.modAgent k f).mem = s.mem := by
  unfold State.modAgent; split <;> rfl
@[simp] theorem State.modPart_mem (s : State) (n : Nat) (f : Part → Part) : (s.modPart n f).mem = s.mem := by
  unfold State.modPart; split <;> rfl
@[simp] theorem State.modRec_mem (s : State) (n i : Nat) (f : Record → Record) : (s.modRec n i f).mem = s.mem := by
  unfold State.modRec; simp
@[simp] theorem State.modAgentsOf_mem (s : State) (n i : Nat) (f : Agent → Agent) : (s.modAgentsOf n i f).mem = s.mem := rfl
@[simp] theorem schedOnce_mem (s : State) (n : Nat) (i : Instr) : (schedOnce s n i).mem = s.mem := by
  unfold schedOnce; split <;> rfl
@[simp] theorem endStep_mem (s : State) (g : Agent) : (endStep s g).mem = s.mem := by simp [endStep]
@[simp] theorem tlbInsert_mem (s : State) (c : Nat) (e : TlbEntry) : (tlbInsert s c e).mem = s.mem := by
  simp only [tlbInsert]; split <;> rfl
@[simp] theorem finishAccess_mem (s : State) (k i : Nat) : (finishAccess s k i).mem = s.mem := by
  unfold finishAccess; split <;> rfl
@[simp] theorem lateFault_mem (s : State) (k : Nat) (f : AFault) : (lateFault s k f).mem = s.mem := by
  unfold lateFault; split <;> simp
@[simp] theorem failWith_mem (s : State) (g : Agent) (a : Access) (t : Trap) (b : Bool) : (failWith s g a t b).mem = s.mem := by
  unfold failWith; rw [lateFault_mem]; split <;> simp
@[simp] theorem failAccess_mem (s : State) (g : Agent) (a : Access) (c : Nat) (w : Word) (l : Nat) (b : Bool) :
    (failAccess s g a c w l b).mem = s.mem := by simp [failAccess]
@[simp] theorem condemned_mem (s : State) (g : Agent) (a : Access) (b : Blame) (w : Word) (l : Nat) :
    (condemned s g a b w l).mem = s.mem := by simp [condemned]

/-! ## Operations that keep memory canonical -/

theorem traceState_memOk (s : State) (n : Nat) (r : Record) (x : RecState) (c : Nat) (h : s.memOk) : (traceState s n r x c).memOk := by
  unfold traceState; split
  · exact h
  · split
    · exact appendRecord_memOk _ _ _ h
    · exact h

theorem setRecState_memOk (s : State) (n i : Nat) (x : RecState) (c : Nat) (h : s.memOk) : (setRecState s n i x c).memOk := by
  unfold setRecState; split
  · exact h
  · exact State.memOk_of_mem (State.modRec_mem _ _ _ _) (by
      split
      · exact h
      · exact traceState_memOk s n _ x c h)

@[simp] theorem untrapAgent_mem (s : State) (x : Agent) : (untrapAgent s x).mem = s.mem := by simp [untrapAgent]

theorem trapAgent_memOk (s : State) (r : Record) (g : Agent) (f : AFault) (h : s.memOk) : (trapAgent s r g f).memOk := by
  have k := setRecState_memOk s g.part g.rid .faulted f.trap.cause h
  simp only [trapAgent]
  repeat' split
  all_goals exact State.memOk_of_mem (by simp) k

/-- Taking a fault appends at most a trace record to memory. -/
theorem agentFault_memOk (s : State) (g : Agent) (f : AFault) (h : s.memOk) : (agentFault s g f).memOk := by
  unfold agentFault
  dsimp only
  generalize hs : (if g.stepLeft.isSome = true then endStep s g else s) = u
  have hu : u.memOk := by
    rw [← hs]; split
    · exact State.memOk_of_mem (endStep_mem s g) h
    · exact h
  generalize (if g.stepLeft.isSome = true then _ else g) = k
  repeat' split
  all_goals first
    | exact hu
    | exact trapAgent_memOk _ _ _ _ hu
    | exact trapAgent_memOk _ _ _ _ (State.memOk_of_mem (untrapAgent_mem _ _) hu)
    | exact State.memOk_of_mem (State.modAgent_mem ..) hu
    | exact State.memOk_of_mem (schedOnce_mem ..) (State.memOk_of_mem (State.modPart_mem ..) hu)

theorem faultNow_memOk (s : State) (g : Agent) (c : Nat) (w : Word) (l : Nat) (h : s.memOk) : (faultNow s g c w l).memOk :=
  agentFault_memOk s g _ h

theorem faultBlamed_memOk (s : State) (g : Agent) (b : Blame) (w : Word) (p : Bool) (h : s.memOk) : (faultBlamed s g b w p).memOk :=
  agentFault_memOk s g _ h

/-- A meaning whose function keeps memory canonical keeps it. -/
theorem onAgent_memOk {s t : State} {f : Agent → State} (h : ∀ g, (f g).memOk) (e : onAgent s f = .next t) : t.memOk := by
  unfold onAgent at e
  split at e
  · split at e
    · cases e; exact h _
    · cases e
  · cases e

theorem agentOp_memOk {s t : State} {f : Agent → Eff} (h : s.memOk) (e : agentOp s f = .next t) : t.memOk := by
  refine onAgent_memOk (fun g => ?_) e
  split
  · exact h
  · exact faultNow_memOk _ _ _ _ _ h

theorem cellOnly_memOk {s t : State} {c : Nat} {f : Agent → State} (h : s.memOk) (hf : ∀ g, (f g).memOk)
    (e : cellOnly s c f = .next t) : t.memOk := by
  refine onAgent_memOk (fun g => ?_) e
  split
  · exact faultNow_memOk _ _ _ _ _ h
  · exact hf g

theorem serviceOnly_memOk {s t : State} {c : Nat} {f : Agent → State} (h : s.memOk) (hf : ∀ g, (f g).memOk)
    (e : serviceOnly s c f = .next t) : t.memOk := by
  refine onAgent_memOk (fun g => ?_) e
  split
  · exact hf g
  · exact faultNow_memOk _ _ _ _ _ h

/-! ## Accesses keep memory canonical -/

@[simp] theorem answerAsker_mem (s : State) (v : Word) (w : Asker) (b : Bool) : (answerAsker s v w b).mem = s.mem := by
  unfold answerAsker; split <;> simp

@[simp] theorem answerAll_mem (s : State) (pa : Nat) (v : Word) : (answerAll s pa v).mem = s.mem := by
  simp only [answerAll]
  exact foldl_inv (fun t : State => t.mem = s.mem) _ (fun t d e => by simp [e]) _ _ rfl

@[simp] theorem presenceRead_mem (s : State) (pa : Nat) (w : Asker) : (presenceRead s pa w).mem = s.mem := by
  unfold presenceRead; split
  · exact answerAsker_mem ..
  · split
    · rfl
    · split <;> rfl

theorem presenceWrite_memOk (s : State) (pa : Nat) (x : Presence) (v : Word) (h : s.memOk) : (presenceWrite s pa x v).memOk :=
  State.memOk_of_mem (answerAll_mem _ _ _) (wr_memOk s _ _ h)

theorem presenceClear_memOk (s : State) (pa : Nat) (h : s.memOk) : (presenceClear s pa).memOk := wr_memOk s _ _ h

/-- The words of a scatter, each to its place. -/
theorem scatter_memOk (s : State) (l : List Loc) (w : List W32) (h : s.memOk) :
    ((l.zip w).foldl (fun t lw => wrPlace t lw.1.place (of32 lw.2)) s).memOk :=
  foldl_inv _ _ (fun t _ ht => wrPlace_memOk t _ _ ht) _ _ h

set_option maxHeartbeats 1000000 in
/-- An access performed at its home keeps memory canonical. -/
theorem perform_memOk (s : State) (g : Agent) (a : Access) (h : s.memOk) : (perform s g a).memOk := by
  have done : ∀ t : State, t.memOk → (finishAccess t g.key a.id).memOk := fun t ht => State.memOk_of_mem (finishAccess_mem _ _ _) ht
  delta perform
  dsimp only
  generalize a.op = o
  generalize a.locs = l
  rcases o with _ | _ | _ | _ | _ | _ | _ | _ | _ | _ | _ | _ | _ | _ | _ <;> rcases l with _ | ⟨⟨_ | _ | _, _⟩, _⟩ <;> dsimp only
  all_goals first
    | exact done _ h
    | exact done _ (wrPlace_memOk _ _ _ h)
    | exact done _ (scatter_memOk _ _ _ h)
    | exact done _ (presenceClear_memOk _ _ h)
    | exact done _ (presenceWrite_memOk _ _ _ _ h)
    | exact State.memOk_of_mem (schedOnce_mem _ _ _) (done _ (wrPlace_memOk _ _ _ (wrPlace_memOk _ _ _ h)))
    | (refine done _ (State.memOk_of_mem (State.setAgent_mem _ _ _) ?_); split <;> first | exact wrPlace_memOk _ _ _ h | exact h)
    | (split <;> first
        | exact State.memOk_of_mem (failAccess_mem _ _ _ _ _ _ _) h
        | exact State.memOk_of_mem (presenceRead_mem _ _ _) h
        | exact done _ (presenceWrite_memOk _ _ _ _ h))

theorem postAgent_memOk (s : State) (k i : Nat) (l : Place) (b : List Byte) (y : Bool) (h : s.memOk) :
    (postAgent s k i l b y).memOk := by
  unfold postAgent; split
  · exact h
  · exact postFar_memOk _ _ _ _ _ h

theorem sendPeer_memOk (s : State) (g : Agent) (a : Access) (sl pa : Nat) (h : s.memOk) : (sendPeer s g a sl pa).memOk := by
  unfold sendPeer
  split
  · exact State.memOk_of_mem (failAccess_mem ..) h
  · split
    · exact State.memOk_of_mem (finishAccess_mem ..) (postAgent_memOk _ _ _ _ _ _ h)
    · exact State.memOk_of_mem (State.modAgent_mem ..) h

theorem postHost_memOk (s : State) (g : Agent) (a : Access) (n : Nat) (b : List Byte) (h : s.memOk) : (postHost s g a n b).memOk :=
  State.memOk_of_mem (finishAccess_mem ..) (postAgent_memOk _ _ _ _ _ _ h)

theorem deliver_memOk (s : State) (g : Agent) (a : Access) (h : s.memOk) : (deliver s g a).memOk := by
  unfold deliver
  split
  · exact perform_memOk _ _ _ h
  · exact sendPeer_memOk _ _ _ _ _ h
  · split
    · exact postHost_memOk _ _ _ _ _ h
    · exact perform_memOk _ _ _ h
  · exact perform_memOk _ _ _ h

theorem startTest_mem (s : State) (u : W32) (n : Nat) (f : Option Bool) : (startTest s u n f).mem = s.mem := by
  simp only [startTest]; split <;> rfl

theorem blame_memOk (s : State) (u : W32) (e : Event) (h : s.memOk) : (blame s u e).1.memOk :=
  State.memOk_of_mem (startTest_mem ..) (State.memOk_of_mem (State.modDev_mem ..) (wr_memOk s _ _ h))

theorem transit_memOk (s : State) (us : List W32) (e : Event) (h : s.memOk) : (transit s us e).1.memOk := by
  simp only [transit]
  split
  · exact blame_memOk _ _ _ h
  · split
    · exact h
    · split
      · exact h
      · exact blame_memOk _ _ _ h

theorem passPart_memOk (s : State) (g : Agent) (a : Access) (i : Nat) (p : Place) (h : s.memOk) : (passPart s g a i p).1.memOk :=
  transit_memOk _ _ _ h

theorem checked_memOk (s : State) (g : Agent) (a : Access) (h : s.memOk) : (checked s g a).memOk := by
  unfold checked
  split
  · exact deliver_memOk _ _ _ h
  · dsimp only
    split
    · exact deliver_memOk _ _ _ (passPart_memOk _ _ _ _ _ h)
    · exact State.memOk_of_mem (condemned_mem ..) (passPart_memOk _ _ _ _ _ h)

/-! ## Lanes -/

theorem closeLanes_memOk (s : State) (k i : Nat) (h : s.memOk) : (closeLanes s k i).memOk := by
  unfold closeLanes
  split
  · exact h
  · split
    · exact h
    · split
      · exact h
      · exact State.memOk_of_mem (finishAccess_mem ..) h

theorem doLane_memOk (s : State) (k id i : Nat) (h : s.memOk) : (doLane s k id i).1.memOk := by
  unfold doLane
  split
  · exact h
  · rename_i g _
    split
    · exact h
    · rename_i a _
      split
      · exact h
      · rename_i l _
        have hp := passPart_memOk s g a i l.place h
        dsimp only
        generalize passPart s g a i l.place = r at hp ⊢
        obtain ⟨u, _ | b⟩ := r <;> dsimp only
        · split
          · exact State.memOk_of_mem (failAccess_mem ..) hp
          · split
            all_goals first
              | exact State.memOk_of_mem (State.modAgent_mem ..) (wr_memOk _ _ _ hp)
              | exact State.memOk_of_mem (State.modAgent_mem ..) (postAgent_memOk _ _ _ _ _ _ hp)
              | exact State.memOk_of_mem (State.modAgent_mem ..) hp
        · exact State.memOk_of_mem (condemned_mem ..) hp

theorem doParts_memOk (s : State) (g : Agent) (a : Access) (l : List Nat) (h : s.memOk) : (doParts s g a l).1.memOk :=
  foldl_inv (fun x : State × Bool => x.1.memOk) _ (fun x i hx => by
    split
    · exact doLane_memOk _ _ _ _ hx
    · exact hx) _ _ h

theorem schedOnce_memOk (s : State) (n : Nat) (i : Instr) (h : s.memOk) : (schedOnce s n i).memOk :=
  State.memOk_of_mem (schedOnce_mem ..) h

theorem doLanes_memOk (s : State) (g : Agent) (a : Access) (h : s.memOk) : (doLanes s g a).memOk := by
  have k := doParts_memOk s g a (freeParts s g a) h
  unfold doLanes
  dsimp only
  split
  · exact k
  · refine closeLanes_memOk _ _ _ ?_
    split
    · exact k
    · exact schedOnce_memOk _ _ _ k

theorem doGranules_memOk (s : State) (g : Agent) (a : Access) (h : s.memOk) : (doGranules s g a).memOk := by
  unfold doGranules
  dsimp only
  generalize hr : doParts _ g a _ = r
  have k : r.1.memOk := hr ▸ doParts_memOk _ _ _ _ h
  have c := closeLanes_memOk r.1 g.key a.id k
  split
  · exact k
  · split
    · split
      · exact c
      · exact c
    · exact c

theorem arrive_memOk (s : State) (c k i : Nat) (h : s.memOk) : (arrive s c k i).memOk := by
  unfold arrive
  have again : ∀ (t : State) (n : Nat) (e : Instr), t.memOk → (sched t n e).memOk := fun t _ _ ht => ht
  split
  · exact h
  · split
    · exact h
    · repeat' (with_reducible split)
      all_goals with_reducible first
        | exact h
        | exact doLanes_memOk _ _ _ h
        | exact doGranules_memOk _ _ _ h
        | exact State.memOk_of_mem (failAccess_mem ..) h
        | exact checked_memOk _ _ _ h
        | exact again _ _ _ h
        | exact again _ _ _ (State.memOk_of_mem (State.setAgent_mem ..) h)

theorem launchAccess_memOk (s : State) (g : Agent) (a : Access) (h : s.memOk) : (launchAccess s g a).memOk := by
  unfold launchAccess
  dsimp only
  repeat' split
  all_goals first
    | exact h
    | exact perform_memOk _ _ _ h

theorem issueAccess_memOk (s : State) (g : Agent) (c : Option Cls) (o : AccOp) (v : List Word) (n : Nat) (q r : Bool) (x : Scope)
    (h : s.memOk) : (issueAccess s g c o v n q r x).memOk := by
  unfold issueAccess
  split
  · exact faultNow_memOk _ _ _ _ _ h
  · exact launchAccess_memOk _ _ _ h

end Sys2Proof.Machine
end

