-- ==== Sys2Proof/Laws/Engines.lean ====
section
/-! SUPPORT. What the reads and writes of a stream context and of a ringer do where no unit is under test and no injection armed. -/

namespace Sys2Proof.Machine

open Sys2Proof

/-- Data that an engine moves carries one chime word, that of its bytes or a free one (R199). -/
theorem piecesEvent_genuine (s : State) (asid : Nat) (a : Word) (ps : List Piece) (l : List Byte) :
    (piecesEvent s asid a ps l).expected = (piecesEvent s asid a ps l).found := by
  cases ps <;> rfl

theorem fencedOn_quiet (s : State) (us : List W32) (h : s.quietUnits) : fencedOn s us = false := by
  simp [fencedOn, h.1]

/-- A context without a checked tensor reads the bytes of its translated pieces in one turn where they fit it: its engine is charged
for them, and nothing else of the state changes. -/
theorem ctxGet_quiet {s : State} {x : Ctx} {a : Word} {n : Nat} {t : Option TlbEntry} {ps : List Piece} (e c : Nat) (h : s.quietUnits)
    (p : s.posted = []) (k : x.tensor = none) (l : x.log[x.cur]? = none) (g : x.got = []) (b : x.gotB = none)
    (r : s.reaches e x a n .read t ps) :
    ctxGet s e c x a n = .done (charge s e n) (x.noted t (readPieces s ps)) (readPieces s ps) none := by
  obtain ⟨r1, r2, r3, r4, r5⟩ := r
  have n0 : ¬ n = 0 := by omega
  have f : unacked s (ctxPoster e c) = false := by simp [unacked, p]
  simp [ctxGet, l, Ctx.schkTensor, k, rawGet, spotOf, sumNat, g, b, n0, r1, r2, r3, r4, r5, f, fencedOn_quiet _ _ h,
    transit_quiet _ _ _ h.2 (piecesEvent_genuine ..), Moved.note, Ctx.noted]

/-- What an engine moves in two goes of one cycle adds up. -/
theorem charge_charge (s : State) (e a b : Nat) : charge (charge s e a) e b = charge s e (a + b) := by
  simp only [charge, Tbl.find_put_same, Tbl.put_put, Option.getD_some]
  congr 2
  omega

/-- And leaves it so much less to move. -/
theorem room_charge (s : State) (e a : Nat) : room (charge s e a) e = room s e - a := by
  simp only [room, charge, Tbl.find_put_same, Option.getD_some]
  omega

/-- It writes the bytes at its translated pieces in one turn where they fit it. -/
theorem ctxPut_quiet {s : State} {x : Ctx} {a : Word} {l : List Byte} {t : Option TlbEntry} {ps : List Piece} (e c : Nat)
    (h : s.quietUnits) (k : x.tensor = none) (q : x.log[x.cur]? = none) (g : x.put = 0) (b : x.gotB = none)
    (r : s.reaches e x a l.length .write t ps) :
    ctxPut s e c x a l none = .done (charge (writePieces s (ctxPoster e c) ps l) e l.length) (x.noted t []) [] none := by
  obtain ⟨r1, r2, r3, r4, r5⟩ := r
  have n0 : ¬ l = [] := by intro z; simp [z] at r1
  simp [ctxPut, q, g, b, n0, r2, r3, r4, r5, fencedOn_quiet _ _ h, transit_quiet _ _ _ h.2 (piecesEvent_genuine ..), writeSidecar,
    Ctx.schkTensor, k, Moved.note, Ctx.noted, sliceB]

/-- A ringer reads the bytes of its translated pieces, and nothing else changes. -/
theorem ringerRead_quiet {s : State} {g : Nat} {x : Ringer} {a : Word} {n : Nat} {ps : List Piece} (h : s.dev.injections = [])
    (e : ringerSpan s g x a n .read = .ok ps) : ringerRead s g x a n = .ok (s, readPieces s ps) := by
  simp [ringerRead, e, ringerPass, transit_quiet _ _ _ h (piecesEvent_genuine ..), bind, Except.bind]

end Sys2Proof.Machine
end

