-- ==== Sys2Proof/Laws/PerInstr.lean ====
section
/-! SUPPORT. For every instruction: the encoder gives an event no word, a command one or two words, every other instruction
one word, whatever the guard (05 R92, R95, 09 R177, 14 R259). -/

namespace Sys2Proof.Laws.Enc

/-- An event has no word; an instruction has one, or with a second control word two. -/
def Statement (i : Instr) : Prop :=
  ∀ g : Guard, if i.isEvent then encode g i = [] else (encode g i).length = 1 ∨ (encode g i).length = 2

theorem expressionLaunch : ∀ x0, Statement (.expressionLaunch x0) := fun _ _ => rfl
theorem streamLaunch : ∀ x0, Statement (.streamLaunch x0) := fun _ _ => rfl
theorem collectiveLaunch : ∀ x0, Statement (.collectiveLaunch x0) := fun _ _ => rfl
theorem detectionSweep : ∀ x0, Statement (.detectionSweep x0) := fun _ _ => rfl
theorem sweepComplete : ∀ x0, Statement (.sweepComplete x0) := fun _ _ => rfl
theorem presenceAnswer : ∀ x0 x1 x2 x3, Statement (.presenceAnswer x0 x1 x2 x3) := fun _ _ _ _ _ => rfl
theorem deferralRetry : ∀ x0, Statement (.deferralRetry x0) := fun _ _ => rfl
theorem admission : ∀ x0, Statement (.admission x0) := fun _ _ => rfl
theorem loadComplete : ∀ x0 x1, Statement (.loadComplete x0 x1) := fun _ _ _ => rfl
theorem storageStep : ∀ x0, Statement (.storageStep x0) := fun _ _ => rfl
theorem stepRetryAfterFixed : ∀ x0, Statement (.stepRetryAfterFixed x0) := fun _ _ => rfl
theorem storageStepComplete : ∀ x0, Statement (.storageStepComplete x0) := fun _ _ => rfl
theorem cancelEffect : ∀ x0 x1, Statement (.cancelEffect x0 x1) := fun _ _ _ => rfl
theorem trapEnqueue : ∀ x0, Statement (.trapEnqueue x0) := fun _ _ => rfl
theorem handlerRunStart : ∀ x0, Statement (.handlerRunStart x0) := fun _ _ => rfl
theorem lateFaultRaise : ∀ x0 x1, Statement (.lateFaultRaise x0 x1) := fun _ _ _ => rfl
theorem chunkHop : ∀ x0, Statement (.chunkHop x0) := fun _ _ => rfl
theorem selfTestComplete : ∀ x0 x1, Statement (.selfTestComplete x0 x1) := fun _ _ _ => rfl
theorem mswpEffect : ∀ x0, Statement (.mswpEffect x0) := fun _ _ => rfl
theorem mldbLand : ∀ x0, Statement (.mldbLand x0) := fun _ _ => rfl
theorem mmaStart : ∀ x0, Statement (.mmaStart x0) := fun _ _ => rfl
theorem mmaRowWrite : ∀ x0, Statement (.mmaRowWrite x0) := fun _ _ => rfl
theorem mmaComplete : ∀ x0, Statement (.mmaComplete x0) := fun _ _ => rfl
theorem mzeroEffect : ∀ x0, Statement (.mzeroEffect x0) := fun _ _ => rfl
theorem mstLand : ∀ x0 x1, Statement (.mstLand x0 x1) := fun _ _ _ => rfl
theorem mldcLand : ∀ x0 x1, Statement (.mldcLand x0 x1) := fun _ _ _ => rfl
theorem mrelEffect : ∀ x0 x1, Statement (.mrelEffect x0 x1) := fun _ _ _ => rfl
theorem tmldLand : ∀ x0 x1, Statement (.tmldLand x0 x1) := fun _ _ _ => rfl
theorem loadDataReturn : ∀ x0 x1 x2, Statement (.loadDataReturn x0 x1 x2) := fun _ _ _ _ => rfl
theorem translationWalkDone : ∀ x0, Statement (.translationWalkDone x0) := fun _ _ => rfl
theorem granuleDrowsy : ∀ x0 x1, Statement (.granuleDrowsy x0 x1) := fun _ _ _ => rfl
theorem treeJoinComplete : ∀ x0 x1 x2, Statement (.treeJoinComplete x0 x1 x2) := fun _ _ _ _ => rfl
theorem vchainRow : ∀ x0 x1, Statement (.vchainRow x0 x1) := fun _ _ _ => rfl
theorem xmeanRow : ∀ x0 x1, Statement (.xmeanRow x0 x1) := fun _ _ _ => rfl
theorem engineFillLand : ∀ x0 x1, Statement (.engineFillLand x0 x1) := fun _ _ _ => rfl
theorem postedWriteAck : ∀ x0 x1 x2 x3, Statement (.postedWriteAck x0 x1 x2 x3) := fun _ _ _ _ _ => rfl
theorem peerAnswer : ∀ x0 x1 x2 x3, Statement (.peerAnswer x0 x1 x2 x3) := fun _ _ _ _ _ => rfl
theorem monitorPoll : ∀ x0, Statement (.monitorPoll x0) := fun _ _ => rfl
theorem ringerMessageArrival : ∀ x0 x1, Statement (.ringerMessageArrival x0 x1) := fun _ _ _ => rfl
theorem ctimeFire : ∀ x0, Statement (.ctimeFire x0) := fun _ _ => rfl
theorem preemptMarkerArrival : ∀ x0, Statement (.preemptMarkerArrival x0) := fun _ _ => rfl
theorem cutComplete : ∀ x0, Statement (.cutComplete x0) := fun _ _ => rfl
theorem imageValid : ∀ x0, Statement (.imageValid x0) := fun _ _ => rfl
theorem restorePlacementEnd : ∀ x0, Statement (.restorePlacementEnd x0) := fun _ _ => rfl
theorem pcbCancelRecord : ∀ x0, Statement (.pcbCancelRecord x0) := fun _ _ => rfl
theorem pcbCancelPartition : ∀ x0, Statement (.pcbCancelPartition x0) := fun _ _ => rfl
theorem pcbPreempt : ∀ x0, Statement (.pcbPreempt x0) := fun _ _ => rfl
theorem pcbRestore : ∀ x0, Statement (.pcbRestore x0) := fun _ _ => rfl
theorem pcbExtend : ∀ x0, Statement (.pcbExtend x0) := fun _ _ => rfl
theorem pcbRelease : ∀ x0, Statement (.pcbRelease x0) := fun _ _ => rfl
theorem idtabWrite : ∀ x0, Statement (.idtabWrite x0) := fun _ _ => rfl
theorem apertureBaseWrite : ∀ x0 x1, Statement (.apertureBaseWrite x0 x1) := fun _ _ _ => rfl
theorem fcntWrite : Statement .fcntWrite := fun _ => rfl
theorem attestRequest : ∀ x0, Statement (.attestRequest x0) := fun _ _ => rfl
theorem peerSlotWrite : ∀ x0 x1, Statement (.peerSlotWrite x0 x1) := fun _ _ _ => rfl
theorem arbitrationWrite : ∀ x0 x1, Statement (.arbitrationWrite x0 x1) := fun _ _ _ => rfl
theorem registerWrite : ∀ x0 x1, Statement (.registerWrite x0 x1) := fun _ _ _ => rfl
theorem bar2Read : ∀ x0 x1 x2, Statement (.bar2Read x0 x1 x2) := fun _ _ _ _ => rfl
theorem bar2Write : ∀ x0 x1 x2, Statement (.bar2Write x0 x1 x2) := fun _ _ _ _ => rfl
theorem moduleReset : Statement .moduleReset := fun _ => rfl
theorem linkResetExpiry : ∀ x0, Statement (.linkResetExpiry x0) := fun _ _ => rfl
theorem partnerDetect : ∀ x0 x1, Statement (.partnerDetect x0 x1) := fun _ _ _ => rfl
theorem laneAlign : ∀ x0, Statement (.laneAlign x0) := fun _ _ => rfl
theorem equalizeAgree : ∀ x0, Statement (.equalizeAgree x0) := fun _ _ => rfl
theorem rateSelect : ∀ x0, Statement (.rateSelect x0) := fun _ _ => rfl
theorem verifyDone : ∀ x0 x1, Statement (.verifyDone x0 x1) := fun _ _ _ => rfl
theorem identityExchange : ∀ x0 x1 x2, Statement (.identityExchange x0 x1 x2) := fun _ _ _ _ => rfl
theorem linkTrainingTimeout : ∀ x0, Statement (.linkTrainingTimeout x0) := fun _ _ => rfl
theorem linkRetryWaitExpiry : ∀ x0, Statement (.linkRetryWaitExpiry x0) := fun _ _ => rfl
theorem linkDown : ∀ x0, Statement (.linkDown x0) := fun _ _ => rfl
theorem timebaseSyncGain : ∀ x0, Statement (.timebaseSyncGain x0) := fun _ _ => rfl
theorem droopDetect : ∀ x0, Statement (.droopDetect x0) := fun _ _ => rfl
theorem profileSample : ∀ x0, Statement (.profileSample x0) := fun _ _ => rfl
theorem genChange : ∀ x0, Statement (.genChange x0) := fun _ _ => rfl
theorem preciseStop : ∀ x0 x1 x2, Statement (.preciseStop x0 x1 x2) := fun _ _ _ _ => rfl
theorem partitionWideStop : ∀ x0, Statement (.partitionWideStop x0) := fun _ _ => rfl
theorem goContinue : ∀ x0 x1, Statement (.goContinue x0 x1) := fun _ _ _ => rfl
theorem goStep : ∀ x0 x1 x2, Statement (.goStep x0 x1 x2) := fun _ _ _ _ => rfl
theorem goReload : ∀ x0 x1, Statement (.goReload x0 x1) := fun _ _ _ => rfl
theorem supplyRecovers : ∀ x0, Statement (.supplyRecovers x0) := fun _ _ => rfl
theorem timebaseWithinTolerance : Statement .timebaseWithinTolerance := fun _ => rfl
theorem peerAccessArrival : ∀ x0 x1 x2, Statement (.peerAccessArrival x0 x1 x2) := fun _ _ _ _ => rfl
theorem storePerformed : ∀ x0 x1 x2, Statement (.storePerformed x0 x1 x2) := fun _ _ _ _ => rfl
theorem streamCommandComplete : ∀ x0 x1, Statement (.streamCommandComplete x0 x1) := fun _ _ _ => rfl
theorem collectiveCommandComplete : ∀ x0, Statement (.collectiveCommandComplete x0) := fun _ _ => rfl
theorem nop : Statement .nop := fun _ => .inl rfl
theorem add : ∀ x0 x1 x2, Statement (.add x0 x1 x2) := fun _ _ _ _ => .inl rfl
theorem addi : ∀ x0 x1 x2, Statement (.addi x0 x1 x2) := fun _ _ _ _ => .inl rfl
theorem sub : ∀ x0 x1 x2, Statement (.sub x0 x1 x2) := fun _ _ _ _ => .inl rfl
theorem mul : ∀ x0 x1 x2 x3, Statement (.mul x0 x1 x2 x3) := fun _ _ _ _ _ => .inl rfl
theorem div : ∀ x0 x1 x2 x3, Statement (.div x0 x1 x2 x3) := fun _ _ _ _ _ => .inl rfl
theorem rem : ∀ x0 x1 x2 x3, Statement (.rem x0 x1 x2 x3) := fun _ _ _ _ _ => .inl rfl
theorem and : ∀ x0 x1 x2, Statement (.and x0 x1 x2) := fun _ _ _ _ => .inl rfl
theorem andi : ∀ x0 x1 x2, Statement (.andi x0 x1 x2) := fun _ _ _ _ => .inl rfl
theorem or : ∀ x0 x1 x2, Statement (.or x0 x1 x2) := fun _ _ _ _ => .inl rfl
theorem ori : ∀ x0 x1 x2, Statement (.ori x0 x1 x2) := fun _ _ _ _ => .inl rfl
theorem xor : ∀ x0 x1 x2, Statement (.xor x0 x1 x2) := fun _ _ _ _ => .inl rfl
theorem xori : ∀ x0 x1 x2, Statement (.xori x0 x1 x2) := fun _ _ _ _ => .inl rfl
theorem shl : ∀ x0 x1 x2, Statement (.shl x0 x1 x2) := fun _ _ _ _ => .inl rfl
theorem shli : ∀ x0 x1 x2, Statement (.shli x0 x1 x2) := fun _ _ _ _ => .inl rfl
theorem shr : ∀ x0 x1 x2 x3, Statement (.shr x0 x1 x2 x3) := fun _ _ _ _ _ => .inl rfl
theorem shri : ∀ x0 x1 x2 x3, Statement (.shri x0 x1 x2 x3) := fun _ _ _ _ _ => .inl rfl
theorem min : ∀ x0 x1 x2 x3, Statement (.min x0 x1 x2 x3) := fun _ _ _ _ _ => .inl rfl
theorem max : ∀ x0 x1 x2 x3, Statement (.max x0 x1 x2 x3) := fun _ _ _ _ _ => .inl rfl
theorem clz : ∀ x0 x1, Statement (.clz x0 x1) := fun _ _ _ => .inl rfl
theorem popc : ∀ x0 x1, Statement (.popc x0 x1) := fun _ _ _ => .inl rfl
theorem bfx : ∀ x0 x1 x2 x3, Statement (.bfx x0 x1 x2 x3) := fun _ _ _ _ _ => .inl rfl
theorem bfi : ∀ x0 x1 x2 x3, Statement (.bfi x0 x1 x2 x3) := fun _ _ _ _ _ => .inl rfl
theorem sel : ∀ x0 x1 x2 x3, Statement (.sel x0 x1 x2 x3) := fun _ _ _ _ _ => .inl rfl
theorem cmp : ∀ x0 x1 x2 x3, Statement (.cmp x0 x1 x2 x3) := fun _ _ _ _ _ => .inl rfl
theorem cmpi : ∀ x0 x1 x2 x3, Statement (.cmpi x0 x1 x2 x3) := fun _ _ _ _ _ => .inl rfl
theorem lea : ∀ x0 x1 x2 x3, Statement (.lea x0 x1 x2 x3) := fun _ _ _ _ _ => .inl rfl
theorem movi : ∀ x0 x1, Statement (.movi x0 x1) := fun _ _ _ => .inl rfl
theorem movhi : ∀ x0 x1, Statement (.movhi x0 x1) := fun _ _ _ => .inl rfl
theorem fadd : ∀ x0 x1 x2 x3, Statement (.fadd x0 x1 x2 x3) := fun _ _ _ _ _ => .inl rfl
theorem fsub : ∀ x0 x1 x2 x3, Statement (.fsub x0 x1 x2 x3) := fun _ _ _ _ _ => .inl rfl
theorem fmul : ∀ x0 x1 x2 x3, Statement (.fmul x0 x1 x2 x3) := fun _ _ _ _ _ => .inl rfl
theorem fdiv : ∀ x0 x1 x2 x3, Statement (.fdiv x0 x1 x2 x3) := fun _ _ _ _ _ => .inl rfl
theorem ffma : ∀ x0 x1 x2 x3 x4, Statement (.ffma x0 x1 x2 x3 x4) := fun _ _ _ _ _ _ => .inl rfl
theorem fsqrt : ∀ x0 x1 x2, Statement (.fsqrt x0 x1 x2) := fun _ _ _ _ => .inl rfl
theorem fmin : ∀ x0 x1 x2, Statement (.fmin x0 x1 x2) := fun _ _ _ _ => .inl rfl
theorem fmax : ∀ x0 x1 x2, Statement (.fmax x0 x1 x2) := fun _ _ _ _ => .inl rfl
theorem fcmp : ∀ x0 x1 x2 x3, Statement (.fcmp x0 x1 x2 x3) := fun _ _ _ _ _ => .inl rfl
theorem fcvt : ∀ x0 x1 x2 x3, Statement (.fcvt x0 x1 x2 x3) := fun _ _ _ _ _ => .inl rfl
theorem fclass : ∀ x0 x1, Statement (.fclass x0 x1) := fun _ _ _ => .inl rfl
theorem fsf : ∀ x0 x1 x2 x3, Statement (.fsf x0 x1 x2 x3) := fun _ _ _ _ _ => .inl rfl
theorem br : ∀ x0 x1, Statement (.br x0 x1) := fun _ _ _ => .inl rfl
theorem brx : ∀ x0, Statement (.brx x0) := fun _ _ => .inl rfl
theorem call : ∀ x0 x1 x2, Statement (.call x0 x1 x2) := fun _ _ _ _ => .inl rfl
theorem ret : ∀ x0, Statement (.ret x0) := fun _ _ => .inl rfl
theorem loop : ∀ x0 x1 x2, Statement (.loop x0 x1 x2) := fun _ _ _ _ => .inl rfl
theorem plog : ∀ x0 x1 x2 x3, Statement (.plog x0 x1 x2 x3) := fun _ _ _ _ _ => .inl rfl
theorem pmov : ∀ x0, Statement (.pmov x0) := by intro x; cases x <;> intro g <;> exact .inl rfl
theorem yield : Statement .yield := fun _ => .inl rfl
theorem done : Statement .done := fun _ => .inl rfl
theorem ld : ∀ x0 x1 x2 x3 x4, Statement (.ld x0 x1 x2 x3 x4) := fun _ _ _ _ _ _ => .inl rfl
theorem st : ∀ x0 x1 x2 x3 x4, Statement (.st x0 x1 x2 x3 x4) := fun _ _ _ _ _ _ => .inl rfl
theorem atom : ∀ x0 x1 x2 x3 x4 x5 x6 x7 x8, Statement (.atom x0 x1 x2 x3 x4 x5 x6 x7 x8) := fun _ _ _ _ _ _ _ _ _ _ => .inl rfl
theorem fence : ∀ x0 x1, Statement (.fence x0 x1) := fun _ _ _ => .inl rfl
theorem ldp : ∀ x0 x1, Statement (.ldp x0 x1) := fun _ _ _ => .inl rfl
theorem stp : ∀ x0 x1, Statement (.stp x0 x1) := fun _ _ _ => .inl rfl
theorem psetEmpty : ∀ x0, Statement (.psetEmpty x0) := fun _ _ => .inl rfl
theorem psetPoison : ∀ x0 x1, Statement (.psetPoison x0 x1) := fun _ _ _ => .inl rfl
theorem monw : ∀ x0 x1 x2, Statement (.monw x0 x1 x2) := fun _ _ _ _ => .inl rfl
theorem vadd : ∀ x0 x1 x2 x3 x4, Statement (.vadd x0 x1 x2 x3 x4) := fun _ _ _ _ _ _ => .inl rfl
theorem vsub : ∀ x0 x1 x2 x3 x4, Statement (.vsub x0 x1 x2 x3 x4) := fun _ _ _ _ _ _ => .inl rfl
theorem vmul : ∀ x0 x1 x2 x3 x4, Statement (.vmul x0 x1 x2 x3 x4) := fun _ _ _ _ _ _ => .inl rfl
theorem vfma : ∀ x0 x1 x2 x3 x4 x5, Statement (.vfma x0 x1 x2 x3 x4 x5) := fun _ _ _ _ _ _ _ => .inl rfl
theorem vmin : ∀ x0 x1 x2 x3 x4, Statement (.vmin x0 x1 x2 x3 x4) := fun _ _ _ _ _ _ => .inl rfl
theorem vmax : ∀ x0 x1 x2 x3 x4, Statement (.vmax x0 x1 x2 x3 x4) := fun _ _ _ _ _ _ => .inl rfl
theorem vand : ∀ x0 x1 x2 x3, Statement (.vand x0 x1 x2 x3) := fun _ _ _ _ _ => .inl rfl
theorem vor : ∀ x0 x1 x2 x3, Statement (.vor x0 x1 x2 x3) := fun _ _ _ _ _ => .inl rfl
theorem vxor : ∀ x0 x1 x2 x3, Statement (.vxor x0 x1 x2 x3) := fun _ _ _ _ _ => .inl rfl
theorem vshl : ∀ x0 x1 x2 x3, Statement (.vshl x0 x1 x2 x3) := fun _ _ _ _ _ => .inl rfl
theorem vshr : ∀ x0 x1 x2 x3 x4, Statement (.vshr x0 x1 x2 x3 x4) := fun _ _ _ _ _ _ => .inl rfl
theorem vcmp : ∀ x0 x1 x2 x3 x4 x5, Statement (.vcmp x0 x1 x2 x3 x4 x5) := fun _ _ _ _ _ _ _ => .inl rfl
theorem vsel : ∀ x0 x1 x2 x3, Statement (.vsel x0 x1 x2 x3) := fun _ _ _ _ _ => .inl rfl
theorem vcvt : ∀ x0 x1 x2 x3 x4, Statement (.vcvt x0 x1 x2 x3 x4) := fun _ _ _ _ _ _ => .inl rfl
theorem vsf : ∀ x0 x1 x2 x3 x4, Statement (.vsf x0 x1 x2 x3 x4) := fun _ _ _ _ _ _ => .inl rfl
theorem vred : ∀ x0 x1 x2 x3 x4, Statement (.vred x0 x1 x2 x3 x4) := fun _ _ _ _ _ _ => .inl rfl
theorem vperm : ∀ x0 x1 x2 x3, Statement (.vperm x0 x1 x2 x3) := fun _ _ _ _ _ => .inl rfl
theorem vshuf : ∀ x0 x1 x2 x3, Statement (.vshuf x0 x1 x2 x3) := fun _ _ _ _ _ => .inl rfl
theorem vbc : ∀ x0 x1 x2, Statement (.vbc x0 x1 x2) := fun _ _ _ _ => .inl rfl
theorem vidx : ∀ x0 x1, Statement (.vidx x0 x1) := fun _ _ _ => .inl rfl
theorem vld : ∀ x0 x1 x2 x3, Statement (.vld x0 x1 x2 x3) := fun _ _ _ _ _ => .inl rfl
theorem vst : ∀ x0 x1 x2 x3, Statement (.vst x0 x1 x2 x3) := fun _ _ _ _ _ => .inl rfl
theorem vgath : ∀ x0 x1 x2 x3 x4, Statement (.vgath x0 x1 x2 x3 x4) := fun _ _ _ _ _ _ => .inl rfl
theorem vscat : ∀ x0 x1 x2 x3 x4, Statement (.vscat x0 x1 x2 x3 x4) := fun _ _ _ _ _ _ => .inl rfl
theorem vchain : ∀ x0 x1, Statement (.vchain x0 x1) := fun _ _ _ => .inl rfl
theorem klog : ∀ x0 x1 x2 x3, Statement (.klog x0 x1 x2 x3) := fun _ _ _ _ _ => .inl rfl
theorem kmov : ∀ x0, Statement (.kmov x0) := by intro x; cases x <;> intro g <;> exact .inl rfl
theorem mma : ∀ x0 x1 x2 x3 x4 x5 x6 x7 x8, Statement (.mma x0 x1 x2 x3 x4 x5 x6 x7 x8) := fun _ _ _ _ _ _ _ _ _ _ => .inl rfl
theorem mldb : ∀ x0 x1 x2, Statement (.mldb x0 x1 x2) := fun _ _ _ _ => .inl rfl
theorem mzero : ∀ x0, Statement (.mzero x0) := fun _ _ => .inl rfl
theorem mst : ∀ x0 x1, Statement (.mst x0 x1) := fun _ _ _ => .inl rfl
theorem mldc : ∀ x0 x1, Statement (.mldc x0 x1) := fun _ _ _ => .inl rfl
theorem macq : ∀ x0, Statement (.macq x0) := fun _ _ => .inl rfl
theorem mrel : ∀ x0, Statement (.mrel x0) := fun _ _ => .inl rfl
theorem tmset : ∀ x0, Statement (.tmset x0) := by intro x; cases x <;> intro g <;> exact .inl rfl
theorem tmld : ∀ x0 x1, Statement (.tmld x0 x1) := fun _ _ _ => .inl rfl
theorem vmean : ∀ x0 x1 x2, Statement (.vmean x0 x1 x2) := fun _ _ _ _ => .inl rfl
theorem xmean : ∀ x0 x1 x2 x3, Statement (.xmean x0 x1 x2 x3) := fun _ _ _ _ _ => .inl rfl
theorem tmean : ∀ x0 x1, Statement (.tmean x0 x1) := fun _ _ _ => .inl rfl
theorem symr : ∀ x0 x1 x2, Statement (.symr x0 x1 x2) := fun _ _ _ _ => .inl rfl
theorem symq : ∀ x0 x1 x2 x3, Statement (.symq x0 x1 x2 x3) := fun _ _ _ _ _ => .inl rfl
theorem emit : ∀ x0, Statement (.emit x0) := fun _ _ => .inl rfl
theorem emitt : ∀ x0 x1, Statement (.emitt x0 x1) := fun _ _ _ => .inl rfl
theorem tbc : ∀ x0 x1 x2, Statement (.tbc x0 x1 x2) := fun _ _ _ _ => .inl rfl
theorem tred : ∀ x0 x1 x2, Statement (.tred x0 x1 x2) := fun _ _ _ _ => .inl rfl
theorem tscan : ∀ x0 x1 x2 x3, Statement (.tscan x0 x1 x2 x3) := fun _ _ _ _ _ => .inl rfl
theorem tdesc : ∀ x0 x1 x2, Statement (.tdesc x0 x1 x2) := fun _ _ _ _ => .inl rfl
theorem cancel : ∀ x0, Statement (.cancel x0) := fun _ _ => .inl rfl
theorem chime : ∀ x0 x1 x2 x3 x4 x5, Statement (.chime x0 x1 x2 x3 x4 x5) := fun _ _ _ _ _ _ _ => .inl rfl
theorem rinit : ∀ x0, Statement (.rinit x0) := fun _ _ => .inl rfl
theorem acqs : ∀ x0 x1, Statement (.acqs x0 x1) := fun _ _ _ => .inl rfl
theorem fill : ∀ x0 x1, Statement (.fill x0 x1) := fun _ _ _ => .inl rfl
theorem awaitf : ∀ x0 x1, Statement (.awaitf x0 x1) := fun _ _ _ => .inl rfl
theorem rels : ∀ x0, Statement (.rels x0) := fun _ _ => .inl rfl
theorem wait : ∀ x0 x1 x2 x3, Statement (.wait x0 x1 x2 x3) := fun _ _ _ _ _ => .inl rfl
theorem tlwait : ∀ x0 x1, Statement (.tlwait x0 x1) := fun _ _ _ => .inl rfl
theorem tlinc : ∀ x0 x1, Statement (.tlinc x0 x1) := fun _ _ _ => .inl rfl
theorem mfs : ∀ x0 x1, Statement (.mfs x0 x1) := fun _ _ _ => .inl rfl
theorem mts : ∀ x0 x1, Statement (.mts x0 x1) := fun _ _ _ => .inl rfl
theorem trap : ∀ x0, Statement (.trap x0) := fun _ _ => .inl rfl
theorem rftResume : Statement .rftResume := fun _ => .inl rfl
theorem rftSkip : Statement .rftSkip := fun _ => .inl rfl
theorem rftRetry : Statement .rftRetry := fun _ => .inl rfl
theorem rftPoison : Statement .rftPoison := fun _ => .inl rfl
theorem rftAbort : Statement .rftAbort := fun _ => .inl rfl
theorem sqput : ∀ x0 x1 x2, Statement (.sqput x0 x1 x2) := fun _ _ _ _ => .inl rfl
theorem invtlbAsid : ∀ x0, Statement (.invtlbAsid x0) := fun _ _ => .inl rfl
theorem invtlbPage : ∀ x0, Statement (.invtlbPage x0) := fun _ _ => .inl rfl
theorem invtlbAll : Statement .invtlbAll := fun _ => .inl rfl
theorem errinj : ∀ x0 x1 x2, Statement (.errinj x0 x1 x2) := fun _ _ _ _ => .inl rfl
theorem spat : ∀ x0 x1, Statement (.spat x0 x1) := fun _ _ _ => .inr rfl
theorem spush : ∀ x0 x1, Statement (.spush x0 x1) := fun _ _ _ => .inr rfl
theorem spull : ∀ x0 x1, Statement (.spull x0 x1) := fun _ _ _ => .inr rfl
theorem scopy : ∀ x0, Statement (.scopy x0) := fun _ _ => .inl rfl
theorem sgath : ∀ x0 x1, Statement (.sgath x0 x1) := fun _ _ _ => .inr rfl
theorem sroute : ∀ x0, Statement (.sroute x0) := fun _ _ => .inr rfl
theorem sloopSet : ∀ x0 x1, Statement (.sloopSet x0 x1) := fun _ _ _ => .inl rfl
theorem sloop : ∀ x0 x1, Statement (.sloop x0 x1) := fun _ _ _ => .inl rfl
theorem swait : ∀ x0 x1, Statement (.swait x0 x1) := fun _ _ _ => .inr rfl
theorem ssigSt : ∀ x0 x1, Statement (.ssigSt x0 x1) := fun _ _ _ => .inr rfl
theorem ssigAdd : ∀ x0 x1, Statement (.ssigAdd x0 x1) := fun _ _ _ => .inr rfl
theorem ssigMax : ∀ x0 x1, Statement (.ssigMax x0 x1) := fun _ _ _ => .inr rfl
theorem schk : ∀ x0 x1, Statement (.schk x0 x1) := by intro x y; cases y <;> intro g <;> first | exact .inl rfl | exact .inr rfl
theorem csend : ∀ x0 x1, Statement (.csend x0 x1) := fun _ _ _ => .inr rfl
theorem crecv : ∀ x0 x1, Statement (.crecv x0 x1) := fun _ _ _ => .inr rfl
theorem crrs : ∀ x0 x1, Statement (.crrs x0 x1) := fun _ _ _ => .inr rfl
theorem crrl : ∀ x0 x1 x2, Statement (.crrl x0 x1 x2) := fun _ _ _ _ => .inr rfl
theorem ccopy : ∀ x0 x1, Statement (.ccopy x0 x1) := fun _ _ _ => .inr rfl
theorem cwait : ∀ x0 x1, Statement (.cwait x0 x1) := fun _ _ _ => .inr rfl
theorem csigSt : ∀ x0 x1, Statement (.csigSt x0 x1) := fun _ _ _ => .inr rfl
theorem csigAdd : ∀ x0 x1, Statement (.csigAdd x0 x1) := fun _ _ _ => .inr rfl
theorem csigMax : ∀ x0 x1, Statement (.csigMax x0 x1) := fun _ _ _ => .inr rfl
theorem cloopSet : ∀ x0 x1, Statement (.cloopSet x0 x1) := fun _ _ _ => .inl rfl
theorem cloop : ∀ x0 x1, Statement (.cloop x0 x1) := fun _ _ _ => .inl rfl
theorem cpeer : ∀ x0 x1 x2 x3 x4 x5, Statement (.cpeer x0 x1 x2 x3 x4 x5) := fun _ _ _ _ _ _ _ => .inl rfl
theorem ctime : ∀ x0 x1, Statement (.ctime x0 x1) := fun _ _ _ => .inr rfl
theorem csendv : ∀ x0 x1, Statement (.csendv x0 x1) := fun _ _ _ => .inr rfl
theorem crecvv : ∀ x0 x1, Statement (.crecvv x0 x1) := fun _ _ _ => .inr rfl
theorem cmaxe : ∀ x0 x1, Statement (.cmaxe x0 x1) := fun _ _ _ => .inr rfl
theorem cstop : Statement .cstop := fun _ => .inl rfl
theorem mswp : Statement .mswp := fun _ => .inl rfl
theorem tbar : Statement .tbar := fun _ => .inl rfl
theorem ebrk : Statement .ebrk := fun _ => .inl rfl
theorem sstop : Statement .sstop := fun _ => .inl rfl

end Sys2Proof.Laws.Enc
end

