-- ==== Sys2Proof/Tests/Witnesses.lean ====
section
/-! SUPPORT. For every statement of Certificates/Slice0/Obligations.lean that has hypotheses: concrete states and operands that meet
them, clause by clause, at the ends of their ranges. No result is asserted here. -/

set_option maxRecDepth 20000
set_option Elab.async false

namespace Sys2Proof.Tests

open Sys2Proof Sys2Proof.Machine

/-! ## Small states -/

/-- An agent of an area of four cells in core 0. -/
def ag : Agent := { Agent.fresh with rid := 1, alen := 4, gran := 1 }
/-- The service agent of core 0 in a handler's run. -/
def sv : Agent := { Agent.fresh with rid := 1, slot := 64 }
def Agent.withS (g : Agent) (r : Fin 32) (v : Word) : Agent := { g with s := g.s.set r v }

/-- The agent has the turn and is alone in the machine. -/
def at_ (g : Agent) : State := { State.reset with turn := .agent g.core g.slot, agents := [(g.key, g)], agenda := [] }
/-- The agent is alone in the machine, nobody having the turn. -/
def off_ (g : Agent) : State := { State.reset with agents := [(g.key, g)], agenda := [] }

theorem at_turn (g : Agent) : (at_ g).atTurn g := ⟨rfl, by simp [at_, State.agent, Tbl.find]⟩
theorem off_agent (g : Agent) : (off_ g).agent g.key = some g := by simp [off_, State.agent, Tbl.find]

/-- A record, a partition at core 0 of one core, and the machine with both. -/
def rec1 : Record := ⟨0, 0, 0, 0, 0, 0, 0, 0, 1, 4, 0, 0, 0, 0, 0, false, false, 0, .running, 1, [], 0, 0, some .fill, none, false, none, false, 0, 0, 0, .running, false, []⟩
def part1 : Part := { freshPart 0 0 0 with records := [rec1], nextRec := 2 }
def withPart (s : State) (p : Part) : State := { s with parts := [(0, p)] }
theorem withPart_part (s : State) (p : Part) : (withPart s p).part 0 = some p := rfl

/-- Memory with these bytes at one key. -/
def withMem (s : State) (k : Nat) (l : List Byte) : State := { s with mem := Mem.writeL [] k l }
theorem withMem_turn {s : State} {g : Agent} (k : Nat) (l : List Byte) (h : s.atTurn g) : (withMem s k l).atTurn g := h
theorem withMem_calm {s : State} {g : Agent} (k : Nat) (l : List Byte) (h : s.calm g) : (withMem s k l).calm g := h
theorem withMem_memOk (s : State) (k : Nat) (l : List Byte) : (withMem s k l).memOk := Mem.wf_writeL l [] k rfl
theorem at_calm (g : Agent) (h : g.core < Config.cores ∧ g.outs = [] ∧ g.ops = [] ∧ g.posted = []) : (at_ g).calm g :=
  ⟨h.1, h.2.1, h.2.2.1, h.2.2.2, rfl, rfl, rfl⟩
/-- The agent's operator is these words. -/
def withWords (s : State) (ws : List Word) : State := s.setCore 0 { Core.reset with micros := [⟨0, 0, ws, 0⟩] }

/-- The error of a result, for closed questions. -/
def errOf {α : Type} : Except Nat α → Option Nat
  | .ok _ => none
  | .error n => some n
theorem ok_of {α : Type} {x : Except Nat α} {a : α} (h : x.toOption = some a) : x = .ok a := by
  cases x <;> simp_all [Except.toOption]
theorem error_of {α : Type} {x : Except Nat α} {n : Nat} (h : errOf x = some n) : x = .error n := by
  cases x <;> simp_all [errOf]

/-! ## Scalar, control, vector -/

def b5 : Agent := Agent.withS (Agent.withS ag 5 7) 6 0xFFFFFFFFFFFFFFFF#64

theorem test_ScalarArithmetic_met : (at_ b5).atTurn b5 ∧ b5.sr 5 ≠ 0 ∧ b5.sr 0 = 0 := ⟨at_turn b5, by decide, rfl⟩
theorem test_ScalarBits_met : (at_ b5).atTurn b5 := at_turn b5
theorem test_LeaWhole_met : (at_ b5).atTurn b5
    ∧ major 0x0F00000000080000#64 = 0x0F#8 ∧ 8 ≤ (fFn 0x0F00000000080000#64).toNat ∧ fC 0x0F00000010000000#64 ≠ 0
    ∧ fMod 0x0F00000000000001#64 ≠ 0 := ⟨at_turn b5, by decide, by decide, by decide, by decide⟩
/-- FP32 1.0 · 1.0 raises no flag; the largest finite number doubled raises OF; `%ftrap` empty and full. -/
theorem test_ScalarFloat_met : (at_ b5).atTurn b5 ∧ trapReason fSA 0 = none ∧ (trapReason fSA 0xFFFFFFFF#32).isSome = true :=
  ⟨at_turn b5, by decide, by decide⟩
theorem test_FloatLaws_met : (val32 0x3F800000#32).isNan = false ∧ (val32 0x80000000#32).isNan = false := ⟨by decide, by decide⟩

def branchS : State := withWords (at_ b5) [0, 0, 0, 0, 0, 0, 0, 0]
theorem branchS_turn : branchS.atTurn b5 := ⟨rfl, (at_turn b5).2⟩
theorem test_ControlFlow_met : branchS.atTurn b5 ∧ (0#64 + (7#44).signExtend 64).toNat < branchS.nwords b5
    ∧ branchS.nwords b5 ≤ (0#64 + (8#44).signExtend 64).toNat ∧ (b5.sr 5).toNat < branchS.nwords b5 ∧ branchS.nwords b5 ≤ (b5.sr 6).toNat :=
  ⟨branchS_turn, by decide, by decide, by decide, by decide⟩

def loopG (n : W32) : Agent := { b5 with lc := b5.lc.set 3 n }
theorem test_HardwareLoops_met : (withWords (at_ (loopG 2)) [0]).atTurn (loopG 2)
    ∧ (loopG 0).lc[3] = 0 ∧ (loopG 1).lc[3] = 1 ∧ 1 < (loopG 2).lc[3].toNat ∧ 1 < (loopG 0xFFFFFFFF).lc[3].toNat
    ∧ (0#64 + (0#44).signExtend 64).toNat < (withWords (at_ (loopG 2)) [0]).nwords (loopG 2)
    ∧ (withWords (at_ (loopG 2)) [0]).nwords (loopG 2) ≤ (0#64 + (1#44).signExtend 64).toNat ∧ (b5.sr 5).toNat < 2 ^ 32 :=
  ⟨⟨rfl, (at_turn _).2⟩, by decide, by decide, by decide, by decide, by decide, by decide, by decide⟩
theorem test_PlogWhole_met : (at_ b5).atTurn b5 ∧ major 0x3500000000100000#64 = 0x35#8 ∧ 16 ≤ (fFn 0x3500000000100000#64).toNat
    ∧ 8 ≤ (fD 0x3502000000000000#64).toNat := ⟨at_turn b5, by decide, by decide, by decide⟩
theorem test_RegisterMoves_met : (at_ b5).atTurn b5 := at_turn b5
theorem test_LaneArithmetic_met : (at_ b5).atTurn b5 := at_turn b5
/-- VSHUF from another agent of the area. -/
def other : Agent := { ag with slot := 1, cell := 1 }
def pairS : State := { at_ b5 with agents := [(0, b5), (1, other)] }
theorem test_LaneMoves_met : pairS.atTurn b5 ∧ (b5.sr 0).toNat < b5.alen ∧ (Agent.withS b5 5 1 |>.sr 5).toNat < b5.alen
    ∧ (pairS.agentAt b5.part b5.rid 1).isSome = true ∧ other.core = b5.core ∧ (3 : VNum).val < 4 * other.gran ∧ other.drowsy = false :=
  ⟨⟨rfl, rfl⟩, by decide, by decide, rfl, rfl, by decide, rfl⟩

/-! ## Memory -/

theorem test_BytesWritten_met : Mem.wf [(3, 1#8), (5, 2#8)] = true := rfl

/-- An operand at the last bytes of the own scratchpad. -/
def local_ (off : Nat) : Agent := Agent.withS (Agent.withS ag 2 (BitVec.ofNat 64 (2 ^ 63 + off))) 3 9
def m2 : MemOp := ⟨2, 0, 0⟩
theorem calm_at (off : Nat) : (at_ (local_ off)).calm (local_ off) := ⟨show 0 < 4096 by decide, rfl, rfl, rfl, rfl, rfl, rfl⟩
theorem local_ok (off n : Nat) (h1 : off + n ≤ 2 ^ 20) (h2 : off % n = 0) : localAt ((local_ off).ea m2) n off := by
  refine ⟨?_, h1, h2⟩
  show BitVec.ofNat 64 (2 ^ 63 + off) + 0 + (0#26).signExtend 64 = _
  simp

theorem test_LocalAccesses_met : (at_ (local_ 1048568)).atTurn (local_ 1048568) ∧ (at_ (local_ 1048568)).calm (local_ 1048568)
    ∧ localAt ((local_ 1048568).ea m2) 8 1048568 ∧ localAt ((local_ 1048448).ea m2) 128 1048448 ∧ localAt ((local_ 0).ea m2) 1 0
    ∧ (∀ i < 32, localAt ((local_ 4).sr 2 + (laneAt ((local_ 4).vr 0) i).signExtend 64 + (0#26).signExtend 64) 4 4)
    ∧ localAt ((local_ 1048568).sr 2 + (0#16).signExtend 64) 8 1048568 :=
  ⟨at_turn _, calm_at _, local_ok _ _ (by decide) (by decide), local_ok _ _ (by decide) (by decide),
    local_ok _ _ (by decide) (by decide), by unfold localAt; decide, by unfold localAt; decide⟩

/-! Page tables that map every address of identifier 0 to HBM for reads and writes, single-assignment or not. -/
def leaf (sa : Bool) : TlbEntry := ⟨0, 0, 2 ^ 42, 0, 0, sa, true, true⟩
def paged (s : State) : State :=
  { s with mem := Mem.writeL (Mem.writeL [] 0 (toLe 8 0x10001)) 0x10000 (toLe 8 0x1803) }
def cached (s : State) (e : TlbEntry) : State := s.setCore 0 { Core.reset with tlb := [e] }
def addrG (a : Word) : Agent := Agent.withS ag 2 a

theorem test_AccessIssue_met : (at_ (addrG 4)).atTurn (addrG 4)
    ∧ accessOf (addrG 4) (.ld .d64 false .core 1 m2) = some ⟨.loads, .load .d64 1, 4, 8, false, false, .core⟩
    ∧ accessOf (addrG 4) (.ldp 1 m2) = some ⟨.loads, .ldp 1, 4, 8, true, false, .dev⟩
    ∧ misaligned 4 8 = true ∧ misaligned 8 8 = false
    ∧ (AccOp.ldp 1).isPresence = true ∧ 2 ≤ bits (0x8000000000000000#64).toNat 62 2 ∧ bits (0x3FFFFFFFFFFFFFF8#64).toNat 62 2 < 2
    ∧ resolve (at_ (addrG 8)) (addrG 8) 0x0080000000000000 .read = .error 3
    ∧ resolve (at_ (addrG 8)) (addrG 8) 8 .read = .ok none
    ∧ resolve (cached (at_ (addrG 8)) (leaf false)) (addrG 8) 8 .read = .ok (some ⟨.here 8, false⟩)
    ∧ locCheck (.ldp 1) ⟨.here 8, false⟩ = some 0x9C ∧ locCheck (.load .d64 1) ⟨.here 8, false⟩ = none
    ∧ (Place.here 8).own 0 = false := by
  refine ⟨at_turn _, rfl, rfl, ?_, ?_, rfl, ?_, ?_, rfl, rfl, rfl, rfl, rfl, ?_⟩ <;> decide

def tdescP : Part := { part1 with desc := 0x1000, ndesc := 3 }
def tdescG : Agent := Agent.withS ag 2 0x9000000000002000#64
theorem test_AccessIssue_descriptors_met : (withPart (cached (at_ tdescG) (leaf false)) tdescP).atTurn tdescG
    ∧ (withPart (at_ tdescG) tdescP).part tdescG.part = some tdescP
    ∧ symKind (tdescG.sr 2) = 9 ∧ bits (tdescG.sr 2).toNat 12 20 = 2 ∧ 2 < tdescP.ndesc ∧ { tdescP with ndesc := 2 }.ndesc ≤ 2
    ∧ resolve (withPart (cached (at_ tdescG) (leaf false)) tdescP) tdescG (0x1000 + BitVec.ofNat 64 (64 * 2 + 56)) .read
      = .ok (some ⟨.here 0x10B8, false⟩) ∧ (Place.here 0x10B8).own 0 = false := by
  refine ⟨⟨rfl, (at_turn _).2⟩, rfl, ?_, ?_, ?_, ?_, rfl, ?_⟩ <;> decide

/-- The one access in hand of agent 0 of core 0. -/
def acc (op : AccOp) (ph : Phase) (va : Word) (ls : List Loc) : Access :=
  ⟨7, some .loads, op, [va], ls, 8, false, false, .core, ph, bareTrap 0, ⟨[], [], []⟩⟩
def busyG (a : Access) : Agent := { ag with outs := [a], ops := [⟨.loads, 7, false⟩], nextId := 8 }
theorem alone_off (a : Access) (s : State) (h : s.agents = [((busyG a).key, busyG a)]) (hc : s.cores = []) (hd : s.dev = Device.reset) :
    s.alone (busyG a) a a.phase := by
  refine ⟨by simp [State.agent, h, Tbl.find], rfl, rfl, rfl, ?_, ?_, ?_⟩
  · simp [State.core, hc, Tbl.find, Core.reset]
  · rw [hd]; rfl
  · rw [hd]; rfl

theorem test_AccessesPerformed_met (op : AccOp) : (off_ (busyG (acc op .moving 8 [⟨.here 8, false⟩]))).alone
    (busyG (acc op .moving 8 [⟨.here 8, false⟩])) (acc op .moving 8 [⟨.here 8, false⟩]) .moving := alone_off _ _ rfl rfl rfl
theorem test_AccessesPerformed_walk_met :
    let a := acc (.load .d64 1) .parked 8 []
    (paged (off_ (busyG a))).alone (busyG a) a .parked ∧ a.vas = [8#64] ∧ a.op.kind ≠ kGather ∧ (8#64).toNat < 2 ^ 55
    ∧ ((paged (off_ (busyG a))).core 0).tlb = [] ∧ walk (paged (off_ (busyG a))) 0 8 = .ok (leaf false)
    ∧ (leaf false).check (paged (off_ (busyG a))) 8 .read = .ok ⟨.here 8, false⟩ ∧ locCheck a.op ⟨.here 8, false⟩ = none
    ∧ walk (off_ (busyG a)) 0 8 = .error 6 := by
  refine ⟨alone_off _ _ rfl rfl rfl, rfl, ?_, ?_, rfl, ok_of ?_, ok_of ?_, rfl, error_of ?_⟩ <;> decide
theorem test_AccessesPerformed_posted_met :
    let g : Agent := { ag with posted := [⟨7, .host 0, [1#8], false, false⟩] }
    let s : State := { off_ g with posted := [⟨(g.core, g.slot), 7, .host 0, .store [1#8], true⟩] }
    s.agent g.key = some g ∧ g.outs = [] ∧ g.posted = [⟨7, .host 0, [1#8], false, false⟩]
    ∧ s.posted = [⟨(g.core, g.slot), 7, .host 0, .store [1#8], true⟩] := ⟨rfl, rfl, rfl, rfl⟩
/-- A word of a single-assignment page that is EMPTY, and one that is not; a vector register that is awake. -/
theorem test_AccessesPerformed_empty_met : let a := acc (.load .d64 1) .moving 8 [⟨.here 8, true⟩]
    (off_ (busyG a)).alone (busyG a) a .moving ∧ a.locs = [⟨.here 8, true⟩] ∧ (off_ (busyG a)).presenceOf 8 = none
    ∧ (busyG a).drowsy = false := ⟨alone_off _ _ rfl rfl rfl, rfl, rfl, rfl⟩

/-- An access of 128 bytes with one granule left, for which every value of the free word names all that is left; and one with all four. -/
theorem test_AccessesPerformed_wide_met (op : AccOp) (h : op.granular = true) :
    let a : Access := { acc op .moving 128 [⟨.here 128, false⟩] with width := 128 }
    let b : Access := { a with lanes := ⟨[2, 1, 0], [], []⟩ }
    (off_ (busyG a)).alone (busyG a) a .moving ∧ (off_ (busyG b)).alone (busyG b) b .moving ∧ b.locs = [⟨.here 128, false⟩] ∧ b.width = 128
    ∧ 128 % 128 = 0 ∧ a.open_ = [0, 1, 2, 3] ∧ b.open_ = [3] ∧ b.lanes.sent = [] ∧ (busyG b).drowsy = false
    ∧ ∀ w : Word, let named := b.open_.filter fun i => w.getLsbD i
      (if named = [] then b.open_ else named) = b.open_ := by
  have e : ∀ l, ({ acc op .moving 128 [⟨.here 128, false⟩] with width := 128, lanes := l } : Access).open_
      = (List.range 4).filter fun i => !l.done.contains i := by
    intro l; simp [Access.open_, Access.parts, Access.wide, acc, h]
  refine ⟨alone_off _ _ rfl rfl rfl, alone_off _ _ rfl rfl rfl, rfl, rfl, rfl, e ⟨[], [], []⟩, e ⟨[2, 1, 0], [], []⟩, rfl, rfl, ?_⟩
  intro w
  rw [e ⟨[2, 1, 0], [], []⟩]
  show (if (List.filter (fun i => w.getLsbD i) [3]) = [] then [3] else List.filter (fun i => w.getLsbD i) [3]) = [3]
  cases hw : w.getLsbD 3 <;> simp [hw]
/-- A read that waits for a peer's answer, of bytes or empty. -/
theorem test_AccessesPerformed_answer_met : let a := acc (.load .d64 1) .armed 8 [⟨.peer 1 8, false⟩]
    (off_ (busyG a)).alone (busyG a) a .armed ∧ (busyG a).reads = [] ∧ (busyG a).claim = none ∧ a.op = .load .d64 1
    ∧ [1#8] ≠ [] := ⟨alone_off _ _ rfl rfl rfl, rfl, rfl, rfl, by decide⟩

/-- Word 8 of memory in each presence state. -/
def word8 (s : State) (p : Presence) : State := { s with presence := [(8, p)] }
theorem test_PresenceWords_met (op : AccOp) : let a := acc op .moving 8 [⟨.here 8, true⟩]
    (off_ (busyG a)).alone (busyG a) a .moving ∧ (word8 (off_ (busyG a)) .full).alone (busyG a) a .moving ∧ a.locs = [⟨.here 8, true⟩]
    ∧ (off_ (busyG a)).presenceOf 8 = none ∧ (word8 (off_ (busyG a)) .full).presenceOf 8 = some .full
    ∧ (word8 (off_ (busyG a)) .poison).presenceOf 8 = some .poison
    ∧ ((off_ (busyG a)).pcb 0).pflags.getLsbD 0 = false
    ∧ (((off_ (busyG a)).setPcb 0 { Pcb.reset with pflags := 1 }).pcb 0).pflags.getLsbD 0 = true :=
  ⟨alone_off _ _ rfl rfl rfl, alone_off _ _ rfl rfl rfl, rfl, rfl, rfl, rfl,
    by simp [off_, State.pcb, Tbl.find, State.reset, Pcb.reset], by rw [State.pcb_setPcb]; simp⟩
/-- A read of agent 1 of core 0 armed on the word. -/
def armedQ : Agent := { ag with slot := 1, outs := [acc (.ldp 3) .armed 8 [⟨.here 8, true⟩]] }
theorem test_PresenceWords_armed_met : let a := acc (.stp 5) .moving 8 [⟨.here 8, true⟩]
    let s : State := { off_ (busyG a) with agents := [(0, busyG a), (1, armedQ)], deferred := [⟨8, .agent 0 1 7⟩] }
    s.alone (busyG a) a .moving ∧ s.presenceOf 8 = none ∧ agentKey 0 1 ≠ (busyG a).key ∧ s.agent (agentKey 0 1) = some armedQ
    ∧ armedQ.core = 0 ∧ armedQ.slot = 1 := ⟨⟨rfl, rfl, rfl, rfl, rfl, rfl, rfl⟩, rfl, by decide, rfl, rfl, rfl⟩
/-- A channel's table with room, with room for one more, and full. -/
theorem test_PresenceWords_room_met : ((List.replicate 4095 (⟨8, .record 0 1 0⟩ : Deferred)).filter fun x =>
      channelOf x.pa = channelOf 8).length < 4096
    ∧ ¬ ((List.replicate 4096 (⟨8, .record 0 1 0⟩ : Deferred)).filter fun x => channelOf x.pa = channelOf 8).length < 4096 := by
  constructor <;> rw [List.filter_replicate_of_pos (by simp), List.length_replicate] <;> decide

theorem test_AccessEnds_met : let a := acc (.load .d64 1) .moving 8 [⟨.here 8, false⟩]
    let f : AFault := ⟨bareTrap 0x81, none, true⟩
    (off_ (busyG a)).agent (busyG a).key = some (busyG a) ∧ (busyG a).outs = [a]
    ∧ ({ busyG a with late := [f] } : Agent).late = f :: [] ∧ (busyG a).status = .running ∧ (busyG a).xrow = none ∧ ({ busyG a with status := .held } : Agent).status ≠ .running
    ∧ (((withPart (off_ (busyG a)) part1).rec? 0 1).map Record.frozen).getD false = false
    ∧ (((withPart (off_ (busyG a)) { part1 with records := [{ rec1 with state := .faulted }] }).rec? 0 1).map Record.frozen) = some true
    ∧ sv.service = true ∧ (busyG a).service = false ∧ (busyG a).stepLeft = none := by
  refine ⟨off_agent _, rfl, rfl, rfl, rfl, ?_, rfl, rfl, rfl, rfl, rfl⟩
  decide

/-- A word of host memory cached under identifier 0. -/
def hostLeaf : TlbEntry := ⟨0, 0, 2 ^ 42, 0, 2, false, true, true⟩
theorem test_WaitingInstructions_met : (at_ (local_ 8)).atTurn (local_ 8) ∧ (at_ (local_ 8)).calm (local_ 8) ∧ localAt ((local_ 8).ea m2) 8 8
    ∧ rdNat (at_ (local_ 8)) (spadKey 0 8) 8 ≠ ((local_ 8).sr 3).toNat % 2 ^ (8 * 8)
    ∧ rdNat (at_ (local_ 8)) (spadKey 0 8) 8 = ((local_ 8).sr 0).toNat % 2 ^ (8 * 8)
    ∧ ((local_ 8).sr 0).toNat ≤ rdNat (at_ (local_ 8)) (spadKey 0 8) 8 ∧ rdNat (at_ (local_ 8)) (spadKey 0 8) 8 < ((local_ 8).sr 3).toNat := by
  refine ⟨at_turn _, calm_at _, local_ok _ _ ?_ ?_, ?_, ?_, ?_, ?_⟩ <;> decide
/-- Nothing latched, a value latched while the area stood still; the word as the cycle began with it; a word that the trace unit wrote, and
one that it did not. -/
theorem test_WaitingInstructions_met_met : (local_ 8).met = none ∧ (local_ 8).polled = none
    ∧ ({ local_ 8 with met := some 1 } : Agent).met = some 1#64 ∧ ({ local_ 8 with polled := some 1 } : Agent).polled = some 1#64
    ∧ (1#64).toNat < ((local_ 8).sr 3).toNat ∧ localAt ((local_ 8).ea m2) 8 8
    ∧ ({ at_ (local_ 8) with hushed := [spadKey 0 8 / 8] } : State).hushedAt (spadKey 0 8) 8 = true
    ∧ (at_ (local_ 8)).hushedAt (spadKey 0 8) 8 = false := by
  refine ⟨rfl, rfl, rfl, rfl, ?_, local_ok _ _ ?_ ?_, ?_, ?_⟩ <;> decide
theorem test_WaitingInstructions_far_met : let s := cached (withWords (at_ (addrG 8)) []) hostLeaf
    (cached (at_ (addrG 8)) hostLeaf).calm (addrG 8) ∧ misaligned ((addrG 8).ea m2) 8 = false
    ∧ resolve s (addrG 8) ((addrG 8).ea m2) .read = .ok (some ⟨.host (hostKey 8), false⟩) ∧ (Place.host (hostKey 8)).far = true
    ∧ (Place.host (hostKey 8)).unreachable s = false ∧ (addrG 8).met = none ∧ (addrG 8).polled = none ∧ ({ addrG 8 with polled := some 1 } : Agent).polled = some 1#64 ∧ (1#64).toNat < (b5.sr 5).toNat :=
  ⟨⟨by decide, rfl, rfl, rfl, rfl, rfl, rfl⟩, by decide, rfl, rfl, rfl, rfl, rfl, rfl, by decide⟩
theorem test_WaitingInstructions_polled_met : let s := withWords (at_ (addrG 8)) (encode .always (.tlwait 3 m2))
    s.atTurn (addrG 8) ∧ s.instrAt (addrG 8) = some (.tlwait 3 m2) := ⟨⟨rfl, (at_turn _).2⟩, by decide⟩
/-- Operations outstanding, at most and more than a field allows. -/
theorem test_WaitingInstructions_counts_met : let g : Agent := { ag with ops := [⟨.tiles, 0, false⟩] }
    (at_ g).atTurn g ∧ (g.ops.countP fun o => o.cls = .tiles) ≤ (1#6).toNat ∧ ¬ (g.ops.countP fun o => o.cls = .tiles) ≤ (0#6).toNat :=
  ⟨at_turn _, by decide, by decide⟩

/-! A ring of two slots of 32 bytes at offset 4096, window 1, its header at offset 0. -/
def ringBytes (owner states wpos rpos : Nat) : List Byte :=
  toLe 4 32 ++ toLe 4 4096 ++ toLe 2 2 ++ toLe 2 1 ++ toLe 2 owner ++ zerosB 2 ++ toLe 4 wpos ++ toLe 4 rpos ++ toLe 8 states
def ringG : Agent := Agent.withS (Agent.withS ag 2 (BitVec.ofNat 64 (2 ^ 63))) 3 (BitVec.ofNat 64 (2 ^ 63 + 4096))
def ringS (owner states wpos rpos : Nat) : State := withMem (at_ ringG) (spadKey 0 0) (ringBytes owner states wpos rpos)
def ring (owner states wpos rpos : Nat) : Ring := ⟨32, 4096, 2, 1, owner, wpos, rpos, states⟩
theorem ringS_ok (o x w r : Nat) : (ringS o x w r).atTurn ringG ∧ (ringS o x w r).calm ringG ∧ (ringS o x w r).memOk
    ∧ Tbl.find ((ringS o x w r).core 0).ringSnap 0 = none :=
  ⟨withMem_turn _ _ (at_turn ringG), withMem_calm _ _ (at_calm ringG ⟨by decide, rfl, rfl, rfl⟩), withMem_memOk _ _ _, rfl⟩
/-- The header's states: free and claimable, FILLING, FULL at the read position, CONDEMNED, another's, and no ring at all. -/
theorem test_Rings_met : localAt (ringG.ea m2) 32 0 ∧ ringAt (ringS 0xFFFF 0 0xFFFFFFFF 0xFFFFFFFF) 0 0 = ring 0xFFFF 0 0xFFFFFFFF 0xFFFFFFFF
    ∧ ringAt (ringS 0 1 1 0) 0 0 = ring 0 1 1 0 ∧ (ring 0xFFFF 0 0xFFFFFFFF 0xFFFFFFFF).ok = true
    ∧ (ring 0xFFFF 0 0xFFFFFFFF 0xFFFFFFFF).state (0xFFFFFFFF % 2) = 0 ∧ (0xFFFFFFFF + 2 ^ 32 - 0xFFFFFFFF) % 2 ^ 32 < 1
    ∧ (ring 0 1 1 0).state 0 = 1 ∧ ¬ (1 + 2 ^ 32 - 0) % 2 ^ 32 < 1 ∧ ringG.sr 3 = BitVec.ofNat 64 (2 ^ 63 + (4096 + 0 * 32))
    ∧ (ring 0 2 1 0).state 0 = 2 ∧ (ring 0 3 1 0).state 0 = 3 ∧ (ring 5 0 0 0).owner ≠ 0xFFFF ∧ (ring 5 0 0 0).owner ≠ ringG.lcell % 64
    ∧ (ringAt (at_ ringG) 0 0).ok = false := by
  refine ⟨⟨?_, ?_, ?_⟩, ?_, ?_, ?_, ?_, ?_, ?_, ?_, ?_, ?_, ?_, ?_, ?_, ?_⟩ <;> decide

theorem test_Rings_latched_met : ringG.met = none ∧ ({ ringG with met := some (ringG.sr 3) } : Agent).met = some (ringG.sr 3) := ⟨rfl, rfl⟩

/-! ## Symbols -/

/-- Four cells: a BAG, a value of 4, its END, and an APP without END. -/
def symG : Agent := Agent.withS (Agent.withS ag 2 3) 3 (mkSym 1 0 7 0 0 true true)
def symS : State := { withPart (at_ symG) part1 with
  cells := [(0, mkSym 2 1 0 0 0 false false), (1, mkSym 4 2 0 0 5 false false), (2, mkSym 3 1 0 0 0 false false), (3, mkSym 5 1 0 0 9 false false)] }
theorem test_Symbols_reads_met : symS.atTurn symG ∧ symG.service = false ∧ symS.rec? 0 1 = some rec1
    ∧ symG.alen ≤ (symG.sr 2).toNat + (1#28).toNat ∧ (symG.sr 2).toNat + (0#28).toNat < symG.alen
    ∧ (symG.sr 2).toNat + 0 < (areaCells symS 0 4).length ∧ symKind (symS.cell 0) = 2 ∧ 0 < 2 ∧ 2 < (areaCells symS 0 4).length
    ∧ symKind (symS.cell 2) = 3 ∧ symDepth (symS.cell 2) = symDepth (symS.cell 0) ∧ symKind (symS.cell 1) ≠ 3 ∧ symKind (symS.cell 3) ≠ 1 := by
  refine ⟨⟨rfl, rfl⟩, rfl, rfl, ?_, ?_, ?_, ?_, ?_, ?_, ?_, ?_, ?_, ?_⟩ <;> decide
/-- A TILE of one row of 16 FP32. -/
def tileW : Word := BitVec.ofNat 64 (8 * 2 ^ 60 + 2 ^ 54)
theorem test_Symbols_emits_met : (at_ symG).atTurn symG ∧ reservedSym (symG.sr 3) = false ∧ symKind (symG.sr 3) < 12
    ∧ symG.emits.length < 64 ∧ 0 + symDepth (symG.sr 3) ≤ 63 ∧ (List.replicate 64 (⟨0, none, 0⟩ : Emission)).length = 64
    ∧ 63 < 63 + symDepth (mkSym 5 1 0 0 9 false false) ∧ symKind (mkSym 8 1 0 0 0 false false) = 8 ∧ 12 ≤ symKind (mkSym 15 0 0 0 0 false false) := by
  refine ⟨at_turn _, ?_, ?_, ?_, ?_, ?_, ?_, ?_, ?_⟩ <;> decide

def tileTest : Word := mkSym 8 1 0 0 0 false false
def emittG : Agent := Agent.withS (Agent.withS ag 2 tileTest) 3 (BitVec.ofNat 64 (2 ^ 63 + 1048544))
theorem test_Symbols_tiles_met : tileFmt tileTest ≤ 27 ∧ symPay tileTest % 4096 = 0 ∧ symSub tileTest = 0 ∧ fmtBlock (tileFmt tileTest) = 0
    ∧ 0 < tileBytes tileTest ∧ tileBytes tileTest ≤ 4096 ∧ (at_ emittG).calm emittG
    ∧ emittG.sr 3 = BitVec.ofNat 64 (2 ^ 63 + 1048544) ∧ 1048544 % 32 = 0 ∧ 1048544 + tileBytes tileTest ≤ 2 ^ 20
    ∧ ((b5.sr 5).toNat % 32 ≠ 0) := by
  refine ⟨?_, ?_, ?_, ?_, ?_, ?_, at_calm _ ⟨?_, rfl, rfl, rfl⟩, ?_, ?_, ?_, ?_⟩ <;> decide
/-- CHIME of the last four bytes, of too many, and of bits that are no whole elements; CANCEL. -/
theorem test_Symbols_chime_met : (at_ (local_ 1048572)).atTurn (local_ 1048572) ∧ (at_ (local_ 1048572)).calm (local_ 1048572)
    ∧ (local_ 1048572).sr 2 = BitVec.ofNat 64 (2 ^ 63 + 1048572) ∧ 1048572 + 4 ≤ 2 ^ 20 ∧ 4 * 8 % fmtWidth 0 = 0
    ∧ 4096 < (b5.sr 6).toNat ∧ (withPart (at_ ag) part1).part 0 = some part1 := by
  refine ⟨at_turn _, calm_at _, ?_, ?_, ?_, ?_, rfl⟩ <;> decide

/-- Four TERN2 codes of which the last byte's lowest is 10, and none. -/
theorem test_Symbols_tern_met : let s := withMem (at_ (local_ 1048575)) (spadKey 0 1048575) [2#8]
    s.calm (local_ 1048575) ∧ (local_ 1048575).sr 2 = BitVec.ofNat 64 (2 ^ 63 + 1048575) ∧ 1048575 + 1 + 0 ≤ 2 ^ 20
    ∧ 1 * 8 % fmtWidth 27 = 0 ∧ (∃ i < 4, elemAt (rd s (spadKey 0 1048575) 1) (fmtWidth 27) i = 2)
    ∧ ¬ ∃ i < 4, elemAt (rd (at_ (local_ 1048575)) (spadKey 0 1048575) 1) (fmtWidth 27) i = 2 := by
  refine ⟨withMem_calm _ _ (calm_at _), ?_, ?_, ?_, ?_, ?_⟩ <;> decide

/-! ## Tree operations -/

theorem test_TreeContributions_met : (at_ ag).atTurn ag ∧ ag.slot < 64 ∧ (3#28).toNat < ag.alen ∧ ag.alen ≤ (4#28).toNat
    ∧ (∀ x ∈ ag.outs, x.op.orders = false) ∧ (∃ x ∈ (busyG (acc (.load .d64 1) .moving 8 [])).outs, x.op.orders = true)
    ∧ ag.service = false ∧ (∀ q ∈ ((at_ ag).setAgent 0 { ag with join := 1 }).agentsOf 0 1, q.status = .ended ∨ 0 + 1 ≤ q.join) := by
  refine ⟨at_turn _, ?_, ?_, ?_, ?_, ?_, rfl, ?_⟩ <;> decide
/-- A TMEAN partial of one plain row, and mode 2 without a table pair. -/
theorem test_TreeContributions_means_met : errOf ((tmsShape ag.tms).take ((pairOf ((at_ ag).core 0) (tmsShape ag.tms).slot).map (·.1))
      ((ag.sr 2).truncate 32)) = none
    ∧ (tmsShape 0x80000000#32).mode = 2 ∧ pairOf ((at_ ag).core 0) (tmsShape 0x80000000#32).slot = none := by
  refine ⟨?_, ?_, rfl⟩ <;> decide

/-- Two agents that have contributed 5 and 7 to operation 1. -/
def joinG (k : Nat) (v : Word) : Agent := { ag with slot := k, cell := k, alen := 2, join := 1, status := .joining, contrib := some (.tred .add v 3) }
def joinS : State := { State.reset with agents := [(0, joinG 0 5), (1, joinG 1 7)], agenda := [] }
theorem joinS_agents : joinS.agentsOf 0 1 = [joinG 0 5, joinG 1 7] := rfl
theorem test_TreeResults_met : (∀ g ∈ joinS.agentsOf 0 1, joinS.agent g.key = some g)
    ∧ ((joinS.agentsOf 0 1).map Agent.key).Nodup ∧ (∀ g ∈ joinS.agentsOf 0 1, g.status = .ended ∨ 1 ≤ g.join)
    ∧ joinRef (joinS.agentsOf 0 1) 1 = some (.tred .add 5 3)
    ∧ (∀ g ∈ joinS.agentsOf 0 1, ∀ c, g.given 1 = some c → (Contrib.tred .add 5 3).agrees c = true ∧ c.tms = (Contrib.tred .add 5 3).tms)
    ∧ joinCompute joinS 0 (joinS.agentsOf 0 1) 1 (.tred .add 5 3) = .ok [12, 12] 0 ∧ joinS.dev.injections = [] := by
  refine ⟨?_, by decide, by decide, rfl, ?_, rfl, rfl⟩
  · intro g h; rw [joinS_agents] at h; simp only [List.mem_cons, List.not_mem_nil, or_false] at h; rcases h with rfl | rfl <;> rfl
  · intro g h c e; rw [joinS_agents] at h; simp only [List.mem_cons, List.not_mem_nil, or_false] at h
    rcases h with rfl | rfl <;> (simp only [Agent.given, joinG, if_true, Option.some.injEq] at e; subst e; exact ⟨rfl, rfl⟩)
/-- The same two agents with other contributions: all the same TBAR, TBC, TRED or TSCAN. -/
def joinT (c : Contrib) : State :=
  { State.reset with agents := [(0, { joinG 0 5 with contrib := some c }), (1, { joinG 1 7 with contrib := some c })], agenda := [] }
theorem test_TreeResults_completes_met (c : Contrib) (h : c = .tbar ∨ c = .tbc 5 1 3 ∨ c = .tred .add 5 3 ∨ c = .tscan .max true 5 3) :
    let ags := (joinT c).agentsOf 0 1
    (joinT c).quietUnits ∧ (∀ g ∈ ags, (joinT c).agent g.key = some g) ∧ (ags.map Agent.key).Nodup ∧ ags ≠ [] ∧ (∀ g ∈ ags, g.join = 1)
    ∧ ((∀ g ∈ ags, g.contrib = some .tbar) ∨ (∃ r, ∀ g ∈ ags, ∃ a d, g.contrib = some (.tbc a r d))
      ∨ (∃ o, ∀ g ∈ ags, ∃ a d, g.contrib = some (.tred o a d)) ∨ ∃ o ex, ∀ g ∈ ags, ∃ a d, g.contrib = some (.tscan o ex a d)) := by
  have e : (joinT c).agentsOf 0 1 = [{ joinG 0 5 with contrib := some c }, { joinG 1 7 with contrib := some c }] := rfl
  have each : ∀ q : Agent → Prop, (∀ k v, q { joinG k v with contrib := some c }) → ∀ g ∈ (joinT c).agentsOf 0 1, q g := by
    intro q h g m; rw [e] at m; simp only [List.mem_cons, List.not_mem_nil, or_false] at m; rcases m with rfl | rfl <;> exact h _ _
  refine ⟨⟨rfl, rfl⟩, ?_, by rw [e]; show [0, 1].Nodup; decide, by rw [e]; simp, each _ fun _ _ => rfl, ?_⟩
  · intro g m; rw [e] at m; simp only [List.mem_cons, List.not_mem_nil, or_false] at m; rcases m with rfl | rfl <;> rfl
  · rcases h with rfl | rfl | rfl | rfl
    · exact .inl (each _ fun _ _ => rfl)
    · exact .inr (.inl ⟨1, each _ fun _ _ => ⟨5, 3, rfl⟩⟩)
    · exact .inr (.inr (.inl ⟨.add, each _ fun _ _ => ⟨5, 3, rfl⟩⟩))
    · exact .inr (.inr (.inr ⟨.max, true, each _ fun _ _ => ⟨5, 3, rfl⟩⟩))
theorem test_TreeResults_lists_met : [5#64, 7#64] ≠ [] ∧ [5#64, 7#64].length ≤ 2 ^ 18 := by decide

/-! ## Transformed mean -/

/-- Two table pairs' worth of bytes at offset 1046496, the last that fits: lo 0, hi 1, knots 0; and nothing there. -/
def tmG : Agent := { local_ 1046496 with status := .held }
def tmS : State := { off_ tmG with mem := [(spadKey 0 1046502, 0x80#8), (spadKey 0 1046503, 0x3F#8), (spadKey 0 1047542, 0x80#8), (spadKey 0 1047543, 0x3F#8)] }
/-- A table's knots one by one. -/
theorem table_rd (s : State) (k off : Nat) (h : off + 1040 ≤ 2080) : tableAt (rd s k 2080) off
    = ⟨BitVec.ofNat 32 (rdNat s (k + off) 4), BitVec.ofNat 32 (rdNat s (k + (off + 4)) 4),
      (divRne 0x43800000#32 (subRne (BitVec.ofNat 32 (rdNat s (k + (off + 4)) 4)) (BitVec.ofNat 32 (rdNat s (k + off) 4))).1).1,
      (List.range 257).map fun i => BitVec.ofNat 32 (rdNat s (k + (off + 8 + 4 * i)) 4)⟩ := by
  have e : ∀ j, j + 4 ≤ 2080 → w32At (rd s k 2080) j = BitVec.ofNat 32 (rdNat s (k + j) 4) := fun j hj => by
    rw [w32At, leAt_rd _ _ _ _ _ hj]
  simp only [tableAt, e off (by omega), e (off + 4) (by omega)]
  congr 1
  exact List.map_congr_left fun i hi => e _ (by have := List.mem_range.1 hi; omega)
theorem test_TransformedMeans_tables_met : tmG.ea m2 = BitVec.ofNat 64 (2 ^ 63 + 1046496) ∧ 1046496 % 16 = 0 ∧ 1046496 + 2080 ≤ 2 ^ 20
    ∧ (tableAt (rd tmS (spadKey 0 1046496) 2080) 0).ok = true ∧ (tableAt (rd tmS (spadKey 0 1046496) 2080) 1040).ok = true
    ∧ (tableAt (rd (off_ tmG) (spadKey 0 1046496) 2080) 0).ok = false := by
  rw [table_rd _ _ _ (by decide), table_rd _ _ _ (by decide), table_rd _ _ _ (by decide)]
  refine ⟨?_, ?_, ?_, ?_, ?_, ?_⟩ <;> decide +kernel
theorem test_TransformedMeans_landing_met : let s := withWords (off_ tmG) (encode .always (.tmld m2 5))
    s.agent tmG.key = some tmG ∧ tmG.status = .held ∧ tmG.reads = [] ∧ s.instrAt tmG = some (.tmld m2 5) ∧ (off_ tmG).calm tmG :=
  ⟨off_agent _, rfl, rfl, by decide, by decide, rfl, rfl, rfl, rfl, rfl, rfl⟩
/-- A pair that has landed in this cycle. -/
theorem test_TransformedMeans_pair_met : ((off_ tmG).setCore 0 { Core.reset with landing := [(5, ⟨[]⟩)] } |>.core 0).landing = [(5, ⟨[]⟩)] := by
  rw [State.core_setCore]
theorem test_TransformedMeans_modes_met : (at_ ag).atTurn ag ∧ bits (0x80000100#32).toNat 24 2 ≠ 3 ∧ bits (0x80000100#32).toNat 16 8 = 0
    ∧ bits (0x03000100#32).toNat 24 2 = 3 ∧ bits (0x00010100#32).toNat 16 8 ≠ 0 ∧ (bits (0#32).toNat 30 2 = 0 ∧ bits (0#32).toNat 0 16 = 0) :=
  ⟨at_turn _, by decide, by decide, by decide, by decide, by decide⟩
/-- The plain mean of lane 0 alone has a value; mode 2 without a pair has none. -/
theorem test_TransformedMeans_means_met : errOf (((tmsShape 0x100#32).mean Core.reset 1#32 (Vector.replicate 32 0)).mapError (·.1)) = none
    ∧ errOf (((tmsShape 0x80000000#32).mean Core.reset 1#32 (Vector.replicate 32 0)).mapError (·.1)) = some 0x6F := by
  constructor <;> decide
def xG (r n : Nat) : Agent := { local_ 1048448 with xrow := some ⟨r, n, BitVec.ofNat 64 (2 ^ 63 + 1048448 - 128 * r), false, 4⟩ }
theorem test_TransformedMeans_rows_met : (off_ (xG 31 32)).agent (xG 31 32).key = some (xG 31 32) ∧ (off_ (xG 31 32)).calm (xG 31 32)
    ∧ 31 < 32 ∧ 32 ≤ 32 ∧ localAt (BitVec.ofNat 64 (2 ^ 63 + 1048448 - 128 * 31) + BitVec.ofNat 64 (128 * 31)) 128 1048448 := by
  refine ⟨off_agent _, ⟨?_, rfl, rfl, rfl, rfl, rfl, rfl⟩, ?_, ?_, ?_, ?_, ?_⟩ <;> decide
theorem test_TransformedMeans_xmean_met : (at_ b5).atTurn b5 ∧ b5.xrow = none ∧ 32 < (b5.sr 6).toNat ∧ b5.sr 0 = 0
    ∧ 0 < (b5.sr 5).toNat ∧ (b5.sr 5).toNat ≤ 32 ∧ (b5.sr 5).toNat % 128 ≠ 0 ∧ localAt ((local_ 1048448).sr 2) 128 1048448 := by
  refine ⟨at_turn _, rfl, ?_, rfl, ?_, ?_, ?_, ?_, ?_, ?_⟩ <;> decide

/-! ## Matrix engine -/

/-- Tile c2 with this owner; c5 untouched. -/
def tiles2 (o : Option Nat) : Core := { Core.reset with tiles := Core.reset.tiles.set 2 { Tile.reset with owner := o } }
def oneCore (s : State) (c : Core) : State := { s with cores := [(0, c)] }
def mmaOp (id : Nat) : MmaOp := ⟨false, 2, 0, 0, 0, 0, 1, 1, 1, 0, id, bareTrap 0, 0, 0, none, [], 0, 0, 0, none, none⟩
theorem test_Tiles_met : (at_ ag).atTurn ag ∧ (Core.reset.tile 2).owner = none ∧ ((tiles2 (some 0)).tile 2).owner = some ag.slot
    ∧ tileBusyFor (tiles2 (some 0)) 0 9 2 = false ∧ tileBusyFor { tiles2 (some 0) with queue := [.mzero 0 3 2] } 0 9 2 = true
    ∧ ((tiles2 (some 5)).tile 2).owner = some 5 ∧ 5 ≠ ag.slot ∧ ((tiles2 (some 5)).tile 2).owner ≠ some ag.slot
    ∧ ({ tiles2 (some 0) with mrels := [(0, 2, 9)] } : Core).mrels = [(ag.slot, 2, 9)]
    ∧ (Core.reset.stats[(2 : Acc)]).getLsbD 31 = false
    ∧ (({ Core.reset with stats := Vector.replicate 8 0x80000000#32 } : Core).stats[(2 : Acc)]).getLsbD 31 = true :=
  ⟨at_turn _, rfl, rfl, rfl, rfl, rfl, by decide, by decide, rfl, by decide, by decide⟩
theorem test_Tiles_effects_met : let c : Core := { Core.reset with queue := [.mswp 0 7, .mzero 0 8 2] }
    ((oneCore (off_ ag) c).core 0) = c ∧ c.engineFrozen = false ∧ c.idleAt ≤ (oneCore (off_ ag) c).cycle ∧ c.queue = .mswp 0 7 :: [.mzero 0 8 2]
    ∧ mldbPending c = false := ⟨rfl, rfl, by decide, rfl, rfl⟩

def engG (b m : Word) : Agent := Agent.withS (Agent.withS (Agent.withS ag 2 b) 3 m) 4 1
theorem test_EngineIssue_met : (oneCore (at_ ag) (tiles2 (some 0))).atTurn ag ∧ (tiles2 (some 0)).queue.length < 4
    ∧ 4 ≤ ({ tiles2 (some 0) with queue := [.mswp 0 1, .mswp 0 2, .mswp 0 3, .mswp 0 4] } : Core).queue.length
    ∧ ({ tiles2 (some 0) with queue := [.mswp 0 1, .mswp 0 2, .mswp 0 3] } : Core).queue.length < 4
    ∧ ((tiles2 (some 0)).tile 2).owner = some ag.slot ∧ (tiles2 (some 0)).copies = [] ∧ (tiles2 (some 0)).chains = [] :=
  ⟨⟨rfl, (at_turn _).2⟩, by decide, by decide, by decide, rfl, rfl, rfl⟩
theorem test_EngineIssue_operands_met : ((engG 0 0).sr 3).toNat = 0 ∧ 0 < ((engG 0 32).sr 3).toNat ∧ ((engG 0 32).sr 3).toNat ≤ 32
    ∧ 32 < ((engG 0 33).sr 3).toNat ∧ fmtBlock 0 = 0 ∧ fmtBlock 16 ≠ 0 ∧ ¬ ((engG 0 1).sr 4).toNat % fmtBlock 16 = 0
    ∧ localOff 0 (elemBytes (fmtWidth 0) (1 * 1)) = none ∧ localOff 0x8000000000000000#64 (elemBytes (fmtWidth 0) (32 * 1)) = some 0
    ∧ bits (0x4000000000000000#64).toNat 62 2 = 1 ∧ bits (0x4000000000000000#64).toNat 0 20 + 0 ≤ 2 ^ 20 := by
  refine ⟨?_, ?_, ?_, ?_, ?_, ?_, ?_, ?_, ?_, ?_, ?_⟩ <;> decide

def plane1 : Plane := { Plane.reset with loaded := true, kk := 1, nn := 1, elems := [0x3F800000#32] }
/-- The agent of that MMA, which counts as one of its tile operations. -/
def mmaG : Agent := { ag with ops := [⟨.tiles, 7, false⟩] }
def mmaCore (o : MmaOp) : Core := { tiles2 (some 0) with queue := [.mma o], active := plane1 }
theorem test_MatrixProducts_met : let o := mmaOp 7; let s := oneCore (off_ mmaG) (mmaCore o)
    (s.core 0).queue = .mma o :: [] ∧ s.agent (agentKey 0 o.slot) = some mmaG ∧ (mmaG.ops.any fun p => p.id = o.id) = true ∧ (s.core 0).engineFrozen = false ∧ (s.core 0).copies = []
    ∧ (s.core 0).chains = [] ∧ s.dev.tests = [] ∧ (∀ x ∈ (s.core 0).queue, x.slot = o.slot → o.id ≤ x.id) ∧ (s.core 0).idleAt ≤ s.cycle
    ∧ o.refused (s.core 0) = false ∧ o.refused { mmaCore o with active := Plane.reset } = true := by
  refine ⟨rfl, rfl, rfl, rfl, rfl, rfl, rfl, ?_, ?_, ?_, ?_⟩ <;> decide
theorem test_MatrixProducts_rows_met : let o : MmaOp := { mmaOp 7 with start := some 0 }; let d : MmaOp := { o with rows := 1 }
    o.start.isSome = true ∧ o.chk = false ∧ o.limit = none ∧ o.rows < o.m ∧ o.m ≤ 32 ∧ o.n ≤ 32 ∧ o.taken = [] ∧ d.rows = d.m ∧ d.err = none := by
  decide
/-- One group of int8 products at the ends of the INT32 range. -/
theorem test_MatrixProducts_sums_met : ([-128, 127] : List Int).length = ([127, 127] : List Int).length ∧ 0 < ([-128, 127] : List Int).length
    ∧ ([-128, 127] : List Int).length ≤ 4 := by decide

theorem test_TileCopies_met : (oneCore (at_ (local_ 1044480)) (tiles2 (some 0))).atTurn (local_ 1044480)
    ∧ ((tiles2 (some 0)).tile 2).owner = some (local_ 1044480).slot ∧ ((tiles2 (some 5)).tile 2).owner ≠ some (local_ 1044480).slot
    ∧ ((local_ 1044480).ea m2).toNat % 64 = 0 ∧ ((local_ 1044448).ea m2).toNat % 64 ≠ 0 ∧ ((local_ 1044448).ea m2).toNat % 16 = 0
    ∧ ((local_ 8).ea m2).toNat % 16 ≠ 0 ∧ (tiles2 (some 0)).queue = [] ∧ (tiles2 (some 0)).mrels = []
    ∧ (∃ e ∈ ({ Core.reset with queue := [.mswp 0 7] } : Core).queue, e.acc = none) := by
  refine ⟨⟨rfl, (at_turn _).2⟩, rfl, ?_, ?_, ?_, ?_, ?_, rfl, rfl, ⟨_, .head _, rfl⟩⟩ <;> decide
def copyG : Agent := { ag with ops := [⟨.copies, 7, false⟩] }
def copyS (c : Copy) : State := oneCore (off_ copyG) { tiles2 (some 0) with copies := [c] }
theorem test_TileCopies_landing_met (c : Copy) : (copyS c).agent copyG.key = some copyG ∧ copyG.core < Config.cores ∧ copyG.outs = []
    ∧ copyG.posted = [] ∧ (copyS c).quietUnits ∧ (copyG.ops.any fun p => p.id = 7) = true ∧ ((copyS c).core 0).queue = []
    ∧ ((copyS c).core 0).chains = []
    ∧ ((copyS c).core 0).mrels = [] ∧ ((copyS c).core copyG.core).copies = [c] ∧ 1044480 % 64 = 0 ∧ 1044480 + 4096 ≤ 2 ^ 20
    ∧ (List.replicate 4096 (7#8)).length = 4096 :=
  ⟨rfl, by decide, rfl, rfl, ⟨rfl, rfl⟩, rfl, rfl, rfl, rfl, rfl, by decide, by decide, List.length_replicate⟩
/-- A header of an FP32 plane of one element whose data are the last four bytes. -/
def planeHead : List Byte := toLe 8 (2 ^ 63 + 1048572) ++ toLe 4 1 ++ toLe 2 1 ++ toLe 2 0
theorem test_TileCopies_planes_met : headFault 0 planeHead = none ∧ 1048560 + 16 ≤ 2 ^ 20 ∧ leWord (planeHead.take 8) = BitVec.ofNat 64 (2 ^ 63 + 1048572)
    ∧ 1048572 < 2 ^ 20 ∧ 1048572 + planeBytes 0 (leAt planeHead 8 4) (leAt planeHead 12 2) + 0 ≤ 2 ^ 20 := by decide

/-! ## Chains -/

/-- A control block of three rows at offset 0, and of none; the body is VADD v1, v2, v3. -/
def chainHead (cnt : Nat) : List Byte :=
  toLe 8 (2 ^ 63 + 4096) ++ toLe 8 (2 ^ 63 + 8192) ++ toLe 4 cnt ++ toLe 1 0 ++ toLe 1 3 ++ toLe 1 1
def chainG : Agent := Agent.withS ag 2 (BitVec.ofNat 64 (2 ^ 63))
def chainS (cnt : Nat) : State := withMem (withWords (at_ chainG) [0, (encode .always (.vadd .iw ⟨0, false⟩ 1 2 3)).headD 0])
  (spadKey 0 0) (chainHead cnt)
theorem test_Chains_met : (chainS 3).atTurn chainG ∧ chainG.sr 2 = BitVec.ofNat 64 (2 ^ 63 + 0)
    ∧ (let l := rd (chainS 3) (spadKey 0 0) 32
      chainLocal (leWord (l.take 8)) = true ∧ chainLocal (leWord (sliceB l 8 8)) = true ∧ leAt l 20 1 = 0 ∧ leAt l 21 1 < 4 * chainG.gran
      ∧ leAt l 22 1 < 4 * chainG.gran ∧ (l.drop 23).all (· = 0#8) = true ∧ leAt l 16 4 ≠ 0)
    ∧ leAt (rd (chainS 0) (spadKey 0 0) 32) 16 4 = 0
    ∧ chainBody (chainS 3) chainG 1 1 = some [.vadd .iw ⟨0, false⟩ 1 2 3] ∧ chainBody (chainS 3) chainG 1 2 = none
    ∧ chainLocal (leWord ((rd (at_ chainG) (spadKey 0 0) 32).take 8)) = false := by
  refine ⟨withMem_turn _ _ ⟨rfl, rfl⟩, ?_, ?_, ?_, ?_, ?_, ?_⟩ <;> decide
def chain1 : Chain := ⟨0, 7, 0, BitVec.ofNat 64 (2 ^ 63 + 1048320), BitVec.ofNat 64 (2 ^ 63 + 4096), 2, false, false, 3, 1, [], 1, 0, 1, 1, none, false, 0, 0, 0, 0⟩
theorem test_Chains_rows_met : let s := oneCore (off_ ag) { Core.reset with chains := [chain1] }
    s.agent ag.key = some ag ∧ (s.core 0).chains = [chain1] ∧ (s.core 0).copies = [] ∧ (s.core 0).queue = [] ∧ (s.core 0).mrels = []
    ∧ chain1.slot = ag.slot ∧ chain1.frozen = false ∧ chain1.row < chain1.cnt ∧ chain1.row + 1 = chain1.cnt
    ∧ ({ chain1 with row := 0 } : Chain).row + 1 < chain1.cnt
    ∧ localAt (chain1.inAddr + BitVec.ofNat 64 (128 * chain1.row)) 128 1048448
    ∧ localAt (chain1.outAddr + BitVec.ofNat 64 (128 * chain1.row)) 128 4224 := by
  refine ⟨rfl, rfl, rfl, rfl, rfl, rfl, rfl, ?_, ?_, ?_, ⟨?_, ?_, ?_⟩, ?_, ?_, ?_⟩ <;> decide

/-! ## Stream contexts -/

/-- A running context under identifier 0 whose held translation maps HBM, or host memory. -/
def ctx0 : Ctx := { Ctx.reset with status := .running, words := [0, 0], tlb := some (leaf false) }
def ctxS (x : Ctx) : State := { State.reset with turn := .context 0 0, ctxs := [(0, x)], agenda := [] }
theorem ctxS_at (x : Ctx) : (ctxS x).ctxAt 0 0 x := ⟨rfl, rfl⟩
/-- A piece of plain memory, and of host memory. -/
def plain (a n : Nat) : Piece := (⟨.here a, false⟩, n)
def hosted (a n : Nat) : Piece := (⟨.host (hostKey a), false⟩, n)
def spanned (a n : Nat) : Option TlbEntry × List Piece := (some (leaf false), [plain a n])
/-- A pattern descriptor of two rows of 32 bytes at 0x4000. -/
def patD : List Byte := toLe 8 0x4000 ++ toLe 4 32 ++ toLe 4 1 ++ toLe 4 2 ++ toLe 4 32 ++ zerosB 40
def pat (pos : Nat) : Pattern := ⟨0x4000, 32, 1, [2, 0, 0, 0, 0], [32, 0, 0, 0, 0], patD, pos⟩
/-- A tensor descriptor of one dimension of 16 elements. -/
def tensorD : List Byte := toLe 8 0x20000 ++ toLe 8 0x30000 ++ toLe 4 16 ++ zerosB 16 ++ toLe 1 0 ++ toLe 1 1 ++ zerosB 26
theorem test_StreamControl_met : (ctxS ctx0).ctxAt 0 0 ctx0 ∧ (4#64).toNat % 8 ≠ 0 ∧ (0x1000#64).toNat % 8 = 0 ∧ ctx0.fresh
    ∧ (ctxS ctx0).reaches 0 ctx0 0x1000 64 .read (some (leaf false)) [plain 0x1000 64]
    ∧ (tensorOf (readPieces (withMem (ctxS ctx0) 0x1000 tensorD) [plain 0x1000 64])).isSome = true
    ∧ (patternOf (readPieces (withMem (ctxS ctx0) 0x1000 patD) [plain 0x1000 64])).toOption = some (pat 0)
    ∧ errOf (patternOf (readPieces (ctxS ctx0) [plain 0x1000 64])) = some 3
    ∧ (ctx0.loops[(3 : Fin 4)]) = 0 ∧ (1#32).toNat = 1 ∧ 1 < (2#32).toNat ∧ (0 : Int) ≤ (ctx0.pc : Int) + (1#40).toInt
    ∧ (ctx0.pc : Int) + (1#40).toInt < ctx0.words.length ∧ (ctx0.pc : Int) + (0xFFFFFFFFFF#40).toInt < 0
    ∧ (ctx0.words.length : Int) ≤ ctx0.pc + (2#40).toInt
    ∧ (4#3).toNat % 4 = 0 ∧ (1#3).toNat % 4 ≠ 0 ∧ tensorOf (readPieces (withMem (ctxS ctx0) 0x1000 [3#8]) [plain 0x1000 64]) = none := by
  refine ⟨ctxS_at _, ?_, ?_, ⟨rfl, rfl, rfl, rfl, rfl, rfl⟩, ⟨?_, ?_, ?_, rfl, ?_⟩, ?_, ?_, ?_, ?_, ?_, ?_, ?_, ?_, ?_, ?_, ?_, ?_, ?_⟩ <;> decide +kernel
/-- Words 7 and 0 in HBM, and a word of host memory. -/
theorem test_StreamControl_waits_met : unitSpan (ctxS ctx0) 0 (some (leaf false)) 0x1000 8 .read = .ok (spanned 0x1000 8)
    ∧ unitSpan (ctxS ctx0) 0 (some (leaf false)) 0x1000 8 .write = .ok (spanned 0x1000 8)
    ∧ (0#40).toNat ≤ leNat (readPieces (ctxS ctx0) [plain 0x1000 8]) ∧ leNat (readPieces (ctxS ctx0) [plain 0x1000 8]) < (1#40).toNat
    ∧ (∀ p ∈ [plain 0x1000 8], p.1.place.far = false)
    ∧ unitSpan (ctxS ctx0) 0 (some hostLeaf) 0x1000 8 .read = .ok (some hostLeaf, [hosted 0x1000 8])
    ∧ (∃ p ∈ [hosted 0x1000 8], p.1.place.far = true) ∧ ctx0.status = .running
    ∧ ctx0.misses 0x1000 = false ∧ ({ ctx0 with tlb := none } : Ctx).misses 0x1000 = true ∧ ctx0.fillMeets [plain 0x1000 8] = false
    ∧ ctx0.begun = false ∧ quietPieces { ctxS ctx0 with hushed := [512] } [plain 0x1000 8] = true := by
  refine ⟨rfl, rfl, ?_, ?_, ?_, rfl, ⟨_, .head _, rfl⟩, rfl, ?_, ?_, ?_, ?_, ?_⟩ <;> decide

/-- A raise in HBM and in host memory, the context's fills landed, one on its way, a release to come. -/
theorem test_StreamControl_raises_met : (ctxS ctx0).posted = [] ∧ ctx0.tensor = none ∧ ctx0.fills = [] ∧ ctx0.relSlot = none
    ∧ unitSpan (ctxS ctx0) 0 (some hostLeaf) 0x1000 8 .write = .ok (some hostLeaf, [hosted 0x1000 8])
    ∧ (hosted 0x1000 8).1.place.far = true ∧ (plain 0x1000 8).1.place = .here 0x1000
    ∧ ({ ctx0 with relSlot := some (0, 0) } : Ctx).relSlot.isSome = true
    ∧ 8 ≤ room (ctxS ctx0) 0 ∧ room { ctxS ctx0 with moved := [(0, 505)] } 0 < 8 := by
  refine ⟨rfl, rfl, rfl, rfl, rfl, ?_, rfl, rfl, ?_, ?_⟩ <;> decide

theorem test_RingStreams_patterns_met : 1 < 2 ∧ 0 < 1 ∧ 4 < 5 := by decide
/-- The ring of core 0 under a live partition of one core, free, taken by a context, by another, FULL. -/
theorem streamed {s : State} {x : Ctx} (k : Nat) (l : List Byte) (p : Part) (h : s.ctxAt 0 0 x ∧ s.quietUnits) :
    (withPart (withMem s k l) p).ctxAt 0 0 x ∧ (withPart (withMem s k l) p).quietUnits ∧ (withPart (withMem s k l) p).memOk :=
  ⟨h.1, h.2, Mem.wf_writeL l [] k rfl⟩
def streamS (x : Ctx) (owner states wpos rpos : Nat) : State :=
  withPart (withMem (ctxS x) (spadKey 0 0) (ringBytes owner states wpos rpos)) part1
def ctxP (pos : Nat) : Ctx := { ctx0 with pats := Vector.replicate 2 (pat pos) }
theorem streamS_ok (x : Ctx) (o i w r : Nat) : (streamS x o i w r).ctxAt 0 0 x ∧ (streamS x o i w r).quietUnits ∧ (streamS x o i w r).memOk :=
  streamed _ _ _ ⟨ctxS_at x, rfl, rfl⟩
theorem test_RingStreams_met : (ctxP 0).schk = 0 ∧ (ctxP 0).tensor = none ∧ (ctxP 0).begun = false ∧ (ctxP 0).pats[(1 : Fin 2)] = pat 0
    ∧ (ctxRing (streamS (ctxP 0) 0xFFFF 0 0 0) (ctxP 0) 0xC000000000000000).toOption = some (0, 0, ring 0xFFFF 0 0 0)
    ∧ (ctxRing (streamS (ctxP 0) 0x8000 2 1 0) (ctxP 0) 0xC000000000000000).toOption = some (0, 0, ring 0x8000 2 1 0)
    ∧ (ctxRing (streamS (ctxP 0) 9 0 0 0) (ctxP 0) 0xC000000000000000).toOption = some (0, 0, ring 9 0 0 0)
    ∧ 0 < (pat 0).rowb ∧ 0 < (ring 0xFFFF 0 0 0).size / (pat 0).rowb ∧ (pat 1).pos < (pat 1).rows ∧ (pat 2).rows - (pat 2).pos = 0
    ∧ (ring 9 0 0 0).owner ≠ 0xFFFF ∧ (ring 9 0 0 0).owner ≠ 0x8000 ∧ (ring 0x8000 2 1 0).owner = 0x8000 + 64 * (0 % 64) + 0
    ∧ (ring 0x8000 2 1 0).claimable = false ∧ (ring 0xFFFF 0 0 0).claimable = true ∧ (ring 0xFFFF 0 0 0).state (0 % 2) < 2
    ∧ (ring 0x8000 2 1 0).state (0 % 2) = 2 := by
  refine ⟨rfl, rfl, rfl, rfl, ?_, ?_, ?_, ?_, ?_, ?_, ?_, ?_, ?_, ?_, ?_, ?_, ?_, ?_⟩ <;> decide
/-- SPUSH's row behind its claim; SPULL's slot through the core window and, behind that, the row it goes to. -/
theorem test_RingStreams_rows_met : (ctxP 0).fresh ∧ Tbl.find ((streamS (ctxP 0) 0xFFFF 0 0 0).core 0).ringSnap 0 = none
    ∧ (putRing (streamS (ctxP 0) 0xFFFF 0 0 0) 0 0 ((ring 0xFFFF 0 0 0).claim 0x8000).1).reaches 0 (ctxP 0) ((pat 0).rowAt 0) 32 .read
      (some (leaf false)) [plain 0x4000 32]
    ∧ (let s := streamS (ctxP 0) 0x8000 2 1 0
      let l := readPieces s [(⟨.here (spadKey 0 4096), false⟩, 32)]
      s.reaches 0 (ctxP 0) (BitVec.ofNat 64 ((0xC000000000000000#64).toNat / 2 ^ 20 * 2 ^ 20 + 4096)) 32 .read (some (leaf false))
        [(⟨.here (spadKey 0 4096), false⟩, 32)]
      ∧ l.length = 32 ∧ (charge s 0 32).reaches 0 ((ctxP 0).noted (some (leaf false)) l) ((pat 0).rowAt 0) 32 .write
        (some (leaf false)) [plain 0x4000 32]) := by
  refine ⟨⟨rfl, rfl, rfl, rfl, rfl, rfl⟩, rfl, ⟨?_, ?_, ?_, ok_of ?_, ?_⟩, ⟨?_, ?_, ?_, ok_of ?_, ?_⟩, ?_, ⟨?_, ?_, ?_, ok_of ?_, ?_⟩⟩
    <;> decide

/-- A context whose SPULL has drained the FULL slot of a ring, and one that may take it. -/
theorem test_RingStreams_release_met : (streamS { ctx0 with relSlot := some (0, 0) } 0x8000 2 1 0).memOk
    ∧ (streamS { ctx0 with relSlot := some (0, 0) } 0x8000 2 1 0).posted = []
    ∧ ((streamS { ctx0 with relSlot := some (0, 0) } 0x8000 2 1 0).ctx 0).relSlot = some (0, 0)
    ∧ (ringAt (streamS { ctx0 with relSlot := some (0, 0) } 0x8000 2 1 0) 0 0).ok = true ∧ (ctxP 0).relSlot = none :=
  ⟨(streamS_ok _ _ _ _ _).2.2, rfl, rfl, by decide, rfl⟩

theorem test_StreamCopies_met : (ctxS (ctxP 0)).ctxAt 0 0 (ctxP 0) ∧ (ctxS (ctxP 0)).quietUnits ∧ (ctxP 0).pats[0] = pat 0
    ∧ (pat 0).rowb = (pat 1).rowb ∧ (pat 2).rows ≤ (pat 2).pos ∧ (pat 1).pos < (pat 1).rows
    ∧ (ctxP 0).fresh ∧ (ctxS (ctxP 0)).reaches 0 (ctxP 0) ((pat 0).rowAt 0) 32 .read (some (leaf false)) [plain 0x4000 32]
    ∧ (let l := readPieces (ctxS (ctxP 0)) [plain 0x4000 32]
      l.length = 32 ∧ (charge (ctxS (ctxP 0)) 0 32).reaches 0 ((ctxP 0).noted (some (leaf false)) l) ((pat 1).rowAt 1) 32 .write
        (some (leaf false)) [plain 0x4020 32]) ∧ (0x1004#64).toNat % 4 = 0
    ∧ (ctxS (ctxP 0)).reaches 0 (ctxP 0) 0x1004 4 .read (some (leaf false)) [plain 0x1004 4]
    ∧ leNat (readPieces (ctxS (ctxP 0)) [plain 0x1004 4]) < (pat 0).cnt.getD 0 0
    ∧ (pat 0).cnt.getD 0 0 ≤ leNat (readPieces (withMem (ctxS (ctxP 0)) 0x1004 [2#8]) [plain 0x1004 4]) := by
  refine ⟨ctxS_at _, ⟨rfl, rfl⟩, rfl, rfl, ?_, ?_, ⟨rfl, rfl, rfl, rfl, rfl, rfl⟩, ⟨?_, ?_, ?_, ok_of ?_, ?_⟩,
    ⟨?_, ⟨?_, ?_, ?_, ok_of ?_, ?_⟩⟩, ?_, ⟨?_, ?_, ?_, rfl, ?_⟩, ?_, ?_⟩ <;> decide
/-- What SGATH moves behind its list entry; an engine with nothing left in this cycle, and one with room for a part of a row of 1,024
bytes. -/
theorem test_StreamCopies_parts_met : let s := ctxS (ctxP 0)
    let w : State := { s with moved := [(0, 512)] }
    (charge s 0 4).reaches 0 ((ctxP 0).noted (some (leaf false)) (readPieces s [plain 0x1004 4])) ((pat 0).rowAt 0) 32 .read
      (some (leaf false)) [plain 0x4000 32]
    ∧ pieceLen w 0 ((pat 0).rowAt 0) 32 = 0 ∧ pieceLen s 0 ((pat 0).rowAt 0) 1024 = 512 ∧ (ctxP 0).misses ((pat 0).rowAt 0) = false
    ∧ unitSpan s 0 (some (leaf false)) ((pat 0).rowAt 0) 512 .read = .ok (some (leaf false), [plain 0x4000 512])
    ∧ (ctxP 0).fillMeets [plain 0x4000 512] = false := by
  refine ⟨⟨?_, ?_, ?_, ok_of ?_, ?_⟩, ?_, ?_, ?_, ok_of ?_, ?_⟩ <;> decide
/-- A fill on its way to slot 0 of the ring, FILLING or not. -/
def fill0 : Fill := ⟨spadKey 0 0, 0, spadKey 0 4096, List.replicate 32 7#8, 0, none, true, false⟩
def ctxF : Ctx := { ctx0 with fills := [fill0] }
theorem test_StreamCopies_fills_met : (streamS ctxF 0x8000 1 1 0).ctx 0 = ctxF ∧ fill0.hdr = spadKey 0 0 ∧ fill0.condemned = none
    ∧ (streamS ctxF 0x8000 1 1 0).dev.transfers = [] ∧ ctxF.status ≠ .free ∧ ctxF.relSlot = none ∧ (streamS ctxF 0x8000 1 1 0).posted = []
    ∧ ({ ctx0 with relSlot := some (0, 0) } : Ctx).relSlot.isSome = true
    ∧ fill0.orphan = false ∧ fill0.bytes ≠ [] ∧ ({ fill0 with bytes := [] } : Fill).bytes = []
    ∧ fill0.bytes.length ≤ room (streamS ctxF 0x8000 1 1 0) 0
    ∧ (∃ a ∈ ({ streamS ctxF 0x8000 1 1 0 with agenda := [(0, .engineFillLand 0 0)] } : State).agenda, a.1 ≤ 0 ∧ a.2 = .engineFillLand 0 0)
    ∧ (ringAt (streamS ctxF 0x8000 1 1 0) 0 0).state 0 = 1 ∧ (ringAt (streamS ctxF 0x8000 0 1 0) 0 0).state 0 ≠ 1 := by
  refine ⟨rfl, rfl, rfl, rfl, ?_, rfl, rfl, rfl, rfl, ?_, rfl, ?_, ⟨_, .head _, ?_, rfl⟩, ?_, ?_⟩ <;> decide

theorem test_Router_lists_met : (3 : Nat) < 4 := by decide
/-- A routing descriptor of two tokens with one expert each, entries at 0x5000, four experts, capacity 1. -/
def routeD (k : Nat) : List Byte :=
  toLe 8 0x5000 ++ toLe 4 2 ++ toLe 1 k ++ zerosB 3 ++ toLe 2 4 ++ zerosB 2 ++ toLe 4 1 ++ toLe 8 0x6000 ++ toLe 8 0x7000 ++ toLe 8 0x8000
    ++ zerosB 16
def routeS (k : Nat) (e : List Byte) : State :=
  { ctxS ctx0 with mem := Mem.writeL (Mem.writeL [] 0x1000 (routeD k)) 0x5000 e }
/-- What a context that reads and writes through its held translation comes to. -/
theorem route_get {s : State} {x : Ctx} {a : Word} {n : Nat} {ps : List Piece} (h : s.quietUnits ∧ s.posted = [])
    (y : x.tensor = none ∧ x.log[x.cur]? = none ∧ x.got = [] ∧ x.gotB = none) (r : s.reaches 0 x a n .read (some (leaf false)) ps) :
    ctxGet s 0 0 x a n = .done (charge s 0 n) (x.noted (some (leaf false)) (readPieces s ps)) (readPieces s ps) none :=
  ctxGet_quiet 0 0 h.1 h.2 y.1 y.2.1 y.2.2.1 y.2.2.2 r
theorem route_put {s : State} {x : Ctx} {a : Word} {l : List Byte} {ps : List Piece} {t : List (Word × List Byte)} {m : Moved}
    (h : s.quietUnits) (y : x.tensor = none ∧ x.log[x.cur]? = none ∧ x.put = 0 ∧ x.gotB = none)
    (r : s.reaches 0 x a l.length .write (some (leaf false)) ps)
    (k : writeAreas 0 0 none t (charge (writePieces s (ctxPoster 0 0) ps l) 0 l.length) (x.noted (some (leaf false)) []) = m) :
    writeAreas 0 0 none ((a, l) :: t) s x = m := by
  simp only [writeAreas, ctxPut_quiet 0 0 h y.1 y.2.1 y.2.2.1 y.2.2.2 r]
  simpa [Ctx.stops] using k
def ctx1 : Ctx := ctx0.noted (some (leaf false)) (routeD 1)
def ctx2 : Ctx := ctx1.noted (some (leaf false)) (List.replicate 16 0)
/-- The descriptor and the entries are read, and one byte to each area is written. -/
theorem test_Router_met : (routeS 1 []).ctxAt 0 0 ctx0 ∧ (0x1000#64).toNat % 8 = 0 ∧ ctx1.stops none = none
    ∧ ctxGet (routeS 1 []) 0 0 ctx0 0x1000 64 = .done (charge (routeS 1 []) 0 64) ctx1 (routeD 1) none
    ∧ (routeD 1).length = 64 ∧ leAt (routeD 1) 8 4 * leAt (routeD 1) 12 1 ≤ 2 ^ 20 ∧ 1 ≤ leAt (routeD 1) 12 1 ∧ leAt (routeD 1) 12 1 ≤ 8
    ∧ 1 ≤ leAt (routeD 1) 16 2 ∧ leAt (routeD 1) 16 2 ≤ 4096 ∧ leAt (routeD 1) 13 3 = 0 ∧ leAt (routeD 1) 18 2 = 0 ∧ leAt (routeD 1) 56 8 = 0
    ∧ ¬ leAt (routeD 9) 12 1 ≤ 8 ∧ leWord (sliceB (routeD 1) 48 8) = 0
    ∧ ctxGet (charge (routeS 1 []) 0 64) 0 0 ctx1 (leWord ((routeD 1).take 8)) 16
      = .done (charge (charge (routeS 1 []) 0 64) 0 16) ctx2 (List.replicate 16 0) none
    ∧ (∀ v ∈ [0, 3 * 2 ^ 32], v < 2 ^ 48 ∧ bits v 32 16 < 4) ∧ (∃ v ∈ [4 * 2 ^ 32], 2 ^ 48 ≤ v ∨ 4 ≤ bits v 32 16) := by
  have e : readPieces (routeS 1 []) [plain 0x1000 64] = routeD 1 := by decide +kernel
  have z : readPieces (charge (routeS 1 []) 0 64) [plain 0x5000 16] = List.replicate 16 0 := by decide +kernel
  refine ⟨⟨rfl, rfl⟩, ?_, rfl, ?_, ?_, ?_, ?_, ?_, ?_, ?_, ?_, ?_, ?_, ?_, ?_, ?_, ?_, ?_⟩
  case refine_2 =>
    have := route_get (s := routeS 1 []) (x := ctx0) (a := 0x1000) (n := 64) (ps := [plain 0x1000 64]) ⟨⟨rfl, rfl⟩, rfl⟩ ⟨rfl, rfl, rfl, rfl⟩
      ⟨by decide, by decide, by decide, rfl, by decide⟩
    rwa [e] at this
  case refine_14 =>
    have := route_get (s := charge (routeS 1 []) 0 64) (x := ctx1) (a := leWord ((routeD 1).take 8)) (n := 16) (ps := [plain 0x5000 16])
      ⟨⟨rfl, rfl⟩, rfl⟩ ⟨rfl, rfl, rfl, rfl⟩ ⟨by decide, by decide +kernel, by decide +kernel, ok_of (by decide +kernel), by decide⟩
    rwa [z] at this
  all_goals decide +kernel
theorem test_Router_writes_met : (∃ u x, writeAreas 0 0 none [(0x6000, [1#8]), (0x7000, [2#8]), (0x8000, [3#8])] (routeS 1 []) ctx0 = .done u x [] none
      ∧ x.stops none = none)
    ∧ (∃ u y, ctxGet { routeS 1 [] with moved := [(0, 512)] } 0 0 ctx1 0x5000 16 = .stand u y)
    ∧ ∃ u y, writeAreas 0 0 none [(0x6000, [1#8])] { routeS 1 [] with moved := [(0, 512)] } ctx0 = .stand u y := by
  refine ⟨⟨_, _, route_put (ps := [plain 0x6000 1]) ⟨rfl, rfl⟩ ⟨rfl, rfl, rfl, rfl⟩ ⟨by decide, by decide, by decide, rfl, by decide⟩
      (route_put (ps := [plain 0x7000 1]) ⟨rfl, rfl⟩ ⟨rfl, rfl, rfl, rfl⟩ ⟨by decide, by decide, by decide, rfl, by decide⟩
        (route_put (ps := [plain 0x8000 1]) ⟨rfl, rfl⟩ ⟨rfl, rfl, rfl, rfl⟩ ⟨by decide, by decide, by decide, rfl, by decide⟩ rfl)), rfl⟩,
    ⟨_, _, rfl⟩, ⟨_, _, rfl⟩⟩

/-- The core window of core 0 under a live partition of one core. -/
def win (off : Nat) : Word := BitVec.ofNat 64 (3 * 2 ^ 62 + 0 * 2 ^ 20 + off)
theorem winAt {s : State} (off n : Nat) (h : off < 2 ^ 20 ∧ off + n ≤ 2 ^ 20 ∧ windowCore s 0 0 = .ok 0) :
    s.windowAt 0 (win off) n (spadKey 0 off) := ⟨0, off, 0, rfl, by decide, h.1, h.2.1, h.2.2, rfl⟩
/-- The same through the core window, its areas in the last bytes of the scratchpad, with and without a drop map. -/
def routeWD (map : Bool) : List Byte :=
  ofWord (win 4096) ++ toLe 4 2 ++ toLe 1 1 ++ zerosB 3 ++ toLe 2 4 ++ zerosB 2 ++ toLe 4 1 ++ ofWord (win 8192) ++ ofWord (win 1048544)
    ++ ofWord (win 1048560) ++ ofWord (if map then win 1048575 else 0) ++ zerosB 8
def routeW (map : Bool) : State := withPart (withMem (ctxS ctx0) (spadKey 0 64) (routeWD map)) part1
theorem routeW_core (map : Bool) : windowCore (routeW map) 0 0 = .ok 0 := rfl
theorem test_Router_completes_met (map : Bool) : (routeW map).ctxAt 0 0 ctx0 ∧ (routeW map).quietUnits ∧ ctx0.tensor = none ∧ ctx0.fresh
    ∧ ctx0.fills = [] ∧ 64 + 16 + (8 + 32) + 1 ≤ room (routeW map) 0
    ∧ (win 64).toNat % 8 = 0 ∧ (routeW map).windowAt ctx0.asid (win 64) 64 (spadKey 0 64)
    ∧ rd (routeW map) (spadKey 0 64) 64 = routeWD map
    ∧ (leAt (routeWD map) 8 4, leAt (routeWD map) 12 1, leAt (routeWD map) 16 2, leAt (routeWD map) 20 4) = (2, 1, 4, 1)
    ∧ leAt (routeWD map) 13 3 = 0 ∧ leAt (routeWD map) 18 2 = 0 ∧ leAt (routeWD map) 56 8 = 0
    ∧ leWord (sliceB (routeWD map) 0 8) = win 4096 ∧ (routeW map).windowAt 0 (win 4096) (8 * 2) (spadKey 0 4096)
    ∧ ((List.range 2).map fun i => rdNat (routeW map) (spadKey 0 4096 + 8 * i) 8) = [0, 0] ∧ (keptOf (assigns [0, 0] 4) 4 1).length = 1
    ∧ leWord (sliceB (routeWD map) 24 8) = win 8192 ∧ (routeW map).windowAt 0 (win 8192) 8 (spadKey 0 8192)
    ∧ leWord (sliceB (routeWD map) 32 8) = win 1048544 ∧ (routeW map).windowAt 0 (win 1048544) 16 (spadKey 0 1048544)
    ∧ leWord (sliceB (routeWD map) 40 8) = win 1048560 ∧ (routeW map).windowAt 0 (win 1048560) 16 (spadKey 0 1048560)
    ∧ (leWord (sliceB (routeWD map) 48 8) ≠ 0 ↔ map = true) ∧ (routeW map).windowAt 0 (win 1048575) 1 (spadKey 0 1048575) := by
  have w : ∀ off n, off < 2 ^ 20 ∧ off + n ≤ 2 ^ 20 → (routeW map).windowAt 0 (win off) n (spadKey 0 off) := fun off n h =>
    winAt off n ⟨h.1, h.2, routeW_core map⟩
  refine ⟨⟨rfl, rfl⟩, ⟨rfl, rfl⟩, rfl, ⟨rfl, rfl, rfl, rfl, rfl, rfl⟩, rfl, ?_, ?_, w _ _ ?_, ?_, ?_, ?_, ?_, ?_, ?_, w _ _ ?_, ?_, ?_, ?_, w _ _ ?_, ?_, w _ _ ?_, ?_, w _ _ ?_, ?_,
    w _ _ ?_⟩ <;> cases map <;> decide +kernel

/-! ## Ringers -/

/-- Rank 0 of two in a running program, the other rank behind port 3. -/
def rg (n : Vector Nat 4) : Ringer := { Ringer.reset with status := .running, words := [0, 0], size := 2, list := [0, 5], n := n, coll := 9 }
def rgDev : Device := { Device.reset with routes := [(5, 0x83)], ports := Device.reset.ports.set 3 { Port.reset with state := .active } }
def rgS (x : Ringer) : State := paged { State.reset with turn := .ringer 2, ringers := [(2, x)], dev := rgDev, agenda := [] }
def n1 : Vector Nat 4 := Vector.replicate 4 0 |>.set 1 1
theorem rgS_at (x : Ringer) : (rgS x).ringerAt 2 x ∧ (rgS x).quietUnits := ⟨⟨rfl, rfl⟩, rfl, rfl⟩
theorem test_RingerControl_met : (rgS (rg n1)).ringerAt 2 (rg n1) ∧ (rg n1).l[(3 : Fin 4)] = 0 ∧ 1 < (2#32).toNat ∧ 0 ≤ ((rg n1).pc : Int) + (1#40).toInt
    ∧ ((rg n1).pc : Int) + (1#40).toInt < (rg n1).words.length ∧ ((rg n1).words.length : Int) ≤ (rg n1).pc + (2#40).toInt ∧ 0 < (rg n1).size
    ∧ (4#64).toNat % 8 ≠ 0 ∧ (0x40000#64).toNat % 8 = 0 := by
  refine ⟨(rgS_at _).1, ?_, ?_, ?_, ?_, ?_, ?_, ?_, ?_⟩ <;> decide
/-- The result of a ringer's read, where there is one. -/
def got {α : Type} : RM α → Option α
  | .ok a => some a
  | .error _ => none
theorem rm_ok {α : Type} {x : RM α} {a : α} (h : got x = some a) : x = .ok a := by cases x <;> simp_all [got]
theorem test_RingerControl_words_met : ringerSpan (rgS (rg n1)) 2 (rg n1) 0x40000 8 .read = .ok [plain 0x40000 8]
    ∧ ringerSpan (rgS (rg n1)) 2 (rg n1) 0x40000 8 .write = .ok [plain 0x40000 8]
    ∧ (0#40).toNat ≤ leNat (readPieces (rgS (rg n1)) [plain 0x40000 8]) ∧ leNat (readPieces (rgS (rg n1)) [plain 0x40000 8]) < (1#40).toNat
    ∧ (∀ p ∈ [plain 0x40000 8], p.1.place.far = false) := ⟨rm_ok (by decide), rm_ok (by decide), by decide, by decide, by decide⟩
theorem test_RingerControl_times_met : (6#64).toNat < ({ rgS (rg n1) with time := 7 } : State).time.toNat
    ∧ ({ rgDev with synced := true } : Device).synced = true ∧ (4200 : Int).natAbs ≤ 21 * 200 ∧ 21 * 200 < (-4201 : Int).natAbs
    ∧ (rgS (rg n1)).time.toNat < (1#64).toNat := by decide

theorem test_RingerSends_events_met : (rgS (rg n1)).ringer 2 = rg n1 ∧ ({ rg n1 with status := .waiting } : Ringer).status = .waiting
    ∧ ((rg n1).words.getD 1 0).toNat ≤ (rgS (rg n1)).time.toNat ∧ (rgS (rg n1)).time.toNat < ([0#64, 1].getD 1 0).toNat := by
  refine ⟨rfl, rfl, ?_, ?_⟩ <;> decide
/-- Two FP32 elements at 0x40000, plain, folded, deterministic. -/
def pay (dm fold : Bool) : CPay := ⟨1, 2, 0, false, dm, fold, false, false, 7, false, 2⟩
def buf (fold : Bool) : RBuf := ⟨2, 4, 0x40000, false, false, fold⟩
def elems2 : List Nat := [0, 0]
theorem test_RingerSends_met : (rgS (rg n1)).ringerAt 2 (rg n1) ∧ (rgS (rg n1)).quietUnits
    ∧ rbuf (rg n1) (pay false false) 0x40000 = .ok (buf false) ∧ rbuf (rg n1) (pay false true) 0x40000 = .ok (buf true)
    ∧ ringerSpan (rgS (rg n1)) 2 (rg n1) 0x40000 (2 * 4) .read = .ok [plain 0x40000 8]
    ∧ (rg n1).n[(0 : Fin 4)] = (rg n1).rank ∧ wayTo (rgS (rg n1)) (rg n1) (rg n1).n[(1 : Fin 4)] = .port 3 5
    ∧ wayTo { rgS (rg n1) with dev := Device.reset } (rg n1) 1 = .cut
    ∧ (readPieces (rgS (rg n1)) [plain 0x40000 8]).length = 2 * 4
    ∧ ringerSpan (rgS (rg n1)) 2 (rg n1) (0x40000 + BitVec.ofNat 64 ((rg n1).n[(2 : Fin 4)] * 2 * 4)) (2 * 4) .write = .ok [plain 0x40000 8] :=
  ⟨(rgS_at _).1, (rgS_at _).2, rfl, rfl, rm_ok (by decide), rfl, rfl, rfl, by decide, rm_ok (by decide)⟩
/-- A rank in another ringer of the module, one whose program does not run there yet, a ringer that CTIME has triggered, one whose
credit is there; a staging buffer that is full. -/
theorem test_RingerSends_ways_met : let s : State := { rgS (rg n1) with dev := { rgDev with devid := 5 } }
    let y : Ringer := { rg n1 with rank := 1 }
    wayTo { s with ringers := [(2, rg n1), (4, y)] } (rg n1) 1 = .near 4 ∧ wayTo s (rg n1) 1 = .absent
    ∧ (rg n1).triggered = false ∧ (rg n1).credit = false ∧ ({ rg n1 with triggered := true } : Ringer).triggered = true
    ∧ ({ rg n1 with credit := true } : Ringer).credit = true ∧ stagingFull (rg n1).staging = false := by
  refine ⟨rfl, rfl, rfl, rfl, rfl, rfl, ?_⟩; decide
theorem test_RingerSends_full_met :
    stagingFull [⟨9, 1, 0, 7, .rows, false, false, false, 1, 0, [], [], List.replicate stagingBytes 0#8, [], 0⟩] = true := by
  have h : ∀ n : Nat, sumNat ([(⟨9, 1, 0, 7, .rows, false, false, false, 1, 0, [], [], List.replicate n 0#8, [], 0⟩ : Msg)].map msgBytes)
      = 64 + n := by intro n; simp [msgBytes, sumNat]
  rw [stagingFull, h]
  decide
/-- A table that covers the operand, of two elements of which neither has an exponent. -/
def tabled (x : Ringer) : Ringer := { x with xt := localTable (buf false) elems2, xtOf := some (2, false, false) }
theorem test_RingerSends_det_met : (got (detOperand (tabled (rg n1)) (buf false) elems2)).isSome = true := by decide

/-- The message that meets the command, and one that does not. -/
def msg1 (mode : MsgMode) (count : Nat) : Msg :=
  let m : Msg := ⟨9, 1, 0, 7, mode, false, false, false, count, 41, [1, 2], [], [], [], 0⟩
  { m with chime := msgChime m }
def staged (m : Msg) : Ringer := { rg n1 with staging := [m] }
theorem test_RingerReceives_met : (rgS (staged (msg1 .plain 2))).ringerAt 2 (staged (msg1 .plain 2))
    ∧ rbuf (staged (msg1 .plain 2)) (pay false false) 0x40000 = .ok (buf false) ∧ (staged (msg1 .plain 2)).got = []
    ∧ (msg1 .plain 2).coll = (rg n1).coll ∧ (msg1 .plain 2).tag = (pay false false).tag ∧ (msg1 .plain 2).src = (rg n1).n[(1 : Fin 4)]
    ∧ expected (buf false) false (msg1 .plain 2) = true ∧ expected (buf false) false (msg1 .plain 3) = false
    ∧ got (recvImages (staged (msg1 .plain 2)) (buf false) (msg1 .plain 2)) = some [1, 2]
    ∧ ringerSpan (rgS (staged (msg1 .plain 2))) 2 (staged (msg1 .plain 2)) 0x40000 (imagesB 4 [1, 2]).length .write = .ok [plain 0x40000 8]
    ∧ (got (combine (staged (msg1 .plain 2)) (buf false) false 2 elems2 [msg1 .plain 2])).isSome = true
    ∧ (got (combine (tabled (rg n1)) (buf false) true 2 elems2 [msg1 .det 2])).isSome = true
    ∧ wayTo (rgS (staged (msg1 .plain 2))) (staged (msg1 .plain 2)) 1 = .port 3 5 := by
  refine ⟨(rgS_at _).1, rfl, rfl, rfl, rfl, rfl, ?_, ?_, ?_, rm_ok ?_, ?_, ?_, rfl⟩ <;> decide
/-- No message awaited is there, and another one is; a rank out of reach; a fold of no elements. -/
theorem test_RingerReceives_none_met : (rgS (rg n1)).ringerAt 2 (rg n1) ∧ (rgS (rg n1)).quietUnits
    ∧ rbuf (rg n1) (pay false false) 0x40000 = .ok (buf false) ∧ (rg n1).got = [] ∧ (rg n1).staging = []
    ∧ ¬ ((msg1 .plain 2).coll = (rg n1).coll ∧ (msg1 .plain 2).tag = 8 ∧ (msg1 .plain 2).src = (rg n1).n[(1 : Fin 4)])
    ∧ wayTo (rgS (rg n1)) (rg n1) (rg n1).n[(1 : Fin 4)] = .port 3 5 ∧ wayTo { rgS (rg n1) with dev := Device.reset } (rg n1) 1 = .cut
    ∧ ringerSpan (rgS (rg n1)) 2 (rg n1) 0x40000 (2 * 4) .read = .ok [plain 0x40000 8]
    ∧ got (detCheck (tabled (rg n1)) (buf false) true 2 elems2) = some ()
    ∧ rbuf (rg n1) { pay false true with cnt := 0 } 0x40000 = .ok { buf true with cnt := 0 }
    ∧ got (combine (rg n1) { buf true with cnt := 0 } false 2 [] [{ msg1 .arr 0 with words := [], fold := true }]) = some ([], 0) := by
  refine ⟨(rgS_at _).1, (rgS_at _).2, rfl, rfl, rfl, ?_, rfl, rfl, rm_ok ?_, ?_, rfl, ?_⟩ <;> decide
theorem test_RingerReceives_orders_met : [msg1 .det 2, msg1 .plain 2].Perm [msg1 .plain 2, msg1 .det 2] := List.Perm.swap _ _ _

def alone1 : Ringer := { rg n1 with size := 1, list := [0] }
/-! The same through the core window: a buffer, a vector descriptor and its tables in the scratchpad of core 0. -/
def bufW (fold : Bool) : RBuf := { buf fold with addr := win 1024 }
def payW (fold : Bool) : CPay := pay false fold
def ringW (x : Ringer) : State := withPart (rgS x) part1
theorem ringW_at (x : Ringer) : (ringW x).ringerAt 2 x ∧ (ringW x).settled :=
  ⟨⟨rfl, rfl⟩, rfl, rfl, fun e h => by
    have : e = (0, part1) := by simpa [ringW, withPart] using h
    rw [this]; rfl⟩
theorem ringWin (x : Ringer) (off n : Nat) (h : off < 2 ^ 20 ∧ off + n ≤ 2 ^ 20) : (ringW x).windowAt 0 (win off) n (spadKey 0 off) :=
  winAt off n ⟨h.1, h.2, rfl⟩
/-- CRECV of plain and of wire words, CRRS and CRRL with the message there; CRRL.all alone, its folded result to A1. -/
theorem test_RingerReceives_completes_met (fold : Bool) : let m := msg1 .plain 2; let d := msg1 .det 2
    let x : Ringer := { staged { m with fold := fold } with a1 := win 1048568, xtOf := some (2, false, false) }
    (ringW x).ringerAt 2 x ∧ (ringW x).settled ∧ rbuf x (payW fold) (win 1024) = .ok (bufW fold) ∧ x.got = []
    ∧ x.asid = 0 ∧ (ringW x).windowAt 0 (win 1024) (2 * 4) (spadKey 0 1024) ∧ m.coll = x.coll ∧ m.tag = 7 ∧ m.src = x.n[(1 : Fin 4)]
    ∧ m.chime = msgChime m ∧ d.chime = msgChime d ∧ m.count = 2 ∧ m.bf16 = false ∧ m.words.length = 2 ∧ d.mode = .det
    ∧ x.xtOf = some (2, false, false) ∧ wayTo (ringW x) x 1 = .port 3 5 ∧ x.a1.toNat % 4 = 0
    ∧ (ringW x).windowAt 0 x.a1 (4 * 2) (spadKey 0 1048568) ∧ (ringW x).windowAt 0 x.a1 (4 * 1) (spadKey 0 1048568)
    ∧ alone1.size = 1 ∧ alone1.rank = 0 := by
  refine ⟨(ringW_at _).1, (ringW_at _).2, ?_, rfl, rfl, ringWin _ _ _ ?_, rfl, rfl, rfl, rfl, rfl, rfl, rfl, rfl, rfl, rfl, ?_, ?_,
    ringWin _ _ _ ?_, ringWin _ _ _ ?_, rfl, rfl⟩ <;> cases fold <;> first | rfl | decide
theorem test_RingerTables_met : (ringW alone1).ringerAt 2 alone1 ∧ (ringW alone1).settled
    ∧ rbuf alone1 (payW false) (win 1024) = .ok (bufW false) ∧ alone1.asid = 0 ∧ (ringW alone1).windowAt 0 (win 1024) (2 * 4) (spadKey 0 1024)
    ∧ alone1.sent = false ∧ alone1.size = 1 ∧ alone1.rank = 0 ∧ (rg n1).size = 2 ∧ (rg n1).rank = 0 ∧ wayTo (ringW (rg n1)) (rg n1) 1 = .port 3 5
    ∧ ({ rg n1 with sent := true } : Ringer).sent = true ∧ (msg1 .table (tableBlocks (buf false))).mode = .table
    ∧ (msg1 .table (tableBlocks (buf false))).count = tableBlocks (buf false) :=
  ⟨(ringW_at _).1, (ringW_at _).2, rfl, rfl, ringWin _ _ _ (by decide), rfl, rfl, rfl, rfl, rfl, rfl, rfl, rfl, rfl⟩
/-- What leaves in order: a message to the rank itself and one through a port, of a ringer that CTIME has triggered; all tables there. -/
theorem test_RingerTables_order_met : let x : Ringer := { rg n1 with triggered := true }
    let ms := [{ msg1 .table 1 with dest := 0, src := 0 }, { msg1 .table 1 with dest := 1, src := 0 }]
    (ringW x).quietUnits ∧ x.triggered = true ∧ x.credit = false ∧ (∀ m ∈ ms, m.mode = .rows ∨ m.mode = .table ∨ m.chime = msgChime m)
    ∧ (ms.filter fun m => m.dest = x.rank).length ≤ 1 ∧ stagingFull x.staging = false
    ∧ (∀ m ∈ ms.filter fun m => m.dest ≠ x.rank, ∃ q, wayTo (ringW x) x m.dest = .port q (BitVec.ofNat 16 (x.list.getD m.dest 0)))
    ∧ ((List.range x.size).filter fun q => q ≠ x.rank) = [1] ∧ ((List.range alone1.size).filter fun q => q ≠ alone1.rank) = []
    ∧ ([msg1 .table (tableBlocks (buf false))].map Msg.src).Perm [1]
    ∧ wayTo { ringW x with dev := { rgDev with devid := 5 } } x 1 = .absent := by
  refine ⟨⟨rfl, rfl⟩, rfl, rfl, ?_, ?_, ?_, ?_, ?_, ?_, .refl _, rfl⟩
  case refine_4 =>
    intro m h
    have e : m = { msg1 .table 1 with dest := 1, src := 0 } := by simpa [msg1, rg, Ringer.reset] using h
    subst e; exact ⟨3, rfl⟩
  all_goals decide
/-- The rows that a rank has sent. -/
def rowsMsg : Msg := ⟨9, 0, 0, 7, .rows, false, false, false, 1, 0, [], [2], List.replicate 16 1, [], 0⟩
/-- Two ranks: what each has sent, in order of rank, whole; and one that is not. -/
theorem test_RingerTables_ranks_met : let x : Ringer := { rg n1 with staging := [rowsMsg, { rowsMsg with src := 1 }] }
    x.got = [] ∧ x.staging.Perm [rowsMsg, { rowsMsg with src := 1 }]
    ∧ [rowsMsg, { rowsMsg with src := 1 }].map Msg.src = List.range x.size ∧ (∀ m ∈ x.staging, m.coll = x.coll ∧ m.tag = 7)
    ∧ (∀ m ∈ x.staging, m.mode = .rows ∧ m.counts.length = 1 ∧ m.rows.length = sumNat (m.counts.map (·.toNat)) * 8)
    ∧ ¬ ({ rowsMsg with counts := [3] } : Msg).rows.length = sumNat (([3] : List W32).map (·.toNat)) * 8 := by
  refine ⟨rfl, .refl _, ?_, ?_, ?_, ?_⟩ <;> decide
/-- Rows of 8 bytes in the last 16 bytes of the scratchpad, one entry per rank at 8192, room for 16 bytes. -/
def vecD : List Byte := ofWord (win 1048560) ++ ofWord (win 8192) ++ toLe 4 8 ++ toLe 2 1 ++ toLe 2 0 ++ toLe 8 16
def vecS (x : Ringer) (count : Nat) : State :=
  { ringW x with mem := Mem.writeL (Mem.writeL [] (spadKey 0 4096) vecD) (spadKey 0 8192) (toLe 4 count) }
theorem test_RingerTables_rows_met (count : Nat) (h : count = 0 ∨ count = 2) :
    (win 4096).toNat % 8 = 0 ∧ (vecS alone1 count).windowAt 0 (win 4096) 32 (spadKey 0 4096)
    ∧ rd (vecS alone1 count) (spadKey 0 4096) 32 = vecD ∧ leWord (sliceB vecD 0 8) = win 1048560 ∧ leWord (sliceB vecD 8 8) = win 8192
    ∧ (leAt vecD 16 4, leAt vecD 20 2, leAt vecD 22 2, leAt vecD 24 8) = (8, 1, 0, 16)
    ∧ (vecS alone1 count).windowAt 0 (win 8192) 4 (spadKey 0 8192) ∧ rdNat (vecS alone1 count) (spadKey 0 8192) 4 = count
    ∧ (vecS alone1 count).windowAt 0 (win 1048560) 16 (spadKey 0 1048560) ∧ (vecS alone1 count).windowAt 0 (win 1048560) 0 (spadKey 0 1048560)
    ∧ stagingFull alone1.staging = false ∧ rowsMsg.coll = alone1.coll ∧ rowsMsg.counts.length = 1
    ∧ rowsMsg.rows.length = sumNat (rowsMsg.counts.map (·.toNat)) * 8 ∧ rowsMsg.rows.length ≤ 16 := by
  have w : ∀ off n, off < 2 ^ 20 ∧ off + n ≤ 2 ^ 20 → (vecS alone1 count).windowAt 0 (win off) n (spadKey 0 off) := fun off n h =>
    winAt off n ⟨h.1, h.2, rfl⟩
  refine ⟨?_, w _ _ ?_, ?_, ?_, ?_, ?_, w _ _ ?_, ?_, w _ _ ?_, w _ _ ?_, ?_, ?_, ?_, ?_, ?_⟩
    <;> rcases h with rfl | rfl <;> decide +kernel

/-! ## Launches -/

/-- An image of one value, a library of one operator, a program of one word, a list of one device, and a packet in its queue. -/
def image1 : List Byte := ofWord Config.encodingHash ++ toLe 4 1 ++ toLe 4 0 ++ toLe 8 128 ++ zerosB 40 ++ ofWord (mkSym 4 0 0 0 5 false false)
def lib1 : List Byte := ofWord Config.encodingHash ++ toLe 4 1 ++ toLe 4 0xFFFFFFFF ++ toLe 8 64 ++ toLe 8 128 ++ zerosB 32
  ++ (toLe 4 0 ++ toLe 2 1 ++ toLe 1 4 ++ zerosB 9) ++ zerosB 48 ++ ofWord 0x3800000000000000
def prog1 : List Byte := ofWord Config.encodingHash ++ toLe 4 1 ++ zerosB 52 ++ ofWord 0xA900000000000000
def exprB (first : Nat) : List Byte := toLe 4 1 ++ toLe 2 first ++ toLe 7 0x20000 ++ zerosB 14 ++ toLe 7 0x30000 ++ zerosB 7 ++ toLe 7 0x1000 ++ toLe 8 1 ++ zerosB 8
def streamB (ctx : Nat) : List Byte := toLe 4 2 ++ toLe 2 ctx ++ toLe 7 0x50000 ++ zerosB 28 ++ toLe 7 0x1000 ++ toLe 8 1 ++ zerosB 8
def collB (size : Nat) : List Byte := toLe 4 3 ++ toLe 2 9 ++ toLe 7 0x50000 ++ toLe 7 0x60000 ++ toLe 2 0 ++ toLe 2 size ++ zerosB 17 ++ toLe 7 0x1000 ++ toLe 8 1 ++ zerosB 8
def queueB (kind : Nat) : List Byte := toLe 8 0x2040 ++ toLe 4 1 ++ toLe 1 kind ++ zerosB 51
/-- The entries of bytes from a key on. -/
def entries (k : Nat) (l : List Byte) : Mem := (l.zipIdx.filter fun x => x.1 ≠ 0).map fun x => (k + x.2, x.1)
def queued (kind : Nat) (b : List Byte) (rest : Mem) : State :=
  { State.reset with
    agenda := []
    mem := entries 0 (toLe 8 0x10001) ++ entries 0x2000 (queueB kind ++ b) ++ entries 0x10000 (toLe 8 0x1803) ++ rest }
def exprS (b : List Byte) : State := queued 1 b (entries 0x20000 image1 ++ entries 0x30000 lib1)
def progS (kind : Nat) (b : List Byte) : State := queued kind b (entries 0x50000 prog1)
def head (b : List Byte) : Packet := ⟨0, 0, b, .here 0x2040, .here 0x2000⟩
theorem zero_some {α : Type} {x : Nat × Option α} (h : x.1 = 0 ∧ x.2.isSome = true) : ∃ a, x = (0, some a) := by
  obtain ⟨n, o⟩ := x
  obtain ⟨h1, h2⟩ := h
  cases o with
  | none => cases h2
  | some a => exact ⟨a, by simp_all⟩
theorem test_Launches_empty_met : queueHead State.reset 0x2000 1 = none ∧ queueHead State.reset 0x2000 2 = none
    ∧ queueHead State.reset 0x2000 3 = none := by refine ⟨?_, ?_, ?_⟩ <;> decide +kernel
theorem test_Launches_watched_met : let s : State := { exprS (exprB 5) with queues := [(1, 0x2000)] }
    (1, 0x2000#64) ∈ s.queues ∧ (queueHead s (0x2000#64).toNat 1).isSome = true := ⟨.head _, by decide +kernel⟩
theorem test_Launches_expression_met : queueHead (exprS (exprB 5)) 0x2000 1 = some (head (exprB 5))
    ∧ exprStatus (exprS (exprB 5)) (exprPkt (exprB 5)) 0 = (6, none) := by constructor <;> decide +kernel
theorem test_Launches_stream_met : queueHead (progS 2 (streamB 0xFF)) 0x2000 2 = some (head (streamB 0xFF))
    ∧ streamStatus (progS 2 (streamB 0xFF)) 0 (streamB 0xFF) = (0, 0, [0xA900000000000000]) := by constructor <;> decide +kernel
theorem test_Launches_stream_refused_met : (streamStatus (progS 2 (streamB 64)) 0 (streamB 64)).1 ≠ 0 := by decide +kernel
theorem test_Launches_collective_met : queueHead (progS 3 (collB 1)) 0x2000 3 = some (head (collB 1))
    ∧ (collStatus (progS 3 (collB 1)) (collB 1)).1 = 0 ∧ ((progS 3 (collB 1)).ringer 0).status = .idle ∧ (rg n1).status ≠ .idle
    ∧ ringerGone (progS 3 (collB 1)) 0 = false
    ∧ ringerGone { progS 3 (collB 1) with dev := { Device.reset with ports := Device.reset.ports.set 0 { Port.reset with removed := true } } } 0
      = true := by
  refine ⟨?_, ?_, ?_, ?_, ?_, ?_⟩ <;> decide +kernel
theorem test_Launches_collective_refused_met : (collStatus (progS 3 (collB 0)) (collB 0)).1 ≠ 0 := by decide +kernel
theorem accepted : (exprStatus (exprS (exprB 0)) (exprPkt (exprB 0)) 0).1 = 0 := by decide +kernel
theorem accepted_some : (exprStatus (exprS (exprB 0)) (exprPkt (exprB 0)) 0).2.isSome = true := by decide +kernel
theorem test_Placement_met : queueHead (exprS (exprB 0)) 0x2000 1 = some (head (exprB 0))
    ∧ ∃ a, exprStatus (exprS (exprB 0)) (exprPkt (exprB 0)) 0 = (0, some a) :=
  ⟨by decide +kernel, zero_some ⟨accepted, accepted_some⟩⟩
theorem test_Placement_rows_met : placeCells State.reset 64 [0] [0, 1] = some [0] ∧ (∀ w ∈ [(0#64)], isApp w = true → symAlign w = false) := by
  constructor
  · have h : isApp 0#64 = false := by decide
    simp [placeCells, h]
  · intro w h; simp only [List.mem_cons, List.not_mem_nil, or_false] at h; subst h; decide

end Sys2Proof.Tests
end

