-- ==== Sys2Proof/Tests/Slice0.lean ====
section
/-! SUPPORT. Tests. Words are written out bit by bit from the encodings of 05 R94 to R106, 09 R177 and 14 R259 or are examples of the
spec; results are computed by hand from the entries of 19 to 21. -/

set_option maxRecDepth 20000
set_option Elab.async false

namespace Sys2Proof.Tests

open Sys2Proof Sys2Proof.Machine

/-! ## Ill-formed terms are refused -/

theorem test_wf_bfx : (Instr.bfx 1 2 1 63).wf = false ∧ (Instr.bfx 1 2 0 63).wf = true := by decide
theorem test_wf_bfi : (Instr.bfi 1 2 60 4).wf = false ∧ (Instr.bfi 1 2 60 3).wf = true := by decide
theorem test_wf_fcmp : (Instr.fcmp .ltu 1 2 3).wf = false ∧ (Instr.fcmp .ge 1 2 3).wf = true := by decide
theorem test_wf_atom_c : (Instr.atom .add true .plain .core 1 2 3 4 0).wf = false ∧ (Instr.atom .cas true .plain .core 1 2 3 4 0).wf = true := by decide
theorem test_wf_atom_fadd : (Instr.atom .fadd true .plain .core 1 2 3 0 0).wf = false ∧ (Instr.atom .fadd false .plain .core 1 2 3 0 0).wf = true := by
  decide
theorem test_wf_fence : (Instr.fence .plain .core).wf = false ∧ (Instr.fence .acq .core).wf = true := by decide
theorem test_wf_vmin : (Instr.vmin (.fp .f32 .rup) ⟨0, false⟩ 1 2 3).wf = false ∧ (Instr.vmin (.fp .f32 .rne) ⟨0, false⟩ 1 2 3).wf = true := by decide
theorem test_wf_vmax : (Instr.vmax (.fp .f16 .dyn) ⟨0, false⟩ 1 2 3).wf = false ∧ (Instr.vmax .iw ⟨0, false⟩ 1 2 3).wf = true := by decide
theorem test_wf_vcmp : (Instr.vcmp .geu false ⟨0, false⟩ 1 2 3).wf = false ∧ (Instr.vcmp .geu true ⟨0, false⟩ 1 2 3).wf = true := by decide
theorem test_wf_vcvt : (Instr.vcvt (.toInt .sint64) .rne ⟨0, false⟩ 1 2).wf = false ∧ (Instr.vcvt (.toInt .uint32) .rne ⟨0, false⟩ 1 2).wf = true := by
  decide
theorem test_wf_vred : (Instr.vred .and .is 0 1 2).wf = false ∧ (Instr.vred .and .iw 0 1 2).wf = true := by decide
theorem test_wf_mldb : (Instr.mldb 16 false ⟨1, 2, 0⟩).wf = false ∧ (Instr.mldb 15 false ⟨1, 2, 0⟩).wf = true := by decide
theorem test_wf_tmset : (Instr.tmset (.reg 0)).wf = false ∧ (Instr.tmset (.reg 1)).wf = true := by decide
theorem test_wf_chime_linear : (Instr.chime true 14 false 1 2 3).wf = false ∧ (Instr.chime true 13 false 1 2 3).wf = true := by decide
theorem test_wf_chime_scaled : (Instr.chime false 27 true 1 2 3).wf = false ∧ (Instr.chime false 26 true 1 2 3).wf = true := by decide
def pay0 : CPay := ⟨0, 0, 0, false, false, false, false, false, 0, false, 0⟩
theorem test_wf_csend : (Instr.csend { pay0 with nb := 1 } 0).wf = false ∧ (Instr.csend { pay0 with dot := true } 0).wf = false ∧ (Instr.csend pay0 0).wf = true := by
  decide
theorem test_wf_crecv : (Instr.crecv { pay0 with fold := true } 0).wf = false ∧ (Instr.crecv { pay0 with dm := true } 0).wf = false := by decide
theorem test_wf_crrs : (Instr.crrs { pay0 with dot := true, fold := true, bf16 := true } 0).wf = false ∧ (Instr.crrs { pay0 with dot := true, fold := true } 0).wf = true := by
  decide
theorem test_wf_crrl : (Instr.crrl true { pay0 with na := 1 } 0).wf = false ∧ (Instr.crrl false { pay0 with na := 1 } 0).wf = true := by decide
theorem test_wf_ccopy : (Instr.ccopy pay0 0).wf = false ∧ (Instr.ccopy { pay0 with ix := true } 0).wf = true := by decide
theorem test_wf_cmaxe : (Instr.cmaxe { pay0 with na := 1 } 0).wf = false ∧ (Instr.cmaxe { pay0 with dm := true } 0).wf = false := by decide
theorem test_wf_cpeer : (Instr.cpeer 0 false true 0 false 1).wf = false ∧ (Instr.cpeer 0 true false 0 true 1).wf = false ∧ (Instr.cpeer 0 true true 3 false 1).wf = true := by
  decide
/-- An ill-formed word is a reserved one: BFX with pos 1 and 64 bits (19 R328), TMSET of s0, CPEER with ad and without lp. -/
theorem test_reserved_bfx : decode 0x0B01400000001FC1#64 0 = .reserved := by decide

/-! ## Words: the examples of 19 to 21, and words of our own with every field at an end of its range -/

theorem test_words_system :
    decode 0x9102020000000000#64 0x1000 = .instr (.acqs 8 ⟨2, 0, 0x0000000⟩)
    ∧ decode 0x9302020000000000#64 0x1000 = .instr (.awaitf 8 ⟨2, 0, 0x0000000⟩)
    ∧ decode 0x9202020000000000#64 0x1000 = .instr (.fill ⟨2, 0, 0x0000000⟩ 8)
    ∧ decode 0x9E00040000010000#64 0x1000 = .instr (.invtlbPage 4)
    ∧ decode 0x9800400000000000#64 0x1000 = .instr (.mfs 1 0x0)
    ∧ decode 0x9900040000200000#64 0x1000 = .instr (.mts 0x20 4)
    ∧ decode 0x9400020000000000#64 0x1000 = .instr (.rels ⟨2, 0, 0x0000000⟩)
    ∧ decode 0x9000020000000000#64 0x1000 = .instr (.rinit ⟨2, 0, 0x0000000⟩)
    ∧ decode 0x9D01030184000000#64 0x1000 = .instr (.sqput false 4 ⟨3, 0, 0x0000000⟩)
    ∧ decode 0x9A00000000000003#64 0x1000 = .instr (.trap 3)
    ∧ decode 0x9500000000FFF03F#64 0x1000 = .instr (.wait 0x3f 0x3f 0x0 0x3f) := by decide
theorem test_words_scalar_1 :
    decode 0x0000C20C00000000#64 0x1000 = .instr (.add 3 2 3)
    ∧ decode 0x100082FFFFFFFFF8#64 0x1000 = .instr (.addi 2 2 0xfffffffff8)
    ∧ decode 0x1102820000000001#64 0x1000 = .instr (.andi 10 2 0x1)
    ∧ decode 0x0C0240000D850000#64 0x1000 = .instr (.bfi 9 0 0x36 0x5)
    ∧ decode 0x0B01870005060000#64 0x1000 = .instr (.bfx 6 7 0x14 0x6)
    ∧ decode 0x0A071C0000000000#64 0x1000 = .instr (.clz 28 28)
    ∧ decode 0x0E008F0C00050000#64 0x1000 = .instr (.cmp .ge 2 15 3)
    ∧ decode 0x1600410000000002#64 0x1000 = .instr (.cmpi .eq 1 1 0x2)
    ∧ decode 0x0301051800010000#64 0x1000 = .instr (.div true 4 5 6)
    ∧ decode 0x0F01420C00070000#64 0x1000 = .instr (.lea 5 2 3 7)
    ∧ decode 0x0901042000000000#64 0x1000 = .instr (.min false 4 4 8)
    ∧ decode 0x0901042400020000#64 0x1000 = .instr (.max false 4 4 9) := by decide
theorem test_words_scalar_2 :
    decode 0x1700C0A00003E000#64 0x1000 = .instr (.movi 3 0xa00003e000)
    ∧ decode 0x1800C00000800000#64 0x1000 = .instr (.movhi 3 0x800000)
    ∧ decode 0x0201041400000000#64 0x1000 = .instr (.mul .low 4 4 5)
    ∧ decode 0x0503CA0000000000#64 0x1000 = .instr (.or 15 10 0)
    ∧ decode 0x1200C30000000100#64 0x1000 = .instr (.ori 3 3 0x100)
    ∧ decode 0x0A00C40000010000#64 0x1000 = .instr (.popc 3 4)
    ∧ decode 0x0301051800020000#64 0x1000 = .instr (.rem false 4 5 6)
    ∧ decode 0x0D01410830000000#64 0x1000 = .instr (.sel 5 1 2 3)
    ∧ decode 0x0700C41400000000#64 0x1000 = .instr (.shl 3 4 5)
    ∧ decode 0x1400C3000000000C#64 0x1000 = .instr (.shli 3 3 0xc)
    ∧ decode 0x1500820000000043#64 0x1000 = .instr (.shri true 2 2 0x3)
    ∧ decode 0x0800821400010000#64 0x1000 = .instr (.shr true 2 2 5) := by decide
theorem test_words_scalar_3 :
    decode 0x0107197000000000#64 0x1000 = .instr (.sub 28 25 28)
    ∧ decode 0x0601451800000000#64 0x1000 = .instr (.xor 5 5 6)
    ∧ decode 0x1300C3FFFFFFFFFF#64 0x1000 = .instr (.xori 3 3 0xffffffffff) := by decide
theorem test_words_memory :
    decode 0x4201430404B00008#64 0x1000 = .instr (.atom .add true .acq .dev 5 3 1 0 0x8)
    ∧ decode 0x4007180100000000#64 0x1000 = .instr (.ld .u32 false .core 28 ⟨24, 0, 0x0000000⟩)
    ∧ decode 0x4401430180000000#64 0x1000 = .instr (.ldp 5 ⟨3, 0, 0x0000000⟩)
    ∧ decode 0x4701430180000000#64 0x1000 = .instr (.monw true 5 ⟨3, 0, 0x0000000⟩)
    ∧ decode 0x4601030080000000#64 0x1000 = .instr (.psetPoison 4 ⟨3, 0, 0x0000000⟩)
    ∧ decode 0x4600030000000000#64 0x1000 = .instr (.psetEmpty ⟨3, 0, 0x0000000⟩)
    ∧ decode 0x4101440180000008#64 0x1000 = .instr (.st .d64 false .core ⟨4, 0, 0x0000008⟩ 5)
    ∧ decode 0x4101C601A4000000#64 0x1000 = .instr (.st .d64 true .dev ⟨6, 0, 0x0000000⟩ 7)
    ∧ decode 0x45024A2D80000000#64 0x1000 = .instr (.stp ⟨10, 11, 0x0000000⟩ 9) := by decide
theorem test_words_control :
    decode 0x3100050000000000#64 0x1000 = .instr (.brx 5)
    ∧ decode 0x3207C00000000005#64 0x1000 = .instr (.call .none 31 0x5)
    ∧ decode 0x34004FFFFFFFFFFC#64 0x1000 = .instr (.loop .none 1 0xffffffffffc)
    ∧ decode 0x3500C10800060000#64 0x1000 = .instr (.plog 3 1 2 0x6)
    ∧ decode 0x3601400000010000#64 0x1000 = .instr (.pmov (.toS 5))
    ∧ decode 0x33001F0000000000#64 0x1000 = .instr (.ret 31) := by decide
theorem test_words_symbol :
    decode 0x8900040000000000#64 0x1000 = .instr (.cancel 4)
    ∧ decode 0x82000A0000000000#64 0x1000 = .instr (.emit 10)
    ∧ decode 0x8101000020000001#64 0x1000 = .instr (.symq .endc 4 0 0x1)
    ∧ decode 0x8000800000000003#64 0x1000 = .instr (.symr 2 0 0x3)
    ∧ decode 0x8401440000000000#64 0x1000 = .instr (.tbc 5 4 0x0)
    ∧ decode 0x8801850000000000#64 0x1000 = .instr (.tdesc 6 5 0x0)
    ∧ decode 0x8501850010000000#64 0x1000 = .instr (.tred .fadd 6 5)
    ∧ decode 0x8600C20100000000#64 0x1000 = .instr (.tscan .add true 3 2) := by decide
theorem test_words_ringer :
    decode 0xB481200000000020#64 0x1000 = .instr (.ccopy ⟨0, 1, 0, true, false, false, false, false, 0x00, false, 0x000020⟩ 0x1000)
    ∧ decode 0xB706000000000006#64 0x1000 = .instr (.cloopSet 1 0x6)
    ∧ decode 0xBC80000500000020#64 0x1000 = .instr (.cmaxe ⟨0, 0, 0, false, false, false, false, false, 0x05, false, 0x000020⟩ 0x1000)
    ∧ decode 0xB804200000000000#64 0x1000 = .instr (.cpeer 1 false false 0 true 0x0)
    ∧ decode 0xB184000200000020#64 0x1000 = .instr (.crecv ⟨1, 0, 0, false, false, false, false, false, 0x02, false, 0x000020⟩ 0x1000)
    ∧ decode 0xBB80000500000000#64 0x1000 = .instr (.crecvv 0x5 0x1000)
    ∧ decode 0xB380100100000020#64 0x1000 = .instr (.crrl false ⟨0, 0, 0, false, true, false, false, false, 0x01, false, 0x000020⟩ 0x1000)
    ∧ decode 0xB084100100000020#64 0x1000 = .instr (.csend ⟨1, 0, 0, false, true, false, false, false, 0x01, false, 0x000020⟩ 0x1000)
    ∧ decode 0xBA80000500000000#64 0x1000 = .instr (.csendv 0x5 0x1000)
    ∧ decode 0xB680000000000001#64 0x1000 = .instr (.csigSt 0x1 0x1000)
    ∧ decode 0xB980000000000000#64 0x1000 = .instr (.ctime 0x0 0x1000)
    ∧ decode 0xB580000000000001#64 0x1000 = .instr (.cwait 0x1 0x1000) := by decide
theorem test_words_float :
    decode 0x2000C10800000000#64 0x1000 = .instr (.fadd .rne 3 1 2)
    ∧ decode 0x2A00810000000000#64 0x1000 = .instr (.fclass 2 1)
    ∧ decode 0x2800C10800020000#64 0x1000 = .instr (.fcmp .lt 3 1 2)
    ∧ decode 0x2901030000001000#64 0x1000 = .instr (.fcvt (.toFmt 2) .rne 4 3)
    ∧ decode 0x2301010830000000#64 0x1000 = .instr (.ffma .rne 4 1 2 3)
    ∧ decode 0x2701451800000000#64 0x1000 = .instr (.fmax 5 5 6)
    ∧ decode 0x2B00C30000020000#64 0x1000 = .instr (.fsf .rcp .rne 3 3)
    ∧ decode 0x2500810000000000#64 0x1000 = .instr (.fsqrt .rne 2 1) := by decide
theorem test_words_vector_1 :
    decode 0x6900C10800080000#64 0x1000 = .instr (.klog 3 1 2 0x8)
    ∧ decode 0x6A004A0000020000#64 0x1000 = .instr (.kmov (.fromS 1 10))
    ∧ decode 0x5000000000000000#64 0x1000 = .instr (.vadd (.fp .f32 .rne) ⟨0, false⟩ 0 0 0)
    ∧ decode 0x5100C31000000000#64 0x1000 = .instr (.vsub (.fp .f32 .rne) ⟨0, false⟩ 3 3 4)
    ∧ decode 0x5200820400000000#64 0x1000 = .instr (.vmul (.fp .f32 .rne) ⟨0, false⟩ 2 2 1)
    ∧ decode 0x5301870460000000#64 0x1000 = .instr (.vfma (.fp .f32 .rne) ⟨0, false⟩ 6 7 1 6)
    ∧ decode 0x5400420C00020000#64 0x1000 = .instr (.vmin .is ⟨0, false⟩ 1 2 3)
    ∧ decode 0x5500420C00001000#64 0x1000 = .instr (.vmax (.fp .bf16 .rne) ⟨0, false⟩ 1 2 3)
    ∧ decode 0x5600420C00000000#64 0x1000 = .instr (.vand ⟨0, false⟩ 1 2 3)
    ∧ decode 0x5A00410800010001#64 0x1000 = .instr (.vshr true ⟨1, false⟩ 1 1 2)
    ∧ decode 0x6000420C00000000#64 0x1000 = .instr (.vperm ⟨0, false⟩ 1 2 3)
    ∧ decode 0x6200510000000000#64 0x1000 = .instr (.vbc ⟨0, false⟩ 1 17) := by decide
theorem test_words_vector_2 :
    decode 0x6300C00000000000#64 0x1000 = .instr (.vidx ⟨0, false⟩ 3)
    ∧ decode 0x6800040000010000#64 0x1000 = .instr (.vchain 4 1)
    ∧ decode 0x5B00831000000000#64 0x1000 = .instr (.vcmp .eq false ⟨0, false⟩ 2 3 4)
    ∧ decode 0x5D00400000001000#64 0x1000 = .instr (.vcvt (.toFmt 2) .rne ⟨0, false⟩ 1 0)
    ∧ decode 0x6601430900000000#64 0x1000 = .instr (.vgath .core 5 3 2 0x0)
    ∧ decode 0x6701430900000000#64 0x1000 = .instr (.vscat .core 3 2 0x0 5)
    ∧ decode 0x6400020000000000#64 0x1000 = .instr (.vld false .core 0 ⟨2, 0, 0x0000000⟩)
    ∧ decode 0x5F06C30000020000#64 0x1000 = .instr (.vred .max (.fp .f32) 0 27 3)
    ∧ decode 0x5C00800400000003#64 0x1000 = .instr (.vsel 3 2 0 1)
    ∧ decode 0x5E00C30000000000#64 0x1000 = .instr (.vsf .exp2 .rne ⟨0, false⟩ 3 3)
    ∧ decode 0x6100801400000000#64 0x1000 = .instr (.vshuf ⟨0, false⟩ 2 0 5)
    ∧ decode 0x65000F0000000000#64 0x1000 = .instr (.vst false .core ⟨15, 0, 0x0000000⟩ 0) := by decide
theorem test_words_matrix_1 :
    decode 0x7601000000000000#64 0x1000 = .instr (.macq 4)
    ∧ decode 0x7100040000000000#64 0x1000 = .instr (.mldb 0 false ⟨4, 0, 0x0000000⟩)
    ∧ decode 0x710C040000000000#64 0x1000 = .instr (.mldb 16 true ⟨4, 0, 0x0000000⟩)
    ∧ decode 0x7500450100000000#64 0x1000 = .instr (.mldc 1 ⟨5, 0, 0x0000000⟩)
    ∧ decode 0x700058030E400000#64 0x1000 = .instr (.mma false 0 11 0 6 7 8 0 0)
    ∧ decode 0x700058030E400001#64 0x1000 = .instr (.mma true 0 11 0 6 7 8 0 0)
    ∧ decode 0x7700000000000000#64 0x1000 = .instr (.mrel 0)
    ∧ decode 0x7400020100000000#64 0x1000 = .instr (.mst ⟨2, 0, 0x0000000⟩ 0)
    ∧ decode 0x7200000000000000#64 0x1000 = .instr (.mswp)
    ∧ decode 0x7300800000000000#64 0x1000 = .instr (.mzero 2)
    ∧ decode 0x7C01030000000000#64 0x1000 = .instr (.tmean 4 3)
    ∧ decode 0x7900080000000000#64 0x1000 = .instr (.tmld ⟨8, 0, 0x0000000⟩ 0) := by decide
theorem test_words_matrix_2 :
    decode 0x7900C80000000000#64 0x1000 = .instr (.tmld ⟨8, 0, 0x0000000⟩ 3)
    ∧ decode 0x7B000D3800000000#64 0x1000 = .instr (.xmean false 0 13 14)
    ∧ decode 0x7B004A2400010000#64 0x1000 = .instr (.xmean true 1 10 9) := by decide
theorem test_words_stream :
    decode 0xA300000000000004#64 0x1000 = .instr (.scopy 0x4)
    ∧ decode 0xA480000000000008#64 0x1000 = .instr (.sgath 0x8 0x1000)
    ∧ decode 0xA60A000000000006#64 0x1000 = .instr (.sloopSet 2 0x6)
    ∧ decode 0xA6000000FFFFFFFD#64 0x1000 = .instr (.sloop 0 0xfffffffd)
    ∧ decode 0xA080000000000000#64 0x1000 = .instr (.spat 0 0x1000)
    ∧ decode 0xA280000000000000#64 0x1000 = .instr (.spull 0x0 0x1000)
    ∧ decode 0xA580000000000000#64 0x1000 = .instr (.sroute 0x1000)
    ∧ decode 0xA880000000000001#64 0x1000 = .instr (.ssigSt 0x1 0x1000)
    ∧ decode 0xA888000000000005#64 0x1000 = .instr (.ssigMax 0x5 0x1000)
    ∧ decode 0xA780000000000001#64 0x1000 = .instr (.swait 0x1 0x1000) := by decide
theorem test_words_ends :
    decode 0x01B7DE7400000000#64 0 = .instr (.sub 31 30 29) ∧ guardOf 0x01B7DE7400000000#64 = ⟨true, 3⟩
    ∧ decode 0x0200420C00020000#64 0 = .instr (.mul .hiu 1 2 3) ∧ decode 0x1601C46FFFFFFFFF#64 0 = .instr (.cmpi .ltu 7 4 (-1))
    ∧ decode 0x150189000000007F#64 0 = .instr (.shri true 6 9 63) ∧ decode 0x2902090000002900#64 0 = .instr (.fcvt (.toFmt 5) .rtz 8 9)
    ∧ decode 0x3400C0000000000C#64 0 = .instr (.loop .none 3 12) ∧ decode 0x640FC10810000080#64 0 = .instr (.vld true .core 63 ⟨1, 2, 128⟩)
    ∧ decode 0x7401C90100001000#64 0 = .instr (.mst ⟨9, 0, 4096⟩ 7) ∧ decode 0x9A0000000000001F#64 0 = .instr (.trap 31) := by decide
/-- Reserved, undefined and all-ones words (05 R107). -/
theorem test_words_none : decode 0x0101420C00000001#64 0 = .reserved ∧ decode 0x1901420C00000000#64 0 = .undefined
    ∧ decode 0x0B01400000001FC1#64 0 = .reserved ∧ decode (BitVec.allOnes 64) 0 = .allOnes ∧ decode 0 0 = .instr .nop := by decide

/-! ## One instruction at an agent -/

/-- An agent with three registers set. -/
def rg3 (a b c : Word) : Agent := Agent.withS (Agent.withS (Agent.withS ag 1 a) 2 b) 3 c
/-- What an instruction leaves of the agent. -/
def left {α : Type} (i : Instr) (g : Agent) (f : Agent → α) : Option α :=
  match exec i (at_ g) with
  | .next t => (t.agent g.key).map f
  | _ => none

theorem test_add_wraps : left (.add 4 1 2) (rg3 0xFFFFFFFFFFFFFFFF 2 0) (fun h => (h.sr 4, h.pc)) = some (1, 1) := by decide
theorem test_zero_discards : left (.add 0 1 2) (rg3 5 2 0) (fun h => (h.sr 0, h.pc)) = some (0, 1) := by decide
theorem test_mul_hiu : left (.mul .hiu 4 1 2) (rg3 0xFFFFFFFFFFFFFFFF 0xFFFFFFFFFFFFFFFF 0) (·.sr 4) = some 0xFFFFFFFFFFFFFFFE := by decide
theorem test_mul_hi : left (.mul .hi 4 1 2) (rg3 0xFFFFFFFFFFFFFFFF 0xFFFFFFFFFFFFFFFF 0) (·.sr 4) = some 0 := by decide
theorem test_rem_sign : left (.rem false 4 1 2) (rg3 0xFFFFFFFFFFFFFFF9 2 0) (·.sr 4) = some 0xFFFFFFFFFFFFFFFF := by decide
theorem test_shr_a : left (.shr true 4 1 2) (rg3 0x8000000000000000 63 0) (·.sr 4) = some 0xFFFFFFFFFFFFFFFF := by decide
theorem test_bfi : left (.bfi 3 1 54 5) (rg3 0x7F 0 0xFFFFFFFFFFFFFFFF) (·.sr 3) = some 0xFFFFFFFFFFFFFFFF := by decide
theorem test_lea : left (.lea 4 1 2 7) (rg3 0x10 0x0200000000000001 0) (·.sr 4) = some 0x90 := by decide
theorem test_movhi : left (.movhi 1 0x800000) (rg3 0xA00003E000 0 0) (·.sr 1) = some 0x800000A00003E000 := by decide
theorem test_cmp_ltu : left (.cmp .ltu 3 1 2) (rg3 1 0xFFFFFFFFFFFFFFFF 0) (·.pr 3) = some true := by decide
theorem test_cmp_lt : left (.cmp .lt 3 1 2) (rg3 1 0xFFFFFFFFFFFFFFFF 0) (·.pr 3) = some false := by decide
theorem test_p0_stays : left (.cmp .lt 0 1 2) (rg3 1 0xFFFFFFFFFFFFFFFF 0) (·.pr 0) = some true := by decide
/-- FP32 1.0 + 2^-24 rounds to even and is inexact; rounded up it is 1 + 2^-23 (06). -/
theorem test_fadd_ties : left (.fadd .rne 4 1 2) (rg3 0x3F800000 0x33800000 0) (·.sr 4) = some 0x3F800000 := by decide
theorem test_fadd_up : left (.fadd .rup 4 1 2) (rg3 0x3F800000 0x33800000 0) (·.sr 4) = some 0x3F800001 := by decide
theorem test_fmul_sign : left (.fmul .rne 4 1 2) (rg3 0x80000000 0x3F800000 0) (·.sr 4) = some 0x80000000 := by decide
/-- VIDX writes each lane's number (21). -/
theorem test_vidx : left (.vidx ⟨0, false⟩ 3) ag (fun h => (h.vr 3)[31]) = some 31 := by decide
/-- A zero mask with `.z` clears, without it keeps. -/
theorem test_vbc_masked : left (.vbc ⟨1, true⟩ 3 1) (rg3 9 0 0) (fun h => (h.vr 3)[0]) = some 0 := by decide

end Sys2Proof.Tests
end

