-- ==== Sys2Proof/Tests/Witnesses2.lean ====
section
/-! SUPPORT. The witnesses of the statements about peals, traps, special registers, units, pre-emption, the host, links and the
debugger, clause by clause, at the ends of their ranges. No result is asserted here. -/

set_option maxRecDepth 20000
set_option Elab.async false

namespace Sys2Proof.Tests

open Sys2Proof Sys2Proof.Machine

/-! ## Peals and records -/

/-- A row that begins with these words, and partition 0 of core 0 over it. -/
def row (ws : List Word) (p : Part) : State :=
  { State.reset with agenda := [], parts := [(0, p)], cells := (ws.zipIdx.filter fun x => x.1 ≠ 0).map fun x => (x.2, x.1) }
/-- An application of operator 0 to a value; to a promised value; one without an argument. -/
def appV : List Word := [mkSym 1 0 9 0 0 false false, mkSym 7 1 0 0 0 false false, mkSym 4 1 0 0 5 false false, mkSym 3 0 0 0 0 false false]
def appP : List Word := [mkSym 1 0 9 0 0 false false, mkSym 7 1 0 0 0 false false, mkSym 10 1 0 0 5 false false, mkSym 3 0 0 0 0 false false]
def appE : List Word := [mkSym 1 0 9 0 0 false false, mkSym 7 1 0 0 0 false false, 0, mkSym 3 0 0 0 0 false false]
def areaOf (ws : List Word) : Area := ⟨0, 3, ws⟩
def oper1 : Oper := ⟨0, [0x3800000000000000#64], 4, none, false, false⟩
def base1 : Part := { freshPart 0 0 8 with opers := [oper1], peal := 1 }
def swept (as : List Area) : Part := { base1 with sweep := some (12, as) }

theorem test_Sweeps_met : (row appV base1).part 0 = some base1 ∧ base1.pre = .none ∧ base1.sweep = none
    ∧ (row appV (swept [])).part 0 = some (swept []) ∧ (swept []).pre = .none ∧ (swept []).sweep = some (12, []) := ⟨rfl, rfl, rfl, rfl, rfl, rfl⟩
theorem test_Sweeps_ends_met : (∀ as, (row appV (swept as)).part 0 = some (swept as) ∧ (swept as).pre = .none ∧ (swept as).records = []
    ∧ (swept as).sweepQueued = false ∧ (swept as).raised = [] ∧ (swept as).stepNow = none ∧ (row appV (swept as)).quietUnits)
    ∧ defect (areaOf appE).words = 0xD1
    ∧ defect (areaOf appV).words = 0 ∧ (newRecord (row appV (swept [areaOf appV])) (swept [areaOf appV]) (areaOf appV)).pend = 0
    ∧ defect (areaOf appP).words = 0 ∧ (newRecord (row appP (swept [areaOf appP])) (swept [areaOf appP]) (areaOf appP)).pend = 1 :=
  ⟨fun _ => ⟨rfl, rfl, rfl, rfl, rfl, rfl, rfl, rfl⟩, by decide, by decide, by decide, by decide, by decide⟩

def recOf (st : RecState) : Record := { rec1 with state := st, alen := 4, answers := [none, none, none, none] }
def having (r : Record) : Part := { base1 with records := [r], nextRec := 2 }
def asked (n : Nat) : Record := { recOf .waiting with pend := n }
theorem test_Admissions_answers_met : (row appP (having (asked 1))).part 0 = some (having (asked 1)) ∧ (having (asked 1)).records = [asked 1]
    ∧ (asked 1).state = .waiting ∧ (having (asked 1)).pre = .none ∧ (having (asked 1)).urgent = [] ∧ (having (asked 1)).stepNow = none
    ∧ (asked 1).answers.getD 2 none = none ∧ 1 < (asked 2).pend ∧ (asked 1).pend = 1 :=
  ⟨rfl, rfl, rfl, rfl, rfl, rfl, rfl, by decide, rfl⟩
/-- An operator of one register block; one of more registers than a core has. -/
def wide1 : Part := { having (recOf .ready) with opers := [{ oper1 with regs := 2048 }] }
theorem test_Admissions_met : (row appV (having (recOf .ready))).part 0 = some (having (recOf .ready)) ∧ (recOf .ready).ret = false
    ∧ (having (recOf .ready)).pre = .none ∧ (having (recOf .ready)).records = [recOf .ready] ∧ (recOf .ready).state = .ready
    ∧ admissible (row appV (having (recOf .ready))) 0 (having (recOf .ready)) (recOf .ready) = .yes
    ∧ admitFault (row appV (having (recOf .ready))) (having (recOf .ready)) (recOf .ready) (resolved (row appV (having (recOf .ready))) (recOf .ready)) = 0
    ∧ admissible (row appV wide1) 0 wide1 (recOf .ready) = .over
    ∧ admitFault (row appV wide1) wide1 (recOf .ready) (resolved (row appV wide1) (recOf .ready)) = 0xDC := by
  refine ⟨rfl, rfl, rfl, rfl, rfl, ?_, ?_, ?_, ?_⟩ <;> decide
def loaded : State := (row appV (having (recOf .admitted))).setCore 0 { Core.reset with micros := [⟨0, 0, oper1.words, 0⟩] }
theorem test_Admissions_loads_met : loaded.part 0 = some (having (recOf .admitted)) ∧ loaded.rec? 0 (recOf .admitted).id = some (recOf .admitted)
    ∧ (having (recOf .admitted)).pre = .none ∧ (recOf .admitted).state = .admitted ∧ (recOf .admitted).startAt ≤ loaded.cycle
    ∧ (having (recOf .admitted)).stepNow = none ∧ (having (recOf .admitted)).urgent = [] ∧ residentAll loaded 0 (recOf .admitted) = true
    ∧ (recOf .admitted).unheld = [] ∧ (∀ c ∈ ({ recOf .admitted with unheld := [0] } : Record).unheld,
      granuleRoom loaded (having { recOf .admitted with unheld := [0] }) { recOf .admitted with unheld := [0] } c = true) := by
  refine ⟨rfl, rfl, rfl, rfl, ?_, rfl, rfl, ?_, rfl, ?_⟩ <;> decide

/-! Agent 0 of an EMITTING record with these emissions, alone or beside a fixed area. -/
def emitter (es : List Word) : Agent := { Agent.fresh with rid := 1, alen := 4, status := .ended, emits := es.map fun w => ⟨w, none, 0⟩ }
def emitting : Part := { having (recOf .emitting) with emitQ := [(0, 1)] }
def fixed2 : Record := { recOf .faulted with id := 2, start := 4, seat := 4, was := .faulted }
def beside : Part := { emitting with records := [recOf .emitting, fixed2] }
def emitS (p : Part) (es : List Word) : State := { row (appV ++ appV) p with agents := [(0, emitter es)] }
def valW : Word := mkSym 4 0 0 0 7 false false
def appW : Word := mkSym 1 0 0 0 0 false false
def triedOf (p : Part) (es : List Word) : Tried :=
  let p1 : Part := { p with fixedLeft := false }
  let u := (emitS p es).setPart 0 p1
  tryPlan u 0 p1 (recOf .emitting) .emit (emittedItems u 0 (recOf .emitting))
def wholeOf (p : Part) (es : List Word) : Bool := wholeTerms (((emitS p es).agentsOf 0 1).flatMap fun g => g.emits.map (·.word)) []
def isStarted : Tried → Bool
  | .started _ => true
  | _ => false
theorem started_of {x : Tried} (h : isStarted x = true) : ∃ plan, x = .started plan := by
  unfold isStarted at h
  split at h
  · exact ⟨_, rfl⟩
  · cases h
theorem test_Steps_met : (∀ es, (emitS emitting es).part 0 = some emitting ∧ (emitS beside es).part 0 = some beside) ∧ emitting.pre = .none
    ∧ beside.pre = .none ∧ (emitting.records.filter fun x => x.id = (recOf .emitting).id) = [recOf .emitting]
    ∧ (beside.records.filter fun x => x.id = (recOf .emitting).id) = [recOf .emitting] ∧ emitting.cancelNow = [] ∧ beside.cancelNow = []
    ∧ (∀ es, (emitS emitting es).dev.tests = [] ∧ (emitS beside es).dev.tests = []) ∧ (recOf .emitting).state = .emitting
    ∧ emitting.stepNow = none ∧ emitting.urgent = [] ∧ emitting.emitQ = [(0, (recOf .emitting).id)] ∧ emitting.aside = [] ∧ emitting.raised = []
    ∧ beside.stepNow = none ∧ beside.urgent = [] ∧ beside.emitQ = [(0, (recOf .emitting).id)] ∧ beside.aside = [] ∧ beside.raised = [] :=
  ⟨fun _ => ⟨rfl, rfl⟩, rfl, rfl, rfl, rfl, rfl, rfl, fun _ => ⟨rfl, rfl⟩, rfl, rfl, rfl, rfl, rfl, rfl, rfl, rfl, rfl, rfl, rfl⟩
theorem test_Steps_started_met : wholeOf emitting [valW] = true ∧ ∃ plan, triedOf emitting [valW] = .started plan :=
  ⟨by decide, started_of (by decide +kernel)⟩
theorem test_Steps_wait_met : wholeOf beside (List.replicate 5 valW) = true ∧ triedOf beside (List.replicate 5 valW) = .wait :=
  ⟨by decide, by decide +kernel⟩
theorem test_Steps_full_met : wholeOf emitting (List.replicate 65 valW) = true ∧ triedOf emitting (List.replicate 65 valW) = .full :=
  ⟨by decide, by decide +kernel⟩
theorem test_Steps_malformed_met : wholeOf emitting [appW] = false := by decide

def plan1 : StepPlan := ⟨1, .emit, [], [], [⟨valW, none, 0, 0, 0⟩], [1, 2, 3], 0, 0⟩
def planned : Part := { having (recOf .emitting) with stepNow := some plan1 }
def setAside : Part := { having (recOf .emitting) with aside := [1] }
theorem test_Steps_complete_met : (emitS planned [valW]).part 0 = some planned ∧ planned.pre = .none ∧ planned.records = [recOf .emitting]
    ∧ (emitS planned [valW]).agentsOf 0 1 = [emitter [valW]] ∧ (emitter [valW]).outs = [] ∧ planned.stepNow = some plan1 ∧ plan1.doneAt ≤ (emitS planned [valW]).cycle
    ∧ plan1.rid = (recOf .emitting).id ∧ plan1.kind = .emit ∧ plan1.moves = [] ∧ (plan1.writes.all fun x => x.payload.isNone) = true
    ∧ (plan1.writes.map (·.dest) ++ plan1.frees).Nodup ∧ planned.sweep = none := by
  refine ⟨rfl, rfl, rfl, rfl, rfl, rfl, ?_, rfl, rfl, rfl, rfl, ?_, rfl⟩ <;> decide
theorem test_Steps_aside_met : (emitS setAside [valW]).part 0 = some setAside ∧ setAside.records = [recOf .emitting] ∧ setAside.stepNow = none
    ∧ setAside.urgent = [] ∧ setAside.emitQ = [] ∧ setAside.aside = [(recOf .emitting).id] ∧ wholeOf setAside [valW] = true
    ∧ (∃ plan, triedOf setAside [valW] = .started plan) ∧ setAside.doomed 1 = false ∧ (recOf .emitting).rowFull = false
    ∧ ({ recOf .emitting with rowFull := true } : Record).rowFull = true :=
  ⟨rfl, rfl, rfl, rfl, rfl, rfl, by decide, started_of (by decide +kernel), rfl, rfl, rfl⟩

/-- A cancel of a RUNNING record whose last agent stands at DONE in this cycle, and of one that goes on. -/
def cancelS (w : Instr) : State :=
  ({ row appV (having (recOf .running)) with agents := [(0, { Agent.fresh with rid := 1, alen := 4 })] } : State).setCore 0
    { Core.reset with micros := [⟨0, 0, encode .always w, 0⟩] }
theorem test_Steps_cancels_met : (recOf .running).state = .running ∧ (recOf .running).rowFull = false ∧ (recOf .running).state ≠ .faulted
    ∧ (having (recOf .running)).doomed 1 = false ∧ lastDoneDue (cancelS .done) 0 1 = true ∧ lastDoneDue (cancelS .nop) 0 1 = false := by
  refine ⟨rfl, rfl, ?_, rfl, ?_, ?_⟩ <;> decide +kernel

/-! An agent of a RUNNING record at DONE, alone or beside another one. -/
def ending : Agent := { Agent.fresh with rid := 1, alen := 4, ops := [⟨.loads, 0, false⟩] }
def atDone : Agent := { Agent.fresh with rid := 1, alen := 4 }
def doneS (rest : Tbl Agent) : State := { row appV (having (recOf .running)) with turn := .agent 0 0, agents := (0, atDone) :: rest }
def beside1 : Agent := { atDone with slot := 1, cell := 1 }
theorem test_Ends_met : (at_ ending).atTurn ending ∧ 0 < ending.count .loads ∧ ending.service = false ∧ (doneS []).atTurn atDone ∧ atDone.service = false
    ∧ (∀ c, atDone.count c = 0) ∧ (doneS []).part atDone.part = some (having (recOf .running))
    ∧ (having (recOf .running)).rec? atDone.rid = some (recOf .running) ∧ (recOf .running).state = .running
    ∧ (((doneS []).setAgent 0 { atDone with status := .ended }).agentsOf 0 1).all (fun h => h.status = .ended) = true
    ∧ (((doneS [(1, beside1)]).setAgent 0 { atDone with status := .ended }).agentsOf 0 1).any (fun h => h.status ≠ .ended) = true := by
  refine ⟨at_turn _, ?_, rfl, ⟨rfl, rfl⟩, rfl, fun _ => rfl, rfl, rfl, rfl, ?_, ?_⟩ <;> decide
def finishing : Part := { having (recOf .running) with tl := 0x40, value := 3 }
def finishS : State := { row [] finishing with mem := entries 0 (toLe 8 0x10001) ++ entries 0x10000 (toLe 8 0x1803) }
theorem isSome_ex {α : Type} {x : Option α} (h : x.isSome = true) : ∃ a, x = some a := by
  cases x with
  | none => cases h
  | some a => exact ⟨a, rfl⟩
theorem test_Ends_signal_met : finishS.part 0 = some finishing ∧ finishS.agents = []
    ∧ ∃ u, signalEnd finishS (rootPoster 0 finishing.size) finishing.asid finishing.tl finishing.value (statusWord 2 0) = some u :=
  ⟨rfl, rfl, isSome_ex (by decide +kernel)⟩
theorem test_Ends_handler_met : sv.part = 0 ∧ sv.service = true ∧ sv.stepLeft = none ∧ finishing.ended = none
    ∧ ({ finishing with ended := some 1 } : Part).ended = some 1 := ⟨rfl, rfl, rfl, rfl, rfl⟩

/-! ## Faults, traps and the handler -/

def runningP : Part := having (recOf .running)
def runS (g : Agent) : State := { row appV runningP with turn := .agent 0 0, agents := [(0, g)] }
theorem test_AgentFaults_met : (runS atDone).agent atDone.key = some atDone ∧ atDone.service = false ∧ atDone.stepLeft = none
    ∧ (runS atDone).part atDone.part = some runningP ∧ runningP.rec? atDone.rid = some (recOf .running) ∧ (recOf .running).state = .running
    ∧ (recOf .running).stopped = none ∧ runningP.raised = [] ∧ (runS atDone).turn = .agent atDone.core atDone.slot :=
  ⟨rfl, rfl, rfl, rfl, rfl, rfl, rfl, rfl, rfl⟩
theorem test_WordFates_met : rowOf 0xA000000000000000#64 = 0xA ∧ rowOf 0xBF00000000000000#64 = 0xB ∧ rowOf 1#64 < 0xA ∧ rowOf 0x9F00000000000000#64 < 0xA
    ∧ ag.service = false ∧ sv.service = true ∧ (major 0x4600000000000000#64).toNat = 0x46 ∧ (major 0x9B00000000000000#64).toNat = 0x9B
    ∧ (major 0x9E00000000000000#64).toNat = 0x9E ∧ (major 0x9F00000000000000#64).toNat = 0x9F ∧ (major 0x7C00000000000000#64).toNat = 0x7C
    ∧ (major 0x8000000000000000#64).toNat = 0x80 ∧ (major 0x8700000000000000#64).toNat = 0x87 := by
  refine ⟨?_, ?_, ?_, ?_, rfl, rfl, ?_, ?_, ?_, ?_, ?_, ?_, ?_⟩ <;> decide

/-- Cells of rows A and B that are marked —, and cells that are not. -/
theorem test_WordFates_cells_met : decode 0xAB00000000000000#64 0 = .undefined ∧ decode 0xBF00000000000000#64 0 = .undefined
    ∧ decode 0xA900000000000000#64 0 ≠ .undefined ∧ decode 0xB800000000000000#64 0 ≠ .undefined := by decide

/-! A trap due now, the handler as operator 1, a trap queue at 0x4000 of the translated addresses. -/
def trap1 : RaisedTrap := ⟨0, 1, 1, none, bareTrap 0xD1, [], false, false, 0⟩
def trapP (h : Option Nat) (ts : List QueuedTrap) (r : List RaisedTrap) : Part :=
  { having (recOf .faulted) with opers := [oper1, oper1], handler := h, raised := r, traps := ts }
def queueS (p : Part) (q : Word) : State :=
  { row appV p with
    mem := entries 0 (toLe 8 0x10001) ++ entries 0x10000 (toLe 8 0x1803)
    pcbs := [(0, { Pcb.reset with state := 1, trapq := q })]
    cores := [(0, { Core.reset with micros := [⟨0, 1, oper1.words, 0⟩] })] }
def t64 : List QueuedTrap := List.replicate 64 ⟨0, trap1⟩
theorem test_TrapQueue_met : (queueS (trapP none [] [trap1]) 0x4000).part 0 = some (trapP none [] [trap1]) ∧ (trapP none [] [trap1]).ended = none
    ∧ (trapP none [] [trap1]).raised = [trap1] ∧ trap1.due ≤ (queueS (trapP none [] [trap1]) 0x4000).cycle ∧ (trapP none [] [trap1]).unhandled < 64
    ∧ (trapP none [] [trap1]).handler = none ∧ ((queueS (trapP (some 1) [] [trap1]) 0).pcb 0).trapq = 0 ∧ 64 ≤ (trapP (some 1) t64 [trap1]).unhandled
    ∧ (trapP (some 1) (t64.take 63) [trap1]).unhandled < 64 ∧ (trapP (some 1) [] [trap1]).handler = some 1
    ∧ ((queueS (trapP (some 1) [] [trap1]) 0x4000).pcb 0).trapq ≠ 0 ∧ (queueS (trapP (some 1) [] [trap1]) 0x4000).quietUnits
    ∧ ∃ u, writeVa (queueS (trapP (some 1) [] [trap1]) 0x4000) 0 (0x4000 + 128 * (0 % 64)) (trapRecord (queueS (trapP (some 1) [] [trap1]) 0x4000) 0 trap1) = some u := by
  refine ⟨rfl, rfl, rfl, Nat.le_refl 0, ?_, rfl, rfl, ?_, ?_, rfl, ?_, ⟨rfl, rfl⟩, isSome_ex ?_⟩ <;> decide +kernel
theorem test_TrapQueue_run_met : (trapP (some 1) [⟨0, trap1⟩] []).traps = ⟨0, trap1⟩ :: [] ∧ (trapP (some 1) [⟨0, trap1⟩] []).run = none
    ∧ (trapP (some 1) [⟨0, trap1⟩] []).pre = .none
    ∧ (queueS (trapP (some 1) [⟨0, trap1⟩] []) 0x4000).root 0 (trapP (some 1) [⟨0, trap1⟩] []) = 0
    ∧ (queueS (trapP (some 1) [⟨0, trap1⟩] []) 0x4000).micro 0 0 1 = some ⟨0, 1, oper1.words, 0⟩ ∧ (trapP (some 1) [⟨0, trap1⟩] []).lastRft = 0 :=
  ⟨rfl, rfl, rfl, by decide, rfl, rfl⟩

/-! The service agent in its run, the trapped agent 0 beside it; the action word at 0x4078. -/
def trapped1 (f : AFault) : Agent := { atDone with trapped := some f }
def aTrap : AFault := ⟨{ bareTrap 0x83 with pc := 0 }, none, false⟩
def fromAgent : RaisedTrap := { trap1 with source := 0, agent := some 0, trap := aTrap.trap }
def runner : Agent := { sv with trec := 0x4000 }
def returnP (x : RaisedTrap) (r : Record) : Part := { trapP (some 1) [] [] with records := [r], run := some ⟨0, x⟩ }
def returnS (x : RaisedTrap) (r : Record) (field : Nat) : State :=
  { queueS (returnP x r) 0x4000 with
    turn := .agent 0 64
    agents := [(0, trapped1 aTrap), (64, runner)]
    mem := entries 0 (toLe 8 0x10001) ++ entries 0x4078 (toLe 8 field) ++ entries 0x10000 (toLe 8 0x1803) }
def r1 : Record := { recOf .faulted with cause := 0x83 }
theorem test_Returns_met : (runS atDone).atTurn atDone ∧ atDone.service = false ∧ (returnS fromAgent r1 0).atTurn runner ∧ runner.service = true
    ∧ (∀ c, runner.count c = 0) ∧ (∃ c, 0 < ({ runner with ops := [⟨.loads, 0, false⟩] } : Agent).count c)
    ∧ (returnS fromAgent r1 0).part runner.part = some (returnP fromAgent r1) ∧ (returnP fromAgent r1).run = some ⟨0, fromAgent⟩
    ∧ (returnP fromAgent r1).rec? fromAgent.rid = some r1
    ∧ walkLoc (returnS fromAgent r1 0) 0 (bits runner.trec.toNat 0 55 + 120) .read = .ok ⟨.here 0x4078, false⟩
    ∧ leNat (rdPlace (returnS fromAgent r1 0) (.here 0x4078) 8) = 0
    ∧ bits (leNat (rdPlace (returnS fromAgent r1 (2 ^ 48)) (.here 0x4078) 8)) 48 16 = 1
    ∧ bits (leNat (rdPlace (returnS fromAgent r1 (2 ^ 48 - 1)) (.here 0x4078) 8)) 48 16 = 0 :=
  ⟨⟨rfl, rfl⟩, rfl, ⟨rfl, rfl⟩, rfl, fun _ => rfl, ⟨.loads, by decide⟩, rfl, rfl, rfl, ok_of (by decide +kernel), by decide +kernel, by decide +kernel, by decide +kernel⟩
theorem test_Returns_actions_met : r1.rowFull = false ∧ r1.cancelHeld = false ∧ (returnS fromAgent r1 0).agentsOf 0 r1.id = [trapped1 aTrap]
    ∧ (trapped1 aTrap).outs = [] ∧ fromAgent.agent = some (trapped1 aTrap).key ∧ (returnS fromAgent r1 0).agent (trapped1 aTrap).key = some (trapped1 aTrap)
    ∧ (trapped1 aTrap).key ≠ runner.key ∧ fromAgent.source = 0 ∧ (trapped1 aTrap).trapped = some aTrap ∧ aTrap.late = false
    ∧ (trapped1 aTrap).status = .running ∧ (trapped1 aTrap).redo = [] ∧ (trapped1 aTrap).xrow = none
    ∧ isTree aTrap.trap.word = false ∧ isTree 0x8400000000000000 = true ∧ (bareTrap 0x61).cause = 0x61
    ∧ r1.retries < (returnP fromAgent r1).flags / 8 % 4 ∧ ({ r1 with retries := 1 } : Record).retries = (returnP fromAgent r1).flags / 8 % 4 := by
  refine ⟨rfl, rfl, ?_, rfl, rfl, rfl, ?_, rfl, rfl, rfl, rfl, rfl, rfl, ?_, ?_, rfl, ?_, ?_⟩ <;> decide

/-! ## Special registers and system instructions -/

theorem test_SpecialRegisters_met : (runS atDone).atTurn atDone ∧ atDone.service = false ∧ (runS atDone).part atDone.part = some runningP
    ∧ (returnS fromAgent r1 0).atTurn runner ∧ runner.service = true ∧ (9#6).toNat = 9 ∧ (0x0F#6).toNat < 0x10 ∧ 0x18 ≤ (0x18#6).toNat
    ∧ (0x1F#6).toNat < 0x20 ∧ 0x32 ≤ (0x32#6).toNat ∧ (0x37#6).toNat < 0x38 ∧ 0x39 ≤ (0x3F#6).toNat ∧ 0x24 ≤ (0x24#6).toNat :=
  ⟨⟨rfl, rfl⟩, rfl, rfl, ⟨rfl, rfl⟩, rfl, rfl, by decide, by decide, by decide, by decide, by decide, by decide, by decide⟩
/-- Values that MTS takes and values that it does not. -/
theorem test_SpecialRegisters_values_met : (5#64).toNat ≤ 5 ∧ ¬ (6#64).toNat ≤ 5 ∧ (127#64).toNat < 128 ∧ ¬ (128#64).toNat < 128
    ∧ (∀ i < 64, (0x2F#64).getLsbD i = true → i < 6 ∧ i ≠ 4) ∧ ¬ (∀ i < 64, (0x10#64).getLsbD i = true → i < 6 ∧ i ≠ 4)
    ∧ (0xFFFFFFFF#64).toNat < 2 ^ 32 ∧ ¬ (0x100000000#64).toNat < 2 ^ 32 ∧ bits (1#32).toNat 24 2 = 0 ∧ bits (0x3000001#32).toNat 24 2 = 3
    ∧ (0x40000000000FFFFF#64).toNat / 2 ^ 62 = 1 ∧ (0xC000000000000000#64).toNat / 2 ^ 62 = 3
    ∧ ((0x80000000#64).toNat ≤ 2 ^ 31 ∧ bits (0x80000000#64).toNat 23 8 ≠ 255)
    ∧ ¬ ((0x7F800000#64).toNat ≤ 2 ^ 31 ∧ bits (0x7F800000#64).toNat 23 8 ≠ 255) := by
  refine ⟨?_, ?_, ?_, ?_, ?_, ?_, ?_, ?_, ?_, ?_, ?_, ?_, ?_, ?_⟩ <;> decide

def injector (a b : Word) : Agent := Agent.withS (Agent.withS sv 5 a) 6 b
theorem test_SystemInstructions_met : (at_ ag).atTurn ag ∧ ag.service = false ∧ (at_ sv).atTurn sv ∧ sv.service = true
    ∧ (withPart (at_ sv) part1).part sv.part = some part1 ∧ (at_ (injector 0 3)).atTurn (injector 0 3) ∧ (injector 0 3).service = true
    ∧ ((injector 0 3).sr 5).toNat < 2 ^ 32 ∧ ((injector 0 3).sr 6).toNat < 4 ∧ ((injector 0 3).sr 5).toNat / 2 ^ 28 = (0 : Fin 16).val
    ∧ hopPresent (at_ (injector 0 3)) (BitVec.ofNat 32 ((injector 0 3).sr 5).toNat) = true ∧ ¬ ((injector 0 4).sr 6).toNat < 4
    ∧ ¬ ((injector 0x100000000 0).sr 5).toNat < 2 ^ 32 := by
  refine ⟨at_turn _, rfl, at_turn _, rfl, rfl, at_turn _, rfl, ?_, ?_, ?_, ?_, ?_, ?_⟩ <;> decide

/-! SQPUT: the packet at offset 64 of the own scratchpad, the queue header at 0x4000 with its 64-byte slots at 0x5000. -/
def putG : Agent := Agent.withS (Agent.withS ag 5 (BitVec.ofNat 64 (2 ^ 63 + 64))) 2 0x4000#64
def putS (cnt base w r : Nat) : State :=
  { (at_ putG).setCore 0 { Core.reset with tlb := [leaf false] } with
    mem := entries 0x4000 (toLe 8 base ++ toLe 8 cnt ++ toLe 8 w ++ toLe 8 r) ++ entries (spadKey 0 64) [1] }
theorem putS_turn (cnt base w r : Nat) : (putS cnt base w r).atTurn putG := ⟨rfl, rfl⟩
theorem test_SystemInstructions_put_met : (putS 4 0x5000 0 0).atTurn putG ∧ putG.sr 5 = BitVec.ofNat 64 (2 ^ 63 + 64) ∧ 64 % 64 = 0 ∧ 64 + 64 ≤ 2 ^ 20
    ∧ (putS 4 0x5000 0 0).calm putG ∧ (putS 4 0x5000 0 0).memOk ∧ (putG.ea m2).toNat % 64 = 0 ∧ (putG.ea ⟨2, 0, 1⟩).toNat % 64 ≠ 0
    ∧ (rd (putS 4 0x5000 0 0) (spadKey putG.core 64) 64).headD 0 ≠ 0 ∧ (rd (at_ putG) (spadKey putG.core 64) 64).headD 0 = 0
    ∧ resolveCached (putS 4 0x5000 0 0) putG (putG.ea m2) .write = .ok ⟨.here 0x4000, false⟩ := by
  refine ⟨putS_turn .., rfl, rfl, ?_, ⟨?_, rfl, rfl, rfl, rfl, rfl, rfl⟩, show Mem.wf _ = true from ?_, ?_, ?_, ?_, ?_, ok_of ?_⟩ <;> decide +kernel
theorem test_SystemInstructions_slots_met : rdNat (putS 0 0x5000 0 0) (0x4000 + 8) 4 = 0 ∧ 2 ^ 20 < rdNat (putS (2 ^ 20 + 1) 0x5000 0 0) (0x4000 + 8) 4
    ∧ rdNat (putS 4 0x5001 0 0) 0x4000 8 % 64 ≠ 0
    ∧ rdNat (putS 4 0x5000 5 1) (0x4000 + 8) 4 ≤ (rdNat (putS 4 0x5000 5 1) (0x4000 + 16) 8 + 2 ^ 64 - rdNat (putS 4 0x5000 5 1) (0x4000 + 24) 8) % 2 ^ 64
    ∧ (rdNat (putS 4 0x5000 4 1) (0x4000 + 16) 8 + 2 ^ 64 - rdNat (putS 4 0x5000 4 1) (0x4000 + 24) 8) % 2 ^ 64 < rdNat (putS 4 0x5000 4 1) (0x4000 + 8) 4
    ∧ resolveCached (putS 4 0x5000 4 1) putG (BitVec.ofNat 64 (0x5000 + 64 * (4 % 4))) .write = .ok ⟨.here 0x5000, false⟩
    ∧ (Place.here 0x5000).own putG.core = false := by
  refine ⟨?_, ?_, ?_, ?_, ?_, ok_of ?_, ?_⟩ <;> decide +kernel

/-! ## Units -/

def unit0 : W32 := coreHop 0 5 0
def hopT (e f : Word) (c : Option Blame) : Transfer := ⟨3, [unit0], e, f, c, 0, 0, 0, 0⟩
def devS (f : Device → Device) : State := { State.reset with agenda := [], dev := f State.reset.dev }
def testing (fo : Option Bool) : Test := ⟨unit0, [], fo, 0⟩
def blame1 : Blame := ⟨0x100, 0, unit0, 0⟩
theorem test_UnitEvents_hops_met : (devS fun d => { d with transfers := [hopT 0 0 none] }).dev.transfers = [hopT 0 0 none] ∧ (hopT 0 0 none).hops = unit0 :: []
    ∧ (devS fun d => { d with transfers := [hopT 0 0 none] }).dev.injections = [] ∧ (devS fun d => { d with transfers := [hopT 0 0 none] }).dev.tests = []
    ∧ (∃ y ∈ (devS fun d => { d with transfers := [hopT 0 0 none], tests := [testing none] }).dev.tests, y.unit = unit0)
    ∧ (hopT 0 1 (some blame1)).condemned.isSome = true ∧ (hopT 0 0 none).expected = (hopT 0 0 none).found
    ∧ (hopT 0 1 none).condemned = none ∧ (hopT 0 1 none).expected ≠ (hopT 0 1 none).found :=
  ⟨rfl, rfl, rfl, rfl, ⟨_, List.mem_singleton.2 rfl, rfl⟩, rfl, rfl, rfl, by decide⟩
theorem test_UnitEvents_tests_met : (devS fun d => { d with tests := [testing none] }).dev.tests = [testing none]
    ∧ (devS fun d => { d with tests := [testing none] }).parts = [] ∧ (testing none).forced ≠ some false ∧ coresTaken (testing none).unit = [5]
    ∧ hopKind (testing none).unit ≠ 2 ∧ 5 < Config.cores ∧ ((devS fun d => { d with tests := [testing none] }).core 5).removed = false
    ∧ (testing none).start + nsCycles (testNs (hopKind (testing none).unit)) ≤ 4200 := by
  refine ⟨rfl, rfl, ?_, ?_, ?_, ?_, rfl, ?_⟩ <;> decide

/-- An agent at a MONW of a word on HBM. -/
def monG : Agent := { addrG 8 with lastIssue := 0 }
def monS (c : Nat) : State :=
  { (at_ monG).setCore 0 { Core.reset with tlb := [leaf false], micros := [⟨0, 0, encode ⟨false, 0⟩ (.monw true 1 m2), 0⟩] } with cycle := c }
def ctxW : Ctx := { Ctx.reset with status := .waiting }
theorem test_UnitEvents_waits_met : (monS 1025).agent monG.key = some monG ∧ monG.lastIssue + 1024 < (monS 1025).cycle
    ∧ ({ State.reset with ctxs := [(ctxKey 63 63, ctxW)] } : State).ctx (ctxKey 63 63) = ctxW ∧ ctxW.status = .waiting := ⟨rfl, Nat.lt_succ_self _, rfl, rfl⟩
/-- The word lies in the host's memory. -/
def farE : TlbEntry := ⟨0, 0, 2 ^ 42, 0, 2, false, true, true⟩
def farS : State :=
  (at_ monG).setCore 0 { Core.reset with tlb := [farE], micros := [⟨0, 0, encode ⟨false, 0⟩ (.monw true 1 m2), 0⟩] }
theorem test_UnitEvents_far_met : farS.agent monG.key = some monG ∧ (farWait farS monG).map (·.2) = some 8 := ⟨rfl, by decide +kernel⟩

/-! ## Pre-emption -/

def pcbS (p : Part) (b : Pcb) : State := { row [] p with pcbs := [(0, b)] }
def blockOf (st : Nat) : Pcb := { Pcb.reset with state := st, save := 0x4000 }
def preP (x : PrePhase) : Part := { base1 with pre := x }
theorem test_Preemption_met : (∀ x b, (pcbS (preP x) b).part 0 = some (preP x) ∧ (pcbS (preP x) b).pcb 0 = b) ∧ (blockOf 1).state = 1 ∧ (blockOf 0).state ≠ 1
    ∧ (preP .none).pre = .none ∧ (preP (.asked true)).pre = .asked true ∧ (preP (.asked false)).pre = .asked false
    ∧ rootBusy (pcbS (preP (.asked false)) (blockOf 2)) 0 { preP (.asked false) with run := some ⟨0, trap1⟩ } = true
    ∧ rootBusy (pcbS (preP (.asked false)) (blockOf 2)) 0 (preP (.asked false)) = false
    ∧ (pcbS (preP (.marker 0 false)) (blockOf 2)).cycle < 1 ∧ 0 ≤ (pcbS (preP (.marker 0 true)) (blockOf 2)).cycle :=
  ⟨fun _ _ => ⟨rfl, rfl⟩, rfl, by decide, rfl, rfl, rfl, rfl, by decide, by decide, by decide⟩
def cutS : State := { pcbS (preP (.cut false)) (blockOf 2) with mem := entries 0 (toLe 8 0x10001) ++ entries 0x10000 (toLe 8 0x1803) }
def flying : Agent := { atDone with outs := [⟨3, some .loads, .load .d64 1, [], [], 8, false, false, .core, .moving, aTrap.trap, ⟨[], [], []⟩⟩] }
theorem test_Preemption_cut_met : cutS.part 0 = some (preP (.cut false)) ∧ (preP (.cut false)).again = false
    ∧ landed (atCut cutS 0) 0 (preP (.cut false)) = true
    ∧ landed (atCut { cutS with agents := [(0, flying)] } 0) 0 (preP (.cut false)) = false
    ∧ (∃ u, writeVa cutS (preP (.cut false)).asid ((cutS.pcb 0).save.toNat + 8) (toLe 4 1) = some u)
    ∧ ((preP (.marker 0 false)).records.map (·.id)).Nodup ∧ (({ preP (.marker 0 false) with records := [rec1] } : Part).records.map (·.id)).Nodup := by
  refine ⟨rfl, rfl, ?_, ?_, isSome_ex ?_, ?_, ?_⟩ <;> decide +kernel
theorem test_Preemption_image_met : cutS.quietUnits ∧ (∀ x ∈ imageCells (atCut cutS 0) 0 (preP (.cut false)), symKind ((atCut cutS 0).cell x) = 8 →
      (atCut cutS 0).chime x = payloadChime ((atCut cutS 0).cell x) (slotBytes (atCut cutS 0) x))
    ∧ ∃ u, writeVa (keepBeside (cutImage (atCut cutS 0) 0 (preP (.cut false))).1 0 (preP (.cut false))) (preP (.cut false)).asid (cutS.pcb 0).save.toNat
      (cutImage (atCut cutS 0) 0 (preP (.cut false))).2 = some u := by
  refine ⟨⟨rfl, rfl⟩, ?_, isSome_ex (by decide +kernel)⟩
  have e : imageCells (atCut cutS 0) 0 (preP (.cut false)) = [] := by decide +kernel
  rw [e]; simp
theorem test_Preemption_contexts_met : Tbl.find ({ cutS with ctxs := [(0, ctxW)] } : State).ctxs 0 = some ctxW ∧ ctxW.asid = (preP .none).asid
    ∧ ctxW.status ≠ .free ∧ ctxW.midway = false ∧ ({ ctxW with got := [1] } : Ctx).midway = true := ⟨rfl, rfl, by decide, rfl, rfl⟩

/-! A context image without words, cores or records at 0x20000, its library at 0x30000. -/
def context1 : List Byte := ofWord Config.encodingHash ++ toLe 4 1 ++ toLe 2 0x140 ++ zerosB 2 ++ toLe 2 0 ++ toLe 2 0 ++ zerosB 4 ++ toLe 8 7 ++ toLe 4 3
  ++ toLe 4 0 ++ toLe 8 0x30000 ++ zerosB 80 ++ (List.replicate 8 (toLe 4 256 ++ toLe 4 0)).flatten ++ zerosB 64
def blockR (st arg : Nat) (image : Word) : Pcb := { Pcb.reset with state := st, arg := BitVec.ofNat 32 arg, image := image }
def restS (b : Pcb) : State :=
  { State.reset with
    agenda := []
    pcbs := [(0, b)]
    mem := entries 0 (toLe 8 0x10001) ++ entries 0x10000 (toLe 8 0x1803) ++ entries 0x20000 context1 ++ entries 0x30000 lib1 }
def untaken (b : Pcb) : State := applyRemovals ((restS b).setPcb 0 { b with cmd := 0 })
theorem restored {α : Type} {x : Nat × Option α} (h : x.1 = 0 ∧ x.2.isSome = true) : ∃ a, x = (0, some a) := zero_some h
theorem test_Restoring_met : (restS (blockR 1 0 0)).pcb 0 = blockR 1 0 0 ∧ (blockR 1 0 0).state ≠ 0 ∧ (blockR 1 0 0).state ≠ 3
    ∧ (blockR 0 0 0x20000).state = 0 ∧ (blockR 3 0 0x20000).state = 3
    ∧ restoreStatus (untaken (blockR 0 13 0x20000)) 0 = (6, none) ∧ ∃ a, restoreStatus (untaken (blockR 3 0 0x20000)) 0 = (0, some a) := by
  refine ⟨rfl, ?_, ?_, rfl, rfl, ?_, restored ⟨?_, ?_⟩⟩ <;> decide +kernel
def savedP : Part := { having (recOf .running) with pre := .saved }
theorem test_Restoring_ends_met : (row appV savedP).part 0 = some savedP ∧ savedP.pre = .saved ∧ savedP.streams = [] ∧ savedP.heldCancels = []
    ∧ savedP.traps = [] ∧ savedP.sweep = none ∧ savedP.records = [recOf .running] ∧ (recOf .running).state = .running := ⟨rfl, rfl, rfl, rfl, rfl, rfl, rfl, rfl⟩
def fullP (j : Nat) : Part := { base1 with j := j, run := some ⟨0, { trap1 with trap := bareTrap 0xC0 }⟩ }
theorem test_Restoring_commands_met : (restS (blockR 0 0 0)).part 0 = none ∧ (pcbS base1 (blockOf 1)).part 0 = some base1
    ∧ (blockOf 1).state = 1 ∧ (blockOf 3).state = 3 ∧ (blockOf 0).state ≠ 1 ∧ (blockOf 0).state ≠ 3
    ∧ (∀ j, (fullP j).run = some ⟨0, { trap1 with trap := bareTrap 0xC0 }⟩) ∧ base1.run = none ∧ (fullP 12).j = 12 ∧ (fullP 11).j ≠ 12
    ∧ overlapsLive ({ pcbS (fullP 0) (blockOf 1) with parts := [(0, fullP 0), (1, base1)] } : State) 1 0 = true
    ∧ overlapsLive (pcbS (fullP 0) (blockOf 1)) 1 0 = false := by
  refine ⟨rfl, rfl, rfl, rfl, ?_, ?_, fun _ => rfl, rfl, rfl, ?_, ?_, ?_⟩ <;> decide

/-! ## The host and the management plane -/

def liveS : State := pcbS base1 (blockOf 1)
theorem test_HostInterface_met : (0x100000#64).toNat % 2 ^ 20 = 0 ∧ (1#64).toNat % 2 ^ 20 ≠ 0 ∧ State.reset.parts = [] ∧ liveS.parts ≠ []
    ∧ (0x7FFFFFFFFFFFFF#64).toNat < 2 ^ 55 ∧ ¬ (0x80000000000000#64).toNat < 2 ^ 55 ∧ (0#64).toNat % 2 ^ State.reset.dev.bar2size[(1 : Fin 2)] = 0
    ∧ (1#64).toNat % 2 ^ State.reset.dev.bar2size[(0 : Fin 2)] ≠ 0
    ∧ (devS fun d => { d with bstat := 1 }).dev.bstat = 1 ∧ State.reset.dev.bstat ≠ 1 ∧ 0x1001 % 8 ≠ 0
    ∧ (liveS.pcb 0).state = 1 ∧ (State.reset.pcb 4095).cmd = 0 ∧ (State.reset.pcb 4095).state = 0 ∧ ({ blockOf 0 with cmd := 6 } : Pcb).cmd ≠ 0
    ∧ (0x0000000500000001#64).toNat % 256 = 1 ∧ (6#64).toNat % 256 = 6 := by
  refine ⟨?_, ?_, rfl, ?_, ?_, ?_, ?_, ?_, rfl, ?_, ?_, rfl, rfl, rfl, ?_, ?_, ?_⟩ <;> decide
/-- Links in service and not; sizes, places of the route table, units and injection modes at the ends of their ranges. -/
theorem test_HostInterface_links_met : (devS fun d => { d with hostUp := Vector.replicate 2 true }).dev.hostUp[(1 : Fin 2)] = true
    ∧ (devS fun d => { d with hostUp := Vector.replicate 2 false }).dev.hostUp[(0 : Fin 2)] = false
    ∧ (30#64).toNat = 30 ∧ (41#64).toNat = 41 ∧ (29#64).toNat < 30 ∧ 41 < (42#64).toNat ∧ 0x20000 % 8 = 0 ∧ 0x2FFF8 % 8 = 0 ∧ 0x2FFF8 < 0x30000
    ∧ (3#64).toNat < 4 ∧ ¬ (4#64).toNat < 4 ∧ hopPresent State.reset (BitVec.ofNat 32 0) = true
    ∧ hopPresent State.reset (BitVec.ofNat 32 0xF0000001) = false := by
  refine ⟨?_, ?_, ?_, ?_, ?_, ?_, ?_, ?_, ?_, ?_, ?_, ?_, ?_⟩ <;> decide
/-- Accesses at the end of an aperture and beyond it. -/
theorem test_HostInterface_reach_met : (2 ^ 30 - 8) + 8 ≤ 2 ^ State.reset.dev.bar2size[(0 : Fin 2)]
    ∧ ¬ (2 ^ 30 - 7) + 8 ≤ 2 ^ State.reset.dev.bar2size[(0 : Fin 2)] := by
  constructor <;> decide
def barS (base : Word) : State :=
  { devS fun d => { d with published := true, ap0base := base, ap1base := base } with mem := entries 0 (toLe 8 0x10001) ++ entries 0x10000 (toLe 8 0x1803) }
theorem test_HostInterface_apertures_met : State.reset.dev.published = false ∧ (barS 0x10000).dev.published = true
    ∧ apertureVa (barS 0x10000) 0 0x40 8 = some 0x10040 ∧ apertureVa (barS 0) 1 0x40 8 = none
    ∧ (∃ l, readVa (barS 0x10000) (aperture (barS 0x10000) 0).2 0x10040 8 = some l) ∧ (∃ u, writeVa (barS 0x10000) (aperture (barS 0x10000) 1).2 0x10040 [1, 2] = some u)
    ∧ readVa { barS 0x10000 with mem := [] } 0 0x10040 8 = none ∧ writeVa { barS 0x10000 with mem := [] } 0 0x10040 [1, 2] = none := by
  refine ⟨rfl, rfl, rfl, rfl, isSome_ex ?_, isSome_ex ?_, ?_, ?_⟩ <;> decide +kernel

/-- The report's place lies behind the nonce of the request at 0x4000. -/
def attestS : State := { barS 0x10000 with mem := entries 0 (toLe 8 0x10001) ++ entries 0x4020 (toLe 8 0x5000) ++ entries 0x10000 (toLe 8 0x1803) }
def request1 : List Byte := zerosB 32 ++ toLe 8 0x5000 ++ zerosB 24
theorem exactly_length (n : Nat) (l : List Byte) : (exactly n l).length = n := by simp [exactly, zerosB]; omega
theorem report_length (s : State) (l : List Byte) : (attestReport s l).length = 320 := by
  simp [attestReport, exactly_length, zerosB, toLe, ofWord]
theorem writeVa_small {s : State} {l : List Byte} {loc : Loc} (hl : l.length = 320) (h : walkLoc s 0 0x5000 .write = .ok loc) :
    ∃ u, writeVa s 0 0x5000 l = some u := by
  simp [writeVa, hl, List.range_succ, h]
theorem test_HostInterface_attestation_met : readVa attestS 0 (0x4000#64).toNat 64 = some request1 ∧ request1.length = 64
    ∧ ∃ u, writeVa (attestS.modDev fun d => { d with attest := 0x4000 }) 0 (leAt request1 32 8) (attestReport attestS (request1.take 32)) = some u := by
  have a : leAt request1 32 8 = 0x5000 := by decide
  rw [a]
  exact ⟨by decide +kernel, by decide, writeVa_small (loc := ⟨.here 0x5000, false⟩) (report_length ..) (ok_of (by decide +kernel))⟩

/-- Bring-up that waits for a port, that waits for none, and that is over. -/
theorem test_HostInterface_training_met : (devS fun d => { d with training := some [11] }).dev.training ≠ some []
    ∧ (devS fun d => { d with training := some [] }).dev.training = some [] ∧ (devS id).dev.training ≠ some [] := by
  refine ⟨?_, rfl, ?_⟩ <;> decide

/-! ## Links -/

def portS (p : Port) : State := (devS fun d => { d with ports := d.ports.set 11 p, gained := true })
def port1 (x : PortState) : Port := { Port.reset with state := x, usable := 8 }
theorem test_Links_met : (∀ x, (portS (port1 x)).port 11 = port1 x) ∧ inState (portS (port1 .reset)) 11 .reset = true
    ∧ inState (portS (port1 .detect)) 11 .detect = true ∧ inState (portS (port1 .align)) 11 .align = true ∧ inState (portS (port1 .equalize)) 11 .equalize = true
    ∧ inState (portS (port1 .rate)) 11 .rate = true ∧ inState (portS (port1 .verify)) 11 .verify = true ∧ inState (portS (port1 .identity)) 11 .identity = true
    ∧ nextRate 8 0 = some (224, 8, 1) ∧ nextRate 2 8 = some (56, 2, 9) ∧ nextRate 8 9 = none ∧ nextRate 1 0 = none ∧ ((portS (port1 .active)).port 11).state = .active
    ∧ (1#16 : BitVec 16) ≠ State.reset.dev.devid := by
  refine ⟨fun _ => rfl, ?_, ?_, ?_, ?_, ?_, ?_, ?_, ?_, ?_, ?_, ?_, ?_, ?_⟩ <;> decide
theorem test_Links_time_met : State.reset.dev.gained = false ∧ State.reset.parts = [] ∧ (portS (port1 .active)).dev.gained = true ∧ liveS.parts ≠ []
    ∧ (420 : Int).natAbs ≤ 420 ∧ homeKey 0 = some (hbmKey 0) ∧ homeKey (2 ^ 43) = some (lpddrKey 0) ∧ portActive (portS (port1 .active)) 11 = true
    ∧ portActive (portS (port1 .reset)) 11 = false ∧ (devS fun d => { d with path := true }).dev.path = true ∧ State.reset.dev.path = false
    ∧ (portS (port1 .active)).quietUnits ∧ failingPlace (portS (port1 .active)) (.here (hbmKey 0)) = false
    ∧ failingPlace (devS fun d => { d with badPages := [(0, true)] }) (.here (hbmKey 0)) = true ∧ ({ State.reset with presence := [(0, .full)] } : State).presenceOf 0 = some .full
    ∧ (∀ i < 8, (({ State.reset with presence := [(0, .full)] } : State).presenceOf ((0 + i) / 8 * 8)).isSome = true)
    ∧ State.reset.presenceOf 0 = none ∧ Config.hbmBytes ≤ 2 ^ 43 ∧ 0 < Config.hbmBytes
    ∧ (∀ e ∈ (off_ ag).agents, e.2.claim = none) := by
  refine ⟨rfl, rfl, rfl, ?_, ?_, ?_, ?_, ?_, ?_, ?_, ?_, ⟨rfl, rfl⟩, ?_, ?_, ?_, ?_, ?_, ?_, ?_, ?_⟩ <;> decide +kernel

/-! ## The debugger -/

def table1 : NodeTable := ⟨[], [⟨2, false, false, false, false, 0, 0, 0, 0⟩], 4, 10, 0x8000, 1⟩
def debugP : Part := { having (recOf .running) with table := some table1, nodes := 0x6000 }
def debugS (g : Agent) : State :=
  { row appV debugP with
    turn := .agent 0 0
    agents := [(0, g)]
    mem := entries 0 (toLe 8 0x10001) ++ entries 0x10000 (toLe 8 0x1803) }
/-- Is EBRK a NOP here? -/
def ebrkOff (s : State) (g : Agent) : Prop :=
  g.passStop.isSome = true ∨ (((s.part g.part).bind (·.table)).map (·.dump)).getD 0 = 0
theorem test_Debugging_met : (debugS atDone).atTurn atDone ∧ ¬ ebrkOff (debugS atDone) atDone ∧ ebrkOff (runS atDone) atDone
    ∧ ebrkOff (debugS atDone) { atDone with passStop := some 3 } ∧ (debugS atDone).agent atDone.key = some atDone ∧ atDone.service = false
    ∧ (debugS atDone).part atDone.part = some debugP ∧ debugP.rec? atDone.rid = some (recOf .running) ∧ (recOf .running).state = .running
    ∧ (recOf .running).stopped = none ∧ debugP.pre = .none ∧ debugP.stops.length < 16
    ∧ { debugP with stops := List.replicate 15 ⟨1, 1, 0, 0, 0, 0⟩ }.stops.length < 16 := by
  refine ⟨⟨rfl, rfl⟩, ?_, .inr rfl, .inl rfl, rfl, rfl, rfl, rfl, rfl, rfl, rfl, ?_, ?_⟩ <;> (try unfold ebrkOff) <;> decide
def stepping : Agent := { atDone with stepLeft := some (2, 1) }
theorem test_Debugging_step_met : (debugS stepping).atTurn stepping ∧ stepping.stepLeft.isSome = true ∧ ¬ ebrkOff (debugS stepping) stepping := by
  refine ⟨⟨rfl, rfl⟩, rfl, ?_⟩; unfold ebrkOff; decide
def stop1 : Stop := ⟨5, 1, 0, 0, 2, 0⟩
def stoppedR : Record := { recOf .running with stopped := some 5 }
def stoppedP : Part := { debugP with records := [stoppedR], stops := [stop1] }
def stopS : State := { debugS atDone with parts := [(0, stoppedP)] }
theorem test_Debugging_go_met : stopS.part 0 = some stoppedP ∧ stoppedP.stops = [stop1] ∧ stop1.agent = atDone.key ∧ stopS.agent atDone.key = some atDone
    ∧ stoppedP.rec? stop1.rid = some stoppedR ∧ stop1.kind ≠ 4
    ∧ ∃ l, readVa stopS stoppedP.asid (dumpAddr stoppedP stop1.seq) (512 + 512 * atDone.gran) = some l := by
  refine ⟨rfl, rfl, rfl, rfl, rfl, ?_, isSome_ex ?_⟩ <;> decide +kernel
/-- The service agent at EBRK, and at its stop. -/
def stop2 : Stop := ⟨5, 1, 64, 255, 0, 0⟩
def serviceS (g : Agent) (p : Part) : State := { debugS atDone with turn := .agent 0 64, agents := [(64, g)], parts := [(0, p)] }
theorem test_Debugging_service_met : (serviceS sv debugP).atTurn sv ∧ sv.service = true ∧ ¬ ebrkOff (serviceS sv debugP) sv ∧ sv.stepLeft.isSome = false
    ∧ (let p : Part := { debugP with stops := [stop2] }
      (serviceS { sv with halted := some 5 } p).part 0 = some p ∧ p.stops = [stop2] ∧ stop2.agent = sv.key ∧ stop2.kind ≠ 4
      ∧ (serviceS { sv with halted := some 5 } p).agent sv.key = some { sv with halted := some 5 }) := by
  refine ⟨⟨rfl, rfl⟩, rfl, ?_, rfl, rfl, rfl, rfl, ?_, rfl⟩ <;> (try unfold ebrkOff) <;> decide
/-- A table that cannot be read; a trace buffer with room for the records of a domain. -/
theorem test_Debugging_unreadable_met : readTable (runS atDone) runningP.asid 0x6000 = none
    ∧ (let s : State := { debugS atDone with mem := entries 0 (toLe 8 64) }
      64 ≤ rdNat s (hbmKey s.dev.trace.toNat) 8 ∧ rdNat s (hbmKey s.dev.trace.toNat + 8) 8 + 64 ≤ 2 ^ 64 ∧ s.memOk) := by
  refine ⟨?_, ?_, ?_, show Mem.wf _ = true from ?_⟩ <;> decide +kernel
theorem test_Debugging_tables_met : (∃ t, readTable (debugS atDone) debugP.asid debugP.nodes = some t) ∧ sampleCores (debugS atDone) 0 debugP = [0]
    ∧ sampleCores { debugS atDone with cycle := 1 } 0 debugP = [] ∧ (debugS atDone).memOk
    ∧ rdNat ({ debugS atDone with mem := entries 8 (toLe 8 4) } : State) (hbmKey (debugS atDone).dev.trace.toNat + 8) 8 = 4 := by
  refine ⟨isSome_ex ?_, ?_, ?_, show Mem.wf _ = true from ?_, ?_⟩ <;> decide +kernel

/-! ## Encodings and the machine -/

theorem test_EncodeDecode_met : (Instr.add 31 30 29).wf = true ∧ (Instr.add 31 30 29).isEvent = false ∧ encode ⟨true, 7⟩ (.add 31 30 29) ≠ [0#64]
    ∧ decode 0x01B7DE7400000000#64 0 = .instr (.sub 31 30 29) ∧ rowOf 0x01B7DE7400000000#64 < 0xA := by
  refine ⟨?_, ?_, ?_, ?_, ?_⟩ <;> decide
def addW : Word := (encode ⟨false, 0⟩ (.add 1 2 3)).headD 0
def stepG : Agent := { atDone with gran := 1 }
def stepS : State := ({ row appV runningP with agents := [(0, stepG)] } : State).setCore 0 { Core.reset with micros := [⟨0, 0, [addW], 0⟩] }
theorem test_StepRunsDecoded_met : stepS.agenda = [] ∧ stepS.arrivals = [] ∧ stepS.agents = [(stepG.key, stepG)] ∧ stepS.ctxs = [] ∧ stepS.ringers = []
    ∧ (stepS.domain stepG.core).stretching = false ∧ (stepS.core stepG.core).issued = [] ∧ unitTaken (stepS.core stepG.core) (unitOf addW) = false
    ∧ (stepS.core stepG.core).chains = [] ∧ mayIssue stepS stepG = true ∧ stepG.xrow = none ∧ stepG.redo = [] ∧ stepG.drowsy = false
    ∧ stepS.wordAt stepG stepG.pc = addW ∧ guardHolds stepG addW = true ∧ agentFetch stepS stepG addW = .run (.add 1 2 3)
    ∧ held stepS stepG addW (.add 1 2 3) = false ∧ matching stepS stepG (some (.add 1 2 3)) = [] := by
  refine ⟨rfl, rfl, rfl, rfl, rfl, ?_, rfl, ?_, rfl, ?_, rfl, rfl, rfl, rfl, ?_, ?_, ?_, ?_⟩ <;> decide +kernel
theorem test_StepRunsDecoded_words_met : decode addW 0 = .instr (.add 1 2 3) ∧ rowOf addW < 0xA ∧ privileged (major addW).toNat = false
    ∧ cellMajor (major addW).toNat = false ∧ vregsOf (.add 1 2 3) = [] ∧ badSpecial stepS stepG (.add 1 2 3) = false
    ∧ badField (.add 1 2 3) = false := by
  refine ⟨?_, ?_, ?_, ?_, ?_, ?_, ?_⟩ <;> decide
def ctxN : Ctx := { Ctx.reset with status := .running, words := [0xA900000000000000] }
def ringN : Ringer := { Ringer.reset with status := .running, words := [0] }
theorem test_StepRunsDecoded_engines_met : ctxN.relSlot = none ∧ ctxN.status = .running ∧ ctxN.wakeAt ≤ 0 ∧ (devS id).dev.tests = [] ∧ (devS id).agents = []
    ∧ engineFetch 0xA (ctxN.words.getD ctxN.pc (BitVec.allOnes 64)) ctxN.words[ctxN.pc + 1]? = .run .sstop
    ∧ ringN.status = .running ∧ ringN.wakeAt ≤ 0
    ∧ engineFetch 0xB (ringN.words.getD ringN.pc (BitVec.allOnes 64)) ringN.words[ringN.pc + 1]? = .run .nop := by
  refine ⟨rfl, rfl, Nat.le_refl _, rfl, rfl, ?_, rfl, Nat.le_refl _, ?_⟩ <;> decide
/-- A machine with nothing to do takes a step, its memory in its form. -/
def isNext : Out → Bool
  | .next _ => true
  | _ => false
def isCalm : Out → Bool
  | .next t => (caught t).isEmpty
  | _ => false
theorem calm_of {o : Out} (h : isCalm o = true) : ∃ t, o = .next t ∧ caught t = [] := by
  cases o <;> simp_all [isCalm]
theorem test_StepRunsDecoded_caught_met : ∃ t, turnCycle (devS id) = .next t ∧ caught t = [] := calm_of (by decide +kernel)
theorem next_of {o : Out} (h : isNext o = true) : ∃ t, o = .next t := by
  cases o <;> simp_all [isNext]
theorem test_MemoryStaysCanonical_met : (devS id).memOk ∧ ∃ t, step (devS id) = .next t := ⟨show Mem.wf _ = true from rfl, next_of (by decide +kernel)⟩

end Sys2Proof.Tests
end

/-! PROOF. O38: what an accepted expression launch leaves, and the order in which the placer takes cells. -/

namespace Sys2Proof.Machine

open Sys2Proof

/-! ## The agenda -/

theorem mem_insertEvent (due : Nat) (i : Instr) (l : List (Nat × Instr)) (x : Nat × Instr) :
    x ∈ insertEvent due i l ↔ x = (due, i) ∨ x ∈ l := by
  induction l with
  | nil => simp [insertEvent]
  | cons e l ih =>
    simp only [insertEvent]
    split
    · simp
    · simp only [List.mem_cons, ih]
      exact or_left_comm

/-- An event is on the agenda behind `sched` where it is the one just put there, or was there before. -/
theorem pendingEvent_sched (s : State) (n : Nat) (i j : Instr) :
    pendingEvent (sched s n i) j = true ↔ i = j ∨ pendingEvent s j = true := by
  simp only [pendingEvent, sched, List.any_eq_true, mem_insertEvent, decide_eq_true_eq]
  constructor
  · rintro ⟨x, rfl | hx, rfl⟩
    · exact .inl rfl
    · exact .inr ⟨x, hx, rfl⟩
  · rintro (rfl | ⟨x, hx, rfl⟩)
    · exact ⟨_, .inl rfl, rfl⟩
    · exact ⟨x, .inr hx, rfl⟩

theorem pendingEvent_schedOnce_of {s : State} {j : Instr} (n : Nat) (i : Instr) (h : pendingEvent s j = true) :
    pendingEvent (schedOnce s n i) j = true := by
  unfold schedOnce
  split
  · exact h
  · exact (pendingEvent_sched ..).2 (.inr h)

@[simp] theorem schedOnce_home_part (s : State) (n : Nat) (i : Instr) (j : Nat) : (schedOnce s n i).part j = s.part j := by
  unfold schedOnce; split <;> rfl
@[simp] theorem schedOnce_home_pcb (s : State) (n : Nat) (i : Instr) (j : Nat) : (schedOnce s n i).pcb j = s.pcb j := by
  unfold schedOnce; split <;> rfl

/-! ## What leaves the clock as it is -/

@[simp] theorem State.modCore_cycle (s : State) (c : Nat) (f : Core → Core) : (s.modCore c f).cycle = s.cycle := rfl
@[simp] theorem State.modPcb_cycle (s : State) (n : Nat) (f : Pcb → Pcb) : (s.modPcb n f).cycle = s.cycle := rfl
@[simp] theorem wrPlace_cycle (s : State) (p : Place) (l : List Byte) : (wrPlace s p l).cycle = s.cycle := by
  cases p <;> rfl
@[simp] theorem consume_cycle (s : State) (k : Packet) : (consume s k).cycle = s.cycle := by simp [consume]
@[simp] theorem knowQueue_cycle (s : State) (kind : Nat) (hdr : Word) : (knowQueue s kind hdr).cycle = s.cycle := by
  unfold knowQueue; split <;> rfl
@[simp] theorem startTest_cycle (s : State) (u : W32) (n : Nat) (f : Option Bool) : (startTest s u n f).cycle = s.cycle := by
  simp only [startTest]; split <;> rfl
@[simp] theorem blame_cycle (s : State) (u : W32) (e : Event) : (blame s u e).1.cycle = s.cycle := by simp [blame]

/-- The units of a path may blame one another, but take no time. -/
@[simp] theorem transit_cycle (s : State) (us : List W32) (e : Event) : (transit s us e).1.cycle = s.cycle := by
  simp only [transit]
  split
  · simp
  · split
    · rfl
    · split
      · rfl
      · simp

@[simp] theorem payloadArrives_cycle (s : State) (n rid : Nat) (w : Word) (l : List Byte) (ch : Word) (a b : Nat) :
    (payloadArrives s n rid w l ch a b).1.cycle = s.cycle := by
  unfold payloadArrives; split <;> simp

@[simp] theorem putSymbol_cycle (s : State) (n rid : Nat) (x : Placed) : (putSymbol s n rid x).1.cycle = s.cycle := by
  unfold putSymbol
  split
  · simp
  · dsimp only; split <;> simp

@[simp] theorem placeWord_cycle (s : State) (n : Nat) (w : Word) (y : Option (Word × List Byte)) (c : Nat) :
    (placeWord s n w y c).cycle = s.cycle := by
  cases y <;> simp [placeWord]

/-- A loop whose rounds leave the clock leaves it. -/
theorem forN_cycle (n : Nat) (s : State) (f : Nat → State → State) (h : ∀ i t, (f i t).cycle = t.cycle) :
    (forN n s f).cycle = s.cycle :=
  foldl_inv (fun t => t.cycle = s.cycle) _ (fun t i e => (h i t).trans e) _ _ rfl

@[simp] theorem clearCells_cycle (s : State) (first j : Nat) : (clearCells s first j).cycle = s.cycle :=
  forN_cycle _ _ _ fun _ _ => forN_cycle _ _ _ fun _ _ => by simp

@[simp] theorem unloadTables_cycle (s : State) (first j : Nat) : (unloadTables s first j).cycle = s.cycle :=
  forN_cycle _ _ _ fun _ _ => rfl

/-! ## Records of the trace and profile buffers -/

@[simp] theorem appendRecord_home_pcb (s : State) (b : Word) (r : List Byte) (j : Nat) : (appendRecord s b r).pcb j = s.pcb j := by
  simp only [appendRecord]; split <;> rfl
@[simp] theorem profilePeal_home_pcb (s : State) (n : Nat) (p : Part) (j : Nat) : (profilePeal s n p).pcb j = s.pcb j :=
  appendRecord_home_pcb ..

/-! ## The start of a sweep (R39) -/

/-- The partition in the first cycle of a sweep: the peal counts on, its counters are 0, and the sweep ends a sweep time from now,
having seen the innermost areas that no live record covers. -/
def Part.inSweep (p : Part) (s : State) (n : Nat) (tab : Option NodeTable) (com : Option (Nat × NodeTable)) (stop : Bool) : Part :=
  { p with
    peal := p.peal + 1, pealStart := s.cycle, pealCreated := 0, pealAdmitted := 0, pealSteps := 0
    table := tab, coming := com, newTable := none, wideStop := stop
    sweep := some (s.cycle + sweepTime p.j, (innermost s n p).filter fun a =>
      !((p.records.map (·.span s)).any fun x => x.1 ≤ a.start && a.start ≤ x.2))
    sweepQueued := false }

/-- Disarming stop slots changes a partition's tables alone. -/
theorem foldl_disarmSlot_inSweep (p : Part) (s : State) (n : Nat) (stop : Bool) (hits : List Nat) : ∀ tab com,
    ∃ tab' com', hits.foldl disarmSlot (p.inSweep s n tab com stop) = p.inSweep s n tab' com' stop := by
  induction hits with
  | nil => exact fun tab com => ⟨tab, com, rfl⟩
  | cons k hits ih => exact fun _ _ => ih _ _

/-- What the start of a sweep leaves: the partition in it, every block as it was, and the sweep's end on the agenda. -/
structure SweepBegun (s : State) (n : Nat) (p : Part) (t : State) : Prop where
  part : ∃ tab com stop, t.part n = some (p.inSweep s n tab com stop)
  pcb : ∀ m, t.pcb m = s.pcb m
  pending : pendingEvent t (.sweepComplete n) = true

/-- A further event beside the sweep's end takes nothing of it back. -/
theorem SweepBegun.schedOnce {s t : State} {n : Nat} {p : Part} (h : SweepBegun s n p t) (k : Nat) (i : Instr) :
    SweepBegun s n p (schedOnce t k i) where
  part := by simpa using h.part
  pcb := by simpa using h.pcb
  pending := pendingEvent_schedOnce_of k i h.pending

theorem sweepBegun_sched {s u : State} (n : Nat) (p : Part) (tab : Option NodeTable) (com : Option (Nat × NodeTable)) (stop : Bool)
    (hits : List Nat) (k : Nat) (hu : ∀ m, u.pcb m = s.pcb m) :
    SweepBegun s n p (sched (u.setPart n (hits.foldl disarmSlot (p.inSweep s n tab com stop))) k (.sweepComplete n)) where
  part := by
    obtain ⟨tab', com', h⟩ := foldl_disarmSlot_inSweep p s n stop hits tab com
    exact ⟨tab', com', stop, by simp [h]⟩
  pcb := by simpa using hu
  pending := (pendingEvent_sched ..).2 (.inl rfl)

/-- A live partition whose root sweeps nothing begins its next peal: the records written before it change memory alone, the events
put beside its end only add to the agenda. -/
theorem startSweep_begins {s : State} {n : Nat} {p : Part} (hp : s.part n = some p) (hpre : p.pre = .none)
    (hsweep : p.sweep = none) : SweepBegun s n p (startSweep s n) := by
  simp only [startSweep, hp]
  rw [if_neg (by simp [hpre]), if_neg (by simp [hsweep])]
  have more : ∀ {t : State} (c : Prop) [Decidable c] (i : Instr), SweepBegun s n p t →
      SweepBegun s n p (if c then schedOnce t 0 i else t) := by
    intro t c _ i h
    split
    · exact h.schedOnce 0 i
    · exact h
  have summarised : ∀ m, (if p.peal = 0 then s else profilePeal s n p).pcb m = s.pcb m := by
    intro m
    split
    · rfl
    · exact profilePeal_home_pcb ..
  refine more _ _ (more _ _ (sweepBegun_sched n p _ _ _ _ _ fun m => ?_))
  split
  · rw [appendRecord_home_pcb, summarised]
  · exact summarised m

/-! ## The partition of an accepted launch (R33, R44) -/

@[simp] theorem State.modPcb_home_part (s : State) (n : Nat) (f : Pcb → Pcb) (j : Nat) : (s.modPcb n f).part j = s.part j := rfl
@[simp] theorem State.pcb_modPcb (s : State) (n : Nat) (f : Pcb → Pcb) : (s.modPcb n f).pcb n = f (s.pcb n) := State.pcb_setPcb ..

/-- The partition of a packet before its first sweep, with the table and the resume word that are read for it. -/
def ExprPkt.part (e : ExprPkt) (ops : List Oper) (handler : Option Nat) (tab : Option NodeTable) (go : Word)
    (queue : Word × Nat) : Part :=
  { freshPart e.j e.asid e.flags with
    lib := BitVec.ofNat 64 e.lib, desc := BitVec.ofNat 64 e.desc, prom := BitVec.ofNat 64 e.prom
    nodes := BitVec.ofNat 64 e.nodes, tl := BitVec.ofNat 64 e.tl, value := BitVec.ofNat 64 e.value
    ndesc := e.ndesc, nprom := e.nprom, opers := ops, handler := handler, table := tab, goSeen := go, queue := some queue }

/-- The launch places the image without the clock moving, makes its block live, and begins the first sweep of its partition. -/
theorem startExpression_begins (s : State) (e : ExprPkt) (m : ImageRead) (ops : List Oper) (h : Option Nat) (cells : List Nat)
    (k : Word × Nat) : ∃ u tab go, SweepBegun u e.first (e.part ops h tab go k) (startExpression s e m ops h cells k)
      ∧ u.cycle = s.cycle ∧ (u.pcb e.first).state = 1 := by
  refine ⟨_, _, _, startSweep_begins (p := e.part ops h _ _ k) (State.part_setPart ..) rfl rfl, ?_, by simp⟩
  rw [State.modPcb_cycle, State.setPart_cycle]
  refine foldl_inv (fun t : State => t.cycle = s.cycle) _ (fun t x ht => by simpa using ht) _ _ ?_
  rw [forN_cycle _ _ _ fun _ _ => State.modCore_cycle ..]
  simp

/-- An accepted launch consumes its packet and starts its expression. -/
theorem exec_expressionLaunch_accepted {s : State} {hdr : Word} {k : Packet} {m : ImageRead} {ops : List Oper} {h : Option Nat}
    {cells : List Nat} (hk : queueHead s hdr.toNat 1 = some k)
    (ha : exprStatus s (exprPkt k.bytes) k.target = (0, some (m, ops, h, cells))) :
    exec (.expressionLaunch hdr) s =
      .next (startExpression (consume (knowQueue s 1 hdr) k) (exprPkt k.bytes) m ops h cells (hdr, k.idx)) := by
  simp [exec, execExpressionLaunch, hk, ha]

/-! ## The placer (R33) -/

/-- The placer takes the first cell of the list that it has, or of what is left of that list behind a skip, and goes on from there. -/
theorem placeCells_cons {s : State} {hi : Nat} {w : Word} {ws : List Word} {free cs : List Nat}
    (h : placeCells s hi (w :: ws) free = some cs) :
    ∃ c rest cs', (c :: rest).Sublist free ∧ placeCells s hi ws rest = some cs' ∧ cs = c :: cs' := by
  simp only [placeCells] at h
  split at h
  next => cases h
  next c rest hhere =>
    obtain ⟨cs', hcs, rfl⟩ := Option.map_eq_some_iff.1 h
    refine ⟨c, rest, cs', ?_, hcs, rfl⟩
    rw [← hhere]
    split
    · split
      · split
        · exact List.dropWhile_sublist _
        · exact .refl _
      · exact .refl _
    · exact .refl _

/-- Each word takes one cell, and the cells stand in the order in which they were free. -/
theorem placeCells_sublist (s : State) (hi : Nat) (ws : List Word) : ∀ free cs, placeCells s hi ws free = some cs →
    cs.length = ws.length ∧ cs.Sublist free := by
  induction ws with
  | nil =>
    rintro free cs h
    cases h
    simp
  | cons w ws ih =>
    intro free cs h
    obtain ⟨c, rest, cs', hsub, hcs, rfl⟩ := placeCells_cons h
    obtain ⟨hlen, hrest⟩ := ih rest cs' hcs
    exact ⟨by simp [hlen], (hrest.cons_cons c).trans hsub⟩

/-- Without an aligned APP no cell is skipped. -/
theorem placeCells_take (s : State) (hi : Nat) (ws : List Word) (hw : ∀ w ∈ ws, isApp w = true → symAlign w = false) : ∀ free,
    placeCells s hi ws free = if ws.length ≤ free.length then some (free.take ws.length) else none := by
  induction ws with
  | nil => simp [placeCells]
  | cons w ws ih =>
    intro free
    have stay : (isApp w && symAlign w) = false := by
      cases ha : isApp w
      · rfl
      · simp [hw w (by simp) ha]
    cases free with
    | nil => simp [placeCells, stay]
    | cons c rest =>
      simp only [placeCells, stay, Bool.false_and, Bool.false_eq_true, if_false, ih (fun v hv => hw v (by simp [hv]))]
      by_cases hlen : ws.length ≤ rest.length <;> simp [hlen]

end Sys2Proof.Machine

section

open Sys2Proof Sys2Proof.Machine

/-- Settles O38: the launch is the start of a sweep over a fresh partition, and the placer's order is an induction over the words. -/
theorem placement : Obligations.Placement := by
  unfold Obligations.Placement
  refine ⟨fun s hdr k m ops h cells hk ha => ?_,
    fun s hi ws free => ⟨placeCells_sublist s hi ws free, fun hw => placeCells_take s hi ws hw free⟩⟩
  obtain ⟨u, tab, go, ⟨⟨tab', com, stop, hpart⟩, hpcb, hpend⟩, hcycle, hlive⟩ :=
    startExpression_begins (consume (knowQueue s 1 hdr) k) (exprPkt k.bytes) m ops h cells (hdr, k.idx)
  rw [consume_cycle, knowQueue_cycle] at hcycle
  have hsweep : some (u.cycle + sweepTime (exprPkt k.bytes).j) = some (s.cycle + sweepTime (exprPkt k.bytes).j) := by rw [hcycle]
  exact ⟨_, _, exec_expressionLaunch_accepted hk ha, hpart, by rw [hpcb, hlive], rfl, rfl, rfl, rfl, rfl, rfl, rfl, rfl, rfl, rfl,
    hsweep, hpend⟩

end

/-! PROOF. What the bookkeeping of the root and of the units leaves as it was, and what becomes of a partition and its records in it. -/

namespace Sys2Proof.Machine

open Sys2Proof

/-! ## States that differ beside the partitions, the agents, the row and the clock -/

/-- The agents, the row and the clock stand as they did, and the agenda has lost nothing. -/
structure State.Beside (s t : State) : Prop where
  agents : t.agents = s.agents
  cells : t.cells = s.cells
  cycle : t.cycle = s.cycle
  pending : ∀ i, pendingEvent s i = true → pendingEvent t i = true

/-- And so do the partitions. -/
structure State.Kept (s t : State) : Prop extends State.Beside s t where
  parts : t.parts = s.parts

/-- And partition `n` stands so. -/
structure State.Leaves (s : State) (n : Nat) (q : Part) (t : State) : Prop extends State.Beside s t where
  part : t.part n = some q

theorem State.Beside.refl (s : State) : s.Beside s := ⟨rfl, rfl, rfl, fun _ h => h⟩

theorem State.Beside.trans {s t u : State} (h : s.Beside t) (k : t.Beside u) : s.Beside u :=
  ⟨k.agents.trans h.agents, k.cells.trans h.cells, k.cycle.trans h.cycle, fun i hi => k.pending i (h.pending i hi)⟩

theorem State.Kept.refl (s : State) : s.Kept s := ⟨.refl s, rfl⟩

theorem State.Kept.trans {s t u : State} (h : s.Kept t) (k : t.Kept u) : s.Kept u :=
  ⟨h.toBeside.trans k.toBeside, k.parts.trans h.parts⟩

theorem State.Kept.foldl {β : Type} {f : State → β → State} (hf : ∀ t x, State.Kept t (f t x)) (l : List β) (s : State) :
    s.Kept (l.foldl f s) :=
  foldl_inv s.Kept f (fun t x ht => ht.trans (hf t x)) l s (.refl s)

theorem State.Leaves.of_part {s : State} {n : Nat} {q : Part} (h : s.part n = some q) : s.Leaves n q s := ⟨.refl s, h⟩

theorem State.Leaves.kept {s t u : State} {n : Nat} {q : Part} (h : s.Leaves n q t) (k : t.Kept u) : s.Leaves n q u :=
  ⟨h.toBeside.trans k.toBeside, by rw [← h.part, State.part, State.part, k.parts]⟩

theorem State.Beside.home_agent {s t : State} (h : s.Beside t) (k : Nat) : t.agent k = s.agent k := by
  rw [State.agent, State.agent, h.agents]

theorem State.Beside.home_cell {s t : State} (h : s.Beside t) (c : Nat) : t.cell c = s.cell c := by
  rw [State.cell, State.cell, h.cells]

theorem State.Beside.agentsOf {s t : State} (h : s.Beside t) (n id : Nat) : t.agentsOf n id = s.agentsOf n id := by
  rw [State.agentsOf, State.agentsOf, h.agents]

/-! ## Operations that keep all of these -/

theorem kept_sched (s : State) (n : Nat) (i : Instr) : s.Kept (sched s n i) :=
  ⟨⟨rfl, rfl, rfl, fun _ h => (pendingEvent_sched ..).2 (.inr h)⟩, rfl⟩

theorem kept_schedOnce (s : State) (n : Nat) (i : Instr) : s.Kept (schedOnce s n i) := by
  unfold schedOnce
  split
  · exact .refl s
  · exact kept_sched s n i

/-- A free value is drawn. -/
theorem kept_free (s : State) (k : Nat) : s.Kept { s with free := k } := ⟨⟨rfl, rfl, rfl, fun _ h => h⟩, rfl⟩

theorem kept_schedFree (s : State) (i : Instr) : s.Kept (schedFree s i) := (kept_free s _).trans (kept_sched ..)

theorem kept_setCore (s : State) (c : Nat) (x : Core) : s.Kept (s.setCore c x) := ⟨⟨rfl, rfl, rfl, fun _ h => h⟩, rfl⟩

theorem kept_modDev (s : State) (f : Device → Device) : s.Kept (s.modDev f) := ⟨⟨rfl, rfl, rfl, fun _ h => h⟩, rfl⟩

theorem kept_wr (s : State) (k : Nat) (l : List Byte) : s.Kept (wr s k l) := ⟨⟨rfl, rfl, rfl, fun _ h => h⟩, rfl⟩

theorem kept_wrQuiet (s : State) (k : Nat) (l : List Byte) : s.Kept (wrQuiet s k l) := ⟨⟨rfl, rfl, rfl, fun _ h => h⟩, rfl⟩

theorem kept_appendRecord (s : State) (b : Word) (r : List Byte) : s.Kept (appendRecord s b r) := by
  simp only [appendRecord]
  split
  · exact .refl s
  · exact (kept_wrQuiet ..).trans (kept_wrQuiet ..)

theorem kept_traceState (s : State) (n : Nat) (r : Record) (x : RecState) (c : Nat) : s.Kept (traceState s n r x c) := by
  unfold traceState
  split
  · exact .refl s
  · split
    · exact kept_appendRecord ..
    · exact .refl s

theorem kept_startTest (s : State) (u : W32) (n : Nat) (f : Option Bool) : s.Kept (startTest s u n f) := by
  simp only [startTest]
  split
  · exact kept_modDev ..
  · exact ((kept_free s _).trans (kept_modDev ..)).trans (kept_sched ..)

theorem kept_blame (s : State) (u : W32) (e : Event) : s.Kept (blame s u e).1 :=
  ((kept_wr ..).trans (kept_modDev ..)).trans (kept_startTest ..)

theorem kept_transit (s : State) (us : List W32) (e : Event) : s.Kept (transit s us e).1 := by
  simp only [transit]
  split
  · exact (kept_modDev ..).trans (kept_blame ..)
  · split
    · exact .refl s
    · split
      · exact .refl s
      · exact kept_blame ..

theorem kept_pumpRels (s : State) (core : Nat) : s.Kept (pumpRels s core) := by
  refine State.Kept.foldl (fun t r => ?_) _ s
  split
  · exact .refl t
  · exact kept_schedOnce ..

theorem kept_releaseOwned (s : State) (core slot : Nat) : s.Kept (releaseOwned s core slot) := by
  refine State.Kept.foldl (fun t c => ?_) _ s
  dsimp only
  split
  · exact .refl t
  · split
    · split
      · exact .refl t
      · exact (kept_setCore ..).trans (kept_pumpRels ..)
    · exact kept_setCore ..

theorem kept_loadMicro (s : State) (n : Nat) (p : Part) (core o at_ : Nat) : s.Kept (loadMicro s n p core o at_) := by
  unfold loadMicro
  split
  · exact .refl s
  · exact (kept_transit ..).trans (kept_setCore ..)

theorem kept_beginLoad (s : State) (n : Nat) (p : Part) (cores : List Nat) (o : Nat) : s.Kept (beginLoad s n p cores o).1 := by
  simp only [beginLoad]
  split
  · exact .refl s
  · split
    · exact .refl s
    · exact State.Kept.foldl (fun t c => kept_loadMicro ..) _ s

theorem kept_issuePresenceReads (s : State) (n rid : Nat) : s.Kept (issuePresenceReads s n rid) := by
  unfold issuePresenceReads
  split
  · refine State.Kept.foldl (fun t i => ?_) _ s
    dsimp only
    split
    · exact kept_sched ..
    · exact kept_schedFree ..
  · exact .refl s

theorem kept_wakeRoot (s : State) (n : Nat) : s.Kept (wakeRoot s n) := by
  unfold wakeRoot
  split
  · exact .refl s
  · exact kept_schedOnce ..

theorem kept_tryJoins (s : State) (n rid : Nat) : s.Kept (tryJoins s n rid) := by
  refine State.Kept.foldl (fun t g => ?_) _ s
  split
  · exact .refl t
  · split
    · exact kept_schedOnce ..
    · exact .refl t

/-! ## The event just put on the agenda -/

theorem pendingEvent_sched_self (s : State) (n : Nat) (i : Instr) : pendingEvent (sched s n i) i = true :=
  (pendingEvent_sched ..).2 (.inl rfl)

theorem pendingEvent_schedOnce_self (s : State) (n : Nat) (i : Instr) : pendingEvent (schedOnce s n i) i = true := by
  unfold schedOnce
  split
  · assumption
  · exact pendingEvent_sched_self s n i

/-- The root of a live partition selects again. -/
theorem pendingEvent_wakeRoot {s : State} {n : Nat} {p : Part} (h : s.part n = some p) :
    pendingEvent (wakeRoot s n) (.admission n) = true := by
  simp only [wakeRoot, h]
  exact pendingEvent_schedOnce_self ..

/-! ## Changes of a partition and of its records -/

theorem State.modPart_eq {s : State} {n : Nat} {p : Part} (h : s.part n = some p) (f : Part → Part) :
    s.modPart n f = s.setPart n (f p) := by
  simp only [State.modPart, h]

theorem State.Leaves.setPart {s t : State} {n : Nat} {q : Part} (h : s.Leaves n q t) (q' : Part) : s.Leaves n q' (t.setPart n q') :=
  ⟨h.toBeside.trans ⟨rfl, rfl, rfl, fun _ k => k⟩, State.part_setPart ..⟩

theorem State.Leaves.modPart {s t : State} {n : Nat} {q : Part} (h : s.Leaves n q t) (f : Part → Part) :
    s.Leaves n (f q) (t.modPart n f) := by
  rw [State.modPart_eq h.part]
  exact h.setPart (f q)

/-- The records of an identifier changed. -/
def Part.mapRec (p : Part) (id : Nat) (f : Record → Record) : Part :=
  { p with records := mapIf (fun q => q.id = id) f p.records }

theorem State.Leaves.modRec {s t : State} {n : Nat} {q : Part} (h : s.Leaves n q t) (id : Nat) (f : Record → Record) :
    s.Leaves n (q.mapRec id f) (t.modRec n id f) :=
  h.modPart fun p => p.mapRec id f

/-- The partition with one record alone. -/
def Part.only (p : Part) (r : Record) : Part := { p with records := [r] }

theorem Part.mapRec_of_single {p : Part} {r : Record} {id : Nat} (h : p.records = [r]) (hid : r.id = id) (f : Record → Record) :
    p.mapRec id f = p.only (f r) := by
  simp [Part.mapRec, Part.only, h, hid, mapIf]

theorem State.Leaves.modSingle {s t : State} {n id : Nat} {q : Part} {r : Record} (h : s.Leaves n q t) (hr : q.records = [r])
    (hid : r.id = id) (f : Record → Record) : s.Leaves n (q.only (f r)) (t.modRec n id f) := by
  rw [← Part.mapRec_of_single hr hid]
  exact h.modRec id f

theorem Part.rec?_of_single {p : Part} {r : Record} {id : Nat} (h : p.records = [r]) (hid : r.id = id) : p.rec? id = some r := by
  simp [Part.rec?, h, hid]

/-- A change that leaves identifiers is found by them. -/
theorem Part.rec?_mapRec (p : Part) (id : Nat) (f : Record → Record) (hf : ∀ r, (f r).id = r.id) :
    (p.mapRec id f).rec? id = (p.rec? id).map f := by
  simp only [Part.rec?, Part.mapRec, mapIf]
  induction p.records with
  | nil => rfl
  | cons r rs ih =>
    by_cases hr : r.id = id
    · simp [hr, hf]
    · simpa [hr] using ih

theorem State.Leaves.rec?_of_single {s t : State} {n id : Nat} {q : Part} {r : Record} (h : s.Leaves n q t) (hr : q.records = [r])
    (hid : r.id = id) : t.rec? n id = some r := by
  rw [State.rec?, h.part]
  exact Part.rec?_of_single hr hid

theorem State.rec?_eq {s : State} {n : Nat} {p : Part} (h : s.part n = some p) (id : Nat) : s.rec? n id = p.rec? id := by
  simp [State.rec?, h]

/-! Counting its cycles (R311) changes neither identifier nor state of a record. -/

theorem Record.countTo_id (r : Record) (now : Nat) : (r.countTo now).id = r.id := by
  simp only [Record.countTo]; split <;> rfl

theorem Record.countTo_state (r : Record) (now : Nat) : (r.countTo now).state = r.state := by
  simp only [Record.countTo]; split <;> rfl

/-- The record in another state from a cycle on (R47). -/
def Record.movedTo (r : Record) (now : Nat) (new : RecState) : Record :=
  { r with state := new, since := now, was := if r.since = now then r.was else r.state }

theorem State.Leaves.setRecState {s t : State} {n id : Nat} {q : Part} {r : Record} (h : s.Leaves n q t) (hr : q.rec? id = some r)
    (new : RecState) (cause : Nat) :
    s.Leaves n (q.mapRec id fun x => x.movedTo s.cycle new) (Machine.setRecState t n id new cause) := by
  rw [← h.cycle]
  simp only [Machine.setRecState, State.rec?_eq h.part, hr]
  refine State.Leaves.modRec ?_ id _
  split
  · exact h
  · exact h.kept (kept_traceState ..)

theorem State.Leaves.moveRec {s t : State} {n id : Nat} {q : Part} {r : Record} (h : s.Leaves n q t) (hr : q.rec? id = some r)
    (new : RecState) (cause : Nat) :
    s.Leaves n (q.mapRec id fun x => x.movedTo s.cycle new) (Machine.moveRec t n id new cause) := by
  simp only [Machine.moveRec, State.rec?_eq h.part, hr]
  split
  · exact (h.setRecState hr new cause).kept (kept_schedOnce ..)
  · exact h.setRecState hr new cause

theorem State.Leaves.setSingle {s t : State} {n id : Nat} {q : Part} {r : Record} (h : s.Leaves n q t) (hr : q.records = [r])
    (hid : r.id = id) (new : RecState) (cause : Nat) :
    s.Leaves n (q.only (r.movedTo s.cycle new)) (Machine.setRecState t n id new cause) := by
  rw [← Part.mapRec_of_single hr hid fun x => x.movedTo s.cycle new]
  exact h.setRecState (Part.rec?_of_single hr hid) new cause

/-- The record READY in a cycle (R49). -/
def Record.readied (r : Record) (now : Nat) : Record := { r.movedTo now .ready with ready := now, startAt := 0, unheld := [] }

theorem State.Leaves.makeReady {s t : State} {n id : Nat} {q : Part} {r : Record} (h : s.Leaves n q t) (hr : q.records = [r])
    (hid : r.id = id) : s.Leaves n (q.only (r.readied s.cycle)) (Machine.makeReady t n id)
      ∧ pendingEvent (Machine.makeReady t n id) (.admission n) = true := by
  have moved := h.moveRec (Part.rec?_of_single hr hid) .ready 0
  rw [Part.mapRec_of_single hr hid, ← h.cycle] at moved
  have ready := moved.modSingle (id := id) rfl hid fun x => { x with ready := t.cycle, startAt := 0, unheld := [] }
  rw [← h.cycle]
  exact ⟨ready.kept (kept_wakeRoot ..), pendingEvent_wakeRoot ready.part⟩

/-- Raising a trap of the row appends it to the partition's, and the trap queue is to take it up (R223). -/
theorem State.Leaves.raiseTrap {s t : State} {n : Nat} {q : Part} (h : s.Leaves n q t) (rid source cause : Nat) (unresolved : Bool) :
    ∃ x : RaisedTrap, x.trap.cause = cause ∧ s.Leaves n { q with raised := q.raised ++ [x] } (Machine.raiseTrap t n rid source cause unresolved)
      ∧ pendingEvent (Machine.raiseTrap t n rid source cause unresolved) (.trapEnqueue n) = true := by
  let x : RaisedTrap := ⟨t.cycle, source, rid, none, bareTrap cause, [], unresolved, false, t.time⟩
  exact ⟨x, rfl, (h.modPart fun p => { p with raised := p.raised ++ [x] }).kept (kept_sched ..), pendingEvent_sched_self ..⟩

end Sys2Proof.Machine

/-! PROOF. O37: a packet whose valid byte the trace unit wrote last is at the head of its queue, and no monitor sees it. -/

namespace Sys2Proof.Machine

open Sys2Proof

/-- A known expression queue with one packet at its head, whose valid byte the trace unit has written last: a translation of identifier 0
that maps addresses to HBM, the queue header at 0x2000, its one slot behind it. -/
def hushedQueue : State :=
  { State.reset with
    agenda := []
    queues := [(1, 0x2000#64)]
    hushed := [0x2040 / 8]
    mem := [(0, 1), (2, 1), (0x2000, 0x40), (0x2001, 0x20), (0x2008, 1), (0x200C, 1), (0x2040, 1), (0x10000, 3), (0x10001, 0x18)] }

/-- The packet that stands there. -/
def hushedPacket : Packet := ⟨0, 0, 1#8 :: zerosB 63, .here 0x2040, .here 0x2000⟩

theorem queueHead_hushedQueue : queueHead hushedQueue (0x2000#64).toNat 1 = some hushedPacket := by decide +kernel

theorem hushedPacket_quiet : hushedPacket.quiet hushedQueue = true := by decide

/-- The address monitors pass the packet over (17 R284), so that its launch stays off the agenda. -/
theorem watchQueues_hushedQueue : watchQueues hushedQueue = hushedQueue := by
  have one : hushedQueue.queues = [(1, 0x2000#64)] := rfl
  simp only [watchQueues, one, List.foldl_cons, List.foldl_nil, queueHead_hushedQueue, hushedPacket_quiet, if_true]

end Sys2Proof.Machine

section

open Sys2Proof Sys2Proof.Machine

/-- Refutes O37: a packet at the head of a known queue whose valid byte the trace unit wrote last is not seen in the next cycle (R284). -/
theorem not_launches : ¬ Obligations.Launches := by
  unfold Obligations.Launches
  intro h
  obtain ⟨-, -, -, -, seen, -⟩ := h hushedQueue 0 hushedPacket
  have pending := seen (1, 0x2000#64) (.head _) (by rw [queueHead_hushedQueue]; rfl)
  rw [watchQueues_hushedQueue] at pending
  cases pending

end

/-! PROOF. O39: the start and the end of a detection sweep. -/

namespace Sys2Proof.Machine

open Sys2Proof

/-! ## The start (R37, R39) -/

/-- A sweep asked for while one runs is queued. -/
theorem startSweep_queued {s : State} {n : Nat} {p : Part} {w : Nat × List Area} (hp : s.part n = some p) (hpre : p.pre = .none)
    (hw : p.sweep = some w) : startSweep s n = s.setPart n { p with sweepQueued := true } := by
  simp [startSweep, hp, hpre, hw]

@[simp] theorem schedOnce_cells (s : State) (n : Nat) (i : Instr) : (schedOnce s n i).cells = s.cells := (kept_schedOnce ..).cells
@[simp] theorem appendRecord_cells (s : State) (b : Word) (r : List Byte) : (appendRecord s b r).cells = s.cells :=
  (kept_appendRecord ..).cells

/-- The start of a sweep only reads the row. -/
theorem startSweep_cells (s : State) (n : Nat) : (startSweep s n).cells = s.cells := by
  unfold startSweep
  split
  · rfl
  · dsimp only [profilePeal]
    repeat' split
    all_goals simp

theorem exec_detectionSweep_starts {s : State} {n : Nat} {p : Part} (hp : s.part n = some p) (hpre : p.pre = .none)
    (hsweep : p.sweep = none) : ∃ t q, exec (.detectionSweep n) s = .next t ∧ t.part n = some q ∧ q.peal = p.peal + 1
      ∧ q.sweep = some (s.cycle + sweepTime p.j, (innermost s n p).filter fun a =>
          !(p.records.any fun r => (r.span s).1 ≤ a.start && a.start ≤ (r.span s).2))
      ∧ q.sweepQueued = false ∧ q.records = p.records ∧ pendingEvent t (.sweepComplete n) = true ∧ t.cells = s.cells := by
  obtain ⟨⟨tab, com, stop, hpart⟩, -, pending⟩ := startSweep_begins hp hpre hsweep
  refine ⟨_, _, rfl, hpart, rfl, ?_, rfl, rfl, pending, startSweep_cells s n⟩
  simp only [Part.inSweep, List.any_map, Function.comp_def]

/-! ## The record of an area (R38, R47, R48) -/

/-- The record of a new area, in the state that it takes in the cycle of its creation. -/
theorem newRecord_movedTo (s : State) (p : Part) (a : Area) (new : RecState) :
    (newRecord s p a).movedTo s.cycle new = { newRecord s p a with state := new } := by
  simp [Record.movedTo, newRecord]

theorem newRecord_readied (s : State) (p : Part) (a : Area) :
    (newRecord s p a).readied s.cycle = { newRecord s p a with state := .ready, ready := s.cycle } := by
  rw [Record.readied, newRecord_movedTo]
  rfl

/-- Without a step in progress no symbol arrives. -/
theorem arriveApps_still {s : State} {n : Nat} {p : Part} (hp : s.part n = some p) (hstep : p.stepNow = none) :
    arriveApps s n = s.setPart n p := by
  simp only [arriveApps, State.modPart_eq hp, hstep]

/-- The partition with one record more. -/
def Part.withRecord (p : Part) (r : Record) : Part :=
  { p with
    records := p.records ++ [r]
    nextRec := p.nextRec + 1
    pealCreated := p.pealCreated + 1
    lastCreated := p.lastCreated + 1 }

/-- The record of an area put into its partition, what has arrived of a step in progress following. -/
def recorded (s : State) (n : Nat) (p : Part) (a : Area) : State := arriveApps (s.setPart n (p.withRecord (newRecord s p a))) n

section

variable {s : State} {n : Nat} {p : Part} (a : Area) (hp : s.part n = some p)

include hp

/-- What a record is created as: FAULTED, READY, or WAITING for its presence reads. -/
theorem createRecord_eq : createRecord s n a =
    let r := newRecord s p a
    let s1 := recorded s n p a
    let c := defect a.words
    if c ≠ 0 then
      raiseTrap ((setRecState s1 n r.id .faulted c).modRec n r.id fun q => { q with cause := c, pend := 0 }) n r.id 1 c
        (resolvedOper p a.words).isNone
    else if r.pend = 0 then makeReady s1 n r.id
    else issuePresenceReads s1 n r.id := by
  simp only [createRecord, hp]
  rfl

theorem leaves_recorded (hstep : p.stepNow = none) : s.Leaves n (p.withRecord (newRecord s p a)) (recorded s n p a) := by
  have put := (State.Leaves.of_part hp).setPart (p.withRecord (newRecord s p a))
  rw [recorded, arriveApps_still put.part hstep]
  exact put.setPart _

variable (hstep : p.stepNow = none) (hrec : p.records = [])

include hstep hrec

theorem createRecord_faulted (hc : defect a.words ≠ 0) : ∃ x : RaisedTrap, x.trap.cause = defect a.words
    ∧ s.Leaves n { (p.withRecord (newRecord s p a)).only { newRecord s p a with state := .faulted, cause := defect a.words, pend := 0 } with
        raised := p.raised ++ [x] } (createRecord s n a)
    ∧ pendingEvent (createRecord s n a) (.trapEnqueue n) = true := by
  have single : (p.withRecord (newRecord s p a)).records = [newRecord s p a] := by simp [Part.withRecord, hrec]
  have faulted := (leaves_recorded a hp hstep).setSingle single rfl .faulted (defect a.words)
  rw [newRecord_movedTo] at faulted
  have caused := faulted.modSingle (id := (newRecord s p a).id) rfl rfl fun q => { q with cause := defect a.words, pend := 0 }
  rw [createRecord_eq a hp]
  simp only [if_pos hc]
  exact caused.raiseTrap (newRecord s p a).id 1 (defect a.words) (resolvedOper p a.words).isNone

theorem createRecord_ready (hc : defect a.words = 0) (hpend : (newRecord s p a).pend = 0) :
    s.Leaves n ((p.withRecord (newRecord s p a)).only { newRecord s p a with state := .ready, ready := s.cycle })
      (createRecord s n a) ∧ pendingEvent (createRecord s n a) (.admission n) = true := by
  have single : (p.withRecord (newRecord s p a)).records = [newRecord s p a] := by simp [Part.withRecord, hrec]
  rw [createRecord_eq a hp]
  simp only [hc, ne_eq, not_true_eq_false, if_false, if_pos hpend]
  rw [← newRecord_readied]
  exact (leaves_recorded a hp hstep).makeReady single rfl

theorem createRecord_waiting (hc : defect a.words = 0) (hpend : (newRecord s p a).pend ≠ 0) :
    s.Leaves n ((p.withRecord (newRecord s p a)).only (newRecord s p a)) (createRecord s n a) := by
  have single : (p.withRecord (newRecord s p a)).only (newRecord s p a) = p.withRecord (newRecord s p a) := by
    simp [Part.only, Part.withRecord, hrec]
  rw [createRecord_eq a hp, single]
  simp only [hc, ne_eq, not_true_eq_false, if_false, if_neg hpend]
  exact (leaves_recorded a hp hstep).kept (kept_issuePresenceReads ..)

end

/-! ## The end (R38, R40) -/

/-- The partition as its sweep ends. -/
def Part.afterSweep (p : Part) : Part := { p with sweep := none, lastCreated := 0 }

/-- What the areas of a sweep come to, one by one. -/
def createAll (n : Nat) (cache : W32) (areas : List Area) (t : State) : State :=
  areas.foldl (fun t a => match t.part n with
    | none => t
    | some q => if q.records.length < recordLimit t n then
        (transit (createRecord t n a) [cache] (genuine (createRecord t n a) 0 (symNode (a.words.headD 0)) q.nextRec)).1 else t) t

/-- The end of a sweep, unfolded once. -/
theorem exec_sweepComplete {s : State} {n c : Nat} {p : Part} {areas : List Area} (hp : s.part n = some p)
    (hsweep : p.sweep = some (c, areas)) : exec (.sweepComplete n) s = .next (
      if p.pre.stopped then s.setPart n p.afterSweep
      else if areas.isEmpty ∧ p.records.isEmpty ∧ !p.sweepQueued then endPartition (profilePeal (s.setPart n p.afterSweep) n p) n 0 0
      else if fencedOn s [coreHop 15 (s.root n p) 0] then schedOnce s 1 (.sweepComplete n)
      else
        let u := createAll n (coreHop 15 (s.root n p) 0) areas (s.setPart n p.afterSweep)
        if p.sweepQueued then startSweep u n else u) := by
  show execSweepComplete n s = _
  simp only [execSweepComplete, hp, hsweep]
  rfl

theorem recordLimit_pos (s : State) (n : Nat) : 0 < recordLimit s n := by
  simp only [recordLimit]
  split <;> omega

section

variable {s : State} {n c : Nat} {p : Part} (hp : s.part n = some p) (hpre : p.pre = .none) (hrec : p.records = [])
  (hqueued : p.sweepQueued = false)

include hp hpre hrec hqueued

/-- Without an area and without a record the launch ends. -/
theorem exec_sweepComplete_ends (hsweep : p.sweep = some (c, [])) : exec (.sweepComplete n) s =
    .next (endPartition (profilePeal (s.setPart n p.afterSweep) n p) n 0 0) := by
  rw [exec_sweepComplete hp hsweep]
  simp [hpre, hrec, hqueued, PrePhase.stopped]

/-- One area gets its record, which then passes the root's record cache. -/
theorem exec_sweepComplete_creates {a : Area} (hsweep : p.sweep = some (c, [a])) (quiet : s.quietUnits) :
    ∃ t, exec (.sweepComplete n) s = .next t ∧ (createRecord (s.setPart n p.afterSweep) n a).Kept t := by
  have notStopped : p.pre.stopped = false := by rw [hpre]; rfl
  have room : p.afterSweep.records.length < recordLimit (s.setPart n p.afterSweep) n := by
    simpa [Part.afterSweep, hrec] using recordLimit_pos (s.setPart n p.afterSweep) n
  have part : (s.setPart n p.afterSweep).part n = some p.afterSweep := State.part_setPart ..
  refine ⟨_, ?_, kept_transit _ [coreHop 15 (s.root n p) 0]
    (genuine (createRecord (s.setPart n p.afterSweep) n a) 0 (symNode (a.words.headD 0)) p.nextRec)⟩
  rw [exec_sweepComplete hp hsweep]
  simp only [notStopped, hqueued, fencedOn_quiet _ _ quiet, List.isEmpty_cons, Bool.false_eq_true, false_and, if_false, createAll,
    List.foldl_cons, List.foldl_nil, part, if_pos room]
  rfl

end

end Sys2Proof.Machine

section

open Sys2Proof Sys2Proof.Machine

/-- Settles O39: the start is that of the launch's first sweep; the end is the creation of one record, in its three outcomes. -/
theorem sweeps : Obligations.Sweeps := by
  unfold Obligations.Sweeps
  refine ⟨fun s n p hp hpre => ⟨fun w hw => congrArg _ (startSweep_queued hp hpre hw), exec_detectionSweep_starts hp hpre⟩,
    fun s n p c as hp hpre hsweep hrec hqueued hraised hstep quiet => ⟨?_, ?_⟩⟩
  · rintro rfl
    exact exec_sweepComplete_ends hp hpre hrec hqueued hsweep
  · rintro a rfl
    obtain ⟨t, ht, kept⟩ := exec_sweepComplete_creates hp hpre hrec hqueued hsweep quiet
    have part : (s.setPart n p.afterSweep).part n = some p.afterSweep := State.part_setPart ..
    by_cases hc : defect a.words = 0
    · by_cases hpend : (newRecord s p a).pend = 0
      · obtain ⟨left, pending⟩ := createRecord_ready a part hstep hrec hc hpend
        exact ⟨t, _, ht, (left.kept kept).part, rfl, rfl, fun h => absurd hc h, fun _ h => absurd hpend h,
          fun _ _ => ⟨rfl, kept.pending _ pending⟩⟩
      · have left := createRecord_waiting a part hstep hrec hc hpend
        exact ⟨t, _, ht, (left.kept kept).part, rfl, rfl, fun h => absurd hc h, fun _ _ => rfl, fun _ h => absurd h hpend⟩
    · obtain ⟨x, cause, left, pending⟩ := createRecord_faulted a part hstep hrec hc
      refine ⟨t, _, ht, (left.kept kept).part, rfl, rfl, fun _ => ⟨rfl, ?_, kept.pending _ pending⟩, fun h => absurd h hc,
        fun h => absurd h hc⟩
      simp [Part.afterSweep, hraised, cause]

end

/-! PROOF. O40: presence answers, admission and the start of agents. -/

namespace Sys2Proof.Machine

open Sys2Proof

/-! ## Presence answers (R48, R49) -/

/-- The record once an answer has come: its place filled, one fewer pending. -/
def Record.answered (r : Record) (i : Nat) (v : Word) : Record := { r with pend := r.pend - 1, answers := r.answers.set i (some v) }

theorem Part.doomed_of_idle {p : Part} (urgent : p.urgent = []) (step : p.stepNow = none) (id : Nat) : p.doomed id = false := by
  simp [Part.doomed, urgent, step]

section

variable {s : State} {n i : Nat} {p : Part} {r : Record} (v : Word) (hp : s.part n = some p) (hrec : p.records = [r])

include hp hrec

/-- A waiting record takes the answer; the last one makes it READY. -/
theorem exec_presenceAnswer (waiting : r.state = .waiting) (hpre : p.pre = .none) (urgent : p.urgent = []) (step : p.stepNow = none)
    (free : r.answers.getD i none = none) : exec (.presenceAnswer n r.id i v) s =
      .next (if r.pend = 1 then makeReady (s.modRec n r.id fun q => q.answered i v) n r.id
        else s.modRec n r.id fun q => q.answered i v) := by
  have hr : s.rec? n r.id = some r := by rw [State.rec?_eq hp, Part.rec?_of_single hrec rfl]
  show execPresenceAnswer n r.id i v s = _
  simp only [execPresenceAnswer, hp, hr]
  rw [if_neg (by rw [free]; simp [waiting, Part.doomed_of_idle urgent step, hpre, PrePhase.stopped])]
  rfl

theorem leaves_answered : s.Leaves n (p.only (r.answered i v)) (s.modRec n r.id fun q => q.answered i v) :=
  (State.Leaves.of_part hp).modSingle hrec rfl fun q => q.answered i v

end

/-! ## The cells of an area -/

/-- The open cells from one on are ascending. -/
theorem openCells_sorted (s : State) (fuel : Nat) : ∀ c n,
    (∀ x ∈ openCells s fuel c n, c ≤ x) ∧ (openCells s fuel c n).Pairwise (· < ·) := by
  induction fuel with
  | zero => intro c n; simp [openCells]
  | succ fuel ih =>
    intro c n
    cases n with
    | zero => simp [openCells]
    | succ n =>
      unfold openCells
      split
      · obtain ⟨above, sorted⟩ := ih (c + 1) (n + 1)
        exact ⟨fun x hx => Nat.le_of_succ_le (above x hx), sorted⟩
      · obtain ⟨above, sorted⟩ := ih (c + 1) n
        refine ⟨fun x hx => ?_, List.pairwise_cons.2 ⟨above, sorted⟩⟩
        rcases List.mem_cons.1 hx with rfl | hx
        · exact Nat.le_refl _
        · exact Nat.le_of_succ_le (above x hx)

theorem Record.cells_nodup (r : Record) (s : State) : (r.cells s).Nodup :=
  (openCells_sorted s _ _ _).2.imp Nat.ne_of_lt

/-! ## The symbols of an area replaced (R30) -/

theorem withAnswers_length (ws : List Word) : ∀ as, (withAnswers ws as).length = ws.length := by
  induction ws with
  | nil => exact fun _ => rfl
  | cons w ws ih =>
    intro as
    simp only [withAnswers]
    split <;> simp [ih]

theorem resolved_length (s : State) (r : Record) : (resolved s r).length = (r.cells s).length := by
  simp [resolved, withAnswers_length, Record.words]

/-- Symbols written over those of a row where they differ. -/
def writeSymbols (s : State) (xs : List (Nat × Word)) (t : State) : State :=
  xs.foldl (fun t x => if s.cell x.1 = x.2 then t else t.setCell x.1 x.2) t

/-- Only the row is written. -/
theorem writeSymbols_cells (s : State) (xs : List (Nat × Word)) (t : State) : ∃ cells, writeSymbols s xs t = { t with cells := cells } := by
  refine foldl_inv (fun u : State => ∃ cells, u = { t with cells := cells }) _ (fun u x hu => ?_) xs t ⟨t.cells, rfl⟩
  obtain ⟨cells, rfl⟩ := hu
  split
  · exact ⟨cells, rfl⟩
  · exact ⟨_, rfl⟩

/-- Over a row that still reads as before in the cells to be written, each comes to hold its word, and the others stay. -/
theorem cell_writeSymbols (s : State) (xs : List (Nat × Word)) (nodup : (xs.map (·.1)).Nodup) : ∀ t : State,
    (∀ x ∈ xs, t.cell x.1 = s.cell x.1) → (∀ x ∈ xs, (writeSymbols s xs t).cell x.1 = x.2)
      ∧ ∀ c, c ∉ xs.map (·.1) → (writeSymbols s xs t).cell c = t.cell c := by
  induction xs with
  | nil => exact fun t _ => ⟨by simp, fun c _ => rfl⟩
  | cons y ys ih =>
    intro t same
    simp only [List.map_cons, List.nodup_cons] at nodup
    let u : State := if s.cell y.1 = y.2 then t else t.setCell y.1 y.2
    have first : u.cell y.1 = y.2 := by
      simp only [u]
      split
      · rw [same y (by simp)]; assumption
      · simp [State.cell_setCell]
    have others : ∀ c, c ≠ y.1 → u.cell c = t.cell c := by
      intro c hc
      simp only [u]
      split
      · rfl
      · simp [State.cell_setCell, hc]
    have distinct : ∀ x ∈ ys, x.1 ≠ y.1 := fun x hx e => nodup.1 (e ▸ List.mem_map_of_mem hx)
    obtain ⟨written, kept⟩ := ih nodup.2 u fun x hx => by rw [others _ (distinct x hx), same x (by simp [hx])]
    refine ⟨fun x hx => ?_, fun c hc => ?_⟩
    · rcases List.mem_cons.1 hx with rfl | hx
      · exact (kept _ nodup.1).trans first
      · exact written x hx
    · simp only [List.map_cons, List.mem_cons, not_or] at hc
      exact (kept c hc.2).trans (others c hc.1)

/-- The row with the area's symbols resolved. -/
def resolvedRow (s : State) (r : Record) : State := writeSymbols s ((r.cells s).zip (resolved s r)) s

theorem cell_resolvedRow (s : State) (r : Record) : ∀ i < (r.cells s).length,
    (resolvedRow s r).cell ((r.cells s).getD i 0) = (resolved s r).getD i 0 := by
  intro i hi
  have hi' : i < (resolved s r).length := by rwa [resolved_length]
  have keys : ((r.cells s).zip (resolved s r)).map (·.1) = r.cells s :=
    List.map_fst_zip (Nat.le_of_eq (resolved_length s r).symm)
  have mem : ((r.cells s)[i], (resolved s r)[i]) ∈ (r.cells s).zip (resolved s r) := by
    rw [← List.getElem_zip (h := by rw [List.length_zip]; exact Nat.lt_min.2 ⟨hi, hi'⟩)]
    exact List.getElem_mem _
  have written := (cell_writeSymbols s _ (by rw [keys]; exact r.cells_nodup s) s fun _ _ => rfl).1 _ mem
  simpa [resolvedRow, hi, hi'] using written

theorem resolvedRow_part (s : State) (r : Record) (n : Nat) : (resolvedRow s r).part n = s.part n := by
  obtain ⟨cells, h⟩ := writeSymbols_cells s ((r.cells s).zip (resolved s r)) s
  rw [resolvedRow, h]
  rfl

@[simp] theorem resolvedRow_cycle (s : State) (r : Record) : (resolvedRow s r).cycle = s.cycle := by
  obtain ⟨cells, h⟩ := writeSymbols_cells s ((r.cells s).zip (resolved s r)) s
  rw [resolvedRow, h]

/-! ## Admission (R50, R51) -/

/-- The one READY record of a partition that may be admitted, or that needs more registers than a core has, is selected. -/
theorem exec_admission {s : State} {n : Nat} {p : Part} {r : Record} (hp : s.part n = some p) (hpre : p.pre = .none)
    (hrec : p.records = [r]) (ready : r.state = .ready) (adm : admissible s n p r = .yes ∨ admissible s n p r = .over) :
    exec (.admission n) s = .next (schedOnce ((admitRecord s n p r []).modPart n fun x => { x with lastSel := some s.cycle }) 4
      (.admission n)) := by
  have queue : readyQueue p = [r] := by simp [readyQueue, hrec, ready, sortBy, insertBy]
  have upTo : upToBlocking [r] = [r] := by simp [upToBlocking]
  have select : selectReady s n p true [] [r] = some (r, []) := by
    rcases adm with h | h <;> simp [selectReady, h]
  show execAdmission n s = _
  simp [execAdmission, hp, hpre, PrePhase.stopped, queue, upTo, select]

/-- The root keeps the cycle of the selection and puts the next one on the agenda. -/
theorem leaves_selected {s : State} {n : Nat} {p : Part} (hp : s.part n = some p) (now : Nat) :
    s.Leaves n { p with lastSel := some now }
      (schedOnce (s.modPart n fun x => { x with lastSel := some now }) 4 (.admission n)) :=
  ((State.Leaves.of_part hp).modPart fun x => { x with lastSel := some now }).kept (kept_schedOnce ..)

/-- A load takes two cycles at least (R53). -/
theorem beginLoad_time (s : State) (n : Nat) (p : Part) (cores : List Nat) (o : Nat) : s.cycle + 2 ≤ (beginLoad s n p cores o).2 := by
  have sweep : 12 ≤ sweepTime p.j := by
    unfold sweepTime
    split
    · omega
    · split
      · omega
      · split <;> omega
  simp only [beginLoad]
  split
  · exact Nat.le_refl _
  · split
    · exact Nat.le_max_left ..
    · omega

/-- A record whose admission has failed: the cause, and its operator where there is one. -/
def Record.failed (cause : Nat) (o : Option Nat) (q : Record) : Record := { q with cause := cause, oper := o.getD q.oper }

/-- A record with the operator that its area resolves to. -/
def Record.assigned (p : Part) (o : Nat) (q : Record) : Record := { q with oper := o, gran := p.operGran o, prio := p.operPrio o }

/-- A record whose operator loads. -/
def Record.loading (now start : Nat) (q : Record) : Record := { q with admittedAt := now, startAt := start, phase := some .load }

/-- An admission counted, and the records that it has passed over. -/
def Part.countAdmission (passed : List Nat) (q : Part) : Part :=
  { q with
    pealAdmitted := q.pealAdmitted + 1
    records := mapIf (fun x => passed.contains x.id) (fun x => { x with passes := min 64 (x.passes + 1), blk := 64 ≤ x.passes + 1 })
      q.records }

theorem Part.countAdmission_nil (q : Part) : q.countAdmission [] = { q with pealAdmitted := q.pealAdmitted + 1 } := by
  simp [Part.countAdmission, mapIf]

/-- Every admission names an operator: where the area resolves to none the fault 0x0DD is raised. -/
theorem resolvedOper_of_admitted {s : State} {p : Part} {r : Record} {ws : List Word} (h : admitFault s p r ws = 0) :
    ∃ o, resolvedOper p ws = some o := by
  unfold admitFault at h
  split at h
  · cases h
  · split at h
    · cases h
    · exact ⟨_, ‹_›⟩

section

variable {s : State} {n : Nat} {p : Part} {r : Record}

theorem admitRecord_eq_faulted (hf : admitFault s p r (resolved s r) ≠ 0) : admitRecord s n p r [] =
    raiseTrap ((setRecState (resolvedRow s r) n r.id .faulted (admitFault s p r (resolved s r))).modRec n r.id
      (Record.failed (admitFault s p r (resolved s r)) (resolvedOper p (resolved s r)))) n r.id 1
      (admitFault s p r (resolved s r)) (resolvedOper p (resolved s r)).isNone := by
  simp only [admitRecord, if_pos hf]
  rfl

/-- The load of an admitted record begins behind the writing of its symbols. -/
def beginAdmitted (s : State) (n : Nat) (p : Part) (r : Record) (o : Nat) : State × Nat :=
  beginLoad (setRecState ((resolvedRow s r).modRec n r.id (Record.assigned p o)) n r.id .admitted) n p (coresOf (r.cells s)) o

theorem admitRecord_eq_admitted {o : Nat} (hf : admitFault s p r (resolved s r) = 0) (ho : resolvedOper p (resolved s r) = some o)
    (hret : r.ret = false) : admitRecord s n p r [] =
    let start := max (beginAdmitted s n p r o).2 s.cycle
    sched ((((beginAdmitted s n p r o).1.modPart n (Part.countAdmission [])).modRec n r.id (Record.loading s.cycle start)))
      (start - s.cycle) (.loadComplete n r.id) := by
  have noCopy : ∀ u : State, retainCopy u n p r = some (u, 0) := fun u => by simp [retainCopy, hret]
  simp only [admitRecord, hf, ho, noCopy, ne_eq, not_true_eq_false, if_false, Option.getD_some]
  rfl

variable (hp : s.part n = some p) (hrec : p.records = [r])

include hp hrec

/-- A record whose admission fails is FAULTED with the cause, which is raised as a trap. -/
theorem admitRecord_faulted (hf : admitFault s p r (resolved s r) ≠ 0) : ∃ x : RaisedTrap,
    (resolvedRow s r).Leaves n
      { p.only ((r.movedTo s.cycle .faulted).failed (admitFault s p r (resolved s r)) (resolvedOper p (resolved s r))) with
        raised := p.raised ++ [x] } (admitRecord s n p r [])
    ∧ pendingEvent (admitRecord s n p r []) (.trapEnqueue n) = true := by
  have faulted := (State.Leaves.of_part ((resolvedRow_part s r n).trans hp)).setSingle hrec rfl .faulted
    (admitFault s p r (resolved s r))
  rw [resolvedRow_cycle] at faulted
  have caused := faulted.modSingle (id := r.id) rfl rfl
    (Record.failed (admitFault s p r (resolved s r)) (resolvedOper p (resolved s r)))
  obtain ⟨x, -, left, pending⟩ := caused.raiseTrap r.id 1 (admitFault s p r (resolved s r)) (resolvedOper p (resolved s r)).isNone
  rw [admitRecord_eq_faulted hf]
  exact ⟨x, left, pending⟩

/-- Else it is ADMITTED with its operator, which loads for two cycles at least. -/
theorem admitRecord_admitted {o : Nat} (hf : admitFault s p r (resolved s r) = 0) (ho : resolvedOper p (resolved s r) = some o)
    (hret : r.ret = false) : ∃ start, s.cycle + 2 ≤ start
      ∧ (resolvedRow s r).Leaves n
        { p.only (((r.assigned p o).movedTo s.cycle .admitted).loading s.cycle start) with pealAdmitted := p.pealAdmitted + 1 }
        (admitRecord s n p r [])
      ∧ pendingEvent (admitRecord s n p r []) (.loadComplete n r.id) = true := by
  have assigned := (State.Leaves.of_part ((resolvedRow_part s r n).trans hp)).modSingle hrec rfl (Record.assigned p o)
  have admitted := assigned.setSingle (id := r.id) rfl rfl .admitted 0
  rw [resolvedRow_cycle] at admitted
  have time := beginLoad_time (setRecState ((resolvedRow s r).modRec n r.id (Record.assigned p o)) n r.id .admitted) n p
    (coresOf (r.cells s)) o
  rw [admitted.cycle, resolvedRow_cycle] at time
  have counted := (admitted.kept (kept_beginLoad _ n p (coresOf (r.cells s)) o)).modPart (Part.countAdmission [])
  rw [Part.countAdmission_nil] at counted
  have loads := counted.modSingle (id := r.id) rfl rfl (Record.loading s.cycle (max (beginAdmitted s n p r o).2 s.cycle))
  rw [admitRecord_eq_admitted hf ho hret]
  exact ⟨_, Nat.le_trans time (Nat.le_max_left ..), loads.kept (kept_sched ..), pendingEvent_sched_self ..⟩

end

/-! ## The start of agents (R53, R54) -/

/-- Cells of different numbers keep their agents under different keys. -/
theorem cellKey_injective {c d : Nat} (h : agentKey (c / 64) (c % 64) = agentKey (d / 64) (d % 64)) : c = d := by
  unfold agentKey at h
  omega

/-- The agents of an area's cells, each put into its cell. -/
def startAll (s : State) (n : Nat) (p : Part) (r : Record) (xs : List (Nat × Nat)) (t : State) : State :=
  xs.foldl (fun t x => t.setAgent (agentKey (x.1 / 64) (x.1 % 64)) (startAgent s n p r x.2 x.1)) t

theorem startAll_agents (s : State) (n : Nat) (p : Part) (r : Record) (xs : List (Nat × Nat)) (t : State) :
    ∃ agents, startAll s n p r xs t = { t with agents := agents } := by
  refine foldl_inv (fun u : State => ∃ agents, u = { t with agents := agents }) _ (fun u x hu => ?_) xs t ⟨t.agents, rfl⟩
  obtain ⟨agents, rfl⟩ := hu
  exact ⟨_, rfl⟩

theorem agent_startAll (s : State) (n : Nat) (p : Part) (r : Record) (xs : List (Nat × Nat)) (nodup : (xs.map (·.1)).Nodup) :
    ∀ t, (∀ x ∈ xs, (startAll s n p r xs t).agent (agentKey (x.1 / 64) (x.1 % 64)) = some (startAgent s n p r x.2 x.1))
      ∧ ∀ c, c ∉ xs.map (·.1) → (startAll s n p r xs t).agent (agentKey (c / 64) (c % 64)) = t.agent (agentKey (c / 64) (c % 64)) := by
  induction xs with
  | nil => exact fun t => ⟨by simp, fun c _ => rfl⟩
  | cons y ys ih =>
    intro t
    simp only [List.map_cons, List.nodup_cons] at nodup
    obtain ⟨started, kept⟩ := ih nodup.2 (t.setAgent (agentKey (y.1 / 64) (y.1 % 64)) (startAgent s n p r y.2 y.1))
    refine ⟨fun x hx => ?_, fun c hc => ?_⟩
    · rcases List.mem_cons.1 hx with rfl | hx
      · exact (kept _ nodup.1).trans (State.agent_setAgent ..)
      · exact started x hx
    · simp only [List.map_cons, List.mem_cons, not_or] at hc
      exact (kept c hc.2).trans (State.agent_setAgent_other _ _ _ _ fun e => hc.1 (cellKey_injective e))

/-- The record begins to fill (R311), its granules all held. -/
def Record.filling (now : Nat) (r : Record) : Record := { r.enter now (some .fill) with unheld := [] }

theorem Record.filling_id (now : Nat) (r : Record) : (r.filling now).id = r.id := r.countTo_id now

section

variable {s : State} {n : Nat} {p : Part} {r : Record} (hp : s.part n = some p) (hr : s.rec? n r.id = some r)

/-- The machine with the agents of a record started. -/
def started (s : State) (n : Nat) (p : Part) (r : Record) : State :=
  { startAll s n p r (r.cells s).zipIdx s with free := (startAll s n p r (r.cells s).zipIdx s).free + (r.cells s).length }

include hp hr

/-- An ADMITTED record whose load is over, and that nothing holds, starts its agents and runs. -/
theorem exec_loadComplete (hpre : p.pre = .none) (admitted : r.state = .admitted) (due : r.startAt ≤ s.cycle)
    (step : p.stepNow = none) (urgent : p.urgent = []) (resident : residentAll s n r = true)
    (room : ∀ c ∈ r.unheld, granuleRoom s p r c = true) : exec (.loadComplete n r.id) s =
      .next (setRecState ((started s n p r).modRec n r.id (Record.filling s.cycle)) n r.id .running) := by
  have allRoom : (r.unheld.all fun c => granuleRoom s p r c) = true := List.all_eq_true.2 room
  have notHeld : heldByStep s p r = false := by simp [heldByStep, step]
  show execLoadComplete n r.id s = _
  simp only [execLoadComplete, hp, hr, admitted, notHeld, Part.doomed_of_idle urgent step, hpre, resident, allRoom, ne_eq,
    not_true_eq_false, Bool.false_eq_true, or_self, if_false, if_neg (Nat.not_lt.2 due), Bool.not_true]
  rfl

/-- Each cell of the area has its agent, the row stands as it did, and the record runs. -/
theorem started_runs : ∃ q, (started s n p r).Leaves n q
      (setRecState ((started s n p r).modRec n r.id (Record.filling s.cycle)) n r.id .running)
    ∧ (q.rec? r.id).map (·.state) = some .running := by
  obtain ⟨agents, h⟩ := startAll_agents s n p r (r.cells s).zipIdx s
  have part : (started s n p r).part n = some p := by rw [started, h]; exact hp
  have hr' : p.rec? r.id = some r := by rw [← State.rec?_eq hp, hr]
  have entered := (State.Leaves.of_part part).modRec r.id (Record.filling s.cycle)
  have found : (p.mapRec r.id (Record.filling s.cycle)).rec? r.id = some (r.filling s.cycle) := by
    rw [Part.rec?_mapRec _ _ _ (Record.filling_id s.cycle), hr']
    rfl
  refine ⟨_, entered.setRecState found .running 0, ?_⟩
  rw [Part.rec?_mapRec, found]
  · rfl
  · exact fun _ => rfl

end

theorem started_cells (s : State) (n : Nat) (p : Part) (r : Record) : (started s n p r).cells = s.cells := by
  obtain ⟨agents, h⟩ := startAll_agents s n p r (r.cells s).zipIdx s
  rw [started, h]

theorem started_agent (s : State) (n : Nat) (p : Part) (r : Record) (i : Nat) (hi : i < (r.cells s).length) :
    (started s n p r).agent (agentKey ((r.cells s)[i] / 64) ((r.cells s)[i] % 64)) = some (startAgent s n p r i (r.cells s)[i]) := by
  have nodup : ((r.cells s).zipIdx.map (·.1)).Nodup := by
    rw [List.zipIdx_map_fst]
    exact r.cells_nodup s
  have mem : ((r.cells s)[i], i) ∈ (r.cells s).zipIdx := by
    rw [List.mem_zipIdx_iff_getElem?]
    simp
  exact (agent_startAll s n p r _ nodup s).1 _ mem

/-- The registers of an agent before its start (R54). -/
theorem Agent.fresh_registers : (∀ q, Agent.fresh.sr q = 0) ∧ (∀ q : PReg, q ≠ 0 → Agent.fresh.pr q = false)
    ∧ (∀ q : KReg, q ≠ 0 → Agent.fresh.kr q = 0) ∧ ∀ q, Agent.fresh.vr q = Vector.replicate 32 0 := by
  refine ⟨fun q => ?_, fun q hq => ?_, fun q hq => ?_, fun q => ?_⟩
  · simp [Agent.sr, Agent.fresh]
  · simp [Agent.pr, Agent.fresh, hq]
  · simp [Agent.kr, Agent.fresh, hq]
  · simp [Agent.vr, Agent.fresh]

end Sys2Proof.Machine

section

open Sys2Proof Sys2Proof.Machine

/-- Settles O40: the answer, the admission in its two outcomes, and the start of an area's agents, each from its own lemma. -/
theorem admissions : Obligations.Admissions := by
  unfold Obligations.Admissions
  refine ⟨?_, ?_, ?_⟩
  · intro s n p r i v hp hrec waiting hpre urgent step free
    have answered := leaves_answered (i := i) v hp hrec
    rw [exec_presenceAnswer v hp hrec waiting hpre urgent step free]
    by_cases last : r.pend = 1
    · obtain ⟨ready, pending⟩ := answered.makeReady (id := r.id) rfl rfl
      rw [if_pos last]
      refine ⟨_, _, rfl, ready.part, fun h => by omega, fun _ => ⟨?_, pending⟩⟩
      simp [Part.only, Record.readied, Record.movedTo, Record.answered, last, waiting]
    · rw [if_neg last]
      exact ⟨_, _, rfl, answered.part, fun _ => rfl, fun h => absurd h last⟩
  · intro s n p r hp hpre hrec ready hret adm
    rw [exec_admission hp hpre hrec ready adm]
    have writes : ∀ {q u}, (resolvedRow s r).Leaves n q u → ∀ i < (r.cells s).length, u.cell ((r.cells s).getD i 0) = (resolved s r).getD i 0 :=
      fun left i hi => (left.home_cell _).trans (cell_resolvedRow s r i hi)
    by_cases hf : admitFault s p r (resolved s r) = 0
    · obtain ⟨o, ho⟩ := resolvedOper_of_admitted hf
      obtain ⟨start, time, left, pending⟩ := admitRecord_admitted hp hrec hf ho hret
      have after := leaves_selected left.part s.cycle
      exact ⟨_, _, rfl, pendingEvent_schedOnce_self .., fun i hi => (after.home_cell _).trans (writes left i hi),
        after.rec?_of_single rfl rfl, fun h => absurd hf h, fun _ => ⟨rfl, ho, rfl, rfl, rfl, time, after.pending _ pending⟩⟩
    · obtain ⟨x, left, pending⟩ := admitRecord_faulted hp hrec hf
      have after := leaves_selected left.part s.cycle
      exact ⟨_, _, rfl, pendingEvent_schedOnce_self .., fun i hi => (after.home_cell _).trans (writes left i hi),
        after.rec?_of_single rfl rfl, fun _ => ⟨rfl, rfl, after.pending _ pending⟩, fun h => absurd h hf⟩
  · intro s n p r hp hr hpre admitted due step urgent resident room
    obtain ⟨q, left, running⟩ := started_runs hp hr
    refine ⟨_, exec_loadComplete hp hr hpre admitted due step urgent resident room, ?_, left.cells.trans (started_cells s n p r),
      fun i hi => ⟨startAgent s n p r i (r.cells s)[i], ?_, ?_⟩⟩
    · rw [State.rec?_eq left.part, running]
    · rw [left.home_agent, started_agent s n p r i hi]
    · obtain ⟨sr, pr, kr, vr⟩ := Agent.fresh_registers
      exact ⟨rfl, rfl, rfl, rfl, rfl, rfl, rfl, rfl, rfl, rfl, sr, pr, kr, vr, rfl, rfl, rfl, rfl, rfl, rfl, rfl, rfl, rfl, rfl, rfl,
        rfl, rfl⟩

end

/-! PROOF. O42: DONE, the end of an area and the end of a partition. -/

namespace Sys2Proof.Machine

open Sys2Proof

/-! ## DONE (R351) -/

theorem allDone_iff (g : Agent) : allDone g = true ↔ ∀ c, g.count c = 0 := by
  have counts : allDone g = true ↔ g.count .loads = 0 ∧ g.count .stores = 0 ∧ g.count .copies = 0 ∧ g.count .tiles = 0 := by
    simp [allDone, waitMet, and_assoc]
  rw [counts]
  constructor
  · rintro ⟨loads, stores, copies, tiles⟩ (_ | _ | _ | _) <;> assumption
  · exact fun h => ⟨h _, h _, h _, h _⟩

theorem exec_done_waits {s : State} {g : Agent} (h : s.atTurn g) (cell : g.service = false) (busy : ∃ c, 0 < g.count c) :
    staysPut .done s := by
  have notDone : ¬ allDone g = true := by
    rw [allDone_iff]
    obtain ⟨c, hc⟩ := busy
    exact fun idle => by simp [idle c] at hc
  show onAgent s _ = _
  rw [onAgent_at h, tryDone, cell, if_neg notDone]
  rfl

theorem exec_done_ends {s : State} {g : Agent} (h : s.atTurn g) (cell : g.service = false) (idle : ∀ c, g.count c = 0) :
    exec .done s = .next (endAgent s g) := by
  show onAgent s _ = _
  rw [onAgent_at h, tryDone, cell, if_pos ((allDone_iff g).2 idle)]
  rfl

/-- The drain of a record has begun by its first DONE (R311). -/
def Record.draining (now : Nat) (r : Record) : Record := if r.phase = some .drain then r else r.enter now (some .drain)

theorem Record.draining_id (r : Record) (now : Nat) : (r.draining now).id = r.id := by
  unfold Record.draining
  split
  · rfl
  · exact r.countTo_id now

theorem Record.draining_state (r : Record) (now : Nat) : (r.draining now).state = r.state := by
  unfold Record.draining
  split
  · rfl
  · exact r.countTo_state now

/-- The agent has ended. -/
def State.withEnded (s : State) (g : Agent) : State := s.setAgent g.key { g with status := .ended }

theorem State.agent_withEnded (s : State) (g : Agent) : (s.withEnded g).agent g.key = some { g with status := .ended } :=
  State.agent_setAgent ..

theorem State.agent_withEnded_other (s : State) (g : Agent) {k : Nat} (h : k ≠ g.key) : (s.withEnded g).agent k = s.agent k :=
  State.agent_setAgent_other _ _ _ _ h

/-- And its record drains. -/
def ended (s : State) (g : Agent) : State := firstDone (s.withEnded g) g.part g.rid

theorem endAgent_eq (s : State) (g : Agent) : endAgent s g =
    if ((ended s g).agentsOf g.part g.rid).all (fun h => h.status = .ended) then beginEmitting (ended s g) g.part g.rid
    else tryJoins (ended s g) g.part g.rid := rfl

theorem leaves_ended {s : State} {g : Agent} {p : Part} (hp : s.part g.part = some p) :
    (s.withEnded g).Leaves g.part (p.mapRec g.rid (Record.draining s.cycle)) (ended s g) :=
  (State.Leaves.of_part (s := s.withEnded g) hp).modRec g.rid (Record.draining s.cycle)

@[simp] theorem State.modPart_cores (s : State) (n : Nat) (f : Part → Part) : (s.modPart n f).cores = s.cores := by
  unfold State.modPart; split <;> rfl
@[simp] theorem schedOnce_cores (s : State) (n : Nat) (i : Instr) : (schedOnce s n i).cores = s.cores := by
  unfold schedOnce; split <;> rfl

@[simp] theorem ended_mem (s : State) (g : Agent) : (ended s g).mem = s.mem := by simp [ended, firstDone, State.withEnded]
@[simp] theorem ended_cores (s : State) (g : Agent) : (ended s g).cores = s.cores := by simp [ended, firstDone, State.withEnded, State.modRec]

/-- Joins that may complete are put on the agenda, and touch neither memory nor a core. -/
theorem tryJoins_mem_cores (s : State) (n rid : Nat) : (tryJoins s n rid).mem = s.mem ∧ (tryJoins s n rid).cores = s.cores := by
  refine foldl_inv (fun t : State => t.mem = s.mem ∧ t.cores = s.cores) _ (fun t g ht => ?_) _ s ⟨rfl, rfl⟩
  split
  · exact ht
  · split
    · simpa using ht
    · exact ht

section

variable {s : State} {g : Agent} {p : Part} {r : Record} (hp : s.part g.part = some p) (hr : p.rec? g.rid = some r)

include hr

theorem rec?_drained : (p.mapRec g.rid (Record.draining s.cycle)).rec? g.rid = some (r.draining s.cycle) := by
  rw [Part.rec?_mapRec _ _ _ fun r => r.draining_id s.cycle, hr]
  rfl

include hp

/-- While another agent of the area goes on, the ended one stays, and joins may complete without it. -/
theorem endAgent_stays (state : r.state = .running)
    (goes : ∃ h ∈ (s.withEnded g).agentsOf g.part g.rid, h.status ≠ .ended) :
    (endAgent s g).agent g.key = some { g with status := .ended } ∧ (∀ k, k ≠ g.key → (endAgent s g).agent k = s.agent k)
      ∧ (endAgent s g).mem = s.mem ∧ (endAgent s g).cells = s.cells ∧ (endAgent s g).cores = s.cores
      ∧ ((endAgent s g).rec? g.part g.rid).map (·.state) = some .running := by
  have before := leaves_ended hp
  have notAll : ¬ ((ended s g).agentsOf g.part g.rid).all (fun h => h.status = .ended) = true := by
    rw [before.toBeside.agentsOf]
    simpa using goes
  rw [endAgent_eq, if_neg notAll]
  have after := before.kept (kept_tryJoins _ g.part g.rid)
  obtain ⟨mem, cores⟩ := tryJoins_mem_cores (ended s g) g.part g.rid
  refine ⟨?_, fun k hk => ?_, by rw [mem, ended_mem], after.cells, by rw [cores, ended_cores], ?_⟩
  · rw [after.home_agent, s.agent_withEnded]
  · rw [after.home_agent, s.agent_withEnded_other g hk]
  · rw [State.rec?_eq after.part, rec?_drained hr, Option.map_some, r.draining_state, state]

/-- The last agent's DONE makes the record EMITTING and puts it in line for its storage step. -/
theorem endAgent_last (all : ∀ h ∈ (s.withEnded g).agentsOf g.part g.rid, h.status = .ended) :
    ∃ q, (s.withEnded g).Leaves g.part q (endAgent s g)
      ∧ (q.rec? g.rid).map (·.state) = some .emitting ∧ (s.cycle, g.rid) ∈ q.emitQ
      ∧ pendingEvent (endAgent s g) (.storageStep g.part) = true := by
  have before := leaves_ended hp
  have every : ((ended s g).agentsOf g.part g.rid).all (fun h => h.status = .ended) = true := by
    rw [before.toBeside.agentsOf]
    simpa using all
  rw [endAgent_eq, if_pos every]
  have clock : (ended s g).cycle = s.cycle := before.cycle
  have drained := rec?_drained (s := s) hr
  have emitting := (before.setRecState drained .emitting 0).kept
    (State.Kept.foldl (fun t (h : Agent) => kept_releaseOwned t h.core h.slot) ((ended s g).agentsOf g.part g.rid) _)
  have stamped := emitting.modRec g.rid fun x => { x with emitAt := (ended s g).cycle }
  have inLine := (stamped.modPart fun x => { x with emitQ := x.emitQ ++ [((ended s g).cycle, g.rid)] }).kept
    (kept_schedOnce _ 0 (.storageStep g.part))
  refine ⟨_, inLine, ?_, by simp [clock], pendingEvent_schedOnce_self ..⟩
  show (Part.rec? (Part.mapRec _ _ _) _).map _ = _
  rw [Part.rec?_mapRec, Part.rec?_mapRec, drained]
  · rfl
  · exact fun _ => rfl
  · exact fun _ => rfl

end

/-! ## The end of a partition (R45, R293) -/

/-- An agent without accesses on their way has no stores to settle. -/
theorem settleStores_of_outs_nil (s : State) {g : Agent} (h : g.outs = []) : settleStores s g = s := by
  simp [settleStores, h]

theorem endWhole_eq {s : State} {n : Nat} (h : ∀ e ∈ s.agents, e.2.part = n → e.2.outs = []) (status cause : Nat) :
    endWhole s n status cause = endPartition s n status cause := by
  have settled : ((s.agents.map (·.2)).filter fun g => g.part = n).foldl settleStores s = s := by
    have quiet : ∀ g ∈ (s.agents.map (·.2)).filter fun g => g.part = n, g.outs = [] := by
      intro g hg
      simp only [List.mem_filter, List.mem_map, decide_eq_true_eq] at hg
      obtain ⟨⟨e, he, rfl⟩, hn⟩ := hg
      exact h e he hn
    revert quiet
    induction (s.agents.map (·.2)).filter fun g => g.part = n with
    | nil => exact fun _ => rfl
    | cons g gs ih =>
      intro quiet
      rw [List.foldl_cons, settleStores_of_outs_nil s (quiet g (by simp))]
      exact ih fun h hh => quiet h (by simp [hh])
  rw [endWhole, settled]

@[simp] theorem applyAt_cells (s : State) (k : Nat) (op : AccOp) : (applyAt s k op).cells = s.cells := by
  unfold applyAt; split <;> rfl

@[simp] theorem sendPosted_cells (s : State) (p : Posted) : (sendPosted s p).cells = s.cells := by
  unfold sendPosted; split <;> simp

@[simp] theorem postFar_cells (s : State) (who : Nat × Nat) (id : Nat) (p : Place) (op : AccOp) : (postFar s who id p op).cells = s.cells := by
  simp only [postFar]; split <;> simp

@[simp] theorem postUnit_cells (s : State) (who : Nat × Nat) (p : Place) (op : AccOp) : (postUnit s who p op).cells = s.cells := by
  unfold postUnit; split <;> simp

/-- The two writes of a completion leave the row. -/
theorem signalEnd_cells {s u : State} {who : Nat × Nat} {asid : Nat} {tl v w : Word} (h : signalEnd s who asid tl v w = some u) :
    u.cells = s.cells := by
  unfold signalEnd at h
  split at h
  · cases h
  · split at h
    · cases h
    · cases h
      simp

/-- Tiles released agent by agent leave memory and the row. -/
theorem foldl_releaseTiles (l : Tbl Agent) (s : State) : (l.foldl (fun t e => releaseTiles t e.2) s).mem = s.mem
    ∧ (l.foldl (fun t e => releaseTiles t e.2) s).cells = s.cells :=
  foldl_inv (fun t : State => t.mem = s.mem ∧ t.cells = s.cells) (fun t e => releaseTiles t e.2) (fun _ _ h => h) l s ⟨rfl, rfl⟩

theorem Tbl.mem_of_find {α : Type} {t : Tbl α} {k : Nat} {a : α} (h : Tbl.find t k = some a) : (k, a) ∈ t := by
  induction t with
  | nil => cases h
  | cons e t ih =>
    obtain ⟨j, b⟩ := e
    simp only [Tbl.find] at h
    split at h
    · simp_all
    · exact List.mem_cons_of_mem _ (ih h)

/-- A partition whose completion can be signalled leaves the device. -/
theorem endPartition_signalled {s u : State} {n : Nat} {p : Part} {status cause : Nat} (hp : s.part n = some p)
    (hu : signalEnd s (rootPoster n p.size) p.asid p.tl p.value (statusWord status cause) = some u) :
    let t := endPartition s n status cause
    t.part n = none ∧ (t.pcb n).state = 0 ∧ (∀ k g, t.agent k = some g → g.part ≠ n) ∧ t.mem = u.mem ∧ t.cells = s.cells := by
  have tiles := foldl_releaseTiles (u.agents.filter fun e => e.2.part = n) u
  simp only [endPartition, hp, hu]
  refine ⟨Tbl.find_drop_same .., by simp, fun k g hg => ?_, tiles.1, tiles.2.trans (signalEnd_cells hu)⟩
  have mem := Tbl.mem_of_find hg
  simp only [State.modPcb, State.setPcb, List.mem_filter, decide_eq_true_eq] at mem
  exact mem.2

theorem faultNow_handler {s : State} {p : Part} {g : Agent} (hp : s.part g.part = some p) (service : g.service = true)
    (step : g.stepLeft = none) (live : p.ended = none) (cause : Nat) (addr : Word) (lane : Nat) :
    faultNow s g cause addr lane =
      schedOnce (s.setPart g.part { p with ended := some (statusWord 0x01 cause) }) 0 (.trapEnqueue g.part) := by
  simp only [faultNow, agentFault, step, Option.isSome_none, Bool.false_eq_true, if_false, service, if_true, State.modPart_eq hp, live]
  rfl

theorem exec_trapEnqueue_ended {s : State} {n : Nat} {p : Part} {w : Word} (hp : s.part n = some p) (hw : p.ended = some w) :
    exec (.trapEnqueue n) s = .next (endWhole s n (w.toNat % 256) (bits w.toNat 16 9)) := by
  show execTrapEnqueue n s = _
  simp only [execTrapEnqueue, hp, hw]

end Sys2Proof.Machine

section

open Sys2Proof Sys2Proof.Machine

/-- Settles O42: what DONE, the end of a partition and a fault of its handler leave, each from its own lemma. -/
theorem ends : Obligations.Ends := by
  unfold Obligations.Ends
  refine ⟨fun s g turn cell => ⟨exec_done_waits turn cell, fun p r idle hp hr state => ⟨fun goes => ?_, fun all => ?_⟩⟩,
    fun s n p hp => ⟨fun status cause u outs hu => ?_, ?_, fun w hw => exec_trapEnqueue_ended hp hw⟩⟩
  · exact ⟨_, exec_done_ends turn cell idle, endAgent_stays hp hr state goes⟩
  · obtain ⟨q, left, emitting, inLine, pending⟩ := endAgent_last hp hr all
    exact ⟨_, q, exec_done_ends turn cell idle, by rw [left.home_agent, s.agent_withEnded], left.part, emitting, inLine, pending,
      left.cells⟩
  · rw [endWhole_eq outs]
    exact endPartition_signalled hp hu
  · rintro g cause addr lane rfl service step live
    exact faultNow_handler hp service step live cause addr lane

end

/-! PROOF. O57: what a cycle comes to where one agent, one stream context or one ringer is all that can go on. -/

namespace Sys2Proof.Machine

open Sys2Proof

/-! ## Outcomes in sequence -/

@[simp] theorem andThen_next (s : State) (f : State → Out) : andThen (.next s) f = f s := rfl

theorem andThen_assoc (o : Out) (f g : State → Out) : andThen (andThen o f) g = andThen o fun s => andThen (f s) g := by
  cases o <;> rfl

@[simp] theorem andThen_next_right (o : Out) : andThen o .next = o := by
  cases o <;> rfl

/-! ## A cycle without events and arrivals -/

/-- Nothing is due and no access arrives. -/
def State.still (s : State) : Prop := s.agenda = [] ∧ s.arrivals = []

theorem runDue_noAgenda {s : State} (h : s.agenda = []) (p : Instr → Bool) (fuel : Nat) : runDue p fuel s = .next s := by
  cases fuel <;> simp [runDue, h, dueEvent]

theorem runEvents_noAgenda {s : State} (h : s.agenda = []) (band fuel : Nat) : runEvents band fuel s = .next s :=
  runDue_noAgenda h _ _

theorem runReleases_noAgenda {s : State} (h : s.agenda = []) : runReleases s = .next s := runDue_noAgenda h _ _

theorem State.arrivals_eq_self {s : State} (h : s.arrivals = []) : { s with arrivals := [] } = s := by
  cases s; simp_all

theorem turnCycle_still {s : State} (h : s.still) : turnCycle s = andThen (coreAll (busyCores s) s) finishCycle := by
  unfold turnCycle
  rw [runEvents_noAgenda h.1]
  rfl

theorem coreTurn_still {s : State} (h : s.still) (core : Nat) : coreTurn core s = issueCore core s := by
  simp [coreTurn, h.2, execAll, State.arrivals_eq_self h.2, runReleases_noAgenda h.1]

/-- Without agents no core has a turn. -/
theorem turnCycle_noAgents {s : State} (h : s.still) (ha : s.agents = []) : turnCycle s = finishCycle s := by
  rw [turnCycle_still h]
  simp [busyCores, ha, h.2, sortBy, coreAll]

/-- The accesses through the core window take nothing but the turn where there are none. -/
theorem windowTurn_still {s : State} (h : s.still) : windowTurn s = .next { s with turn := .nobody } := by
  have hs : { s with arrivals := [], turn := .nobody } = { s with turn := .nobody } := by
    cases s; simp_all [State.still]
  simp only [windowTurn, h.2, sortBy, execAll, andThen_next, hs]
  exact runReleases_noAgenda h.1

/-! ## A stream context alone -/

theorem ctxKey_div {e c : Nat} (hc : c < 64) : ctxKey e c / 64 = e := by unfold ctxKey; omega
theorem ctxKey_mod {e c : Nat} (hc : c < 64) : ctxKey e c % 64 = c := by unfold ctxKey; omega

/-- A context that runs, whose engine no test fences, executes the command at its word. -/
theorem ctxTurn_runs {s : State} {e c : Nat} {x : Ctx} {i : Instr} (hc : c < 64) (hx : s.ctx (ctxKey e c) = x)
    (run : x.status = .running) (wake : x.wakeAt ≤ s.cycle) (ht : s.dev.tests = [])
    (hi : engineFetch 0xA (x.words.getD x.pc (BitVec.allOnes 64)) x.words[x.pc + 1]? = .run i) :
    ctxTurn (ctxKey e c) s =
      andThen (exec i { s with turn := .context e c }) fun t => .next (stopBehind (ctxKey e c) { t with turn := .nobody }) := by
  have goes : ¬ (x.status ≠ .running ∨ s.cycle < x.wakeAt ∨ fencedOn s [dieHop 3 (e / 16) e]) := by
    simp [run, fencedOn, ht, Nat.not_lt.2 wake]
  simp only [ctxTurn, hx, ctxKey_div hc, ctxKey_mod hc, if_neg goes, hi]

theorem releaseAll_alone {s : State} {k : Nat} {x : Ctx} (hs : s.ctxs = [(k, x)]) (hr : x.relSlot = none) : releaseAll s = s := by
  have hx : s.ctx k = x := by simp [State.ctx, hs, Tbl.find]
  simp [releaseAll, hs, releaseDrained, hx, hr]

/-- The turn of the engines where one context is all they have. -/
theorem engineAll_alone {s : State} {e c : Nat} {x : Ctx} (hc : c < 64) (hs : s.ctxs = [(ctxKey e c, x)]) :
    engineAll (engines s) s = andThen (ctxTurn (ctxKey e c) s) fun u => .next (fillBytes u e) := by
  simp [engines, hs, ctxKey_div hc, List.eraseDups_cons, engineAll, ctxAll]

/-- A cycle of a machine whose only program is that of a stream context. -/
theorem turnCycle_context {s : State} {e c : Nat} {x : Ctx} {i : Instr} (h : s.still) (hc : c < 64) (ha : s.agents = [])
    (hs : s.ctxs = [(ctxKey e c, x)]) (run : x.status = .running) (wake : x.wakeAt ≤ s.cycle) (hr : x.relSlot = none)
    (ht : s.dev.tests = [])
    (hi : engineFetch 0xA (x.words.getD x.pc (BitVec.allOnes 64)) x.words[x.pc + 1]? = .run i) :
    turnCycle s = andThen (exec i { s with turn := .context e c }) fun t =>
      finishEngines (fillBytes (stopBehind (ctxKey e c) { t with turn := .nobody }) e) := by
  let u : State := { s with turn := .nobody }
  have hu : u.ctx (ctxKey e c) = x := by simp [u, State.ctx, hs, Tbl.find]
  calc turnCycle s
      = andThen (engineAll (engines u) u) finishEngines := by
        rw [turnCycle_noAgents h ha, finishCycle, releaseAll_alone hs hr, windowTurn_still h, andThen_next]
    _ = andThen (andThen (ctxTurn (ctxKey e c) u) fun t => .next (fillBytes t e)) finishEngines := by rw [engineAll_alone (s := u) hc hs]
    _ = _ := by
        rw [ctxTurn_runs hc hu run wake ht hi, andThen_assoc, andThen_assoc]
        rfl

/-! ## A ringer alone -/

/-- A ringer that runs, and that no test fences, executes the command at its word. -/
theorem ringerTurn_runs {s : State} {g : Nat} {x : Ringer} {i : Instr} (hx : s.ringer g = x) (run : x.status = .running)
    (wake : x.wakeAt ≤ s.cycle) (ht : s.dev.tests = [])
    (hi : engineFetch 0xB (x.words.getD x.pc (BitVec.allOnes 64)) x.words[x.pc + 1]? = .run i) :
    ringerTurn g s = andThen (exec i { s with turn := .ringer g }) fun t => .next { t with turn := .nobody } := by
  have goes : ¬ (x.status ≠ .running ∨ s.cycle < x.wakeAt ∨ fencedOn s [ringerHop g]) := by
    simp [run, fencedOn, ht, Nat.not_lt.2 wake]
  simp only [ringerTurn, hx, if_neg goes, hi]

/-- A cycle of a machine whose only program is that of a ringer. -/
theorem turnCycle_ringer {s : State} {g : Nat} {x : Ringer} {i : Instr} (h : s.still) (ha : s.agents = []) (hc : s.ctxs = [])
    (hs : s.ringers = [(g, x)]) (run : x.status = .running) (wake : x.wakeAt ≤ s.cycle) (ht : s.dev.tests = [])
    (hi : engineFetch 0xB (x.words.getD x.pc (BitVec.allOnes 64)) x.words[x.pc + 1]? = .run i) :
    turnCycle s = andThen (exec i { s with turn := .ringer g }) fun t => finishRingers { t with turn := .nobody } := by
  let u : State := { s with turn := .nobody }
  have hu : u.ringer g = x := by simp [u, State.ringer, hs, Tbl.find]
  have noDrain : releaseAll s = s := by simp [releaseAll, hc]
  have noEngine : engineAll (engines u) u = .next u := by simp [engines, u, hc, engineAll]
  calc turnCycle s
      = finishEngines u := by
        rw [turnCycle_noAgents h ha, finishCycle, noDrain, windowTurn_still h, andThen_next]
        show andThen (engineAll (engines u) u) finishEngines = _
        rw [noEngine, andThen_next]
    _ = andThen (ringerTurn g u) finishRingers := by
        rw [finishEngines, runEvents_noAgenda (s := u) h.1]
        simp [u, hs, ringerAll]
    _ = _ := by
        rw [ringerTurn_runs hu run wake ht hi, andThen_assoc]
        rfl

/-! ## An agent alone -/

/-- The only agent of the machine stands at a word that is ready to issue as the instruction `i`: nothing holds the agent, its core or
its units back, and no stop of a debugger matches. -/
structure State.readyAlone (s : State) (g : Agent) (w : Word) (i : Instr) : Prop where
  agents : s.agents = [(g.key, g)]
  clock : (s.domain g.core).stretching = false
  issued : (s.core g.core).issued = []
  unit : unitTaken (s.core g.core) (unitOf w) = false
  chains : (s.core g.core).chains = []
  mayIssue : mayIssue s g = true
  xrow : g.xrow = none
  redo : g.redo = []
  awake : g.drowsy = false
  word : s.wordAt g g.pc = w
  guard : guardHolds g w = true
  fetch : agentFetch s g w = .run i
  notHeld : held s g w i = false
  noStop : matching s g (some i) = []

section

variable {s : State} {g : Agent} {w : Word} {i : Instr}

theorem mayIssue_late (h : mayIssue s g = true) (hx : g.xrow = none) : g.late = [] ∧ g.again = [] := by
  simp only [mayIssue, Bool.and_eq_true, Bool.or_eq_true, hx, Option.isSome_none, Bool.false_eq_true, or_false,
    List.isEmpty_iff] at h
  exact ⟨h.1.1.1.1.2, h.1.1.1.2⟩

theorem State.readyAlone.agent (h : s.readyAlone g w i) : s.agent g.key = some g := by
  simp [State.agent, h.agents, Tbl.find]

/-- The agent has no late fault and nothing to issue again, so that its boundary passes. -/
theorem State.readyAlone.boundary (h : s.readyAlone g w i) : boundary s g.key = s := by
  obtain ⟨late, again⟩ := mayIssue_late h.mayIssue h.xrow
  simp only [Machine.boundary, h.agent, late, again, List.foldl_nil, ite_self]

/-- Its word has a guard that holds, so that the agent drops none. -/
theorem State.readyAlone.issuePc (h : s.readyAlone g w i) : issuePc s g = g.pc := by
  rw [Machine.issuePc, if_neg (by simp [h.redo])]
  cases s.nwords g + 1 - g.pc with
  | zero => rfl
  | succ n => simp only [nextWord, h.word, h.fetch, h.guard, if_true]

/-- What the agent would issue. -/
def aloneCand (s : State) (g : Agent) (w : Word) (i : Instr) : Cand := ⟨g.slot, g.pc, .instr i, unitOf w, prioOf s g⟩

theorem State.readyAlone.agentCand (h : s.readyAlone g w i) : agentCand s g = some (aloneCand s g w i) := by
  have stands : { g with pc := Machine.issuePc s g } = g := by rw [h.issuePc]
  unfold Machine.agentCand
  rw [h.mayIssue, stands, h.xrow]
  simp [h.word, h.fetch, h.notHeld, h.awake, aloneCand]

theorem State.readyAlone.pick (h : s.readyAlone g w i) : pick s g.core [] = some (aloneCand s g w i) := by
  have hready : ready s g.core [] = [aloneCand s g w i] := by
    simp [ready, h.agents, h.agentCand, chainCands, h.chains]
  have hunit : unitTaken (s.core g.core) (aloneCand s g w i).unit = false := h.unit
  simp [Machine.pick, cands, hready, hunit, sortBy, insertBy]

/-- The candidate runs, no stop standing at it. -/
theorem State.readyAlone.issueCand (h : s.readyAlone g w i) : issueCand s g.core (aloneCand s g w i) =
    runInstr (takeSlot (standAt s g g.pc (some i)) g.core (aloneCand s g w i)) g.core g.slot g.pc i := by
  have hg : s.agent (agentKey g.core g.slot) = some g := h.agent
  simp only [Machine.issueCand, aloneCand, hg, h.noStop, List.isEmpty_nil, if_true]

/-- Its core comes to the agent's instruction and what its second slot finds behind it. -/
theorem State.readyAlone.issueCore (h : s.readyAlone g w i) : issueCore g.core s =
    andThen (runInstr (takeSlot (standAt s g g.pc (some i)) g.core (aloneCand s g w i)) g.core g.slot g.pc i) fun t =>
      issueLoop g.core 3 [g.slot] (countPassed g.core (t.core g.core).issued.length [g.slot] t) := by
  have keys : (s.agents.filter fun e => e.2.core = g.core).map (·.1) = [g.key] := by simp [h.agents]
  have awake : wakeAgent s g = s := by simp [wakeAgent, h.awake]
  simp only [Machine.issueCore, h.clock, keys, List.foldl_cons, List.foldl_nil, h.boundary, h.agent, awake,
    List.length_singleton, issueLoop, h.issued, h.pick, h.issueCand]
  rfl

theorem turnCycle_agent (h : s.readyAlone g w i) (still : s.still) : turnCycle s =
    andThen (runInstr (takeSlot (standAt s g g.pc (some i)) g.core (aloneCand s g w i)) g.core g.slot g.pc i) fun t =>
      andThen (issueLoop g.core 3 [g.slot] (countPassed g.core (t.core g.core).issued.length [g.slot] t)) finishCycle := by
  have busy : busyCores s = [g.core] := by simp [busyCores, h.agents, still.2, List.eraseDups_cons, sortBy, insertBy]
  rw [turnCycle_still still, busy]
  simp only [coreAll, andThen_next_right, coreTurn_still still, h.issueCore, andThen_assoc]

end

/-! ## The fate of an agent's word (R107) -/

theorem agentFetch_decoded {s : State} {g : Agent} {w : Word} {i : Instr} (hd : decode w 0 = .instr i) (row : rowOf w < 0xA)
    (priv : privileged (major w).toNat = true → g.service = true)
    (cell : cellMajor (major w).toNat = true → g.service = false) (regs : ∀ v ∈ vregsOf i, v < 4 * g.gran)
    (special : badSpecial s g i = false) (field : badField i = false) : agentFetch s g w = .run i := by
  have notOnes : w ≠ BitVec.allOnes 64 := by
    rintro rfl
    revert hd
    simp [decode]
  have notPriv : (privileged (major w).toNat && !g.service) = false := by
    cases hp : privileged (major w).toNat
    · rfl
    · simp [priv hp]
  have notCell : (cellMajor (major w).toNat && g.service) = false := by
    cases hc : cellMajor (major w).toNat
    · rfl
    · simp [cell hc]
  have regsOk : (vregsOf i).any (fun v => decide (4 * g.gran ≤ v)) = false := by
    simpa using regs
  by_cases zero : w = 0#64
  · subst zero
    have : i = .nop := by
      have nop : decode 0#64 0 = .instr .nop := by decide
      rw [nop] at hd
      cases hd
      rfl
    simp [agentFetch, this]
  · have notA : rowOf w ≠ 0xA := by omega
    have notB : rowOf w ≠ 0xB := by omega
    simp only [agentFetch, if_neg notOnes, if_neg zero, if_neg notA, if_neg notB, hd, notPriv, notCell, regsOk, special, field,
      Bool.or_self, Bool.false_eq_true, if_false]

/-! ## The step -/

/-- Where no start of the cycle is caught by a storage step, the cycle runs once and the clock moves on. -/
theorem step_of_turnCycle {s t : State} (ht : turnCycle s = .next t) (hc : caught t = []) : step s = .next (tick (traceFaults t)) := by
  simp [step, wholeCycle, ht, hc]

end Sys2Proof.Machine

section

open Sys2Proof Sys2Proof.Machine

/-- Settles O57: a cycle is unfolded along its parts, of which a lone executor leaves one that acts. -/
theorem stepRunsDecoded : Obligations.StepRunsDecoded := by
  unfold Obligations.StepRunsDecoded
  refine ⟨fun s t => step_of_turnCycle, fun s i hagenda harrivals => ⟨?_, ?_, ?_, ?_⟩⟩
  · intro g w agents _ _ clock issued unit chains may xrow redo awake word guard fetch notHeld noStop
    exact turnCycle_agent ⟨agents, clock, issued, unit, chains, may, xrow, redo, awake, word, guard, fetch, notHeld, noStop⟩
      ⟨hagenda, harrivals⟩
  · intro g w hd row priv cell regs special field
    exact agentFetch_decoded hd row priv cell regs special field
  · intro e c x _ hc agents _ ctxs run wake rel tests _ fetch
    exact turnCycle_context ⟨hagenda, harrivals⟩ hc agents ctxs run wake rel tests fetch
  · intro g x agents ctxs ringers run wake tests fetch
    exact turnCycle_ringer ⟨hagenda, harrivals⟩ agents ctxs ringers run wake tests fetch

end

/-! PROOF. O41: how a storage step is taken up and completed, and what a cancel comes to. -/

namespace Sys2Proof.Machine

open Sys2Proof

/-! ## The root's lines of steps (R39, R64) -/

/-- The partition once the root has tried the step of a record: it stands in no line. -/
def Part.unlined (p : Part) (id : Nat) : Part :=
  { p with
    emitQ := p.emitQ.filter fun x => x.2 ≠ id
    aside := p.aside.filter (· ≠ id)
    urgent := p.urgent.filter fun x => x.1 ≠ id }

/-- The partition once a fixed area has left: its set-aside steps may be tried again. -/
def Part.retrying (p : Part) : Part := { p with fixedLeft := true }

/-- The partition as the root goes through its lines: the set-aside steps are tried now. -/
def Part.taking (p : Part) : Part := { p with fixedLeft := false }

theorem Part.rec?_mapRec_of_rec? {p : Part} {id : Nat} {r : Record} {f : Record → Record} (h : p.rec? id = some r)
    (hf : ∀ r, (f r).id = r.id) : (p.mapRec id f).rec? id = some (f r) := by
  rw [Part.rec?_mapRec p id f hf, h]
  rfl

@[simp] theorem Part.inOrder_nil (p : Part) : p.inOrder [] = [] := by
  have noRecord : (p.records.filter fun r => List.contains [] r.id) = [] := List.filter_eq_nil_iff.2 fun _ _ => Bool.false_ne_true
  rw [Part.inOrder, noRecord]
  rfl

section

variable {p : Part} {r : Record} (alone : (p.records.filter fun x => x.id = r.id) = [r])

include alone

/-- One record is in order by itself. -/
theorem Part.inOrder_alone : p.inOrder [r.id] = [r.id] := by
  simp [Part.inOrder, alone, sortBy, insertBy]

theorem Part.rec?_of_alone : p.rec? r.id = some r := by
  rw [Part.rec?, ← List.head?_filter, alone]
  rfl

end

theorem Part.filter_id_of_single {p : Part} {r : Record} (h : p.records = [r]) : (p.records.filter fun x => x.id = r.id) = [r] := by
  simp [h]

/-- Where one record alone waits for its step, in line or set aside and to be tried again, the root tries that one. -/
theorem takeUp_tries {s : State} {n id : Nat} {p : Part} (hp : s.part n = some p) (hpre : p.pre = .none) (idle : p.stepNow = none)
    (urgent : p.urgent = [])
    (line : (if p.fixedLeft then p.inOrder p.aside else []) ++ p.inOrder (p.emitQ.map (·.2)) = [id]) :
    takeUp s n = (tryStep (s.setPart n p.taking) n id .emit).1 := by
  have steps : ((if p.fixedLeft then (p.inOrder p.aside).map fun i => (i, StepKind.emit) else []) ++
      (p.inOrder (p.emitQ.map (·.2))).map fun i => (i, StepKind.emit)) = [(id, .emit)] := by
    rw [← List.map_singleton (f := fun i => (i, StepKind.emit)), ← line]
    cases p.fixedLeft <;> simp
  have goes : ¬ (p.stepNow.isSome = true ∨ p.pre.stopped = true) := by simp [idle, hpre, PrePhase.stopped]
  simp only [takeUp, hp, if_neg goes, urgent, List.foldl_nil, Bool.false_eq_true, if_false]
  rw [steps, State.modPart_eq hp]
  rfl

section

variable {s : State} {n : Nat} {p : Part} {r : Record} (hp : s.part n = some p) (hpre : p.pre = .none) (idle : p.stepNow = none)
  (urgent : p.urgent = []) (alone : (p.records.filter fun x => x.id = r.id) = [r])

include hp hpre idle urgent alone

/-- The root's turn, without a step in progress and a cancel due, tries the step of the one record in line. -/
theorem exec_storageStep_tries {c : Nat} (noCancel : p.cancelNow = []) (line : p.emitQ = [(c, r.id)]) (aside : p.aside = []) :
    exec (.storageStep n) s = .next (tryStep (s.setPart n p.taking) n r.id .emit).1 := by
  have same : { p with cancelNow := [] } = p := by rw [← noCancel]
  have inLine : (if p.fixedLeft then p.inOrder p.aside else []) ++ p.inOrder (p.emitQ.map (·.2)) = [r.id] := by
    simp [aside, line, Part.inOrder_alone alone]
  show execStorageStep n s = _
  simp only [execStorageStep, hp, Option.map_some, noCancel, Option.getD_some, List.foldl_nil, arriveApps_still hp idle,
    State.modPart_eq (State.part_setPart s n p), same, State.setPart_setPart,
    takeUp_tries (State.part_setPart s n p) hpre idle urgent inLine]

/-- Once a fixed area has left, the root tries the step of the one record set aside. -/
theorem exec_stepRetryAfterFixed_tries (line : p.emitQ = []) (aside : p.aside = [r.id]) :
    exec (.stepRetryAfterFixed n) s = .next (tryStep (s.setPart n p.taking) n r.id .emit).1 := by
  have one : p.retrying.inOrder [r.id] = [r.id] := Part.inOrder_alone alone
  have inLine : (if p.retrying.fixedLeft then p.retrying.inOrder p.retrying.aside else []) ++
      p.retrying.inOrder (p.retrying.emitQ.map (·.2)) = [r.id] := by
    simpa [Part.retrying, aside, line] using one
  show execStepRetryAfterFixed n s = _
  rw [execStepRetryAfterFixed, State.modPart_eq hp, ← Part.retrying,
    takeUp_tries (State.part_setPart s n p.retrying) hpre idle urgent inLine, State.setPart_setPart]
  rfl

end

/-! ## The outcomes of a try (R35, R59, R64, R69) -/

/-- A record whose emissions are not whole terms has the cause of R35. -/
def Record.malformed (r : Record) : Record := { r with cause := 0xF1 }

/-- A record whose step has found no supply is row-full (R69). -/
def Record.rowFilled (r : Record) : Record := { r with rowFull := true }

/-- The words that the agents of a record emit, as they emit them. -/
def emittedWords (s : State) (n id : Nat) : List Word := (s.agentsOf n id).flatMap fun g => g.emits.map (·.word)

section

variable {s : State} {n : Nat} {p : Part} {r : Record} (hp : s.part n = some p) (hr : p.rec? r.id = some r)

include hp hr

/-- Emissions that are not whole terms fault their record, and the fault is raised as a trap. -/
theorem tryStep_malformed (odd : wholeTerms (emittedWords s n r.id) [] = false) : ∃ (x : RaisedTrap) (q : Part), x.trap.cause = 0xF1
    ∧ s.Leaves n q (tryStep s n r.id .emit).1 ∧ q.raised = p.raised ++ [x]
    ∧ q.rec? r.id = some (r.movedTo s.cycle .faulted).malformed := by
  have step : (tryStep s n r.id .emit).1 = raiseTrap ((moveRec (s.modPart n fun q => q.unlined r.id) n r.id .faulted 0xF1).modRec n r.id
      .malformed) n r.id 2 0xF1 false := by
    rw [emittedWords] at odd
    simp only [tryStep, hp, State.rec?_eq hp, hr, odd, Bool.not_false, and_self, if_true]
    rfl
  have moved := ((State.Leaves.of_part hp).modPart fun q => q.unlined r.id).moveRec hr .faulted 0xF1
  obtain ⟨x, cause, left, -⟩ := (moved.modRec r.id .malformed).raiseTrap r.id 2 0xF1 false
  have found : (((p.unlined r.id).mapRec r.id fun y => y.movedTo s.cycle .faulted).mapRec r.id Record.malformed).rec? r.id =
      some (r.movedTo s.cycle .faulted).malformed :=
    Part.rec?_mapRec_of_rec? (Part.rec?_mapRec_of_rec? hr fun _ => rfl) fun _ => rfl
  rw [step]
  exact ⟨x, _, cause, left, rfl, found⟩

variable (whole : wholeTerms (emittedWords s n r.id) [] = true)

include whole

/-- A step in whose way a fixed area stands is set aside. -/
theorem tryStep_waits (tried : tryPlan s n p r .emit (emittedItems s n r) = .wait) : (tryStep s n r.id .emit).1 =
    s.setPart n { p.unlined r.id with aside := if p.aside.contains r.id then p.aside else p.aside ++ [r.id] } := by
  rw [emittedWords] at whole
  simp only [tryStep, hp, State.rec?_eq hp, hr, whole, Bool.not_true, Bool.false_eq_true, and_false, if_false, tried, State.modPart_eq hp]
  rfl

/-- Without supply the step is row-full, which is raised as a trap; its record stays. -/
theorem tryStep_full (tried : tryPlan s n p r .emit (emittedItems s n r) = .full) : ∃ (x : RaisedTrap) (q : Part), x.trap.cause = 0xC0
    ∧ s.Leaves n q (tryStep s n r.id .emit).1 ∧ q.raised = p.raised ++ [x] ∧ q.rec? r.id = some r.rowFilled := by
  have step : (tryStep s n r.id .emit).1 = raiseTrap ((s.modPart n fun q => q.unlined r.id).modRec n r.id .rowFilled) n r.id 2 0xC0 false := by
    rw [emittedWords] at whole
    simp only [tryStep, hp, State.rec?_eq hp, hr, whole, Bool.not_true, Bool.false_eq_true, and_false, if_false, tried]
    rfl
  obtain ⟨x, cause, left, -⟩ := (((State.Leaves.of_part hp).modPart fun q => q.unlined r.id).modRec r.id .rowFilled).raiseTrap r.id 2 0xC0 false
  have found : ((p.unlined r.id).mapRec r.id Record.rowFilled).rec? r.id = some r.rowFilled :=
    Part.rec?_mapRec_of_rec? hr fun _ => rfl
  rw [step]
  exact ⟨x, _, cause, left, rfl, found⟩

/-- A plan that no test fences is taken up, its completion put on the agenda. -/
theorem tryStep_starts {plan : StepPlan} (tests : s.dev.tests = [])
    (tried : tryPlan s n p r .emit (emittedItems s n r) = .started plan) :
    s.Leaves n { p.unlined r.id with stepNow := some plan, fixedLeft := p.fixedLeft || r.state = .emitting } (tryStep s n r.id .emit).1
      ∧ pendingEvent (tryStep s n r.id .emit).1 (.storageStepComplete n) = true := by
  have unfenced : fencedOn s plan.units = false := by simp [fencedOn, tests]
  have taken := (State.Leaves.of_part hp).modPart fun q =>
    { q.unlined r.id with stepNow := some plan, fixedLeft := q.fixedLeft || r.state = .emitting }
  rw [emittedWords] at whole
  simp only [tryStep, hp, State.rec?_eq hp, hr, whole, Bool.not_true, Bool.false_eq_true, and_false, if_false, tried, unfenced]
  refine ⟨(taken.kept (State.Kept.foldl (fun t a => ?_) plan.arrive _)).kept (kept_sched ..), pendingEvent_sched_self ..⟩
  split
  · exact kept_sched ..
  · exact .refl t

end

/-! ## The writing of a step (R59) -/

/-- Words written into cells, their chimes cleared. -/
def writeRow (xs : List (Nat × Word)) (s : State) : State := xs.foldl (fun t x => (t.setCell x.1 x.2).setChime x.1 0) s

theorem writeRow_append (xs ys : List (Nat × Word)) (s : State) : writeRow (xs ++ ys) s = writeRow ys (writeRow xs s) :=
  List.foldl_append ..

/-- Only the row is written. -/
theorem writeRow_row (xs : List (Nat × Word)) (s : State) :
    ∃ cells chimes, writeRow xs s = { s with cells := cells, cellChime := chimes } := by
  refine foldl_inv (fun t : State => ∃ cells chimes, t = { s with cells := cells, cellChime := chimes }) _ (fun t x ht => ?_) xs s
    ⟨s.cells, s.cellChime, rfl⟩
  obtain ⟨cells, chimes, rfl⟩ := ht
  exact ⟨_, _, rfl⟩

theorem writeRow_part (xs : List (Nat × Word)) (s : State) (n : Nat) : (writeRow xs s).part n = s.part n := by
  obtain ⟨cells, chimes, h⟩ := writeRow_row xs s
  rw [h]
  rfl

theorem writeRow_agentsOf (xs : List (Nat × Word)) (s : State) (n id : Nat) : (writeRow xs s).agentsOf n id = s.agentsOf n id := by
  obtain ⟨cells, chimes, h⟩ := writeRow_row xs s
  rw [h]
  rfl

/-- A cell that is not written keeps its word. -/
theorem cell_writeRow_other (xs : List (Nat × Word)) (c : Nat) (hc : c ∉ xs.map (·.1)) (s : State) :
    (writeRow xs s).cell c = s.cell c := by
  induction xs generalizing s with
  | nil => rfl
  | cons y ys ih =>
    simp only [List.map_cons, List.mem_cons, not_or] at hc
    calc (writeRow (y :: ys) s).cell c
        = ((s.setCell y.1 y.2).setChime y.1 0).cell c := ih hc.2 _
      _ = s.cell c := (State.cell_setCell ..).trans (if_neg hc.1)

/-- Cells written once each come to hold their words. -/
theorem cell_writeRow (xs : List (Nat × Word)) (nodup : (xs.map (·.1)).Nodup) (s : State) :
    ∀ x ∈ xs, (writeRow xs s).cell x.1 = x.2 := by
  induction xs generalizing s with
  | nil => simp
  | cons y ys ih =>
    intro x hx
    simp only [List.map_cons, List.nodup_cons] at nodup
    rcases List.mem_cons.1 hx with rfl | hx
    · calc (writeRow (x :: ys) s).cell x.1
          = ((s.setCell x.1 x.2).setChime x.1 0).cell x.1 := cell_writeRow_other ys x.1 nodup.1 _
        _ = x.2 := (State.cell_setCell ..).trans (if_pos rfl)
    · exact ih nodup.2 _ x hx

/-- What a step writes and frees, cell by cell. -/
def StepPlan.row (plan : StepPlan) : List (Nat × Word) := plan.writes.map (fun x => (x.dest, x.word)) ++ plan.frees.map fun c => (c, 0)

theorem StepPlan.row_cells (plan : StepPlan) : plan.row.map (·.1) = plan.writes.map (·.dest) ++ plan.frees := by
  simp [StepPlan.row, Function.comp_def]

/-- Symbols without payload are written as they are, and blame nothing. -/
theorem putAll_plain (n id : Nat) (xs : List Placed) (plain : ∀ x ∈ xs, x.payload = none) (s : State) :
    putAll s n id xs = (writeRow (xs.map fun x => (x.dest, x.word)) s, none) := by
  unfold putAll
  induction xs generalizing s with
  | nil => rfl
  | cons x xs ih =>
    have put : putSymbol s n id x = ((s.setCell x.dest x.word).setChime x.dest 0, none) := by
      simp only [putSymbol, plain x (by simp)]
    simp only [List.foldl_cons, put]
    exact ih (fun y hy => plain y (by simp [hy])) _

theorem foldl_frees (cs : List Nat) (s : State) :
    cs.foldl (fun t c => (t.setCell c 0).setChime c 0) s = writeRow (cs.map fun c => (c, 0)) s := by
  rw [writeRow, List.foldl_map]

/-- The row of the stepping record alone, without a sweep and without a shift, stays. -/
theorem applyMoves_nil {s : State} {n : Nat} {p : Part} {r : Record} (hp : s.part n = some p) (hrec : p.records = [r])
    (hsweep : p.sweep = none) : applyMoves s n r.id [] = s.setPart n p := by
  have same : { p with records := [r], sweep := none } = p := by rw [← hrec, ← hsweep]
  simp only [applyMoves, List.map_nil, List.foldl_nil, State.modPart_eq hp, hrec, hsweep, Option.map_none, List.map_cons, if_true]
  rw [same]

/-! ## Agents that leave (R56) -/

theorem foldl_settleStores_idle (ags : List Agent) (idle : ∀ g ∈ ags, g.outs = []) (f : State → Agent → State) (s : State) :
    ags.foldl (fun t g => f (settleStores t g) g) s = ags.foldl f s := by
  induction ags generalizing s with
  | nil => rfl
  | cons g gs ih =>
    rw [List.foldl_cons, List.foldl_cons, settleStores_of_outs_nil s (idle g (by simp))]
    exact ih (fun h hh => idle h (by simp [hh])) _

/-- An agent leaves its core: its tiles are released, its chains are gone. -/
def leaveCore (s : State) (g : Agent) : State :=
  (releaseOwned s g.core g.slot).modCore g.core fun c =>
    { c with chains := c.chains.filter fun x => x.slot ≠ g.slot, passed := Tbl.drop c.passed g.slot }

theorem kept_leaveCore (s : State) (g : Agent) : s.Kept (leaveCore s g) := (kept_releaseOwned ..).trans (kept_setCore ..)

/-- Agents without accesses on their way go, and leave the partitions and the row as they were. -/
theorem dropAgents_idle {s : State} {n id : Nat} (idle : ∀ g ∈ s.agentsOf n id, g.outs = []) :
    (dropAgents s n id).parts = s.parts ∧ (dropAgents s n id).cells = s.cells ∧ (dropAgents s n id).agentsOf n id = [] := by
  have settled : s.Kept ((s.agentsOf n id).foldl (fun t g => leaveCore (settleStores t g) g) s) := by
    rw [foldl_settleStores_idle _ idle]
    exact State.Kept.foldl kept_leaveCore _ s
  refine ⟨settled.parts, settled.cells, ?_⟩
  have noneLeft : ∀ l : Tbl Agent, ((l.filter fun e => !(e.2.part = n && e.2.rid = id && e.2.slot < 64)).map (·.2)).filter
      (fun g => g.part = n ∧ g.rid = id ∧ g.slot < 64) = [] := by
    intro l
    simp only [List.filter_eq_nil_iff, List.mem_map, List.mem_filter]
    rintro g ⟨e, ⟨-, he⟩, rfl⟩
    simp only [Bool.not_eq_true', Bool.and_eq_false_iff, decide_eq_false_iff_not] at he
    simp only [decide_eq_true_eq]
    omega
  simp only [dropAgents, State.agentsOf, noneLeft, sortBy]

/-- The partition is found among equal ones. -/
theorem State.part_of_parts {s t : State} {n : Nat} {p : Part} (e : t.parts = s.parts) (h : s.part n = some p) : t.part n = some p := by
  rw [State.part, e]
  exact h

theorem kept_disarm (s : State) (n id : Nat) : s.Kept (disarm s n id) := ⟨⟨rfl, rfl, rfl, fun _ h => h⟩, rfl⟩

/-! ## The end of a record (R39) -/

/-- The partition without a record: it is in no list. -/
def Part.without (p : Part) (id : Nat) : Part :=
  { p.dropRec id with
    retained := p.retained.filter fun x => x.1 ≠ id
    stops := p.stops.filter fun x => x.rid ≠ id
    emitQ := p.emitQ.filter fun x => x.2 ≠ id
    aside := p.aside.filter (· ≠ id)
    urgent := p.urgent.filter fun x => x.1 ≠ id }

/-- The cycles of a record that ends count up to now, unless a stop holds it (R311). -/
def Record.counted (now : Nat) (r : Record) : Record := if r.stopped.isSome then r else r.countTo now

theorem Record.counted_id (r : Record) (now : Nat) : (r.counted now).id = r.id := by
  unfold Record.counted
  split
  · rfl
  · exact r.countTo_id now

theorem Part.only_only (p : Part) (a b : Record) : (p.only a).only b = p.only b := rfl

theorem kept_profileApp (s : State) (n : Nat) (p : Part) (r : Record) (final : RecState) : s.Kept (profileApp s n p r final) :=
  kept_appendRecord ..

/-- The only record of a partition ends, its agents gone with it. -/
theorem endRecord_single {s : State} {n : Nat} {p : Part} {r : Record} (hp : s.part n = some p) (hrec : p.records = [r])
    (idle : ∀ g ∈ s.agentsOf n r.id, g.outs = []) (final : RecState) : ∃ (d : State) (q : Record), q.id = r.id
      ∧ d.agentsOf n r.id = [] ∧ d.cells = s.cells ∧ d.Leaves n ((p.only q).without r.id) (endRecord s n r.id final) := by
  have hr : s.rec? n r.id = some r := (State.rec?_eq hp r.id).trans (Part.rec?_of_single hrec rfl)
  have counted := (State.Leaves.of_part hp).modSingle hrec rfl (Record.counted s.cycle)
  have found := counted.rec?_of_single rfl (r.counted_id s.cycle)
  have moved := counted.moveRec (Part.rec?_of_single rfl (r.counted_id s.cycle)) final (r.counted s.cycle).cause
  rw [Part.mapRec_of_single rfl (r.counted_id s.cycle), Part.only_only] at moved
  have profiled := moved.kept (kept_profileApp _ n (p.only ((r.counted s.cycle).movedTo s.cycle final)) (r.counted s.cycle) final)
  obtain ⟨parts, cells, gone⟩ := dropAgents_idle (n := n) (id := r.id) (by rwa [profiled.agentsOf])
  have dropped := (State.Leaves.of_part (State.part_of_parts parts profiled.part)).kept (kept_disarm _ n r.id)
  refine ⟨_, (r.counted s.cycle).movedTo s.cycle final, r.counted_id s.cycle, gone, cells.trans profiled.cells, ?_⟩
  have count : (s.modRec n r.id fun r => if r.stopped.isSome = true then r else r.countTo s.cycle) =
    s.modRec n r.id (Record.counted s.cycle) := rfl
  simp only [endRecord, hp, hr, count, found, Option.getD_some, moved.part]
  exact dropped.modPart fun p => p.without r.id

/-! ## The completion of a step (R39, R59) -/

theorem State.Beside.setPart {s t : State} (h : s.Beside t) (n : Nat) (q : Part) : s.Beside (t.setPart n q) :=
  h.trans ⟨rfl, rfl, rfl, fun _ k => k⟩

/-- The start of a sweep leaves the agents, the row and the clock. -/
theorem beside_startSweep (s : State) (n : Nat) : s.Beside (startSweep s n) := by
  have put : ∀ {t : State}, s.Beside t → ∀ q k, s.Beside (sched (t.setPart n q) k (.sweepComplete n)) := fun h q k =>
    (h.setPart n q).trans (kept_sched ..).toBeside
  have more : ∀ {t : State} (c : Prop) [Decidable c] (i : Instr), s.Beside t → s.Beside (if c then schedOnce t 0 i else t) := by
    intro t c _ i h
    split
    · exact h.trans (kept_schedOnce ..).toBeside
    · exact h
  have written : ∀ {t : State} (c : Prop) [Decidable c] (b : Word) (l : List Byte), s.Beside t →
      s.Beside (if c then appendRecord t b l else t) := by
    intro t c _ b l h
    split
    · exact h.trans (kept_appendRecord ..).toBeside
    · exact h
  unfold startSweep
  split
  · exact .refl s
  · split
    · exact .refl s
    · split
      · exact (State.Beside.refl s).setPart ..
      · refine more _ _ (more _ _ (put (written _ _ _ ?_) _ _))
        split
        · exact .refl s
        · exact (kept_appendRecord ..).toBeside

/-- A row without records has none to wake or to place again. -/
theorem enterCores_empty {s : State} {n : Nat} {p : Part} (hp : s.part n = some p) (hrec : p.records = []) (old : State) :
    enterCores old s n = s := by
  simp only [enterCores, hp, hrec, List.filter_nil, List.foldl_nil]

theorem wakeAdmitted_empty {s : State} {n : Nat} {p : Part} (hp : s.part n = some p) (hrec : p.records = []) :
    wakeAdmitted s n = s := by
  simp only [wakeAdmitted, hp, hrec, List.filter_nil, List.foldl_nil]

/-- A completed step leads to the next ones: the record gone, the root sweeps, takes up a step and selects again. -/
def afterStep (n : Nat) (s : State) : State := wakeRoot (schedOnce (startSweep s n) 0 (.storageStep n)) n

theorem afterStep_begins {s : State} {n : Nat} {p : Part} (hp : s.part n = some p) (hpre : p.pre = .none) (hsweep : p.sweep = none) :
    s.Beside (afterStep n s) ∧ (∃ tab com stop, (afterStep n s).part n = some (p.inSweep s n tab com stop))
      ∧ pendingEvent (afterStep n s) (.storageStep n) = true ∧ pendingEvent (afterStep n s) (.admission n) = true
      ∧ pendingEvent (afterStep n s) (.sweepComplete n) = true := by
  obtain ⟨⟨tab, com, stop, hpart⟩, -, sweeps⟩ := startSweep_begins hp hpre hsweep
  have begun := (State.Leaves.of_part hpart).kept (kept_schedOnce _ 0 (.storageStep n))
  have woken := begun.kept (kept_wakeRoot _ n)
  exact ⟨(beside_startSweep s n).trans woken.toBeside, ⟨tab, com, stop, woken.part⟩,
    (kept_wakeRoot ..).pending _ (pendingEvent_schedOnce_self ..), pendingEvent_wakeRoot begun.part, woken.pending _ sweeps⟩

/-- The partition with its step over. -/
def Part.stepped (p : Part) : Part := { p with stepNow := none, pealSteps := p.pealSteps + 1 }

section

variable {s : State} {n : Nat} {p : Part} {r : Record} {plan : StepPlan} (hp : s.part n = some p) (hrec : p.records = [r])
  (hsweep : p.sweep = none)

/-- The row as the step has written it. -/
def stepRow (s : State) (n : Nat) (p : Part) (plan : StepPlan) : State := (writeRow plan.row (s.setPart n p)).setPart n p.stepped

theorem cell_stepRow (nodup : (plan.writes.map (·.dest) ++ plan.frees).Nodup) :
    (∀ x ∈ plan.writes, (stepRow s n p plan).cell x.dest = x.word) ∧ (∀ c ∈ plan.frees, (stepRow s n p plan).cell c = 0)
      ∧ ∀ c, c ∉ plan.writes.map (·.dest) ++ plan.frees → (stepRow s n p plan).cell c = s.cell c := by
  rw [← plan.row_cells] at nodup ⊢
  have written := cell_writeRow plan.row nodup (s.setPart n p)
  refine ⟨fun x hx => written (x.dest, x.word) ?_, fun c hc => written (c, 0) ?_, fun c hc => cell_writeRow_other plan.row c hc _⟩
  · exact List.mem_append_left _ (List.mem_map.2 ⟨x, hx, rfl⟩)
  · exact List.mem_append_right _ (List.mem_map.2 ⟨c, hc, rfl⟩)

include hp hrec hsweep

/-- A step of emissions without payloads, that shifts nothing, writes its row; its record ends, and the root goes on. -/
theorem exec_storageStepComplete (now : p.stepNow = some plan) (due : plan.doneAt ≤ s.cycle) (own : plan.rid = r.id)
    (emits : plan.kind = .emit) (still : plan.moves = []) (plain : ∀ x ∈ plan.writes, x.payload = none) :
    exec (.storageStepComplete n) s = .next (afterStep n
      (wakeAdmitted (enterCores s (endRecord (stepRow s n p plan) n r.id .done) n) n)) := by
  have part : (writeRow plan.row (s.setPart n p)).part n = some p := (writeRow_part ..).trans (State.part_setPart ..)
  have row : writeRow (plan.frees.map fun c => (c, 0)) (writeRow (plan.writes.map fun x => (x.dest, x.word)) (s.setPart n p)) =
      writeRow plan.row (s.setPart n p) := (writeRow_append ..).symm
  show execStorageStepComplete n s = _
  simp only [execStorageStepComplete, hp, now, if_neg (Nat.not_lt.2 due), still, own, emits, applyMoves_nil hp hrec hsweep,
    putAll_plain n r.id plan.writes plain, foldl_frees, row, State.modPart_eq part, Bool.false_eq_true, if_false]
  rfl

end

/-! ## Cancels (R56, R57, R69) -/

section

variable {s : State} {n : Nat} {p : Part} {r : Record} (hp : s.part n = some p) (hpre : p.pre = .none) (hrec : p.records = [r])
  (undecided : p.doomed r.id = false)

include hp hpre hrec undecided

/-- What a cancel comes to where the record's end is open, unfolded once. -/
theorem exec_cancelEffect : exec (.cancelEffect n r.id) s = .next (
    if r.state = .faulted ∨ r.rowFull = true then s.modRec n r.id fun q => { q with cancelHeld := true }
    else if r.state = .running ∧ lastDoneDue s n r.id = true then
      schedOnce (s.setPart n { p with cancelNow := p.cancelNow ++ [r.id] }) 0 (.storageStep n)
    else cancelNow s n r.id) := by
  show execCancelEffect n r.id s = _
  simp only [execCancelEffect, hp, Part.rec?_of_single hrec rfl, undecided, PrePhase.stopped, hpre, Bool.false_eq_true, if_false]

/-- That of a trapped record waits for the handler. -/
theorem exec_cancelEffect_held (trapped : r.state = .faulted ∨ r.rowFull = true) :
    exec (.cancelEffect n r.id) s = .next (s.setPart n { p with records := [{ r with cancelHeld := true }] }) := by
  rw [exec_cancelEffect hp hpre hrec undecided, if_pos trapped, State.modRec, State.modPart_eq hp]
  simp [hrec, mapIf]

/-- One in the cycle of the last agent's DONE acts behind the issue of the cycle. -/
theorem exec_cancelEffect_lastDone (row : r.rowFull = false) (running : r.state = .running) (last : lastDoneDue s n r.id = true) :
    exec (.cancelEffect n r.id) s =
      .next (schedOnce (s.setPart n { p with cancelNow := p.cancelNow ++ [r.id] }) 0 (.storageStep n)) := by
  rw [exec_cancelEffect hp hpre hrec undecided, if_neg (by simp [running, row]), if_pos ⟨running, last⟩]

/-- Any other acts now. -/
theorem exec_cancelEffect_now (sound : r.state ≠ .faulted) (row : r.rowFull = false)
    (early : r.state = .running → lastDoneDue s n r.id = false) :
    exec (.cancelEffect n r.id) s = .next (cancelNow s n r.id) := by
  have notLast : ¬ (r.state = .running ∧ lastDoneDue s n r.id = true) := fun h => by simp [early h.1] at h
  rw [exec_cancelEffect hp hpre hrec undecided, if_neg (by simp [sound, row]), if_neg notLast]

end

/-! A row stop that lapses (R308, R310) lets the engine of a core go on, which concerns cores and the agenda alone. -/

theorem kept_pump (s : State) (core : Nat) : s.Kept (pump s core) := by
  unfold pump
  dsimp only
  split
  · exact .refl s
  · split
    · exact .refl s
    · exact kept_schedOnce ..
  · split
    · exact .refl s
    · exact kept_schedOnce ..
  · exact kept_schedOnce ..

theorem kept_pumpCopies (s : State) (core : Nat) : s.Kept (pumpCopies s core) := by
  refine State.Kept.foldl (fun t x => ?_) _ s
  dsimp only
  split
  · split
    · exact .refl t
    · exact (kept_setCore ..).trans (kept_sched ..)
  · split
    · exact .refl t
    · exact (kept_setCore ..).trans (kept_sched ..)
  · exact .refl t

theorem kept_rowLapse (s : State) (core : Nat) : s.Kept (rowLapse s core) := by
  simp only [rowLapse]
  split
  · exact .refl s
  · exact (((kept_setCore ..).trans (kept_pump ..)).trans (kept_pumpCopies ..)).trans (kept_pumpRels ..)

/-- The partition with the ERR step of a record ahead of every other step. -/
def Part.erring (p : Part) (id : Nat) (w : Word) (final : RecState) : Part :=
  { p with
    urgent := (id, .err w final) :: p.urgent.filter fun x => x.1 ≠ id
    emitQ := p.emitQ.filter fun x => x.2 ≠ id
    aside := p.aside.filter (· ≠ id) }

/-- The partition with a record cancelled: its stops have lapsed, its granules are free. -/
def Part.freed (now id : Nat) (p : Part) : Part :=
  { p with
    stops := p.stops.filter fun x => x.rid ≠ id
    records := mapIf (fun x => x.id = id) (fun x => { x with
      admittedAt := if x.stopped.isSome then now else x.admittedAt
      stopped := none, cancelHeld := false, freed := true }) p.records }

/-- A cancel that acts is the ERR step of its cause, behind which the row stops of the record lapse. -/
theorem cancelNow_eq (s : State) (n id : Nat) : ∃ rows, cancelNow s n id =
    wakeRoot (List.foldl rowLapse ((disarm (errStep s n id 0x143 .cancelled) n id).modPart n (Part.freed s.cycle id)) rows) n := ⟨_, rfl⟩

/-- The ERR of a record, at the place of its APP (R18). -/
def errOf (s : State) (r : Record) (cause : Nat) : Word := errWord cause r.id (symDepth (s.cell r.seat)) (symNode (s.cell r.seat))

section

variable {s : State} {n : Nat} {p : Part} {r : Record} (hp : s.part n = some p) (hr : p.rec? r.id = some r)
  (idle : ∀ g ∈ s.agentsOf n r.id, g.outs = [])

include hp hr idle

/-- The agents of the record go, and its ERR step is the next one. -/
theorem errStep_leaves (cause : Nat) (final : RecState) :
    (dropAgents s n r.id).Leaves n (p.erring r.id (errOf s r cause) final) (errStep s n r.id cause final)
      ∧ pendingEvent (errStep s n r.id cause final) (.storageStep n) = true := by
  obtain ⟨parts, -, -⟩ := dropAgents_idle idle
  have erring := (State.Leaves.of_part (State.part_of_parts parts hp)).modPart fun q => q.erring r.id (errOf s r cause) final
  simp only [errStep, State.rec?_eq hp, hr]
  exact ⟨erring.kept (kept_schedOnce ..), pendingEvent_schedOnce_self ..⟩

/-- A cancel that acts leaves one ERR to be written, and no agent; the row stands until the step. -/
theorem cancelNow_leaves : ∃ q, (cancelNow s n r.id).part n = some q ∧ (r.id, .err (errOf s r 0x143) .cancelled) ∈ q.urgent
    ∧ (cancelNow s n r.id).agentsOf n r.id = [] ∧ pendingEvent (cancelNow s n r.id) (.storageStep n) = true
    ∧ (cancelNow s n r.id).cells = s.cells := by
  obtain ⟨-, cells, gone⟩ := dropAgents_idle idle
  obtain ⟨erring, pending⟩ := errStep_leaves hp hr idle 0x143 .cancelled
  obtain ⟨rows, acts⟩ := cancelNow_eq s n r.id
  have freed := ((State.Leaves.of_part erring.part).kept (kept_disarm _ n r.id)).modPart (Part.freed s.cycle r.id)
  have lapsed := (freed.kept (State.Kept.foldl kept_rowLapse rows _)).kept (kept_wakeRoot _ n)
  have after := erring.toBeside.trans lapsed.toBeside
  rw [acts]
  exact ⟨_, lapsed.part, .head _, (after.agentsOf n r.id).trans gone, lapsed.pending _ pending, after.cells.trans cells⟩

end

end Sys2Proof.Machine

section

open Sys2Proof Sys2Proof.Machine

/-- Settles O41: a step at hand is tried in its outcomes, one that completes writes its row and ends its record, a cancel acts, waits or
is put behind the issue of the cycle. -/
theorem steps : Obligations.Steps := by
  unfold Obligations.Steps
  refine ⟨?_, fun s n p r hp hpre hrec idle => ⟨?_, ?_, fun undecided => ⟨exec_cancelEffect_held hp hpre hrec undecided,
    exec_cancelEffect_lastDone hp hpre hrec undecided, fun sound row early => ?_⟩⟩⟩
  · intro s n p r c hp hpre alone emitting step urgent line aside raised noCancel tests
    have hr : p.taking.rec? r.id = some r := Part.rec?_of_alone alone
    have hu : (s.setPart n p.taking).part n = some p.taking := State.part_setPart ..
    rw [exec_storageStep_tries hp hpre step urgent alone noCancel line aside]
    refine ⟨fun plan whole tried => ?_, fun whole tried => ?_, fun whole tried => ?_, fun odd => ?_⟩
    · obtain ⟨left, pending⟩ := tryStep_starts hu hr whole tests tried
      exact ⟨_, _, rfl, left.part, rfl, by simp [Part.unlined, Part.taking, line], pending, left.cells⟩
    · rw [tryStep_waits hu hr whole tried, State.setPart_setPart]
      simp [Part.unlined, Part.taking, line, aside, urgent]
    · obtain ⟨x, q, cause, left, traps, found⟩ := tryStep_full hu hr whole tried
      exact ⟨_, q, rfl, left.part, found, by simp [traps, Part.taking, raised, cause]⟩
    · obtain ⟨x, q, cause, left, traps, found⟩ := tryStep_malformed hu hr odd
      exact ⟨_, q, rfl, left.part, emitting ▸ found, by simp [traps, Part.taking, raised, cause]⟩
  · intro plan now due own emits still plain nodup hsweep
    have part : (stepRow s n p plan).part n = some p.stepped := State.part_setPart ..
    have agents : (stepRow s n p plan).agentsOf n r.id = s.agentsOf n r.id := writeRow_agentsOf plan.row (s.setPart n p) n r.id
    obtain ⟨d, q, hid, gone, cells, ends⟩ := endRecord_single part hrec (by rwa [agents]) .done
    have empty : ((p.stepped.only q).without r.id).records = [] := by simp [Part.without, Part.dropRec, Part.only, hid]
    obtain ⟨beside, ⟨tab, com, stop, after⟩, pending⟩ := afterStep_begins ends.part hpre hsweep
    obtain ⟨written, freed, others⟩ := cell_stepRow (s := s) (n := n) (p := p) nodup
    have left := ends.toBeside.trans beside
    have row : ∀ c, (afterStep n (endRecord (stepRow s n p plan) n r.id .done)).cell c = (stepRow s n p plan).cell c := fun c => by
      rw [left.home_cell, State.cell, State.cell, cells]
    rw [exec_storageStepComplete hp hrec hsweep now due own emits still plain, enterCores_empty ends.part empty,
      wakeAdmitted_empty ends.part empty]
    exact ⟨_, _, rfl, after, rfl, empty, (left.agentsOf n r.id).trans gone,
      fun x hx => (row _).trans (written x hx), fun c hc => (row c).trans (freed c hc), fun c hc => (row c).trans (others c hc), pending⟩
  · intro plan tests step urgent line aside whole p1 u tried
    have alone := Part.filter_id_of_single hrec
    obtain ⟨left, pending⟩ := tryStep_starts (State.part_setPart s n p1) (Part.rec?_of_alone alone) whole tests tried
    exact ⟨_, _, exec_stepRetryAfterFixed_tries hp hpre step urgent alone line aside, left.part, rfl,
      by simp [Part.unlined, p1, aside], pending, left.cells⟩
  · rw [exec_cancelEffect_now hp hpre hrec undecided sound row early]
    obtain ⟨q, left⟩ := cancelNow_leaves hp (Part.rec?_of_single hrec rfl) idle
    exact ⟨_, q, rfl, left⟩

end

/-! PROOF. O6, O7, O47: branches, calls and returns, the hardware loops, the special registers. -/

namespace Sys2Proof.Machine

open Sys2Proof

/-! ## Meanings that end in registers or in a cause -/

section

variable {s : State} {g h : Agent} {i : Instr} {f : Agent → Eff} (a : s.atTurn g) (hi : exec i s = agentOp s f)
include a hi

theorem runsTo_of_ok (e : f g = .ok h) : runsTo i s g h := hi.trans (agentOp_ok a f e)

theorem takesFault_of_fault {c : Nat} (e : f g = .fault g c) : takesFault i s g c :=
  ⟨0, 0xFFFFFFFF, .inr (hi.trans (agentOp_trap a f e))⟩

/-! ## BRANCH (R317) -/

variable {t : Word} {k : Agent → Agent} (e : f g = branchTo s g t k)
include e

theorem runsTo_branch (inside : t.toNat < s.nwords g) : runsTo i s g { k g with pc := t.toNat } :=
  runsTo_of_ok a hi (e.trans (if_neg (by omega)))

theorem takesFault_branch (beyond : s.nwords g ≤ t.toNat) : takesFault i s g 0x0D :=
  takesFault_of_fault a hi (e.trans (if_pos beyond))

end

theorem exec_br (h : Hint) (off : BitVec 44) (s : State) :
    exec (.br h off) s = agentOp s fun g => branchTo s g (target g off) id := rfl

theorem exec_brx (r : Reg) (s : State) : exec (.brx r) s = agentOp s fun g => branchTo s g (g.sr r) id := rfl

theorem exec_call (h : Hint) (l : Reg) (off : BitVec 44) (s : State) :
    exec (.call h l off) s = agentOp s fun g => branchTo s g (target g off) (fun q => q.setS l (BitVec.ofNat 64 (q.pc + 1))) := rfl

theorem exec_ret (r : Reg) (s : State) : exec (.ret r) s = agentOp s fun g => branchTo s g (g.sr r) id := rfl

/-! ## NOP and YIELD (R107, R435) -/

theorem runsTo_yield {s : State} {g : Agent} (a : s.atTurn g) : runsTo .yield s g { g.next with wakeAt := s.cycle + 2 } :=
  agentOp_ok a (fun g => .ok { g.next with wakeAt := s.cycle + 2 }) rfl

theorem runsTo_nop {s : State} {g : Agent} (a : s.atTurn g) : runsTo .nop s g g.next := by
  obtain ⟨turn, found⟩ := a
  have found' : s.agent (agentKey g.core g.slot) = some g := found
  change execNop s = _
  simp [execNop, turn, found']

/-! ## LOOP (R77, R371) -/

/-- The counters behind one pass of a loop. -/
def Agent.looped (n : Fin 4) (g : Agent) : Agent := { g with lc := g.lc.set n (g.lc[n] - 1), li := g.li.set n (g.li[n] + 1) }

/-- What LOOP comes to, by the count that it finds. -/
def loopEff (s : State) (n : Fin 4) (off : BitVec 44) (g : Agent) : Eff :=
  if g.lc[n] = 0 then .ok g.next else if g.lc[n] = 1 then .ok (g.looped n).next else branchTo s g (target g off) (·.looped n)

theorem exec_loop (h : Hint) (n : Fin 4) (off : BitVec 44) (s : State) : exec (.loop h n off) s = agentOp s (loopEff s n off) := rfl

theorem loopEff_more {s : State} {n : Fin 4} {off : BitVec 44} {g : Agent} (more : 1 < g.lc[n].toNat) :
    loopEff s n off g = branchTo s g (target g off) (·.looped n) := by
  have zero : g.lc[n] ≠ 0 := fun z => by simp [z] at more
  have one : g.lc[n] ≠ 1 := fun z => by simp [z] at more
  rw [loopEff, if_neg zero, if_neg one]

/-! ## MFS and MTS (R74 to R76, R374) -/

theorem runsTo_mfs {s : State} {g : Agent} (a : s.atTurn g) {n : BitVec 6} {v : Word} (e : readSpecial s g n.toNat = some v) (d : Reg) :
    runsTo (.mfs d n) s g (g.setS d v).next :=
  (onAgent_at a _).trans (by rw [e])

theorem takesFault_mfs {s : State} {g : Agent} (a : s.atTurn g) {n : BitVec 6} (e : readSpecial s g n.toNat = none) (d : Reg) :
    takesFault (.mfs d n) s g 0x25 :=
  ⟨0, 0xFFFFFFFF, .inl ((onAgent_at a _).trans (by rw [e]))⟩

theorem runsTo_mts {s : State} {g h : Agent} (a : s.atTurn g) {n : BitVec 6} {r : Reg} (e : writeSpecial g n.toNat (g.sr r) = some h) :
    runsTo (.mts n r) s g h.next :=
  agentOp_ok a _ (by rw [e])

theorem takesFault_mts {s : State} {g : Agent} (a : s.atTurn g) {n : BitVec 6} {r : Reg} (e : writeSpecial g n.toNat (g.sr r) = none) :
    takesFault (.mts n r) s g 0x25 :=
  ⟨0, 0xFFFFFFFF, .inr (agentOp_trap a _ (by rw [e]; rfl))⟩

/-- `%lcN` takes a value below 2^32 and clears `%liN` (R77). -/
theorem writeSpecial_lc (g : Agent) (i : Fin 4) (v : Word) : writeSpecial g (0x20 + i.val) v =
    if v.toNat < 2 ^ 32 then some { g with lc := g.lc.set i (v.truncate 32), li := g.li.set i 0 } else none := by
  unfold writeSpecial
  repeat refine (if_neg (by omega)).trans ?_
  refine (dif_pos (by omega)).trans ?_
  simp only [Nat.add_sub_cancel_left]

theorem toNat_ofNat6 {n : Nat} (h : n < 64) : (BitVec.ofNat 6 n).toNat = n := by simp; omega

end Sys2Proof.Machine

section

open Sys2Proof Sys2Proof.Machine

/-- Settles O6: each branch is BRANCH(t) of its target, inside the operator or beyond it. -/
theorem controlFlow : Obligations.ControlFlow := by
  unfold Obligations.ControlFlow
  refine ⟨fun s g a => ⟨fun h off => ?_, fun h l off => ?_, fun r => ?_⟩, fun s g a => ⟨runsTo_nop a, runsTo_yield a⟩⟩
  · exact ⟨runsTo_branch a (exec_br h off s) rfl, takesFault_branch a (exec_br h off s) rfl⟩
  · exact ⟨runsTo_branch a (exec_call h l off s) rfl, takesFault_branch a (exec_call h l off s) rfl⟩
  · exact ⟨fun inside => ⟨runsTo_branch a (exec_brx r s) rfl inside, runsTo_branch a (exec_ret r s) rfl inside⟩,
      fun beyond => ⟨takesFault_branch a (exec_brx r s) rfl beyond, takesFault_branch a (exec_ret r s) rfl beyond⟩⟩

/-- Settles O7: LOOP by the count that it finds; MTS as any write of a special register. -/
theorem hardwareLoops : Obligations.HardwareLoops := by
  unfold Obligations.HardwareLoops
  refine fun s g a n => ⟨fun h off => ⟨fun zero => ?_, fun one => ?_, fun more => ?_, fun more => ?_⟩, fun r low => ?_⟩
  · exact runsTo_of_ok a (exec_loop h n off s) (if_pos zero)
  · exact runsTo_of_ok a (exec_loop h n off s) (by simp [loopEff, one, Agent.looped])
  · exact runsTo_branch a (exec_loop h n off s) (loopEff_more more)
  · exact takesFault_branch a (exec_loop h n off s) (loopEff_more more)
  · refine runsTo_mts a ?_
    rw [toNat_ofNat6 (by omega), writeSpecial_lc, if_pos low]

end

/-! PROOF. O47: the special registers, number by number, and the values that they take. -/

namespace Sys2Proof.Machine

open Sys2Proof

/-! ## MFS (R74 to R76) -/

theorem Vector.getD_toList {α : Type} {n : Nat} (v : Vector α n) (i : Fin n) (d : α) : v.toList.getD i d = v[i] := by
  simp [List.getD]

section

variable (s : State) (g : Agent)

theorem readSpecial_lc (i : Fin 4) : readSpecial s g (0x20 + i.val) = some (g.lc[i].zeroExtend 64) := by
  unfold readSpecial
  repeat refine (if_neg (by omega)).trans ?_
  refine (if_pos (by omega)).trans ?_
  simp only [Nat.add_sub_cancel_left, Vector.getD_toList]

theorem readSpecial_li (i : Fin 4) : readSpecial s g (0x24 + i.val) = some (g.li[i].zeroExtend 64) := by
  unfold readSpecial
  repeat refine (if_neg (by omega)).trans ?_
  refine (if_pos (by omega)).trans ?_
  simp only [Nat.add_sub_cancel_left, Vector.getD_toList]

theorem readSpecial_stats (i : Fin 8) : readSpecial s g (0x28 + i.val) = some ((s.core g.core).stats[i].zeroExtend 64) := by
  unfold readSpecial
  repeat refine (if_neg (by omega)).trans ?_
  refine (if_pos (by omega)).trans ?_
  simp only [Nat.add_sub_cancel_left, Vector.getD_toList]

/-- The numbers that R75 and R76 leave reserved. -/
theorem readSpecial_reserved {n : Nat} (h : 9 ≤ n ∧ n < 0x10 ∨ 0x18 ≤ n ∧ n < 0x20 ∨ 0x32 ≤ n ∧ n < 0x38 ∨ 0x39 ≤ n) :
    readSpecial s g n = none := by
  unfold readSpecial
  repeat refine (if_neg (by omega)).trans ?_
  rfl

end

/-- The numbers that cell agents alone have, and the one of the service agent (R74, R76). -/
theorem readSpecial_shared (s : State) (g : Agent) : readSpecial s g 0 = (if g.service then some 0 else some (BitVec.ofNat 64 g.cell))
    ∧ readSpecial s g 1 = (if g.service then some 0 else some (BitVec.ofNat 64 g.alen))
    ∧ readSpecial s g 4 = (if g.service then some 0 else some (BitVec.ofNat 64 g.node))
    ∧ readSpecial s g 5 = (if g.service then some 0 else some (BitVec.ofNat 64 g.depth))
    ∧ readSpecial s g 6 = (if g.service then some 0 else some (BitVec.ofNat 64 (2 ^ 63 + 4096 * (g.lcell % 64))))
    ∧ readSpecial s g 0x38 = (if g.service then some g.trec else none) :=
  ⟨rfl, rfl, rfl, rfl, rfl, by simp [readSpecial]⟩

theorem readSpecial_part {s : State} {g : Agent} {p : Part} (hp : s.part g.part = some p) :
    readSpecial s g 2 = some (BitVec.ofNat 64 (p.logical g.core))
    ∧ readSpecial s g 8 = some (BitVec.ofNat 64 (p.logical g.part % 4096 + 4096 * p.j)) := by
  simp [readSpecial, hp, Part.tag, Part.logFirst]

/-! ## MTS (R75, R118, R144, R145) -/

theorem mts_writes {s : State} {g h : Agent} (a : s.atTurn g) {n : BitVec 6} {r : Reg} {P c : Prop} [Decidable P]
    (e : writeSpecial g n.toNat (g.sr r) = if P then some h else none) (allowed : P ↔ c) :
    (c → runsTo (.mts n r) s g h.next) ∧ (¬ c → takesFault (.mts n r) s g 0x25) :=
  ⟨fun yes => runsTo_mts a (e.trans (if_pos (allowed.mpr yes))), fun no => takesFault_mts a (e.trans (if_neg (no ∘ allowed.mp)))⟩

theorem writeSpecial_reserved (g : Agent) {n : Nat} (v : Word) (h : n < 0x10 ∨ 0x18 ≤ n ∧ n < 0x20 ∨ 0x24 ≤ n) :
    writeSpecial g n v = none := by
  unfold writeSpecial
  repeat refine (if_neg (by omega)).trans ?_
  exact dif_neg (by omega)

/-- `%ftrap` has bits 0 to 3 and 5. -/
theorem ftrapBits (v : Word) : v &&& ~~~0x2F#64 = 0 ↔ ∀ i < 64, v.getLsbD i = true → i < 6 ∧ i ≠ 4 := by
  have mask : ∀ i < 64, (~~~0x2F#64).getLsbD i = !(decide (i < 6) && decide (i ≠ 4)) := by decide
  have set : ∀ i < 64, (v &&& ~~~0x2F#64).getLsbD i = (v.getLsbD i && !(decide (i < 6) && decide (i ≠ 4))) := fun i hi => by
    rw [BitVec.getLsbD_and, mask i hi]
  constructor
  · intro e i hi on
    have := set i hi
    rw [e, on] at this
    simpa using this
  · intro h
    refine BitVec.eq_of_getLsbD_eq fun i hi => ?_
    have := h i hi
    rw [set i hi]
    cases on : v.getLsbD i <;> simp_all

theorem sclOk_iff (v : Word) : sclOk v = true ↔
    v.toNat / 2 ^ 62 ≠ 3 ∧ v.toNat / 2 ^ 20 % 2 ^ 42 = 0 ∧ (v.toNat / 2 ^ 62 = 1 ∨ v.toNat % 2 ^ 20 = 0) := by
  have low : bits v.toNat 62 2 = v.toNat / 2 ^ 62 := Nat.mod_eq_of_lt (by have := v.isLt; omega)
  simp [sclOk, low, and_assoc]
  simp [bits]

theorem tmsReserved_iff (w : W32) : tmsReserved w = true ↔
    bits w.toNat 24 2 = 3 ∨ bits w.toNat 16 8 ≠ 0 ∨ (bits w.toNat 30 2 = 0 ∧ bits w.toNat 0 16 = 0) := by
  simp [tmsReserved, or_assoc]

/-! `%mtol` is finite and not below zero (R144). -/

theorem Val.fin_lt_zero (neg : Bool) (m : Nat) (e : Int) : (Val.fin neg m e).lt (.zero false) = (neg && decide (m ≠ 0)) := by
  have zero : m * 2 ^ (e - min e 0).toNat = 0 ↔ m = 0 :=
    Nat.mul_eq_zero.trans (or_iff_left (Nat.pos_iff_ne_zero.mp (Nat.pow_pos (by decide))))
  change decide ((if neg then -1 else 1) * ((m * 2 ^ (e - min e 0).toNat : Nat) : Int) < 1 * ((0 * 2 ^ (0 - min e 0).toNat : Nat) : Int)) = _
  generalize m * 2 ^ (e - min e 0).toNat = p at zero
  rw [Nat.zero_mul]
  cases neg
  · simp only [Bool.false_eq_true, if_false, Bool.false_and, decide_eq_false_iff_not]
    omega
  · simp only [if_true, Bool.true_and, decide_eq_decide, ne_eq, ← zero]
    omega

/-- An image is a finite value with its sign bit exactly where its exponent is not all ones. -/
theorem val32_finite {x : W32} (h : x.toNat % 2 ^ 31 < 0x7F800000) :
    ∃ m e, val32 x = .fin (bit x.toNat 31) m e ∧ (m = 0 ↔ x.toNat % 2 ^ 31 = 0) := by
  have noInf : ¬ (2139095040 = x.toNat % 2147483648) := by omega
  have noNan : ¬ (2139095039 < x.toNat % 2147483648) := by omega
  by_cases sub : x.toNat % 2147483648 < 8388608
  · refine ⟨x.toNat % 2 ^ 31 % 2 ^ 23, _, by simp [val32, FD.decode, fd32, noInf, noNan, sub]; exact rfl, by omega⟩
  · refine ⟨x.toNat % 2 ^ 31 % 2 ^ 23 + 2 ^ 23, _, by simp [val32, FD.decode, fd32, noInf, noNan, sub]; exact rfl, by omega⟩

theorem finite32_beyond {x : W32} (h : 0x7F800000 ≤ x.toNat % 2 ^ 31) : finite32 x = false := by
  by_cases inf : 2139095040 = x.toNat % 2147483648
  · simp [finite32, val32, FD.decode, fd32, ← inf]
  · have nan : 2139095039 < x.toNat % 2147483648 := by omega
    simp [finite32, val32, FD.decode, fd32, inf, nan]

theorem mtolOk_iff (x : W32) : mtolOk x = true ↔ x.toNat ≤ 2 ^ 31 ∧ bits x.toNat 23 8 ≠ 255 := by
  have lt := x.isLt
  by_cases h : x.toNat % 2 ^ 31 < 0x7F800000
  · obtain ⟨m, e, hv, zero⟩ := val32_finite h
    simp [mtolOk, finite32, hv, Val.fin_lt_zero, bit, bits, zero]
    omega
  · have := finite32_beyond (by omega : 0x7F800000 ≤ x.toNat % 2 ^ 31)
    simp [mtolOk, this, bits]
    omega

/-- What `%tms` takes. -/
theorem tmsWritable_iff (v : Word) : (decide (v.toNat < 2 ^ 32) && !tmsReserved (v.truncate 32)) = true ↔ v.toNat < 2 ^ 32
    ∧ ¬ (bits (v.truncate 32 : W32).toNat 24 2 = 3 ∨ bits (v.truncate 32 : W32).toNat 16 8 ≠ 0
      ∨ (bits (v.truncate 32 : W32).toNat 30 2 = 0 ∧ bits (v.truncate 32 : W32).toNat 0 16 = 0)) := by
  rw [Bool.and_eq_true, decide_eq_true_iff, Bool.not_eq_true', ← Bool.not_eq_true, tmsReserved_iff]

/-- What `%mtol` takes. -/
theorem mtolWritable_iff (v : Word) : (decide (v.toNat < 2 ^ 32) && mtolOk (v.truncate 32)) = true ↔
    v.toNat ≤ 2 ^ 31 ∧ bits v.toNat 23 8 ≠ 255 := by
  rw [Bool.and_eq_true, decide_eq_true_iff, mtolOk_iff]
  have low : v.toNat < 2 ^ 32 → (v.truncate 32 : W32).toNat = v.toNat := fun h => by simp; omega
  constructor
  · rintro ⟨narrow, h⟩
    rwa [low narrow] at h
  · intro h
    have narrow : v.toNat < 2 ^ 32 := by omega
    exact ⟨narrow, by rwa [low narrow]⟩

end Sys2Proof.Machine

section

open Sys2Proof Sys2Proof.Machine

/-- Settles O47: each number by what it reads, each writable one by the values that it takes. -/
theorem specialRegisters : Obligations.SpecialRegisters := by
  unfold Obligations.SpecialRegisters
  intro s g a reads nat
  have shared := readSpecial_shared s g
  refine ⟨fun cell p _ => ?_, fun service => ?_, fun p hp => ?_, runsTo_mfs a rfl, runsTo_mfs a rfl, runsTo_mfs a rfl, runsTo_mfs a rfl,
    runsTo_mfs a rfl, runsTo_mfs a rfl, runsTo_mfs a rfl, runsTo_mfs a rfl, fun i => ⟨?_, ?_⟩, fun i => ?_, runsTo_mfs a rfl,
    runsTo_mfs a rfl, fun n reserved => takesFault_mfs a (readSpecial_reserved s g reserved), fun r => ?_⟩
  · simp only [cell] at shared
    obtain ⟨e0, e1, e4, e5, e6, none⟩ := shared
    exact ⟨runsTo_mfs a e0, runsTo_mfs a e1, runsTo_mfs a e4, runsTo_mfs a e5, runsTo_mfs a e6, takesFault_mfs a none⟩
  · simp only [service] at shared
    obtain ⟨e0, e1, e4, e5, e6, trec⟩ := shared
    exact ⟨runsTo_mfs a e0, runsTo_mfs a e1, runsTo_mfs a e4, runsTo_mfs a e5, runsTo_mfs a e6, runsTo_mfs a trec⟩
  · obtain ⟨core, part⟩ := readSpecial_part hp
    exact ⟨runsTo_mfs a core, runsTo_mfs a rfl, runsTo_mfs a rfl, runsTo_mfs a part⟩
  · exact runsTo_mfs a ((congrArg (readSpecial s g) (toNat_ofNat6 (by omega))).trans (readSpecial_lc s g i))
  · exact runsTo_mfs a ((congrArg (readSpecial s g) (toNat_ofNat6 (by omega))).trans (readSpecial_li s g i))
  · exact runsTo_mfs a ((congrArg (readSpecial s g) (toNat_ofNat6 (by omega))).trans (readSpecial_stats s g i))
  · intro v x writes scale tmsBad
    refine ⟨mts_writes a rfl .rfl, mts_writes a rfl .rfl, mts_writes a rfl (ftrapBits v), mts_writes a rfl .rfl, mts_writes a rfl (tmsWritable_iff v),
      mts_writes a rfl (sclOk_iff v), mts_writes a rfl (sclOk_iff v), mts_writes a rfl (mtolWritable_iff v), fun i => ?_,
      fun n reserved => takesFault_mts a (writeSpecial_reserved g v reserved)⟩
    exact mts_writes a ((congrArg (writeSpecial g · v) (toNat_ofNat6 (by omega))).trans (writeSpecial_lc g i v)) .rfl

end

/-! PROOF. O60: the state after reset. -/

namespace Sys2Proof.Machine

open Sys2Proof

/-! ## Homes of state after reset (R78, R136, R290 to R293) -/

theorem reset_core (c : Nat) : State.reset.core c = Core.reset := rfl

theorem reset_tile (i : Acc) : Core.reset.tile i = Tile.reset := Vector.getElem_replicate ..

theorem reset_port (g : Nat) : State.reset.port g = Port.reset := by
  unfold State.port
  split
  · exact Vector.getElem_replicate ..
  · rfl

end Sys2Proof.Machine

section

open Sys2Proof Sys2Proof.Machine

/-- Settles O60: every home of the reset state is empty, so that each entry stands at its own reset value. -/
theorem resetValues : Obligations.ResetValues := by
  unfold Obligations.ResetValues
  refine ⟨State.memOk_reset, fun _ => rfl, rfl, rfl, rfl, fun _ => rfl, fun c i => ?_, fun _ => ⟨rfl, rfl, rfl, rfl, rfl, rfl, rfl⟩,
    fun _ => ⟨rfl, rfl⟩, fun g => congrArg Port.state (reset_port g), by decide, by decide, rfl, rfl⟩
  rw [reset_core, reset_tile]
  exact ⟨rfl, rfl, rfl, rfl, rfl, rfl⟩

end

/-! PROOF. O17: class counts, and late faults at their agent's instruction boundary. -/

namespace Sys2Proof.Machine

open Sys2Proof

/-! ## Class counts (R89) -/

/-- Behind an operation of its class that stays, an operation stays; before any, the done ones leave. -/
theorem retire_filter (c : Cls) (l : List ClassOp) : ∀ held : List Cls, (retire held l).filter (fun o => o.cls = c) =
    if c ∈ held then l.filter (fun o => o.cls = c) else (l.filter fun o => o.cls = c).dropWhile ClassOp.done := by
  induction l with
  | nil => simp [retire]
  | cons o t ih =>
    intro held
    by_cases hc : o.cls = c
    · subst hc
      cases hd : o.done <;> by_cases hm : o.cls ∈ held <;> simp [retire, hd, hm, ih]
    · by_cases leaves : o.done && !(held.contains o.cls)
      · rw [retire, if_pos leaves, ih]; simp [hc]
      · rw [retire, if_neg leaves]; simp [ih, hc, Ne.symm hc]

/-! ## A late fault is detected (R436) -/

/-- It is held, and its event comes in this cycle. -/
theorem lateFault_holds {s : State} {g : Agent} (found : s.agent g.key = some g) (f : AFault) :
    (lateFault s g.key f).agent g.key = some { g with late := g.late ++ [f] }
    ∧ pendingEvent (lateFault s g.key f) (.lateFaultRaise g.core g.slot) = true := by
  simp only [lateFault, found]
  exact ⟨((kept_schedOnce ..).home_agent _).trans (State.agent_setAgent ..), pendingEvent_schedOnce_self ..⟩

/-- An agent whose one access has failed: the access is counted out, and stays where RESUME issues it again alone (R198). -/
def Agent.failed (g : Agent) (a : Access) (alone : Bool) : Agent :=
  { g.opDone a.id with outs := if alone then [{ a with phase := .faulted }] else [] }

theorem failAccess_eq {s : State} {g : Agent} {a : Access} (found : s.agent g.key = some g) (one : g.outs = [a]) (c : Nat) (addr : Word)
    (lane : Nat) (alone : Bool) : failAccess s g a c addr lane alone = lateFault (s.setAgent g.key (g.failed a alone)) g.key
      ⟨{ a.tr with cause := c, addr := addr, lane := lane }, if alone then some a.id else none, true⟩ := by
  cases alone
  · simp [failAccess, failWith, finishAccess_alone s g a found one, Agent.failed, Agent.over]
  · simp [failAccess, failWith, Agent.failed, Agent.modOut, Agent.opDone, mapIf, one]

/-! ## It is raised (R436) -/

section

variable {s : State} {g : Agent} {f : AFault} {l : List AFault} (found : s.agent g.key = some g) (late : g.late = f :: l)
include found late

/-- By whether the agent stands at a boundary of instructions, and its area goes on. -/
theorem exec_lateFaultRaise : exec (.lateFaultRaise g.core g.slot) s = .next (
    if ((((s.rec? g.part g.rid).map Record.frozen).getD false && g.stepLeft.isNone) && !g.service) || !g.atBoundary then s
    else agentFault (s.setAgent g.key { g with late := l }) { g with late := l } f) := by
  have found' : s.agent (agentKey g.core g.slot) = some g := found
  change execLateFaultRaise g.core g.slot s = _
  simp [execLateFaultRaise, found', late, Agent.key]

end

end Sys2Proof.Machine

section

open Sys2Proof Sys2Proof.Machine

/-- Settles O17: the retirement of a class is an induction over its operations; a failed access leaves a late fault, which its event
raises at the boundary. -/
theorem accessEnds : Obligations.AccessEnds := by
  unfold Obligations.AccessEnds
  refine ⟨fun c l => by simp [retire_filter], fun s g a c addr alone found one => ⟨?_, fun f l late => ⟨?_, ?_, ?_⟩⟩⟩
  · intro t k h
    have e : t = lateFault (s.setAgent g.key (g.failed a alone)) (g.failed a alone).key k := failAccess_eq found one c addr _ alone
    obtain ⟨held, pending⟩ := lateFault_holds (g := g.failed a alone) (State.agent_setAgent s g.key (g.failed a alone)) k
    exact ⟨e ▸ held, e ▸ pending, failAccess_mem ..⟩
  · intro running noRow goes
    rw [exec_lateFaultRaise found late, if_neg]
    rcases goes with service | thawed
    · simp [service, Agent.atBoundary, running, noRow]
    · simp [thawed, Agent.atBoundary, running, noRow]
  · intro under
    rw [exec_lateFaultRaise found late, if_pos]
    rcases under with status | row
    · simp [Agent.atBoundary, status]
    · simp [Agent.atBoundary, row]
  · intro cell noStep frozen
    rw [exec_lateFaultRaise found late, if_pos]
    simp [cell, noStep, frozen]

end

/-! PROOF. O24: accumulator tiles, taken and freed by their agents, exchanged and emptied by their engine. -/

namespace Sys2Proof.Machine

open Sys2Proof

/-! ## MACQ and MREL (R79, R80, R372, R380) -/

section

variable {s : State} {g : Agent} (a : s.atTurn g) (c : Acc)
include a

theorem exec_macq_free (free : ((s.core g.core).tile c).owner = none) : exec (.macq c) s = .next (
    if (s.core g.core).stats[c].getLsbD 31 then s
    else (s.setCore g.core ((s.core g.core).setTile c { ((s.core g.core).tile c).release with owner := some g.slot })).setAgent g.key
      g.next) := by
  refine (onAgent_at a _).trans (congrArg _ ?_)
  by_cases held : (s.core g.core).stats[c].getLsbD 31 = true
  · rw [if_pos held]
    simp only [tryMacq, free, heldAtStart]
    exact congrArg (attempt s g) (if_pos held)
  · rw [if_neg held]
    simp only [tryMacq, free, heldAtStart]
    exact congrArg (attempt s g) (if_neg held)

theorem exec_macq_owned {o : Nat} (owned : ((s.core g.core).tile c).owner = some o) :
    exec (.macq c) s = .next (if o = g.slot then s.setAgent g.key g.next else s) := by
  refine (onAgent_at a _).trans (congrArg _ ?_)
  simp only [tryMacq, owned]
  split <;> rfl

theorem exec_mrel_owned (owned : ((s.core g.core).tile c).owner = some g.slot) : exec (.mrel c) s = .next (
    if tileBusyFor (s.core g.core) g.slot g.nextId c then
      (s.setCore g.core { s.core g.core with mrels := (s.core g.core).mrels ++ [(g.slot, c, g.nextId)] }).setAgent g.key g.next
    else (s.setCore g.core ((s.core g.core).setTile c ((s.core g.core).tile c).release)).setAgent g.key g.next) := by
  refine (onAgent_at a _).trans (congrArg _ ?_)
  simp [owns, owned, State.modCore]

theorem takesFault_mrel (other : ((s.core g.core).tile c).owner ≠ some g.slot) : takesFault (.mrel c) s g 0x84 :=
  ⟨0, 0xFFFFFFFF, .inl ((onAgent_at a _).trans (by simp [owns, other]))⟩

end

theorem exec_mrelEffect {s : State} {core slot id : Nat} {c : Acc} (waits : (s.core core).mrels = [(slot, c, id)])
    (ended : tileBusyFor (s.core core) slot id c = false) : exec (.mrelEffect core c) s = .next (
      s.setCore core ({ s.core core with mrels := [] }.setTile c ((s.core core).tile c).release)) := by
  change execMrelEffect core c s = _
  simp [execMrelEffect, waits, ended]

/-! ## The next of the engine's queue, its copies and its releases (R142, R143) -/

/-- A core but for how far its copies have come. -/
def Core.bare (c : Core) : Core := { c with copies := [] }

theorem Core.fields_of_bare {c d : Core} (h : c.bare = d.bare) : c.queue = d.queue ∧ c.idleAt = d.idleAt ∧ c.timeline = d.timeline
    ∧ c.active = d.active ∧ c.shadow = d.shadow ∧ c.tiles = d.tiles := by
  simp only [Core.bare, Core.mk.injEq] at h
  simp [h]

/-- Cores stand as they did but for how far their copies have come, and so do memory and agents. -/
structure State.CopiesMove (s t : State) : Prop extends State.Kept s t where
  mem : t.mem = s.mem
  core : ∀ k, (t.core k).bare = (s.core k).bare

theorem State.CopiesMove.refl (s : State) : s.CopiesMove s := ⟨.refl s, rfl, fun _ => rfl⟩

theorem State.CopiesMove.trans {s t u : State} (h : s.CopiesMove t) (k : t.CopiesMove u) : s.CopiesMove u :=
  ⟨h.toKept.trans k.toKept, k.mem.trans h.mem, fun c => (k.core c).trans (h.core c)⟩

theorem State.CopiesMove.foldl {β : Type} {f : State → β → State} (hf : ∀ t x, State.CopiesMove t (f t x)) (l : List β) (s : State) :
    s.CopiesMove (l.foldl f s) :=
  foldl_inv s.CopiesMove f (fun t x ht => ht.trans (hf t x)) l s (.refl s)

theorem copiesMove_schedOnce (s : State) (n : Nat) (i : Instr) : s.CopiesMove (schedOnce s n i) :=
  ⟨kept_schedOnce .., schedOnce_mem .., fun k => by rw [State.core, State.core, schedOnce_cores]⟩

theorem copiesMove_setCopy (s : State) (core slot id n : Nat) (x : Copy) (i : Instr) :
    s.CopiesMove (sched (s.setCore core ((s.core core).setCopy slot id x)) n i) :=
  ⟨(kept_setCore ..).trans (kept_sched ..), rfl, fun k => by
    by_cases h : k = core
    · subst h; rw [sched_home_core, State.core_setCore]; rfl
    · rw [sched_home_core, State.core_setCore_other _ _ _ _ h]⟩

theorem copiesMove_pump (s : State) (core : Nat) : s.CopiesMove (pump s core) := by
  unfold pump
  dsimp only
  split
  · exact .refl s
  · split
    · exact .refl s
    · exact copiesMove_schedOnce ..
  · split
    · exact .refl s
    · exact copiesMove_schedOnce ..
  · exact copiesMove_schedOnce ..

theorem copiesMove_pumpCopies (s : State) (core : Nat) : s.CopiesMove (pumpCopies s core) := by
  refine State.CopiesMove.foldl (fun t x => ?_) _ s
  dsimp only
  split
  · split
    · exact .refl t
    · exact copiesMove_setCopy ..
  · split
    · exact .refl t
    · exact copiesMove_setCopy ..
  · exact .refl t

theorem copiesMove_pumpRels (s : State) (core : Nat) : s.CopiesMove (pumpRels s core) := by
  refine State.CopiesMove.foldl (fun t r => ?_) _ s
  split
  · exact .refl t
  · exact copiesMove_schedOnce ..

theorem copiesMove_pumpAll (s : State) (core : Nat) : s.CopiesMove (pumpAll s core) :=
  ((copiesMove_pump s core).trans (copiesMove_pumpCopies ..)).trans (copiesMove_pumpRels ..)

/-! ## MSWP_EFFECT and MZERO_EFFECT (R139, R143, R278) -/

theorem State.home_core_of_cores {s t : State} (e : t.cores = s.cores) (k : Nat) : t.core k = s.core k := by
  rw [State.core, State.core, e]

@[simp] theorem State.modAgent_cores (s : State) (k : Nat) (f : Agent → Agent) : (s.modAgent k f).cores = s.cores := by
  unfold State.modAgent; split <;> rfl

theorem State.agent_modAgent (s : State) (k : Nat) (f : Agent → Agent) : (s.modAgent k f).agent k = (s.agent k).map f := by
  unfold State.modAgent
  split
  · next g found => rw [State.agent_setAgent, found]; rfl
  · next none => rw [none]; rfl

/-- The state once the engine of a core has completed the operation at the head of its queue, the core being `x` by it. -/
def completeHead (s : State) (core slot id : Nat) (x : Core) : State := pumpAll (popHead (s.setCore core x) core slot id) core

/-- What completing an operation of the engine leaves: the operation counted out, the core as the operation has made it. -/
structure HeadCompleted (s : State) (core slot id : Nat) (x : Core) (t : State) : Prop where
  mem : t.mem = s.mem
  agent : t.agent (agentKey core slot) = (s.agent (agentKey core slot)).map fun g => g.opDone id
  queue : (t.core core).queue = x.queue.tail
  idleAt : (t.core core).idleAt = x.idleAt
  timeline : (t.core core).timeline = x.timeline
  active : (t.core core).active = x.active
  shadow : (t.core core).shadow = x.shadow
  tiles : (t.core core).tiles = x.tiles

theorem completeHead_completes (s : State) (core slot id : Nat) (x : Core) :
    HeadCompleted s core slot id x (completeHead s core slot id x) := by
  have moved := copiesMove_pumpAll (popHead (s.setCore core x) core slot id) core
  have popped : (popHead (s.setCore core x) core slot id).core core = { x with queue := x.queue.tail } := by
    rw [popHead, State.home_core_of_cores (State.modAgent_cores ..)]
    simp [State.modCore]
  obtain ⟨queue, idleAt, timeline, active, shadow, tiles⟩ := Core.fields_of_bare (popped ▸ moved.core core)
  exact ⟨moved.mem.trans (by simp [popHead]), (moved.home_agent _).trans (State.agent_modAgent ..), queue, idleAt, timeline, active,
    shadow, tiles⟩

theorem HeadCompleted.tile {s t : State} {core slot id : Nat} {x : Core} (h : HeadCompleted s core slot id x t) (u : Acc) :
    (t.core core).tile u = x.tile u := by
  rw [Core.tile, h.tiles, Core.tile]

section

variable {s : State} {core slot id : Nat} {rest : List QEntry} (runs : (s.core core).engineFrozen = false)
  (idle : (s.core core).idleAt ≤ s.cycle) (whole : cutHere s core slot id = false)
include runs idle whole

theorem exec_mswpEffect (head : (s.core core).queue = .mswp slot id :: rest) (loaded : mldbPending (s.core core) = false) :
    exec (.mswpEffect core) s = .next (completeHead s core slot id { s.core core with
      active := (s.core core).shadow, shadow := (s.core core).active, idleAt := s.cycle + 1, timeline := (s.core core).timeline + 1 }) := by
  change execMswpEffect core s = _
  simp [execMswpEffect, head, loaded, runs, whole, Nat.not_lt.mpr idle, completeHead]

theorem exec_mzeroEffect {u : Acc} (head : (s.core core).queue = .mzero slot id u :: rest) :
    exec (.mzeroEffect core) s = .next (completeHead s core slot id
      ({ s.core core with idleAt := s.cycle + 1, timeline := (s.core core).timeline + 1 }.setTile u
        { (s.core core).tile u with full := false, sat := false, int := false, words := zeroTile })) := by
  change execMzeroEffect core s = _
  simp [execMzeroEffect, head, runs, whole, Nat.not_lt.mpr idle, completeHead]

end

theorem Core.tile_setTile (c : Core) (u : Acc) (t : Tile) : (c.setTile u t).tile u = t := Vector.getElem_set_self ..

theorem Core.tile_setTile_other (c : Core) {u w : Acc} (h : w ≠ u) (t : Tile) : (c.setTile u t).tile w = c.tile w :=
  Vector.getElem_set_ne u.isLt w.isLt fun e => h (Fin.ext e.symm)

end Sys2Proof.Machine

section

open Sys2Proof Sys2Proof.Machine

/-- Settles O24: MACQ and MREL by the owner that they find, the effects by what completing the head of the queue leaves. -/
theorem tiles : Obligations.Tiles := by
  unfold Obligations.Tiles
  refine ⟨fun s g c a => ⟨fun free held => ?_, fun free held => ?_, fun owned => ⟨?_, fun ended => ?_, fun busy => ?_⟩,
    fun o owned other => ?_, takesFault_mrel a c, fun id waits ended => exec_mrelEffect waits ended⟩, ?_⟩
  · exact (exec_macq_free a c free).trans (by rw [if_pos held])
  · exact (exec_macq_free a c free).trans (by rw [if_neg (by rw [held]; decide)]; rfl)
  · exact (exec_macq_owned a c owned).trans (by rw [if_pos rfl])
  · exact (exec_mrel_owned a c owned).trans (by rw [if_neg (by simp [ended])]; rfl)
  · exact (exec_mrel_owned a c owned).trans (by rw [if_pos busy])
  · exact (exec_macq_owned a c owned).trans (by rw [if_neg other])
  · intro s core slot id rest c runs idle whole leaves
    refine ⟨fun head loaded => ⟨_, exec_mswpEffect runs idle whole head loaded, ?_⟩,
      fun u head => ⟨_, exec_mzeroEffect runs idle whole head, ?_⟩⟩
    · have h := completeHead_completes s core slot id { c with
        active := c.shadow, shadow := c.active, idleAt := s.cycle + 1, timeline := c.timeline + 1 }
      exact ⟨⟨h.queue.trans (congrArg List.tail head), h.idleAt, h.timeline, h.mem, h.agent⟩, h.active, h.shadow, h.tiles⟩
    · have h := completeHead_completes s core slot id ({ c with idleAt := s.cycle + 1, timeline := c.timeline + 1 }.setTile u
        { c.tile u with full := false, sat := false, int := false, words := zeroTile })
      exact ⟨⟨h.queue.trans (congrArg List.tail head), h.idleAt, h.timeline, h.mem, h.agent⟩, h.active, h.shadow,
        (h.tile u).trans (Core.tile_setTile ..), fun w other => (h.tile w).trans (Core.tile_setTile_other _ other _)⟩

end

/-! PROOF. O29: patterns, loops, checks, waits and signals of a stream context. -/

namespace Sys2Proof.Machine

open Sys2Proof

/-! ## A command of the context that has the turn (R175) -/

theorem onCtx_at {s : State} {e c : Nat} {x : Ctx} (h : s.ctxAt e c x) (f : Nat → Nat → Ctx → State) : onCtx s f = .next (f e c x) := by
  obtain ⟨turn, rfl⟩ := h
  simp [onCtx, turn]

/-- A context that has read through a translation entry holds it. -/
def Ctx.held (x : Ctx) (t : Option TlbEntry) : Ctx := { x with tlb := t, walked := false }

section

variable {s : State} {e c : Nat} {x : Ctx} (at_ : s.ctxAt e c x)

/-! ## NOP, SLOOP, SCHK and SSTOP (R175, R214, R399, R406) -/

include at_ in
theorem exec_nop_context :
    exec .nop s = .next (s.setCtx (ctxKey e c) { x.past with timeline := x.timeline + 1, wakeAt := s.cycle + 1 }) := by
  obtain ⟨turn, rfl⟩ := at_
  change execNop s = _
  simp only [execNop, turn]
  rfl

/-- The counter of a loop behind one pass. -/
def Ctx.looped (x : Ctx) (n : Fin 4) : Ctx := { x with loops := x.loops.set n.val (x.loops[n] - 1) }

include at_ in
theorem exec_sloop (n : Fin 4) (off : W32) : exec (.sloop n off) s = .next (
    if x.loops[n] = 0 then issued s e c x
    else if x.loops[n] = 1 then issued s e c (x.looped n)
    else if x.jump off < 0 ∨ (x.words.length : Int) ≤ x.jump off then endCtx s e c x 0x20 0x29
    else schedFree (s.setCtx (ctxKey e c) { (x.looped n).past with pc := (x.jump off).toNat, wakeAt := s.cycle + 1 })
      (.streamCommandComplete e c)) := by
  change execSloop n off s = _
  exact onCtx_at at_ _

include at_ in
theorem exec_sloop_more (n : Fin 4) (off : W32) (more : 1 < x.loops[n].toNat) : exec (.sloop n off) s = .next (
    if x.jump off < 0 ∨ (x.words.length : Int) ≤ x.jump off then endCtx s e c x 0x20 0x29
    else schedFree (s.setCtx (ctxKey e c) { (x.looped n).past with pc := (x.jump off).toNat, wakeAt := s.cycle + 1 })
      (.streamCommandComplete e c)) := by
  have zero : x.loops[n] ≠ 0 := fun z => by simp [z] at more
  have one : x.loops[n] ≠ 1 := fun z => by simp [z] at more
  rw [exec_sloop at_, if_neg zero, if_neg one]

include at_ in
theorem exec_sloopSet (n : Fin 4) (v : W32) : exec (.sloopSet n v) s = .next (issued s e c { x with loops := x.loops.set n.val v }) := by
  change execSloopSet n v s = _
  exact onCtx_at at_ _

include at_ in
theorem exec_schk_off (f : BitVec 3) : exec (.schk f none) s = .next (
    if f.toNat % 4 ≠ 0 then endCtx s e c x 0x20 0xB3 else issued s e c { x with schk := f, tensor := none }) := by
  change execSchk f none s = _
  exact onCtx_at at_ _

include at_ in
theorem exec_sstop : exec .sstop s = .next (if signalWaits s e c x false then s else endCtx s e c x 0 0) := by
  change execSstop s = _
  exact onCtx_at at_ _

/-! ## Descriptors (R176, R214, R400) -/

include at_ in
theorem exec_spat_misaligned (n : Fin 2) {desc : Word} (odd : desc.toNat % 8 ≠ 0) : stopsStream (.spat n desc) s e c x 0xB2 := by
  change execSpat n desc s = _
  exact (onCtx_at at_ _).trans (congrArg _ (if_pos odd))

variable (quiet : s.quietUnits) (posted : s.posted = []) (tensor : x.tensor = none) (fresh : x.fresh)

include quiet posted tensor fresh in
/-- A command goes on with a descriptor that its context reads in one turn. -/
theorem ctxGet_andThen {a : Word} {n : Nat} {t : Option TlbEntry} {ps : List Piece} (r : s.reaches e x a n .read t ps)
    (f : State → Ctx → List Byte → Option Blame → State) : (ctxGet s e c x a n).andThen e c f =
      f (charge s e n) (x.noted t (readPieces s ps)) (readPieces s ps) none := by
  obtain ⟨-, log, cur, got, -, gotB⟩ := fresh
  rw [ctxGet_quiet e c quiet posted tensor (by rw [log]; rfl) got gotB r]
  simp [Moved.andThen, Ctx.stops]

section

variable {desc : Word} {t : Option TlbEntry} {ps : List Piece} (r : s.reaches e x desc 64 .read t ps)
include at_ quiet posted tensor fresh r

theorem exec_spat_pattern (n : Fin 2) (aligned : desc.toNat % 8 = 0) {p : Pattern} (hp : patternOf (readPieces s ps) = .ok p) :
    exec (.spat n desc) s = .next (issued (charge s e 64) e c { x with tlb := t, walked := false, pats := x.pats.set n.val p }) := by
  change execSpat n desc s = _
  refine (onCtx_at at_ _).trans ?_
  rw [if_neg (by omega), ctxGet_andThen quiet posted tensor fresh r, hp]
  rfl

theorem exec_spat_reserved (n : Fin 2) (aligned : desc.toNat % 8 = 0) {q : Nat} (hp : patternOf (readPieces s ps) = .error q) :
    exec (.spat n desc) s = .next (endCtx (charge s e 64) e c x 0x20 (0xB0 + q)) := by
  change execSpat n desc s = _
  refine (onCtx_at at_ _).trans ?_
  rw [if_neg (by omega), ctxGet_andThen quiet posted tensor fresh r, hp]
  rfl

theorem exec_schk_tensor (f : BitVec 3) (h : (tensorOf (readPieces s ps)).isSome = true) : exec (.schk f (some desc)) s =
    .next (issued (charge s e 64) e c { x with tlb := t, walked := false, schk := f, tensor := some desc }) := by
  change execSchk f (some desc) s = _
  refine (onCtx_at at_ _).trans ?_
  simp only [ctxGet_andThen quiet posted tensor fresh r]
  rw [if_neg (by simpa [Option.isSome_iff_ne_none] using h)]
  rfl

theorem exec_schk_reserved (f : BitVec 3) (h : tensorOf (readPieces s ps) = none) : exec (.schk f (some desc)) s =
    .next (endCtx (charge s e 64) e c x 0x20 0xB3) := by
  change execSchk f (some desc) s = _
  refine (onCtx_at at_ _).trans ?_
  simp only [ctxGet_andThen quiet posted tensor fresh r]
  rw [if_pos (by simp [h])]
  rfl

end

/-! ## SWAIT (R410) -/

/-- The context stands still until its translation entry is refilled (R167). -/
def refills (s : State) (e c : Nat) (x : Ctx) : State :=
  pause (schedFree s (.translationWalkDone (.context e c))) e c { x with status := .waiting }

variable {a : Word} {v : BitVec 40}

include at_ in
theorem exec_swait_misaligned (odd : a.toNat % 8 ≠ 0) : stopsStream (.swait v a) s e c x 0xB2 := by
  change execSwait v a s = _
  exact (onCtx_at at_ _).trans (congrArg _ (if_pos odd))

include at_ in
theorem exec_swait_misses (aligned : a.toNat % 8 = 0) (misses : x.misses a = true) : exec (.swait v a) s = .next (refills s e c x) := by
  change execSwait v a s = _
  refine (onCtx_at at_ _).trans ?_
  rw [if_neg (by omega), if_pos misses]
  rfl

include at_ quiet posted in
theorem exec_swait {t : Option TlbEntry} {ps : List Piece} (aligned : a.toNat % 8 = 0) (hits : x.misses a = false)
    (span : unitSpan s x.asid x.tlb a 8 .read = .ok (t, ps)) (apart : x.fillMeets ps = false) : exec (.swait v a) s = .next (
      if leNat (readPieces s ps) < v.toNat ∨ (x.begun ∧ quietPieces s ps) then
        if ps.any Piece.far then sched (s.setCtx (ctxKey e c) { x.held t with status := .waiting }) 2100 (.monitorPoll (.context e c))
        else pause s e c { x.held t with begun := true }
      else issued s e c (x.held t)) := by
  change execSwait v a s = _
  refine (onCtx_at at_ _).trans ?_
  rw [if_neg (by omega), if_neg (by simp [hits]), span]
  simp only [fencedOn_quiet _ _ quiet, unacked, posted, apart, List.any_nil]
  simp
  rfl

/-- A monitor stands still until the word has reached its value by a write that wakes it (R284, R410). -/
theorem monitor_stands {w v : Nat} {b q : Bool} : (w < v ∨ (b = true ∧ q = true)) ↔ ¬ (v ≤ w ∧ (b = false ∨ q = false)) := by
  cases b <;> cases q <;> simp

/-! ## Signals (R272, R279, R405) -/

theorem signal_misaligned (op : AccOp) (odd : a.toNat % 8 ≠ 0) : signal a op s e c x = endCtx s e c x 0x20 0xB2 := if_pos odd

theorem signal_misses (op : AccOp) (aligned : a.toNat % 8 = 0) (misses : x.misses a = true) : signal a op s e c x = refills s e c x := by
  rw [signal, if_neg (by omega), if_pos misses]
  rfl

include quiet posted in
/-- A signal of a word in one piece waits for room in the cycle and for the fills and the release of its context. -/
theorem signal_eq (op : AccOp) {t : Option TlbEntry} {l : Loc} {n : Nat} (aligned : a.toNat % 8 = 0) (hits : x.misses a = false)
    (span : unitSpan s x.asid x.tlb a 8 .write = .ok (t, [(l, n)])) : signal a op s e c x =
      if room s e < 8 ∨ x.fills ≠ [] ∨ x.relSlot.isSome then pause s e c (x.held t)
      else issued (charge (postUnit s (ctxPoster e c) l.place op) e 8) e c (x.held t) := by
  rw [signal, if_neg (by omega), if_neg (by simp [hits]), span]
  simp [fencedOn_quiet _ _ quiet, unacked, posted, signalWaits, Ctx.held]

include quiet posted in
theorem signal_goes (op : AccOp) {t : Option TlbEntry} {l : Loc} {n : Nat} (aligned : a.toNat % 8 = 0) (hits : x.misses a = false)
    (span : unitSpan s x.asid x.tlb a 8 .write = .ok (t, [(l, n)])) (left : 8 ≤ room s e) (fills : x.fills = [])
    (rel : x.relSlot = none) :
    signal a op s e c x = issued (charge (postUnit s (ctxPoster e c) l.place op) e 8) e c (x.held t) := by
  rw [signal_eq quiet posted op aligned hits span, if_neg]
  simp [fills, rel, left]

end

/-- A word of n bytes holds its value modulo 2^(8n). -/
theorem toLe_mod (n : Nat) : ∀ v, toLe n (v % 2 ^ (8 * n)) = toLe n v := by
  induction n with
  | zero => intro v; rfl
  | succ n ih =>
    intro v
    have split : 2 ^ (8 * (n + 1)) = 256 * 2 ^ (8 * n) := by rw [Nat.mul_add, Nat.pow_add, Nat.mul_comm]
    rw [toLe, toLe, split, Nat.mod_mul_right_div_self, ih]
    congr 1
    exact BitVec.eq_of_toNat_eq (by simp)

/-- Where a signal lands in this module's memory. -/
theorem postUnit_here (s : State) (who : Nat × Nat) (k : Nat) (v : BitVec 40) :
    postUnit s who (.here k) (.store (toLe 8 v.toNat)) = wr s k (toLe 8 v.toNat)
    ∧ postUnit s who (.here k) (.raise false (v.zeroExtend 64)) = wr s k (toLe 8 ((rdNat s k 8 + v.toNat) % 2 ^ 64))
    ∧ postUnit s who (.here k) (.raise true (v.zeroExtend 64)) = wr s k (toLe 8 (max (rdNat s k 8) v.toNat)) := by
  have wide : (v.zeroExtend 64).toNat = v.toNat := by simp; omega
  exact ⟨rfl, by rw [toLe_mod 8]; simp only [postUnit, applyAt, wide], by simp only [postUnit, applyAt, wide]⟩

section

variable {s : State} {e c : Nat} {x : Ctx} (at_ : s.ctxAt e c x) (v : BitVec 40) (a : Word)
include at_

/-- The three signals as one meaning of their operation. -/
theorem exec_ssig : exec (.ssigSt v a) s = .next (signal a (.store (toLe 8 v.toNat)) s e c x)
    ∧ exec (.ssigAdd v a) s = .next (signal a (.raise false (v.zeroExtend 64)) s e c x)
    ∧ exec (.ssigMax v a) s = .next (signal a (.raise true (v.zeroExtend 64)) s e c x) := by
  refine ⟨?_, ?_, ?_⟩
  · change execSsigSt v a s = _
    exact onCtx_at at_ _
  · change execSsigAdd v a s = _
    exact onCtx_at at_ _
  · change execSsigMax v a s = _
    exact onCtx_at at_ _

end

end Sys2Proof.Machine

section

open Sys2Proof Sys2Proof.Machine

/-- Settles O29: the commands one by one, and the three signals through what each operation comes to at its word. -/
theorem streamControl : Obligations.StreamControl := by
  unfold Obligations.StreamControl
  refine ⟨fun s e c x at_ quiet posted tensor fresh => ⟨fun n desc => exec_spat_misaligned at_ n, fun n desc t ps aligned r =>
      ⟨fun p => exec_spat_pattern at_ quiet posted tensor fresh r n aligned,
        fun q => exec_spat_reserved at_ quiet posted tensor fresh r n aligned⟩,
      exec_sloopSet at_, fun n off => ⟨fun zero => ?_, fun one => ?_, fun more low high => ?_, fun more out => ?_⟩,
      fun f => ⟨fun plain => ?_, fun checked => ?_⟩,
      fun f d t ps r => ⟨exec_schk_tensor at_ quiet posted tensor fresh r f, exec_schk_reserved at_ quiet posted tensor fresh r f⟩,
      fun fills rel => ?_, fun busy => ?_, exec_nop_context at_⟩, fun s e c x v a at_ quiet posted => ?_⟩
  · exact (exec_sloop at_ n off).trans (by rw [if_pos zero])
  · exact (exec_sloop at_ n off).trans (by rw [if_neg (by rw [one]; decide), if_pos one]; rfl)
  · exact (exec_sloop_more at_ n off more).trans (congrArg _ (if_neg fun out => out.elim (Int.not_lt.mpr low) (Int.not_le.mpr high)))
  · exact (exec_sloop_more at_ n off more).trans (congrArg _ (if_pos out))
  · exact (exec_schk_off at_ f).trans (by rw [if_neg (fun checked => checked plain)])
  · exact (exec_schk_off at_ f).trans (by rw [if_pos checked])
  · exact (exec_sstop at_).trans (by rw [if_neg (by simp [signalWaits, fills, rel])])
  · exact (exec_sstop at_).trans (by rw [if_pos (by simpa [signalWaits] using busy)])
  · obtain ⟨st, add, raise⟩ := exec_ssig at_ v a
    refine ⟨fun odd => ⟨exec_swait_misaligned at_ odd, ?_⟩, fun aligned misses => ⟨exec_swait_misses at_ aligned misses, ?_⟩,
      fun t ps aligned hits span apart => ?_, fun t l n aligned hits span => ⟨fun waits => ?_, fun room fills rel => ?_⟩⟩
    · simp only [stopsStream, st, add, raise, signal_misaligned _ odd, and_self]
    · simp only [st, add, raise, signal_misses _ aligned misses]
      exact ⟨rfl, rfl, rfl⟩
    · have go := exec_swait (v := v) at_ quiet posted aligned hits span apart
      intro w y met
      refine ⟨fun reached => ?_, fun short near => ?_, fun short far => ?_⟩
      · exact go.trans (by rw [if_neg (fun h => monitor_stands.mp h reached)]; rfl)
      · exact go.trans (by rw [if_pos (monitor_stands.mpr short), if_neg (by simpa [Piece.far] using near)]; rfl)
      · exact go.trans (by rw [if_pos (monitor_stands.mpr short), if_pos (by simpa [Piece.far] using far)]; rfl)
    · simp only [st, add, raise, signal_eq quiet posted _ aligned hits span, if_pos waits]
      exact ⟨rfl, rfl, rfl⟩
    · have go := fun op => signal_goes (c := c) quiet posted op aligned hits span room fills rel
      refine ⟨fun k here => ?_, fun _ => ⟨st.trans (by rw [go]; rfl), add.trans (by rw [go]; rfl), raise.trans (by rw [go]; rfl)⟩⟩
      obtain ⟨putSt, putAdd, putMax⟩ := postUnit_here s (ctxPoster e c) k v
      exact ⟨st.trans (by rw [go, here, putSt]; rfl), add.trans (by rw [go, here, putAdd]; rfl), raise.trans (by rw [go, here, putMax]; rfl)⟩

end

section
/-! PROOF. O5: the FP32 sum and product commute, and a value that a format represents rounds to its own image. -/

namespace Sys2Proof.Machine

open Sys2Proof

/-! ## Exact sums and products (R354) -/

theorem Val.add_comm (down : Bool) (a b : Val) : Val.add down a b = Val.add down b a := by
  cases a with
  | nan s => cases b <;> simp [Val.add, Val.isSNan, Bool.or_comm]
  | inf m =>
    cases b with
    | inf n => by_cases same : m = n <;> simp [Val.add, same, eq_comm]
    | nan _ | fin _ _ _ => simp [Val.add, Val.isSNan]
  | fin m x e =>
    cases b with
    | fin n y d =>
      have zeros : (if m = n then m else down) = if n = m then n else down := by
        by_cases same : m = n <;> simp [same, eq_comm]
      simp only [Val.add, and_comm (a := x = 0), zeros, Int.min_comm (Val.expo (.fin m x e)), Int.add_comm (Val.scaled (.fin m x e) _)]
    | nan _ | inf _ => simp [Val.add, Val.isSNan]

theorem Val.mul_comm (a b : Val) : Val.mul a b = Val.mul b a := by
  have sign : (a.neg? != b.neg?) = (b.neg? != a.neg?) := bne_comm
  cases a with
  | nan s => cases b <;> simp [Val.mul, Val.isSNan, Bool.or_comm]
  | inf m => cases b <;> simp [Val.mul, Val.isSNan, Val.isZero, sign]
  | fin m x e =>
    cases b with
    | fin n y d => simp only [Val.mul, sign, Nat.mul_comm x, Int.add_comm e]
    | nan _ | inf _ => simp [Val.mul, Val.isSNan, sign]

theorem FD.arith_add_comm (f : FD) (rm : Rm) (seed : Word) (a b : Nat) : f.arith .add rm seed a b = f.arith .add rm seed b a := by
  simp only [FD.arith, Val.add_comm _ (f.decode a)]

theorem FD.arith_mul_comm (f : FD) (rm : Rm) (seed : Word) (a b : Nat) : f.arith .mul rm seed a b = f.arith .mul rm seed b a := by
  simp only [FD.arith, Val.mul_comm (f.decode a)]

/-! ## Rounding a quotient on the grid (R119, R120) -/

/-- Floor of the binary logarithm of num / den, as `FD.round` finds it. -/
def floorLog (num den : Nat) : Int :=
  let e0 : Int := (num.log2 : Int) - den.log2
  let reached := if 0 ≤ e0 then decide (den * 2 ^ e0.toNat ≤ num) else decide (den ≤ num * 2 ^ (-e0).toNat)
  if reached then e0 else e0 - 1

/-- The exponent of a unit in the last place, for a value whose binary logarithm has the floor `l`. -/
def FD.ulpExpo (f : FD) (l : Int) : Int := max l (1 - f.bias) - f.mb

/-- The code of the magnitude of `q` units of 2^u in the last place. -/
def FD.unitsCode (f : FD) (u : Int) (q : Nat) : Nat := (u + f.mb - (1 - f.bias)).toNat * 2 ^ f.mb + q

/-- A quotient that is a whole number of units in the last place is rounded without a flag and without a draw. -/
theorem FD.round_of_whole (f : FD) (rm : Rm) (seed : Word) (neg : Bool) {num den q : Nat} {u : Int} (pos : 0 < den)
    (unit : f.ulpExpo (floorLog num den) = u) (whole : num * 2 ^ (-u).toNat = q * (den * 2 ^ u.toNat))
    (fits : f.unitsCode u q ≤ f.maxCode) : f.round rm seed neg num den = (f.signed neg (f.unitsCode u q), 0#32, seed) := by
  have above : max (floorLog num den) (1 - (f.bias : Int)) = u + f.mb := by
    rw [← unit, FD.ulpExpo, Int.sub_add_cancel]
  have n : (if 0 ≤ u then num else num * 2 ^ (-u).toNat) = q * (den * 2 ^ u.toNat) := by
    rw [← whole]
    split
    · rw [Int.toNat_of_nonpos (by omega), Nat.pow_zero, Nat.mul_one]
    · rfl
  have d : (if 0 ≤ u then den * 2 ^ u.toNat else den) = den * 2 ^ u.toNat := by
    split
    · rfl
    · rw [Int.toNat_of_nonpos (by omega), Nat.pow_zero, Nat.mul_one]
  have posUnits : 0 < den * 2 ^ u.toNat := Nat.mul_pos pos (Nat.two_pow_pos _)
  rw [FD.unitsCode] at fits ⊢
  simp only [floorLog] at above
  simp only [FD.round, above, Int.add_sub_cancel, n, d, Nat.mul_mod_left, Nat.mul_div_cancel _ posUnits, b2n, if_true, Bool.false_eq_true,
    if_false, Nat.add_zero, Nat.not_lt.mpr fits, ne_eq, not_true_eq_false, false_and, BitVec.or_zero]

/-! ## Rounding a value on the grid -/

theorem log2_mul_two_pow {m : Nat} (pos : m ≠ 0) (k : Nat) : (m * 2 ^ k).log2 = m.log2 + k := by
  induction k with
  | zero => simp
  | succ k ih =>
    rw [Nat.pow_succ', Nat.mul_left_comm, Nat.log2_two_mul (Nat.mul_ne_zero pos (Nat.ne_of_gt (Nat.two_pow_pos k))), ih, Nat.add_assoc]

theorem floorLog_scaled {m : Nat} (pos : m ≠ 0) (e : Int) : floorLog (m * 2 ^ e.toNat) (2 ^ (-e).toNat) = m.log2 + e := by
  have logs : ((m * 2 ^ e.toNat).log2 : Int) - ((2 ^ (-e).toNat).log2 : Nat) = m.log2 + e := by
    rw [log2_mul_two_pow pos, Nat.log2_two_pow]; omega
  have reached : 2 ^ (-e).toNat * 2 ^ (m.log2 + e).toNat ≤ m * 2 ^ e.toNat * 2 ^ (-(m.log2 + e)).toNat := calc
    2 ^ (-e).toNat * 2 ^ (m.log2 + e).toNat = 2 ^ m.log2 * 2 ^ e.toNat * 2 ^ (-(m.log2 + e)).toNat := by
      simp only [← Nat.pow_add]; congr 1; omega
    _ ≤ m * 2 ^ e.toNat * 2 ^ (-(m.log2 + e)).toNat :=
      Nat.mul_le_mul_right _ (Nat.mul_le_mul_right _ (Nat.log2_self_le pos))
  simp only [floorLog, logs]
  refine if_pos ?_
  split
  · rw [Int.toNat_of_nonpos (z := -(m.log2 + e)) (by omega), Nat.pow_zero, Nat.mul_one] at reached
    exact decide_eq_true reached
  · rw [Int.toNat_of_nonpos (z := m.log2 + e) (by omega), Nat.pow_zero, Nat.mul_one] at reached
    exact decide_eq_true reached

theorem FD.put_fin (f : FD) (rm : Rm) (seed : Word) (neg : Bool) {m : Nat} (pos : m ≠ 0) (e : Int) :
    f.put rm seed (.fin neg m e) = f.round rm seed neg (m * 2 ^ e.toNat) (2 ^ (-e).toNat) := by
  obtain ⟨k, rfl⟩ := Nat.exists_eq_succ_of_ne_zero pos
  simp only [FD.put]
  split
  · rw [Int.toNat_of_nonpos (z := -e) (by omega), Nat.pow_zero]
  · rw [Int.toNat_of_nonpos (z := e) (by omega), Nat.pow_zero, Nat.mul_one]

/-- A value whose exponent is that of its unit in the last place has the code of its units as its image. -/
theorem FD.put_of_unit (f : FD) (rm : Rm) (seed : Word) (neg : Bool) {m : Nat} (pos : m ≠ 0) {e : Int}
    (unit : f.ulpExpo (m.log2 + e) = e) (fits : f.unitsCode e m ≤ f.maxCode) :
    f.put rm seed (.fin neg m e) = (f.signed neg (f.unitsCode e m), 0#32, seed) := by
  rw [f.put_fin rm seed neg pos e]
  refine f.round_of_whole rm seed neg (Nat.two_pow_pos _) ?_ ?_ fits
  · rw [floorLog_scaled pos, unit]
  · rw [Nat.mul_assoc, Nat.mul_comm (2 ^ e.toNat)]

/-! ## The image of a value read from an image (R112, R113) -/

theorem FD.put_subnormal (f : FD) (rm : Rm) (seed : Word) (neg : Bool) {m : Nat} (low : m < 2 ^ f.mb) (fits : m ≤ f.maxCode) :
    f.put rm seed (.fin neg m (1 - (f.bias : Int) - f.mb)) = (f.signed neg m, 0#32, seed) := by
  by_cases zero : m = 0
  · subst zero; rfl
  · have log : m.log2 < f.mb := (Nat.log2_lt zero).mpr low
    have code : f.unitsCode (1 - (f.bias : Int) - f.mb) m = m := by simp [FD.unitsCode]
    rw [f.put_of_unit rm seed neg zero (by rw [FD.ulpExpo]; omega) (by rwa [code]), code]

theorem FD.put_normal (f : FD) (rm : Rm) (seed : Word) (neg : Bool) {m e : Nat} (low : m < 2 ^ f.mb) (pos : e ≠ 0)
    (fits : e * 2 ^ f.mb + m ≤ f.maxCode) :
    f.put rm seed (.fin neg (m + 2 ^ f.mb) ((e : Int) - f.bias - f.mb)) = (f.signed neg (e * 2 ^ f.mb + m), 0#32, seed) := by
  have nonzero : m + 2 ^ f.mb ≠ 0 := by have := Nat.two_pow_pos f.mb; omega
  have log : (m + 2 ^ f.mb).log2 = f.mb := (Nat.log2_eq_iff nonzero).mpr ⟨Nat.le_add_left .., by rw [Nat.pow_succ]; omega⟩
  have code : f.unitsCode ((e : Int) - f.bias - f.mb) (m + 2 ^ f.mb) = e * 2 ^ f.mb + m := by
    obtain ⟨k, rfl⟩ := Nat.exists_eq_succ_of_ne_zero pos
    have : ((k.succ : Int) - f.bias - f.mb + f.mb - (1 - f.bias)).toNat = k := by omega
    rw [FD.unitsCode, this, Nat.succ_mul, Nat.add_assoc, Nat.add_comm m]
  rw [f.put_of_unit rm seed neg nonzero (by rw [log, FD.ulpExpo]; omega) (by rwa [code]), code]

/-- In every format, what an image other than a NaN stands for rounds to its sign and magnitude as read. -/
theorem FD.put_decode (f : FD) (rm : Rm) (seed : Word) (x : Nat) (number : (f.decode x).isNan = false) :
    f.put rm seed (f.decode x) = (f.signed (bit x (f.w - 1)) (x % 2 ^ (f.w - 1)), 0#32, seed) := by
  rw [FD.decode] at number ⊢
  generalize x % 2 ^ (f.w - 1) = c at number ⊢
  by_cases inf : f.infCode = some c
  · simp [inf, FD.put]
  · by_cases nan : f.maxCode < c
    · simp [inf, nan, Val.isNan] at number
    · have fits := Nat.le_of_not_lt nan
      have parts : c / 2 ^ f.mb * 2 ^ f.mb + c % 2 ^ f.mb = c := Nat.div_add_mod' ..
      have low : c % 2 ^ f.mb < 2 ^ f.mb := Nat.mod_lt _ (Nat.two_pow_pos _)
      by_cases sub : c / 2 ^ f.mb = 0
      · rw [sub, Nat.zero_mul, Nat.zero_add] at parts
        rw [parts] at low
        simp only [inf, nan, sub, if_false, if_true, parts, f.put_subnormal rm seed _ low fits]
      · simp only [inf, nan, sub, if_false, f.put_normal rm seed _ low sub (Nat.le_trans (Nat.le_of_eq parts) fits), parts]

/-- An image is its sign bit with its magnitude. -/
theorem FD.signed_decoded (f : FD) {x : Nat} (h : x < 2 ^ (f.w - 1 + 1)) : f.signed (bit x (f.w - 1)) (x % 2 ^ (f.w - 1)) = x := by
  have sign : b2n (bit x (f.w - 1)) = x / 2 ^ (f.w - 1) := by
    have : x / 2 ^ (f.w - 1) < 2 := Nat.div_lt_of_lt_mul (by rwa [← Nat.pow_succ])
    obtain zero | one := Nat.le_one_iff_eq_zero_or_eq_one.mp (Nat.le_of_lt_succ this)
    · simp [bit, b2n, zero]
    · simp [bit, b2n, one]
  rw [FD.signed, sign, Nat.mod_add_div']

end Sys2Proof.Machine

open Sys2Proof Sys2Proof.Machine

/-- Settles O5: sum and product commute as exact values, rounded once; a value read from an image is a whole number of units in its last
place, or an infinity. -/
theorem floatLaws : Obligations.FloatLaws := by
  unfold Obligations.FloatLaws
  refine ⟨fun rm seed a b => ⟨fd32.arith_add_comm .., fd32.arith_mul_comm ..⟩, fun rm seed x number => ?_⟩
  rw [val32, fd32.put_decode rm seed x.toNat number, fd32.signed_decoded x.isLt]
  rfl

end

section
/-! PROOF. O23: `%tms`, table pairs on their way to a core, and the means of lanes and of rows. -/

namespace Sys2Proof.Machine

open Sys2Proof

/-! ## Runs of bytes and the pages they touch -/

theorem Mem.readN_add (m : Mem) (i : Nat) : ∀ a j, Mem.readN m a (i + j) = Mem.readN m a i ++ Mem.readN m (a + i) j := by
  induction i with
  | zero => intro a j; simp [Mem.readN]
  | succ i ih =>
    intro a j
    rw [Nat.succ_add, Mem.readN, Mem.readN, ih, List.cons_append, Nat.add_assoc a 1 i, Nat.add_comm 1 i]

/-- A fold whose every step adds to a list gathers what its steps add. -/
theorem foldl_gathers {σ β γ : Type} {f : σ → β → σ} (P : List γ → σ) (g : β → List γ) (l : List β)
    (step : ∀ b ∈ l, ∀ acc, f (P acc) b = P (acc ++ g b)) (acc : List γ) : l.foldl f (P acc) = P (acc ++ l.flatMap g) := by
  induction l generalizing acc with
  | nil => simp
  | cons b l ih =>
    rw [List.foldl_cons, step b List.mem_cons_self, ih fun x hx => step x (List.mem_cons_of_mem _ hx), List.flatMap_cons,
      List.append_assoc]

theorem foldl_stays {σ β : Type} {f : σ → β → σ} {s : σ} (l : List β) (step : ∀ b ∈ l, f s b = s) : l.foldl f s = s := by
  induction l with
  | nil => rfl
  | cons b l ih => rw [List.foldl_cons, step b List.mem_cons_self, ih fun x hx => step x (List.mem_cons_of_mem _ hx)]

/-- The part of a range in its i-th page. -/
def pagePart (a n i : Nat) : Nat × Nat :=
  let b := if i = 0 then a else (a / 65536 + i) * 65536
  (b, min (a + n) ((a / 65536 + i + 1) * 65536) - b)

theorem pageParts_eq {n : Nat} (a : Nat) (pos : n ≠ 0) :
    pageParts a n = (List.range ((a + n - 1) / 65536 - a / 65536 + 1)).map (pagePart a n) := if_neg pos

theorem pagePart_zero (a n : Nat) : pagePart a n 0 = (a, min (a + n) ((a / 65536 + 1) * 65536) - a) := rfl

theorem pagePart_succ (a n i : Nat) : pagePart a n (i + 1) =
    ((a / 65536 + i + 1) * 65536, min (a + n) ((a / 65536 + i + 2) * 65536) - (a / 65536 + i + 1) * 65536) := rfl

/-- The pages of a range lie where the range does. -/
theorem pageParts_inside {a n : Nat} {p : Nat × Nat} (h : p ∈ pageParts a n) : a ≤ p.1 ∧ p.1 < a + n := by
  by_cases empty : n = 0
  · simp [pageParts, empty] at h
  · rw [pageParts_eq a empty] at h
    obtain ⟨i, hi, rfl⟩ := List.mem_map.1 h
    have := List.mem_range.1 hi
    cases i with
    | zero => rw [pagePart_zero]; omega
    | succ i => rw [pagePart_succ]; omega

/-- The pages of a range moved by whole pages are its pages so moved. -/
theorem pageParts_moved (k a n : Nat) : pageParts (65536 * k + a) n = (pageParts a n).map fun p => (65536 * k + p.1, p.2) := by
  by_cases empty : n = 0
  · simp [pageParts, empty]
  · rw [pageParts_eq _ empty, pageParts_eq _ empty, List.map_map,
      show (65536 * k + a + n - 1) / 65536 - (65536 * k + a) / 65536 = (a + n - 1) / 65536 - a / 65536 by omega]
    refine List.map_congr_left fun i _ => ?_
    cases i with
    | zero => rw [Function.comp_apply, pagePart_zero, pagePart_zero, Prod.mk.injEq]; omega
    | succ i => rw [Function.comp_apply, pagePart_succ, pagePart_succ, Prod.mk.injEq]; omega

/-- The first pages of a range read one after the other give it up to their end. -/
theorem pagePart_readN (m : Mem) (k a n c : Nat) (inside : c ≤ (a + n - 1) / 65536 - a / 65536) :
    ((List.range (c + 1)).flatMap fun i => Mem.readN m (k + (pagePart a n i).1) (pagePart a n i).2) =
      Mem.readN m (k + a) (min (a + n) ((a / 65536 + c + 1) * 65536) - a) := by
  induction c with
  | zero => simp [pagePart_zero]
  | succ c ih =>
    have joins : k + (a / 65536 + c + 1) * 65536 = k + a + (min (a + n) ((a / 65536 + c + 1) * 65536) - a) := by omega
    rw [List.range_succ, List.flatMap_append, ih (by omega), List.flatMap_singleton, pagePart_succ, joins, ← Mem.readN_add]
    congr 1; omega

/-- The pages of a range read one after the other give the range. -/
theorem pageParts_readN (m : Mem) (k a n : Nat) : ((pageParts a n).flatMap fun p => Mem.readN m (k + p.1) p.2) = Mem.readN m (k + a) n := by
  by_cases empty : n = 0
  · subst empty; rfl
  · rw [pageParts_eq a empty, List.flatMap_map, pagePart_readN m k a n _ (Nat.le_refl _)]
    congr 1; omega

/-! ## The local window (R159) -/

section

variable {off : Nat}

theorem localAddr_toNat (h : off < 2 ^ 20) : (localAddr off).toNat = 2 ^ 63 + off := by
  rw [localAddr, BitVec.toNat_ofNat, Nat.mod_eq_of_lt (by omega)]

theorem localAddr_bits (h : off < 2 ^ 20) : bits (localAddr off).toNat 62 2 = 2 ∧ bits (localAddr off).toNat 20 42 = 0
    ∧ bits (localAddr off).toNat 0 20 = off ∧ (localAddr off).toNat % 2 ^ 20 = off := by
  rw [localAddr_toNat h]
  simp only [bits]
  omega

theorem localOff_of_localAt {a : Word} {n : Nat} (pos : 0 < n) (h : localAt a n off) : localOff a n = some off := by
  obtain ⟨rfl, fits, -⟩ := h
  obtain ⟨two, high, -, low⟩ := localAddr_bits (off := off) (by omega)
  change localOff (localAddr off) n = _
  rw [localOff, if_pos ⟨two, high, by rwa [low]⟩, low]

theorem misaligned_local {n : Nat} (h : off < 2 ^ 20) (divides : n ∣ 2 ^ 63) (aligned : off % n = 0) :
    misaligned (localAddr off) n = false := by
  rw [misaligned, localAddr_toNat h, Nat.add_mod, Nat.mod_eq_zero_of_dvd divides, aligned]
  simp

theorem spadKey_offset (core off : Nat) : spadKey core off = spadKey core 0 + off := by
  rw [spadKey, spadKey, Nat.add_zero]

theorem own_spadKey {core : Nat} (hc : core < Config.cores) (h : off < 2 ^ 20) : (Place.here (spadKey core off)).own core = true := by
  simp only [Place.own, isSpad, Bool.and_eq_true, decide_eq_true_eq]
  simp only [Config.cores] at hc
  simp only [spadCore, spadKey, Config.cores, Config.scratchBytes]
  omega

variable (s : State) (g : Agent)

theorem window_local (h : off < 2 ^ 20) : window s g (localAddr off) = .ok (.inl ⟨.here (spadKey g.core off), false⟩) := by
  obtain ⟨two, high, low, -⟩ := localAddr_bits h
  simp only [window, two, high, low, ne_eq, not_true_eq_false, if_false]

theorem resolveCached_local (h : off < 2 ^ 20) (w : Want) :
    resolveCached s g (localAddr off) w = .ok ⟨.here (spadKey g.core off), false⟩ := by
  simp only [resolveCached, resolve, window_local s g h]
  rfl

theorem cacheVa_local (h : off < 2 ^ 20) : cacheVa s g (localAddr off) = s := by
  simp [cacheVa, (localAddr_bits h).1]

/-- Where the pages of a range of the local window lie. -/
def localPlaces (core off n : Nat) : List (Place × Nat) := (pageParts off n).map fun p => (.here (spadKey core p.1), p.2)

theorem pageParts_local {n : Nat} (h : off < 2 ^ 20) :
    pageParts (localAddr off).toNat n = (pageParts off n).map fun p => (2 ^ 63 + p.1, p.2) := by
  have moved := pageParts_moved (2 ^ 47) off n
  rwa [show 65536 * 2 ^ 47 = 2 ^ 63 by decide, ← localAddr_toNat h] at moved

theorem agentPlaces_local {n : Nat} (h : off < 2 ^ 20) (fits : off + n ≤ 2 ^ 20) (w : Want) :
    agentPlaces s g (localAddr off) n w = .ok (localPlaces g.core off n) := by
  rw [agentPlaces, if_neg (by rw [(localAddr_bits h).2.2.2]; omega), pageParts_local h, List.foldl_map, localPlaces, List.map_eq_flatMap]
  refine foldl_gathers (fun l => (.ok l : Except (Nat × Word) _)) _ _ (fun p hp acc => ?_) []
  have inside := pageParts_inside hp
  have here := resolveCached_local s g (off := p.1) (by omega) w
  rw [localAddr] at here
  simp only [here, Place.unreachable, Bool.false_eq_true, if_false]

theorem cacheRange_local {n : Nat} (h : off < 2 ^ 20) (fits : off + n ≤ 2 ^ 20) : cacheRange s g (localAddr off) n = s := by
  rw [cacheRange, pageParts_local h, List.foldl_map]
  refine foldl_stays _ fun p hp => ?_
  have inside := pageParts_inside hp
  exact cacheVa_local s g (by omega)

/-- What an operation takes from its own scratchpad is there at once. -/
theorem fetchPlaces_local (key op core n : Nat) :
    fetchPlaces s key op (localPlaces core off n) = (s, some (rd s (spadKey core off) n)) := by
  rw [fetchPlaces, localPlaces, List.foldl_map]
  refine (foldl_gathers (fun b => (s, some b)) (fun p => rd s (spadKey core p.1) p.2) _ (fun p _ acc => rfl) []).trans ?_
  have read := pageParts_readN s.mem (spadKey core 0) off n
  simp only [← spadKey_offset] at read
  rw [List.nil_append, read]

theorem localPlaces_own {core n : Nat} (hc : core < Config.cores) (fits : off + n ≤ 2 ^ 20) :
    ((localPlaces core off n).all fun p => p.1.own core) = true := by
  refine List.all_eq_true.2 fun q hq => ?_
  obtain ⟨p, hp, rfl⟩ := List.mem_map.1 hq
  have inside := pageParts_inside hp
  exact own_spadKey hc (by omega)

end

/-! ## Nothing that holds an access back -/

theorem heldBack_calm {s : State} {g : Agent} (calm : s.calm g) (op : AccOp) (va : Word) (l : Loc) (n : Nat) (acq rel : Bool) :
    heldBack s g op va l n acq rel = false := by
  obtain ⟨-, outs, -, posted, queue, -⟩ := calm
  simp [heldBack, mayPerform, earlier, outs, postedBlocks, postedAt, posted, mmaHolds, mmaAt, mmaUnread, queue]

theorem genuineOf_genuine (s : State) (g : Agent) (va : Word) (l : List (Place × Nat)) (b : List Byte) :
    (genuineOf s g va l b).expected = (genuineOf s g va l b).found := by
  cases l <;> rfl

theorem State.setAgent_modCore_setAgent (s : State) (k c : Nat) (f : Core → Core) (x y : Agent) :
    ((s.setAgent k x).modCore c f).setAgent k y = (s.modCore c f).setAgent k y := State.setAgent_setAgent (s.modCore c f) k x y

/-! ## TMSET (R145, R146) -/

/-- What TMSET writes. -/
def Agent.tmSrc (g : Agent) : TmSrc → W32
  | .imm v => v
  | .reg a => (g.sr a).truncate 32

theorem exec_tmset (src : TmSrc) (s : State) : exec (.tmset src) s = agentOp s fun g =>
    if tmsReserved (g.tmSrc src) then .fault g 0x1D else .ok { g with tms := g.tmSrc src }.next := rfl

/-! ## TMLD (R152, R153) -/

section

variable {s : State} {g : Agent} {m : MemOp} {off : Nat} (ea : g.ea m = localAddr off) (fits : off + 2080 ≤ 2 ^ 20) (calm : s.calm g)
include ea fits calm

theorem exec_tmld_local (n : Fin 8) (aligned : off % 16 = 0) (a : s.atTurn g) : exec (.tmld m n) s =
    .next (sched (s.setAgent g.key { g with status := .held }) 9 (.tmldLand g.core g.slot)) := by
  refine (onAgent_at a _).trans (congrArg _ ?_)
  have low : off < 2 ^ 20 := by omega
  simp only [ea, misaligned_local low (by decide) aligned, agentPlaces_local s g low fits, localPlaces_own calm.1 fits,
    Bool.false_eq_true, if_false, if_true]

theorem exec_tmldLand_local {n : Fin 8} (found : s.agent g.key = some g) (held : g.status = .held) (reads : g.reads = [])
    (here : s.instrAt g = some (.tmld m n)) :
    let h : Agent := { g with status := .running }
    let bytes := rd s (spadKey g.core off) 2080
    exec (.tmldLand g.core g.slot) s = .next (
      if !(tableAt bytes 0).ok ∨ !(tableAt bytes 1040).ok then faultNow (s.setAgent g.key h) h 0x69 (g.ea m)
      else (s.modCore g.core fun c => { c with landing := c.landing ++ [(n, ⟨bytes⟩)] }).setAgent g.key
        { h.next with wakeAt := s.cycle + 1 }) := by
  intro h bytes
  have low : off < 2 ^ 20 := by omega
  obtain ⟨-, -, -, -, -, tests, injections⟩ := id calm
  have found' : s.agent (agentKey g.core g.slot) = some g := found
  have running : { g.dropReads tmldOp with status := .running } = h := by simp [h, Agent.dropReads, reads]
  have answered : g.refused tmldOp = false := by simp [Agent.refused, reads]
  have free : ((localPlaces g.core off 2080).any fun p =>
      heldBack s g (.load .d64 0) (localAddr off) ⟨p.1, false⟩ p.2 false false) = false := by simp [heldBack_calm calm]
  change execTmldLand g.core g.slot s = _
  have passes := fun l b => transit_quiet (s.setAgent g.key h) (unitsOf (s.setAgent g.key h) g l false) _ injections
    (genuineOf_genuine (s.setAgent g.key h) g (localAddr off) l b)
  simp only [execTmldLand, found', held, here, running, answered, ea, cacheRange_local s g low fits, agentPlaces_local s g low fits,
    fetchPlaces_local, fencedOn_quiet s _ ⟨tests, injections⟩, free, passes,
    State.setAgent_modCore_setAgent, Option.getD_some, Option.isNone_some, ne_eq, not_true_eq_false, Bool.false_eq_true, or_self, if_false]
  rfl

end

/-! ## A pair that has landed (R153) -/

theorem takeRow_cases (s : State) (core : Nat) : takeRow s core = s ∨ ∃ o, takeRow s core = s.setCore core (setHead (s.core core) o) := by
  unfold takeRow
  dsimp only
  split
  · exact .inl rfl
  · split
    · exact .inl rfl
    · split
      · exact .inr ⟨_, rfl⟩
      · exact .inl rfl

@[simp] theorem setHead_tables (c : Core) (o : MmaOp) : (setHead c o).tables = c.tables := by unfold setHead; split <;> rfl
@[simp] theorem setHead_landing (c : Core) (o : MmaOp) : (setHead c o).landing = c.landing := by unfold setHead; split <;> rfl

/-- A row that an MMA takes leaves the table pairs of its core. -/
theorem takeRow_pairs (s : State) (core : Nat) : ((takeRow s core).core core).tables = (s.core core).tables
    ∧ ((takeRow s core).core core).landing = (s.core core).landing := by
  obtain e | ⟨o, e⟩ := takeRow_cases s core
  · rw [e]; exact ⟨rfl, rfl⟩
  · rw [e]; simp

theorem tickCore_pairs (s : State) (core : Nat) : ((tickCore s core).core core).tables =
      (s.core core).landing.foldl (fun t p => t.set p.1.val (some p.2)) (s.core core).tables
    ∧ ((tickCore s core).core core).landing = [] := by
  unfold tickCore
  obtain ⟨tables, landing⟩ := takeRow_pairs (s.modCore core _) core
  rw [tables, landing]
  simp [State.modCore]

/-! ## VMEAN (R155) -/

section

variable {s : State} {g : Agent} (a : s.atTurn g) {k : KReg} (d : Reg) {v : VNum}
include a

theorem runsTo_vmean {y : W32 × W32} (mean : (tmsShape g.tms).mean (s.core g.core) (g.kr k) (g.vr v) = .ok y) :
    runsTo (.vmean k d v) s g
      ({ (g.setS d (y.1.zeroExtend 64)) with fflags := g.fflags ||| y.2 }.later (.s d.val) (s.cycle + 8)).next :=
  (onAgent_at a _).trans (by simp only [mean])

theorem exec_vmean_fault {c : Nat} {l : Option Nat} (mean : (tmsShape g.tms).mean (s.core g.core) (g.kr k) (g.vr v) = .error (c, l)) :
    exec (.vmean k d v) s = .next (faultNow s g c 0 (l.getD 0xFFFFFFFF)) :=
  (onAgent_at a _).trans (by simp only [mean])

end

/-! ## XMEAN (R156) -/

/-- The agent once the mean of the row in hand is in its lane. -/
def Agent.rowTaken (g : Agent) (now : Nat) (x : XRow) (y : W32 × W32) : Agent :=
  let h : Agent := { g.setV x.d ((g.vr x.d).set! x.row y.1) with fflags := g.fflags ||| y.2 }.later (.v x.d.val) (now + 8)
  if x.row + 1 = x.rows then { h.next with xrow := none, wakeAt := now + 9 } else { h with xrow := some { x with row := x.row + 1 } }

theorem xmeanTake_local {s : State} {g : Agent} {x : XRow} {y : W32 × W32} {off : Nat} (calm : s.calm g) (array : x.ring = false)
    (place : localAt (x.addr + BitVec.ofNat 64 (128 * x.row)) 128 off)
    (mean : (tmsShape g.tms).mean (s.core g.core) 0xFFFFFFFF#32 (lanesOfBytes (rd s (spadKey g.core off) 128)) = .ok y) :
    xmeanTake s g x = .go (s.setAgent g.key (g.rowTaken s.cycle x y)) := by
  have row : xmeanIn s g x = .at_ off := by
    simp [xmeanIn, array, localOff_of_localAt (by decide) place, heldBack_calm calm]
  by_cases last : x.row + 1 = x.rows
  · simp only [xmeanTake, Agent.rowTaken, row, mean, array, last, Bool.false_and, Bool.false_eq_true, if_false, if_true, decide_true]
  · simp only [xmeanTake, Agent.rowTaken, row, mean, array, last, Bool.false_and, Bool.false_eq_true, if_false, decide_false]

theorem exec_xmeanRow {s : State} {g : Agent} {x : XRow} (found : s.agent g.key = some g) (under : g.xrow = some x) :
    exec (.xmeanRow g.core g.slot) s = .next (attempt s g (xmeanTake s g x)) := by
  have found' : s.agent (agentKey g.core g.slot) = some g := found
  change execXmeanRow g.core g.slot s = _
  simp only [execXmeanRow, found', under]

/-- An agent with an XMEAN under way. -/
def Agent.atRow (g : Agent) (x : XRow) : Agent := { g with xrow := some x }

section

variable {s : State} {g : Agent} (a : s.atTurn g) (idle : g.xrow = none) (d : VNum) (ra rb : Reg)
include a idle

theorem exec_xmean_many (ring : Bool) (many : 32 < (g.sr rb).toNat) : exec (.xmean ring d ra rb) s = .next (faultNow s g 0x69) := by
  refine (onAgent_at a _).trans (congrArg _ ?_)
  simp only [idle, if_pos many]

theorem exec_xmean_noRow (ring : Bool) (zero : g.sr rb = 0) : exec (.xmean ring d ra rb) s = .next (s.setAgent g.key g.next) := by
  refine (onAgent_at a _).trans (congrArg _ ?_)
  simp [idle, zero]

variable (rows : 0 < (g.sr rb).toNat) (few : (g.sr rb).toNat ≤ 32)
include rows few

theorem exec_xmean_misaligned (odd : misaligned (g.sr ra) 128 = true) : exec (.xmean false d ra rb) s =
    .next (faultNow s g 0x82 (g.sr ra)) := by
  refine (onAgent_at a _).trans (congrArg _ ?_)
  simp only [idle, if_neg (Nat.not_lt.2 few), if_neg (Nat.ne_of_gt rows), odd, Bool.false_eq_true, if_false, if_true]

theorem exec_xmean_array (even : misaligned (g.sr ra) 128 = false) :
    let x : XRow := ⟨0, (g.sr rb).toNat, g.sr ra, false, d⟩
    exec (.xmean false d ra rb) s =
      .next (attempt (s.setAgent g.key (g.atRow x)) (g.atRow x) (xmeanTake (s.setAgent g.key (g.atRow x)) (g.atRow x) x)) := by
  refine (onAgent_at a _).trans (congrArg _ ?_)
  simp only [idle, if_neg (Nat.not_lt.2 few), if_neg (Nat.ne_of_gt rows), even, Bool.false_eq_true, if_false]
  rfl

theorem exec_xmean_firstRow {y : W32 × W32} {off : Nat} (calm : s.calm g) (place : localAt (g.sr ra) 128 off)
    (mean : (tmsShape g.tms).mean (s.core g.core) 0xFFFFFFFF#32 (lanesOfBytes (rd s (spadKey g.core off) 128)) = .ok y) :
    let x : XRow := ⟨0, (g.sr rb).toNat, g.sr ra, false, d⟩
    exec (.xmean false d ra rb) s = .next (s.setAgent g.key ((g.atRow x).rowTaken s.cycle x y)) := by
  intro x
  obtain ⟨addr, fits, aligned⟩ := id place
  have even : misaligned (g.sr ra) 128 = false := addr ▸ misaligned_local (by omega) (by decide) aligned
  have first : localAt (x.addr + BitVec.ofNat 64 (128 * x.row)) 128 off := by rwa [Nat.mul_zero, BitVec.add_zero]
  have taken := xmeanTake_local (s := s.setAgent g.key (g.atRow x)) (g := g.atRow x) calm rfl first mean
  rw [exec_xmean_array a idle d ra rb rows few even, taken]
  exact congrArg _ (State.setAgent_setAgent ..)

end

end Sys2Proof.Machine

open Sys2Proof Sys2Proof.Machine

/-- Settles O23: TMSET by its reserved values, TMLD and XMEAN by the local window, whose pages are there at once and where nothing holds
them back. -/
theorem transformedMeans : Obligations.TransformedMeans := by
  unfold Obligations.TransformedMeans
  refine ⟨⟨fun s g src a => ⟨fun ok => ?_, fun bad => ?_⟩, fun s g m n off ea aligned fits calm =>
      ⟨exec_tmld_local ea fits calm n aligned, fun found held reads here => ?_⟩⟩, fun s core n p landed => ?_,
    fun s g k d v a => ⟨fun y => runsTo_vmean a d, fun c l => exec_vmean_fault a d⟩,
    fun s g x y off found calm under array _ _ place mean => ?_, fun s g d ra rb a idle => ⟨fun many ring => ?_,
      fun zero ring => exec_xmean_noRow a idle d ra rb ring zero, fun rows few odd => ?_, fun y off calm rows few place mean =>
      exec_xmean_firstRow a idle d ra rb rows few calm place mean⟩⟩
  · exact runsTo_of_ok a (exec_tmset src s) (if_neg (mt (tmsReserved_iff _).mp ok))
  · exact takesFault_of_fault a (exec_tmset src s) (if_pos ((tmsReserved_iff _).mpr bad))
  · have lands := exec_tmldLand_local ea fits calm found held reads here
    refine ⟨fun good => lands.trans (congrArg _ (if_neg ?_)), fun bad => lands.trans (congrArg _ (if_pos ?_))⟩
    · simpa using good
    · simpa only [Bool.not_eq_true', Bool.not_eq_true] using Decidable.not_and_iff_not_or_not.mp bad
  · obtain ⟨tables, landing⟩ := tickCore_pairs s core
    exact ⟨tables.trans (by rw [landed]; rfl), landing⟩
  · exact (exec_xmeanRow found under).trans (by rw [xmeanTake_local calm array place mean]; rfl)
  · exact ⟨_, _, .inl (exec_xmean_many a idle d ra rb ring many)⟩
  · exact ⟨_, _, .inl (exec_xmean_misaligned a idle d ra rb rows few (decide_eq_true odd))⟩

end

section
/-! PROOF. O49: chunk data through its units, the end of a self-test, drowsiness, polls and walks. -/

namespace Sys2Proof.Machine

open Sys2Proof

/-! ## Blame of a unit in service (R206 to R208) -/

/-- A mismatch that no injection made is blamed on the first unit that the data passes (R205). -/
theorem transit_mismatch {s : State} {e : Event} (quiet : s.dev.injections = []) (differ : e.expected ≠ e.found) (u : W32)
    (us : List W32) :
    transit s (u :: us) e = ((blame s u { e with event := 0 }).1, some (blame s u { e with event := 0 }).2) := by
  simp [transit, quiet, differ]

@[simp] theorem startTest_transfers (s : State) (u : W32) (n : Nat) (f : Option Bool) :
    (startTest s u n f).dev.transfers = s.dev.transfers := by
  simp only [startTest]; split <;> rfl

@[simp] theorem startTest_eidx (s : State) (u : W32) (n : Nat) (f : Option Bool) : (startTest s u n f).dev.eidx = s.dev.eidx := by
  simp only [startTest]; split <;> rfl

@[simp] theorem blame_transfers (s : State) (u : W32) (e : Event) : (blame s u e).1.dev.transfers = s.dev.transfers :=
  startTest_transfers ..

@[simp] theorem blame_eidx (s : State) (u : W32) (e : Event) : (blame s u e).1.dev.eidx = s.dev.eidx + 1 := startTest_eidx ..

theorem startTest_fences {s : State} (inService : s.dev.tests = []) (u : W32) (n : Nat) (f : Option Bool) :
    (startTest s u n f).dev.tests = [⟨u, [n], f, s.cycle⟩] := by
  simp [startTest, State.modDev, inService]

/-- Where no test is in progress, a blamed unit is the only one fenced. -/
theorem blame_fences {s : State} (inService : s.dev.tests = []) (u : W32) (e : Event) :
    (blame s u e).1.dev.tests.map (·.unit) = [u] := by
  simp [blame, startTest_fences, State.modDev, inService]

/-! ## CHUNK_HOP (R205, R206, R208) -/

/-- What a unit compares of chunk data. -/
def Transfer.event (x : Transfer) : Event := ⟨0, x.chunk, x.node, x.rid, x.expected, x.found, x.spot, none, 0⟩

/-- The data as it leaves a unit; a unit that was blamed has condemned it. -/
def Transfer.past (x : Transfer) (rest : List W32) (b : Option Blame) : Transfer := { x with hops := rest, condemned := b <|> x.condemned }

/-- Chunk data, the only data on its way, goes on to its next unit. -/
def hopOn (s : State) (x : Transfer) (rest : List W32) : State :=
  let t := s.modDev fun d => { d with transfers := [x] }
  if rest = [] then t else schedFree t (.chunkHop x.id)

@[simp] theorem hopOn_dev (s : State) (x : Transfer) (rest : List W32) : (hopOn s x rest).dev = { s.dev with transfers := [x] } := by
  simp only [hopOn]; split <;> rfl

section

variable {s : State} {x : Transfer} {u : W32} {rest : List W32} (only : s.dev.transfers = [x]) (ahead : x.hops = u :: rest)
include only ahead

theorem exec_chunkHop_fenced (fenced : ∃ y ∈ s.dev.tests, y.unit = u) : exec (.chunkHop x.id) s = .next (sched s 1 (.chunkHop x.id)) := by
  have held : (s.dev.tests.any fun y => y.unit = u) = true := by simpa using fenced
  change execChunkHop x.id s = _
  simp [execChunkHop, only, ahead, held]

/-- A unit in service checks what is not condemned yet, and lets the data go on. -/
theorem exec_chunkHop_passes {t : State} {b : Option Blame} (inService : s.dev.tests = [])
    (checked : (if x.condemned.isSome then (s, none) else transit s [u] x.event) = (t, b)) (same : t.dev.transfers = [x]) :
    exec (.chunkHop x.id) s = .next (hopOn t (x.past rest b) rest) := by
  rw [Transfer.event] at checked
  change execChunkHop x.id s = _
  simp [execChunkHop, only, ahead, inService, checked, State.modDev, same, mapIf, hopOn, Transfer.past]

theorem exec_chunkHop_sound (quiet : s.dev.injections = []) (inService : s.dev.tests = [])
    (sound : x.condemned.isSome ∨ x.expected = x.found) :
    exec (.chunkHop x.id) s = .next (hopOn s { x with hops := rest } rest) := by
  refine exec_chunkHop_passes only ahead inService (b := none) ?_ only
  split
  case isTrue => rfl
  case isFalse fresh => exact transit_quiet s _ _ quiet (sound.resolve_left fresh)

theorem exec_chunkHop_mismatch (quiet : s.dev.injections = []) (inService : s.dev.tests = []) (fresh : x.condemned = none)
    (differ : x.expected ≠ x.found) :
    exec (.chunkHop x.id) s = .next (hopOn (blame s u x.event).1 (x.past rest (some (blame s u x.event).2)) rest) := by
  refine exec_chunkHop_passes only ahead inService ?_ ((blame_transfers ..).trans only)
  rw [fresh]
  exact transit_mismatch quiet differ u []

end

/-! ## The outcome of a test in the log (R207, R208) -/

/-- Memory alone was written. -/
structure State.WroteOnly (s t : State) : Prop where
  dev : t.dev = s.dev
  parts : t.parts = s.parts
  cores : t.cores = s.cores

theorem wroteOnly_writeOutcomes (s : State) (entries : List Nat) (outcome ns count : Nat) :
    s.WroteOnly (entries.foldl (fun t n => writeOutcome t n outcome ns count) s) :=
  foldl_inv s.WroteOnly (fun t n => writeOutcome t n outcome ns count) (fun _ _ h => ⟨h.dev, h.parts, h.cores⟩) entries s ⟨rfl, rfl, rfl⟩

/-- No record stands at a fault whose unit is under test. -/
def noneAwaits (parts : Tbl Part) : Prop := ∀ e ∈ parts, ∀ r ∈ e.2.records, r.awaitsTest = none

theorem autoRetries_stays {s : State} (alone : noneAwaits s.parts) (entries : List Nat) : autoRetries s entries = s := by
  refine foldl_stays _ fun e he => ?_
  have waiting : (e.2.records.filter fun r => (r.awaitsTest.map entries.contains).getD false) = [] :=
    List.filter_eq_nil_iff.2 fun r hr => by simp [alone e (List.mem_filter.1 he).1 r hr]
  rw [waiting]
  rfl

/-! ## SELF_TEST_COMPLETE (R208) -/

/-- The transients of a unit, once its test has ended. -/
def transientsPast (s : State) (unit : W32) (pass : Bool) : Nat :=
  let old := (Tbl.find s.dev.transients unit.toNat).getD 0
  if pass then old + 1 else old

/-- The only test in progress ends: its unit is fenced no more. -/
def unfenced (s : State) (y : Test) (pass : Bool) : State :=
  s.modDev fun d => { d with tests := [], transients := Tbl.put d.transients y.unit.toNat (transientsPast s y.unit pass) }

/-- And its entries get their outcome. -/
def testEnds (s : State) (y : Test) (pass : Bool) : State :=
  y.entries.foldl (fun t n => writeOutcome t n (if pass then 1 else 2) (testNs (hopKind y.unit)) (transientsPast s y.unit pass))
    (unfenced s y pass)

theorem wroteOnly_testEnds (s : State) (y : Test) (pass : Bool) : (unfenced s y pass).WroteOnly (testEnds s y pass) :=
  wroteOnly_writeOutcomes ..

section

variable {s : State} {y : Test} (only : s.dev.tests = [y]) (due : y.start + nsCycles (testNs (hopKind y.unit)) ≤ s.cycle)
include only due

theorem exec_selfTestComplete_pass (alone : noneAwaits s.parts) :
    exec (.selfTestComplete y.unit true) s = .next (testEnds s y true) := by
  have ended := autoRetries_stays (s := testEnds s y true) (by rwa [(wroteOnly_testEnds s y true).parts]) y.entries
  refine Eq.trans ?_ (congrArg Host.Outcome.next ended)
  change execSelfTestComplete y.unit true s = _
  simp [execSelfTestComplete, only, Nat.not_lt.2 due, testEnds, unfenced, transientsPast, State.modDev]

theorem exec_selfTestComplete_fail (taken : coresTaken y.unit ≠ []) :
    exec (.selfTestComplete y.unit false) s = .next (removeUnit (testEnds s y false) y.unit (y.forced = some false)) := by
  change execSelfTestComplete y.unit false s = _
  simp [execSelfTestComplete, only, Nat.not_lt.2 due, taken, testEnds, unfenced, transientsPast, State.modDev]

end

/-! ## A lasting fault of a unit in a core (R209) -/

/-- What every step keeps, and the step at `b` brings about, holds after a fold over a list that holds `b`. -/
theorem foldl_reaches {σ β : Type} {P Q : σ → Prop} {f : σ → β → σ} {b : β} (P_step : ∀ x a, P x → P (f x a))
    (Q_step : ∀ x a, Q x → Q (f x a)) (here : ∀ x, P x → Q (f x b)) {l : List β} (mem : b ∈ l) {x : σ} (start : P x) :
    Q (l.foldl f x) := by
  obtain ⟨before, after, rfl⟩ := List.append_of_mem mem
  rw [List.foldl_append, List.foldl_cons]
  exact foldl_inv Q f Q_step after _ (here _ (foldl_inv P f P_step before x start))

/-- A core goes out of use unless a live partition spans it. -/
def removeCore (t : State) (c : Nat) : State :=
  if c < Config.cores ∧ !(t.core c).removed ∧ !(t.parts.any fun e => e.1 ≤ c && c < e.1 + 2 ^ e.2.j) then
    (t.modCore c fun x => { x with removed := true }).modDev fun d => { d with removedCount := d.removedCount + 1 }
  else t

theorem applyRemovals_eq (s : State) :
    applyRemovals s = ((s.dev.faultMap ++ s.dev.injectedMap).flatMap coresTaken).foldl removeCore s := rfl

@[simp] theorem removeCore_parts (t : State) (c : Nat) : (removeCore t c).parts = t.parts := by
  unfold removeCore; split <;> rfl

@[simp] theorem removeCore_tests (t : State) (c : Nat) : (removeCore t c).dev.tests = t.dev.tests := by
  unfold removeCore; split <;> rfl

@[simp] theorem removeCore_faultMap (t : State) (c : Nat) : (removeCore t c).dev.faultMap = t.dev.faultMap := by
  unfold removeCore; split <;> rfl

theorem removeCore_removed {t : State} {c : Nat} (a : Nat) (gone : (t.core c).removed = true) : ((removeCore t a).core c).removed = true := by
  unfold removeCore
  split
  case isFalse => exact gone
  case isTrue =>
    by_cases same : c = a
    · subst same; simp [State.modCore]
    · simpa [State.modCore, State.core_setCore_other _ _ _ _ same] using gone

/-- Where no partition is live, the core itself goes. -/
theorem removeCore_self {t : State} {c : Nat} (isCore : c < Config.cores) (idle : t.parts = []) :
    ((removeCore t c).core c).removed = true := by
  unfold removeCore
  split
  case isTrue => simp [State.modCore]
  case isFalse kept => simpa [isCore, idle] using kept

theorem applyRemovals_tests (s : State) : (applyRemovals s).dev.tests = s.dev.tests :=
  foldl_inv (fun t => t.dev.tests = s.dev.tests) removeCore (fun _ _ h => (removeCore_tests ..).trans h) _ s rfl

theorem applyRemovals_faultMap (s : State) : (applyRemovals s).dev.faultMap = s.dev.faultMap :=
  foldl_inv (fun t => t.dev.faultMap = s.dev.faultMap) removeCore (fun _ _ h => (removeCore_faultMap ..).trans h) _ s rfl

theorem applyRemovals_removed {s : State} {c : Nat} {u : W32} (idle : s.parts = []) (isCore : c < Config.cores)
    (entry : u ∈ s.dev.faultMap) (taken : c ∈ coresTaken u) : ((applyRemovals s).core c).removed = true :=
  foldl_reaches (P := fun t => t.parts = []) (Q := fun t => (t.core c).removed = true) (f := removeCore)
    (fun _ _ h => (removeCore_parts ..).trans h) (fun _ a h => removeCore_removed a h) (fun _ h => removeCore_self isCore h)
    (List.mem_flatMap.2 ⟨u, List.mem_append_left _ entry, taken⟩) idle

theorem moveAway_idle {s : State} (idle : s.parts = []) (cs : List Nat) : moveAway s cs = s := by
  rw [moveAway, idle]; rfl

/-- The kinds of unit that take a core with them, Carillon nodes apart, are those that lie in a core. -/
theorem kind_of_coresTaken {u : W32} {c : Nat} (taken : coresTaken u = [c]) (notNode : hopKind u ≠ 2) :
    hopKind u = 0 ∨ hopKind u = 9 ∨ hopKind u = 10 ∨ hopKind u = 11 ∨ hopKind u = 13 ∨ hopKind u = 14 := by
  refine Decidable.byContradiction fun other => ?_
  have nothing : coresTaken u = [] := (if_neg other).trans (if_pos notNode)
  exact absurd (nothing.symm.trans taken) (List.cons_ne_nil c []).symm

theorem removeUnit_ofCore {s : State} {u : W32} {c : Nat} (idle : s.parts = []) (taken : coresTaken u = [c]) (notNode : hopKind u ≠ 2) :
    removeUnit s u false = applyRemovals (s.modDev fun d => { d with faultMap := d.faultMap ++ [u] }) := by
  have stays := moveAway_idle (s := s.modDev fun d => { d with faultMap := d.faultMap ++ [u] }) idle (coresTaken u)
  refine Eq.trans ?_ (congrArg applyRemovals stays)
  rcases kind_of_coresTaken taken notNode with k | k | k | k | k | k <;> simp [removeUnit, k]

/-! ## GRANULE_DROWSY, MONITOR_POLL and TRANSLATION_WALK_DONE (R81, R167, R378, R410) -/

theorem State.modAgent_eq {s : State} {k : Nat} {g : Agent} (found : s.agent k = some g) (f : Agent → Agent) :
    s.modAgent k f = s.setAgent k (f g) := by
  simp [State.modAgent, found]

theorem exec_granuleDrowsy {s : State} {g : Agent} (found : s.agent g.key = some g) (still : g.lastIssue + 1024 < s.cycle) :
    exec (.granuleDrowsy g.core g.slot) s = .next (s.setAgent g.key { g with drowsy := true }) :=
  (congrArg Host.Outcome.next (State.modAgent_eq found _)).trans (by rw [if_pos still])

theorem exec_monitorPoll_agent {s : State} {g : Agent} {l : Loc} {n : Nat} (found : s.agent g.key = some g)
    (waits : farWait s g = some (l, n)) :
    exec (.monitorPoll (.agent g.core g.slot)) s = .next (State.setAgent { s with free := s.free + 1 } g.key
      { g with polled := some (leWord (rdPlace s l.place n)) }) := by
  have found' : s.agent (agentKey g.core g.slot) = some g := found
  change execMonitorPoll (.agent g.core g.slot) s = _
  simp only [execMonitorPoll, found', waits]

section

variable {s : State} {e c : Nat} (waits : (s.ctx (ctxKey e c)).status = .waiting)
include waits

theorem exec_monitorPoll_context : exec (.monitorPoll (.context e c)) s =
    .next (s.setCtx (ctxKey e c) { s.ctx (ctxKey e c) with status := .running, wakeAt := s.cycle }) :=
  congrArg Host.Outcome.next (if_pos waits)

theorem exec_translationWalkDone_context : exec (.translationWalkDone (.context e c)) s =
    .next (s.setCtx (ctxKey e c) { s.ctx (ctxKey e c) with status := .running, wakeAt := s.cycle, walked := true }) :=
  congrArg Host.Outcome.next (if_pos waits)

end

end Sys2Proof.Machine

open Sys2Proof Sys2Proof.Machine

/-- Settles O49: a hop by what its unit finds, a self-test by its outcome and what a removed core leaves, and each waiter by what
answers it. -/
theorem unitEvents : Obligations.UnitEvents := by
  unfold Obligations.UnitEvents
  refine ⟨⟨fun s x u rest only ahead quiet => ⟨exec_chunkHop_fenced only ahead, exec_chunkHop_sound only ahead quiet,
      fun inService fresh differ => ?_⟩, fun s y only alone due => ⟨?_, fun c idle forced taken notNode isCore _ => ?_⟩⟩,
    fun s g found => ⟨exec_granuleDrowsy found, fun l n waits => ?_⟩, fun s e c x here waits => ?_⟩
  · refine ⟨_, (blame s u x.event).2, exec_chunkHop_mismatch only ahead quiet inService fresh differ, ?_, rfl, rfl, rfl, ?_, ?_⟩
    · rw [hopOn_dev]; rfl
    · rw [hopOn_dev]; exact blame_eidx ..
    · rw [hopOn_dev]; exact blame_fences inService ..
  · obtain ⟨dev, parts, cores⟩ := wroteOnly_testEnds s y true
    refine ⟨_, exec_selfTestComplete_pass only due alone, congrArg Device.tests dev, (congrArg Device.faultMap dev :), parts, cores, ?_⟩
    rw [dev]
    exact Tbl.find_put_same ..
  · obtain ⟨dev, parts, -⟩ := wroteOnly_testEnds s y false
    have fails := exec_selfTestComplete_fail only due (by simp [taken])
    rw [decide_eq_false forced, removeUnit_ofCore (parts.trans idle) taken notNode] at fails
    refine ⟨_, fails, ?_, ?_, applyRemovals_removed (u := y.unit) (parts.trans idle) isCore ?_ ?_⟩
    · rw [applyRemovals_tests]; exact congrArg Device.tests dev
    · rw [applyRemovals_faultMap]; exact congrArg (fun d => d.faultMap ++ [y.unit]) dev
    · exact List.mem_append_right _ (List.mem_singleton_self _)
    · simp [taken]
  · exact ⟨_, exec_monitorPoll_agent found waits, rfl, State.agent_setAgent .., fun k other => State.agent_setAgent_other _ _ _ _ other⟩
  · subst here
    exact ⟨exec_monitorPoll_context waits, exec_translationWalkDone_context waits⟩

end

/-! PROOF. O43: an agent's fault freezes its area and raises its trap. -/

namespace Sys2Proof.Machine

open Sys2Proof

/-! ## The fault of an agent (R221, R223) -/

/-- The trap of an agent as it is raised: its record enters the queue two cycles from now (R223). -/
def Agent.raises (g : Agent) (s : State) (f : AFault) : RaisedTrap :=
  ⟨s.cycle + 2, 0, g.rid, some g.key, f.trap, g.li.toList, false, f.trap.entry.isSome, s.time⟩

/-! What the trap changes: the record's cause, the agent's fault, the traps of the partition that are still to be queued. -/

def Record.withCause (r : Record) (cause : Nat) : Record := { r with cause := cause }
def Agent.trappedBy (g : Agent) (f : AFault) : Agent := { g with trapped := some f }
def Part.raising (p : Part) (x : RaisedTrap) : Part := { p with raised := p.raised ++ [x] }

/-- The partition with a record frozen by a fault of one of its agents. -/
def Part.frozenBy (p : Part) (now : Nat) (id : Nat) (cause : Nat) : Part :=
  (p.mapRec id fun x => x.movedTo now .faulted).mapRec id fun x => x.withCause cause

theorem Part.rec?_frozenBy {p : Part} {id : Nat} {r : Record} (hr : p.rec? id = some r) (now cause : Nat) :
    (p.frozenBy now id cause).rec? id = some ((r.movedTo now .faulted).withCause cause) :=
  Part.rec?_mapRec_of_rec? (Part.rec?_mapRec_of_rec? hr fun _ => rfl) fun _ => rfl

/-- A fault on no local path awaits no automatic retry (R211). -/
theorem autoRetry_of_localPath {t : Trap} (h : t.localPath = false) (p : Part) (r : Record) : autoRetry p r t = false := by
  simp [autoRetry, h]

section

variable {s : State} {g : Agent} {p : Part} {r : Record} (found : s.agent g.key = some g) (hp : s.part g.part = some p)
  (hr : p.rec? g.rid = some r)
include found hp hr

/-- The trapped agent keeps its fault, its partition freezes the record, and the trap is to be queued; nothing else changes. -/
theorem trapAgent_eq {f : AFault} (noRetry : f.trap.localPath = false) : trapAgent s r g f =
    sched ((s.setPart g.part ((p.frozenBy s.cycle g.rid f.trap.cause).raising (g.raises s f))).setAgent g.key (g.trappedBy f)) 2
      (.trapEnqueue g.part) := by
  have frozen : setRecState s g.part g.rid .faulted f.trap.cause =
      s.setPart g.part (p.mapRec g.rid fun x => x.movedTo s.cycle .faulted) := by
    simp only [setRecState, State.rec?_eq hp, hr, if_true]
    exact State.modPart_eq hp _
  have caused : (setRecState s g.part g.rid .faulted f.trap.cause).modRec g.part g.rid (fun x => x.withCause f.trap.cause) =
      s.setPart g.part (p.frozenBy s.cycle g.rid f.trap.cause) := by
    rw [frozen]
    exact (State.modPart_eq (State.part_setPart ..) _).trans (State.setPart_setPart ..)
  have noticed : (s.setPart g.part (p.frozenBy s.cycle g.rid f.trap.cause)).modAgent g.key (fun o => o.trappedBy f) =
      (s.setPart g.part (p.frozenBy s.cycle g.rid f.trap.cause)).setAgent g.key (g.trappedBy f) :=
    State.modAgent_eq (s := s.setPart g.part _) found _
  have raised : ((s.setPart g.part (p.frozenBy s.cycle g.rid f.trap.cause)).setAgent g.key (g.trappedBy f)).modPart g.part
        (fun q => q.raising (g.raises s f)) =
      (s.setPart g.part ((p.frozenBy s.cycle g.rid f.trap.cause).raising (g.raises s f))).setAgent g.key (g.trappedBy f) :=
    (State.modPart_eq (s := (s.setPart g.part _).setAgent ..) (State.part_setPart ..) _).trans
      (congrArg (fun u => State.setAgent u g.key (g.trappedBy f)) (State.setPart_setPart ..))
  simp only [trapAgent, hp, Option.map_some, autoRetry_of_localPath noRetry, Option.getD_some, Bool.false_eq_true, if_false]
  rw [← raised, ← noticed, ← caused]
  rfl

/-- The fault that an agent takes at its present instruction. -/
def Agent.faultHere (g : Agent) (s : State) (cause : Nat) (addr : Word) (lane : Nat) : AFault :=
  ⟨g.trapAt s g.pc cause addr lane, none, false⟩

/-- A cell agent's fault in an area that runs makes it the trapped one. -/
theorem faultNow_traps (cell : g.service = false) (step : g.stepLeft = none) (runs : r.frozen = false) (cause : Nat) (addr : Word)
    (lane : Nat) : faultNow s g cause addr lane =
      sched ((s.setPart g.part ((p.frozenBy s.cycle g.rid cause).raising (g.raises s (g.faultHere s cause addr lane)))).setAgent g.key
        (g.trappedBy (g.faultHere s cause addr lane))) 2 (.trapEnqueue g.part) := by
  refine Eq.trans ?_ (trapAgent_eq found hp hr (f := g.faultHere s cause addr lane) rfl)
  simp [faultNow, agentFault, step, cell, State.rec?_eq hp, hr, runs, Agent.faultHere]

end

end Sys2Proof.Machine

section

open Sys2Proof Sys2Proof.Machine

/-- Settles O43: the state behind the fault is known whole, and TRAP takes it at its agent's turn. -/
theorem agentFaults : Obligations.AgentFaults := by
  unfold Obligations.AgentFaults
  intro s g p r found cell step hp hr running unstopped noneRaised
  have runs : r.frozen = false := by simp [Record.frozen, running, unstopped]
  refine ⟨fun cause addr lane => ?_, fun turn n => onAgent_at ⟨turn, found⟩ _⟩
  rw [faultNow_traps found hp hr cell step runs]
  refine ⟨rfl, rfl, rfl, rfl, rfl, State.agent_setAgent .., fun k other => State.agent_setAgent_other _ _ _ _ other, rfl, rfl,
    pendingEvent_sched_self .., _, State.part_setPart .., ?_, ?_⟩
  · rw [← running]
    exact Part.rec?_frozenBy hr s.cycle cause
  · simp [Part.raising, Part.frozenBy, Part.mapRec, noneRaised, Agent.raises, Agent.faultHere]

end

/-! PROOF. O45: the trap queue and the start of the handler. -/

namespace Sys2Proof.Machine

open Sys2Proof

/-! ## What a write through the tables and a load leave -/

/-- What every write of a place keeps, a write at virtual addresses keeps. -/
theorem writeVa_inv {P : State → Prop} (step : ∀ t p l, P t → P (wrPlace t p l)) {s t : State} {asid va : Nat} {l : List Byte} (h : P s)
    (e : writeVa s asid va l = some t) : P t := by
  simp only [writeVa] at e
  split at e
  · cases e
    exact h
  · split at e
    · cases e
    · refine foldl_inv (fun x : Option State => ∀ u, x = some u → P u) _ (fun x i hx u hu => ?_) _ (some s) (fun u hu => ?_) t e
      · cases x with
        | none => cases hu
        | some v =>
          dsimp only at hu
          split at hu
          · cases hu
          · cases hu
            exact step _ _ _ (hx v rfl)
      · cases hu
        exact h

/-- Agents and devices are no part of what it writes. -/
theorem writeVa_agents_dev {s t : State} {asid va : Nat} {l : List Byte} (e : writeVa s asid va l = some t) :
    t.agents = s.agents ∧ t.dev = s.dev :=
  writeVa_inv (P := fun u => u.agents = s.agents ∧ u.dev = s.dev) (fun u p _ h => by cases p <;> exact h) ⟨rfl, rfl⟩ e

/-- Where no injection is armed the load of a microprogram writes its core alone (R205). -/
theorem loadMicro_quiet {s : State} (quiet : s.dev.injections = []) (n : Nat) (p : Part) (core o at_ : Nat) :
    (loadMicro s n p core o at_).mem = s.mem ∧ (loadMicro s n p core o at_).dev = s.dev := by
  unfold loadMicro
  split
  · exact ⟨rfl, rfl⟩
  · rw [transit_quiet s _ _ quiet rfl]
    exact ⟨rfl, rfl⟩

theorem beginLoad_quiet {s : State} (quiet : s.dev.injections = []) (n : Nat) (p : Part) (cores : List Nat) (o : Nat) :
    (beginLoad s n p cores o).1.mem = s.mem := by
  simp only [beginLoad]
  split
  · rfl
  · split
    · rfl
    · refine (foldl_inv (fun t : State => t.mem = s.mem ∧ t.dev = s.dev) _ (fun t c ht => ?_) cores s ⟨rfl, rfl⟩).1
      obtain ⟨mem, dev⟩ := ht
      obtain ⟨mem', dev'⟩ := loadMicro_quiet (s := t) (by rw [dev, quiet]) n p c o (s.cycle + sweepTime p.j / 2 + ceilDiv (p.operLen o) 8)
      exact ⟨mem'.trans mem, dev'.trans dev⟩

/-! ## The plan of the next run (R225) -/

theorem kept_planRun (s : State) (n : Nat) : s.Kept (planRun s n) := by
  unfold planRun
  split
  · exact .refl s
  · split
    · exact .refl s
    · split
      · exact .refl s
      · split
        · exact kept_schedOnce ..
        · exact (kept_beginLoad ..).trans (kept_schedOnce ..)

theorem planRun_quiet {s : State} (quiet : s.dev.injections = []) (n : Nat) : (planRun s n).mem = s.mem := by
  unfold planRun
  split
  · rfl
  · split
    · rfl
    · split
      · rfl
      · split
        · exact schedOnce_mem ..
        · exact (schedOnce_mem ..).trans (beginLoad_quiet quiet ..)

/-! ## TRAP_ENQUEUE (R223, R225) -/

/-- The partition with a trap moved from those raised to the queue. -/
def Part.queueing (p : Part) (x : RaisedTrap) : Part :=
  { p with raised := p.raised.filter (· ≠ x), traps := p.traps ++ [⟨p.trapCount, x⟩], trapCount := p.trapCount + 1 }

section

variable {s : State} {n : Nat} {p : Part} {x : RaisedTrap} (hp : s.part n = some p)
include hp

/-- The one trap that is raised and due is appended. -/
theorem exec_trapEnqueue_one (live : p.ended = none) (one : p.raised = [x]) (due : x.due ≤ s.cycle) :
    exec (.trapEnqueue n) s = .next (appendTrap s n x) := by
  have dueNow : sortBy (trapOrder s n) (p.raised.filter fun y => y.due ≤ s.cycle) = [x] := by
    simp [one, due, sortBy, insertBy]
  show execTrapEnqueue n s = _
  simp only [execTrapEnqueue, hp, live, dueNow, List.foldl_cons, List.foldl_nil]

theorem appendTrap_full (full : 64 ≤ p.unhandled) : appendTrap s n x = s := by
  simp only [appendTrap, hp, if_pos full]

theorem appendTrap_aborts (room : p.unhandled < 64) (none_ : p.handler = none ∨ (s.pcb n).trapq = 0) :
    appendTrap s n x = endWhole s n 0x01 x.trap.cause := by
  simp only [appendTrap, hp, if_neg (Nat.not_le.2 room), Option.isNone_iff_eq_none, if_pos none_]

theorem appendTrap_queues {h : Nat} {u : State} (room : p.unhandled < 64) (handler : p.handler = some h) (region : (s.pcb n).trapq ≠ 0)
    (written : writeVa s p.asid ((s.pcb n).trapq.toNat + 128 * (p.trapCount % 64)) (trapRecord s n x) = some u) :
    appendTrap s n x = planRun (u.setPart n (p.queueing x)) n := by
  have some_ : ¬ (p.handler.isNone = true ∨ (s.pcb n).trapq = 0) := not_or.2 ⟨by simp [handler], region⟩
  simp only [appendTrap, hp, if_neg (Nat.not_le.2 room), if_neg some_, written]
  rfl

end

/-! ## HANDLER_RUN_START (R225, R76) -/

/-- A run that nothing holds back takes the oldest trap. -/
theorem exec_handlerRunStart_runs {s : State} {n h : Nat} {p : Part} {q : QueuedTrap} {rest : List QueuedTrap} {m : Micro}
    (hp : s.part n = some p) (queued : p.traps = q :: rest) (handler : p.handler = some h) (idle : p.run = none) (pre : p.pre = .none)
    (resident : s.micro (s.root n p) n h = some m) (loaded : m.readyAt ≤ s.cycle) (rested : p.lastRft = 0 ∨ p.lastRft + 2 ≤ s.cycle) :
    exec (.handlerRunStart n) s = .next ((State.setPart { s with free := s.free + 1 } n { p with traps := rest, run := some q }).setAgent
      (agentKey (s.root n p) 64) (handlerAgent s n p (s.root n p) h q)) := by
  have free : ¬ (p.run.isSome = true ∨ p.pre ≠ .none) := by simp [idle, pre]
  have due : ¬ (s.cycle < m.readyAt ∨ (p.lastRft ≠ 0 ∧ s.cycle < p.lastRft + 2)) := by omega
  show execHandlerRunStart n s = _
  simp only [execHandlerRunStart, hp, queued, handler, if_neg free, resident, if_neg due]

end Sys2Proof.Machine

section

open Sys2Proof Sys2Proof.Machine

/-- Settles O45: a due trap by the room, the handler and the region that it finds, and a run by the agent that it starts. -/
theorem trapQueue : Obligations.TrapQueue := by
  unfold Obligations.TrapQueue
  refine fun s n p hp => ⟨fun x live one due => ?_, fun q rest h m queued handler idle pre resident loaded rested => ?_⟩
  · rw [exec_trapEnqueue_one hp live one due]
    refine ⟨fun room none_ => by rw [appendTrap_aborts hp room none_], fun full => by rw [appendTrap_full hp full],
      fun h u room handler region quiet written => ?_⟩
    obtain ⟨agents, dev⟩ := writeVa_agents_dev written
    have planned := (State.Leaves.of_part (State.part_setPart u n (p.queueing x))).kept (kept_planRun _ n)
    have memory : (planRun (u.setPart n (p.queueing x)) n).mem = u.mem :=
      planRun_quiet (s := u.setPart n (p.queueing x)) ((congrArg Device.injections dev).trans quiet.2) n
    rw [appendTrap_queues hp room handler region written]
    exact ⟨_, _, rfl, planned.part, by simp [Part.queueing, one], rfl, rfl, memory, planned.agents.trans agents⟩
  · obtain ⟨sr, pr, kr, -⟩ := Agent.fresh_registers
    exact ⟨_, _, exec_handlerRunStart_runs hp queued handler idle pre resident loaded rested, State.part_setPart .., State.agent_setAgent ..,
      fun k other => State.agent_setAgent_other _ _ _ _ other, rfl, rfl, rfl, rfl, rfl, rfl, rfl, rfl, sr, pr, kr, rfl, rfl, rfl, rfl, rfl,
      rfl, rfl, rfl, rfl⟩

end

/-! PROOF. What the accesses of an agent leave: the partitions. -/

namespace Sys2Proof.Machine

open Sys2Proof

/-! ## Accesses leave the partitions (R171, R198, R221) -/

/-- Rounds that leave the partitions leave them together. -/
theorem foldl_parts {β : Type} {f : State → β → State} (step : ∀ t x, (f t x).parts = t.parts) (l : List β) (s : State) :
    (l.foldl f s).parts = s.parts :=
  foldl_inv (fun t : State => t.parts = s.parts) f (fun t x h => (step t x).trans h) l s rfl

@[simp] theorem State.modAgent_parts (s : State) (k : Nat) (f : Agent → Agent) : (s.modAgent k f).parts = s.parts := by
  unfold State.modAgent; split <;> rfl
@[simp] theorem schedOnce_parts (s : State) (n : Nat) (i : Instr) : (schedOnce s n i).parts = s.parts := (kept_schedOnce ..).parts
@[simp] theorem wrPlace_parts (s : State) (p : Place) (l : List Byte) : (wrPlace s p l).parts = s.parts := by
  cases p <;> rfl
@[simp] theorem tlbInsert_parts (s : State) (c : Nat) (e : TlbEntry) : (tlbInsert s c e).parts = s.parts := by
  simp only [tlbInsert]; split <;> rfl
@[simp] theorem finishAccess_parts (s : State) (k i : Nat) : (finishAccess s k i).parts = s.parts := by
  unfold finishAccess; split <;> rfl
@[simp] theorem lateFault_parts (s : State) (k : Nat) (f : AFault) : (lateFault s k f).parts = s.parts := by
  unfold lateFault; split <;> simp
@[simp] theorem failWith_parts (s : State) (g : Agent) (a : Access) (t : Trap) (alone : Bool) : (failWith s g a t alone).parts = s.parts := by
  simp only [failWith, lateFault_parts]; split <;> simp
@[simp] theorem failAccess_parts (s : State) (g : Agent) (a : Access) (c : Nat) (w : Word) (l : Nat) (alone : Bool) :
    (failAccess s g a c w l alone).parts = s.parts := failWith_parts ..
@[simp] theorem condemned_parts (s : State) (g : Agent) (a : Access) (b : Blame) (w : Word) (l : Nat) :
    (condemned s g a b w l).parts = s.parts := failWith_parts ..

/-! Presence words (R170) -/

@[simp] theorem answerAsker_parts (s : State) (v : Word) (w : Asker) (poison : Bool) : (answerAsker s v w poison).parts = s.parts := by
  unfold answerAsker; split <;> simp
@[simp] theorem answerAll_parts (s : State) (pa : Nat) (v : Word) : (answerAll s pa v).parts = s.parts :=
  foldl_parts (fun _ _ => answerAsker_parts ..) _ _
@[simp] theorem presenceRead_parts (s : State) (pa : Nat) (w : Asker) : (presenceRead s pa w).parts = s.parts := by
  unfold presenceRead
  split
  · exact answerAsker_parts ..
  · split
    · rfl
    · split <;> rfl
@[simp] theorem presenceWrite_parts (s : State) (pa : Nat) (st : Presence) (v : Word) : (presenceWrite s pa st v).parts = s.parts :=
  answerAll_parts ..
@[simp] theorem presenceClear_parts (s : State) (pa : Nat) : (presenceClear s pa).parts = s.parts := rfl

/-! Delivery -/

@[simp] theorem scatter_parts (s : State) (l : List (Loc × W32)) :
    (l.foldl (fun t lw => wrPlace t lw.1.place (of32 lw.2)) s).parts = s.parts :=
  foldl_parts (fun _ _ => wrPlace_parts ..) l s

@[simp] theorem perform_parts (s : State) (g : Agent) (a : Access) : (perform s g a).parts = s.parts := by
  obtain ⟨id, cls, op, vas, locs, width, acq, rel, scope, phase, tr, lanes⟩ := a
  cases op with
  | ldp | stp =>
    rcases locs with _ | ⟨⟨_ | _ | _, _⟩, _⟩ <;> simp only [perform, finishAccess_parts]
    split <;> simp
  | psetEmpty | psetPoison =>
    rcases locs with _ | ⟨⟨_ | _ | _, _⟩, _⟩ <;> simp [perform]
  | atom =>
    cases locs <;> simp only [perform, finishAccess_parts, State.setAgent_parts]
    split <;> simp
  | _ => cases locs <;> simp [perform]

@[simp] theorem sendPosted_parts (s : State) (p : Posted) : (sendPosted s p).parts = s.parts := by
  unfold sendPosted
  split
  · unfold applyAt; dsimp only; split <;> rfl
  · rfl
  · rfl

@[simp] theorem postFar_parts (s : State) (who : Nat × Nat) (id : Nat) (p : Place) (op : AccOp) :
    (postFar s who id p op).parts = s.parts := by
  simp only [postFar]; split <;> simp

@[simp] theorem postAgent_parts (s : State) (k i : Nat) (p : Place) (b : List Byte) (async : Bool) :
    (postAgent s k i p b async).parts = s.parts := by
  unfold postAgent; split <;> simp

@[simp] theorem sendPeer_parts (s : State) (g : Agent) (a : Access) (slot pa : Nat) : (sendPeer s g a slot pa).parts = s.parts := by
  unfold sendPeer
  split
  · simp
  · split <;> simp

@[simp] theorem deliver_parts (s : State) (g : Agent) (a : Access) : (deliver s g a).parts = s.parts := by
  unfold deliver
  split
  · simp
  · simp
  · split <;> simp [postHost]
  · simp

@[simp] theorem passPart_parts (s : State) (g : Agent) (a : Access) (i : Nat) (p : Place) : (passPart s g a i p).1.parts = s.parts :=
  (kept_transit ..).parts

@[simp] theorem doLane_parts (s : State) (k id i : Nat) : (doLane s k id i).1.parts = s.parts := by
  unfold doLane
  split
  · rfl
  · split
    · rfl
    · split
      · rfl
      · dsimp only
        split
        · simp
        · split
          · simp
          · split <;> simp [wr]

/-! The walker's answer (R198) -/

@[simp] theorem lanesBelow_parts (s : State) (g : Agent) (a : Access) (look : Word → Except Nat Loc) (c i : Nat) (v : Word) :
    (lanesBelow s g a look c i v).parts = s.parts := by
  unfold lanesBelow
  dsimp only
  split
  · split <;> simp
  · simp

@[simp] theorem walkAnswer_parts (s : State) (core slot id : Nat) : (walkAnswer s core slot id).parts = s.parts := by
  unfold walkAnswer
  dsimp only
  split
  · rfl
  · split
    · rfl
    · split
      · rfl
      · split
        · refine (lanesBelow_parts ..).trans (foldl_parts (fun t v => ?_) _ s)
          split
          · rfl
          · split <;> simp
        · refine (State.modAgent_parts ..).trans (foldl_parts (fun t v => ?_) _ s)
          split
          · rfl
          · split <;> simp

/-- The stores of an agent that goes are performed without a change of a partition. -/
theorem settleStores_parts (s : State) (g : Agent) : (settleStores s g).parts = s.parts := by
  have parked : ∀ (t : State) (a : Access), (if a.phase = .parked then walkAnswer t g.core g.slot a.id else t).parts = t.parts := by
    intro t a
    split <;> simp
  have lanes : ∀ (t : State) (k id : Nat) (l : List Nat), (l.foldl (fun u i => (doLane u k id i).1) t).parts = t.parts :=
    fun t k id l => foldl_parts (fun _ _ => doLane_parts ..) l t
  refine foldl_parts (fun t a => ?_) _ s
  dsimp only
  split
  · exact parked t a
  · split
    · split
      · exact parked t a
      · split
        · exact (lanes ..).trans (parked t a)
        · exact (deliver_parts ..).trans (parked t a)
    · exact parked t a

end Sys2Proof.Machine

/-! PROOF. O46: the returns from a trap. -/

namespace Sys2Proof.Machine

open Sys2Proof

/-! ## Agents that a state lists -/

theorem Tbl.mem_of_mem_drop {α : Type} {t : Tbl α} {k : Nat} {e : Nat × α} (h : e ∈ Tbl.drop t k) : e ∈ t := by
  induction t with
  | nil => exact h
  | cons a t ih =>
    simp only [Tbl.drop] at h
    split at h
    · exact List.mem_cons_of_mem _ (ih h)
    · rcases List.mem_cons.1 h with rfl | h
      · exact List.mem_cons_self ..
      · exact List.mem_cons_of_mem _ (ih h)

theorem sortBy_eq_nil {α : Type} {le : α → α → Bool} {l : List α} : sortBy le l = [] ↔ l = [] := by
  cases l with
  | nil => simp [sortBy]
  | cons a l =>
    simp only [sortBy, reduceCtorEq, iff_false]
    cases sortBy le l with
    | nil => simp [insertBy]
    | cons b m => simp only [insertBy]; split <;> simp

/-- A record has no agents where none of those listed is of it. -/
theorem State.agentsOf_eq_nil {s : State} {n id : Nat} :
    s.agentsOf n id = [] ↔ ∀ e ∈ s.agents, ¬ (e.2.part = n ∧ e.2.rid = id ∧ e.2.slot < 64) := by
  simp only [State.agentsOf, sortBy_eq_nil, List.filter_eq_nil_iff, List.forall_mem_map, decide_eq_true_eq]

/-! ## The end of a run (R225, R226) -/

/-- The state without an agent. -/
def State.leaving (s : State) (g : Agent) : State := { s with agents := Tbl.drop s.agents g.key }

theorem State.agent_leaving (s : State) (g : Agent) : (s.leaving g).agent g.key = none := Tbl.find_drop_same ..

theorem State.agent_leaving_other (s : State) (g : Agent) {k : Nat} (h : k ≠ g.key) : (s.leaving g).agent k = s.agent k :=
  Tbl.find_drop_other _ _ _ h

theorem State.agentsOf_leaving_nil {s : State} {n id : Nat} (h : s.agentsOf n id = []) (g : Agent) : (s.leaving g).agentsOf n id = [] :=
  State.agentsOf_eq_nil.2 fun e he => State.agentsOf_eq_nil.1 h e (Tbl.mem_of_mem_drop he)

/-- States that differ in nothing of these do not where the same agent has left both. -/
theorem State.Kept.leaving {s t : State} (h : s.Kept t) (g : Agent) : (s.leaving g).Kept (t.leaving g) :=
  ⟨⟨congrArg (Tbl.drop · g.key) h.agents, h.cells, h.cycle, h.pending⟩, h.parts⟩

theorem kept_afterRun (s : State) (n : Nat) : s.Kept (afterRun s n) := by
  have planned := kept_planRun s n
  simp only [afterRun]
  split
  · exact planned
  · split <;> split
    · exact planned
    · exact planned.trans (kept_schedOnce ..)
    · exact planned.trans (kept_sched ..)
    · exact (planned.trans (kept_schedOnce ..)).trans (kept_sched ..)

/-- The partition with its run over. -/
def Part.rested (p : Part) (now : Nat) : Part := { p with run := none, lastRft := now }

theorem endRun_eq (s : State) (g : Agent) : endRun s g =
    afterRun (((releaseOwned s g.core g.slot).leaving g).modPart g.part fun p => p.rested s.cycle) g.part := rfl

/-- The service agent is gone, and its run is over. -/
theorem endRun_leaves {s : State} {g : Agent} {p : Part} (hp : s.part g.part = some p) :
    (s.leaving g).Leaves g.part (p.rested s.cycle) (endRun s g) := by
  have gone := (kept_releaseOwned s g.core g.slot).leaving g
  rw [endRun_eq]
  exact (((State.Leaves.of_part (s := s.leaving g) hp).kept gone).modPart fun p => p.rested s.cycle).kept (kept_afterRun ..)

section

variable {s : State} {g : Agent} {p : Part} (hp : s.part g.part = some p)
include hp

theorem endRun_agent_other {k : Nat} (h : k ≠ g.key) : (endRun s g).agent k = s.agent k :=
  ((endRun_leaves hp).home_agent k).trans (State.agent_leaving_other _ _ h)

theorem endRun_agentsOf_nil {n id : Nat} (h : s.agentsOf n id = []) : (endRun s g).agentsOf n id = [] :=
  ((endRun_leaves hp).agentsOf n id).trans (State.agentsOf_leaving_nil h g)

theorem endRun_pending {i : Instr} (h : pendingEvent s i = true) : pendingEvent (endRun s g) i = true :=
  (endRun_leaves hp).pending i h

end

/-- The instruction ends the run of a service agent: the agent is gone, the record of an identifier is found. -/
def endsRun (s : State) (g : Agent) (id : Nat) (i : Instr) (f : State → Part → Record → Prop) : Prop :=
  ∃ t y x, exec i s = .next t ∧ t.agent g.key = none ∧ t.part g.part = some y ∧ y.run = none ∧ y.lastRft = s.cycle
    ∧ y.rec? id = some x ∧ f t y x

/-- It does so where its action leaves the partition live, in the same cycle. -/
theorem endsRun_of_leaves {s base u : State} {g : Agent} {id : Nat} {i : Instr} {f : State → Part → Record → Prop} {q : Part} {x : Record}
    (takes : exec i s = .next (endRun u g)) (left : base.Leaves g.part q u) (clock : base.cycle = s.cycle) (found : q.rec? id = some x)
    (rest : f (endRun u g) (q.rested s.cycle) x) : endsRun s g id i f := by
  have past := endRun_leaves (g := g) left.part
  rw [left.cycle.trans clock] at past
  exact ⟨_, _, _, takes, (past.home_agent _).trans (State.agent_leaving ..), past.part, rfl, rfl, found, rest⟩

/-! ## A partition that is gone (R45, R227) -/

/-- Nothing of the partition is left. -/
structure State.Without (s : State) (n : Nat) : Prop where
  part : s.part n = none
  pcb : (s.pcb n).state = 0
  agents : ∀ k h, s.agent k = some h → h.part ≠ n

theorem endPartition_without {s : State} {n : Nat} {p : Part} (hp : s.part n = some p) (status cause : Nat) :
    (endPartition s n status cause).Without n := by
  simp only [endPartition, hp]
  refine ⟨Tbl.find_drop_same .., by simp, fun k h found => ?_⟩
  have listed := Tbl.mem_of_find found
  simp only [State.modPcb, State.setPcb, List.mem_filter, decide_eq_true_eq] at listed
  exact listed.2

theorem endWhole_without {s : State} {n : Nat} {p : Part} (hp : s.part n = some p) (status cause : Nat) :
    (endWhole s n status cause).Without n :=
  endPartition_without (State.part_of_parts (foldl_parts settleStores_parts _ s) hp) status cause

theorem pumpRels_pcbs (s : State) (core : Nat) : (pumpRels s core).pcbs = s.pcbs := by
  refine foldl_inv (fun t : State => t.pcbs = s.pcbs) _ (fun t r ht => ?_) _ s rfl
  split
  · exact ht
  · unfold schedOnce
    split <;> exact ht

theorem releaseOwned_pcbs (s : State) (core slot : Nat) : (releaseOwned s core slot).pcbs = s.pcbs := by
  refine foldl_inv (fun t : State => t.pcbs = s.pcbs) _ (fun t c ht => ?_) _ s rfl
  dsimp only
  split
  · exact ht
  · split
    · split
      · exact ht
      · exact (pumpRels_pcbs ..).trans ht
    · exact ht

theorem State.Without.releaseOwned {s : State} {n : Nat} (h : s.Without n) (core slot : Nat) :
    (Machine.releaseOwned s core slot).Without n where
  part := by rw [State.part, (kept_releaseOwned ..).parts]; exact h.part
  pcb := by rw [State.pcb, releaseOwned_pcbs]; exact h.pcb
  agents k a found := h.agents k a (((kept_releaseOwned ..).home_agent k).symm.trans found)

theorem State.Without.leaving {s : State} {n : Nat} (h : s.Without n) (g : Agent) : (s.leaving g).Without n where
  part := h.part
  pcb := h.pcb
  agents k a found := by
    by_cases own : k = g.key
    · rw [own, State.agent_leaving] at found
      cases found
    · rw [State.agent_leaving_other _ _ own] at found
      exact h.agents k a found

/-- Where a partition is gone nothing follows its run. -/
theorem afterRun_without {s : State} {n : Nat} (h : s.Without n) : afterRun s n = s := by
  simp only [afterRun, planRun, h.part]

theorem endRun_without {s : State} {g : Agent} (h : s.Without g.part) : (endRun s g).Without g.part := by
  have gone := (h.releaseOwned g.core g.slot).leaving g
  have same : ((releaseOwned s g.core g.slot).leaving g).modPart g.part (fun p => p.rested s.cycle) =
      (releaseOwned s g.core g.slot).leaving g := by
    simp only [State.modPart, gone.part]
  rw [endRun_eq, same, afterRun_without gone]
  exact gone

/-! ## What an action does to the trapped record (R227, R228) -/

theorem dropAgents_cycle {s : State} {n id : Nat} (idle : ∀ g ∈ s.agentsOf n id, g.outs = []) : (dropAgents s n id).cycle = s.cycle := by
  have settled : s.Kept ((s.agentsOf n id).foldl (fun t g => leaveCore (settleStores t g) g) s) := by
    rw [foldl_settleStores_idle _ idle]
    exact State.Kept.foldl kept_leaveCore _ s
  exact settled.cycle

theorem kept_payloadArrives (s : State) (n id : Nat) (w : Word) (l : List Byte) (ch : Word) (a b : Nat) :
    s.Kept (payloadArrives s n id w l ch a b).1 := by
  unfold payloadArrives
  split
  · exact .refl s
  · exact kept_transit ..

/-- A symbol that is put into the row leaves the agents and the partitions. -/
theorem putSymbol_agents_parts (s : State) (n id : Nat) (x : Placed) :
    (putSymbol s n id x).1.agents = s.agents ∧ (putSymbol s n id x).1.parts = s.parts := by
  unfold putSymbol
  split
  next => exact ⟨rfl, rfl⟩
  next l _ =>
    obtain ⟨⟨agents, -, -, -⟩, parts⟩ := kept_payloadArrives s n id x.word l x.chime x.src x.dest
    generalize payloadArrives s n id x.word l x.chime x.src x.dest = r at agents parts
    dsimp only
    split
    · exact ⟨agents, parts⟩
    · exact ⟨agents, parts⟩

/-- An area restored from its copy changes the row and the payloads. -/
theorem restoreArea_leaves (s : State) (n : Nat) (p : Part) (r : Record) : (restoreArea s n p r).agents = s.agents
    ∧ (restoreArea s n p r).parts = s.parts ∧ (restoreArea s n p r).cycle = s.cycle := by
  unfold restoreArea
  split
  · exact ⟨rfl, rfl, rfl⟩
  · refine foldl_inv (fun t : State => t.agents = s.agents ∧ t.parts = s.parts ∧ t.cycle = s.cycle) _ (fun t x ht => ?_) _ s ⟨rfl, rfl, rfl⟩
    obtain ⟨agents, parts, cycle⟩ := ht
    obtain ⟨agents', parts'⟩ := putSymbol_agents_parts t n r.id ⟨x.2.1, x.2.2.map (·.2), (x.2.2.map (·.1)).getD 0, x.1, r.seat⟩
    exact ⟨agents'.trans agents, parts'.trans parts, (putSymbol_cycle ..).trans cycle⟩

/-- Any record of a partition is made READY, and the root is to select. -/
theorem State.Leaves.readies {s t : State} {n id : Nat} {q : Part} {r : Record} (h : s.Leaves n q t) (hr : q.rec? id = some r) :
    ∃ q', s.Leaves n q' (Machine.makeReady t n id) ∧ q'.rec? id = some (r.readied s.cycle)
      ∧ pendingEvent (Machine.makeReady t n id) (.admission n) = true := by
  have ready := (h.moveRec hr .ready 0).modRec id fun x => { x with ready := t.cycle, startAt := 0, unheld := [] }
  refine ⟨_, ready.kept (kept_wakeRoot ..), ?_, pendingEvent_wakeRoot ready.part⟩
  rw [h.cycle]
  exact Part.rec?_mapRec_of_rec? (Part.rec?_mapRec_of_rec? hr fun _ => rfl) fun _ => rfl

/-- A held cancel acts on a record that has one. -/
theorem actCancel_of_free {s : State} {n id : Nat} {r : Record} (hr : s.rec? n id = some r) (free : r.cancelHeld = false) :
    actCancel s n id = s := by
  simp [actCancel, hr, free]

/-- An area that goes on is RUNNING, and late faults that its agents hold are to be raised. -/
theorem State.Leaves.goOn {s t : State} {n id : Nat} {p : Part} {r : Record} (h : s.Leaves n p t) (hr : p.rec? id = some r) :
    s.Leaves n (p.mapRec id fun x => x.movedTo s.cycle .running) (Machine.goOn t n id) := by
  refine (h.setRecState hr .running 0).kept (State.Kept.foldl (fun t g => ?_) _ _)
  split
  · exact .refl t
  · exact kept_schedOnce ..

/-- The record with one retry more, before it is READY again. -/
def Record.retried (r : Record) (now : Nat) : Record :=
  { r.enter now none with retries := r.retries + 1, pend := 0, awaitsTest := none }

theorem Record.retried_id (r : Record) (now : Nat) : (r.retried now).id = r.id := r.countTo_id now

theorem Record.countTo_cancelHeld (r : Record) (now : Nat) : (r.countTo now).cancelHeld = r.cancelHeld := by
  simp only [Record.countTo]; split <;> rfl

theorem Record.retried_cancelHeld (r : Record) (now : Nat) : (r.retried now).cancelHeld = r.cancelHeld := r.countTo_cancelHeld now

theorem Record.readied_cancelHeld (r : Record) (now : Nat) : (r.readied now).cancelHeld = r.cancelHeld := rfl

/-- The handler has answered for the record. -/
def Record.handled (r : Record) : Record := { r with rowFull := false, cancelHeld := false }

theorem Record.handled_of_free {r : Record} (row : r.rowFull = false) (free : r.cancelHeld = false) : r.handled = r := by
  cases r
  subst row free
  rfl

theorem Part.id_of_rec? {p : Part} {id : Nat} {r : Record} (h : p.rec? id = some r) : r.id = id := by
  simpa using List.find?_some h

/-- A poison range of no words poisons none. -/
theorem poisonRange_none (s : State) (n id cause first : Nat) : poisonRange s n id cause first 0 = s := by
  unfold poisonRange
  split <;> rfl

/-- Where the area goes on behind a change of its trapped agent, its record runs, and the agent stands so. -/
theorem endsRun_goOn {s : State} {r : Record} {g a : Agent} {k : Nat} {i : Instr} {p : Part} (hp : s.part g.part = some p) (hr : p.rec? r.id = some r)
    (free : r.cancelHeld = false)
    (takes : exec i s = .next (endRun (actCancel (goOn (s.setAgent k a) g.part r.id) g.part r.id) g)) (other : k ≠ g.key) :
    endsRun s g r.id i fun t _ x => x = r.movedTo s.cycle .running ∧ t.agent k = some a := by
  have goes := (State.Leaves.of_part (s := s.setAgent k a) hp).goOn hr
  have runs := Part.rec?_mapRec_of_rec? (f := fun x => x.movedTo s.cycle .running) hr fun _ => rfl
  rw [actCancel_of_free ((State.rec?_eq goes.part _).trans runs) free] at takes
  exact endsRun_of_leaves takes goes rfl runs
    ⟨rfl, (endRun_agent_other goes.part other).trans ((goes.home_agent _).trans (State.agent_setAgent ..))⟩

section

variable {s : State} {n : Nat} {p : Part} {r : Record} (hp : s.part n = some p) (hr : p.rec? r.id = some r)
include hp hr

section

variable (quiet : ∀ g ∈ s.agentsOf n r.id, g.outs = []) (free : r.cancelHeld = false)
include quiet free

/-- A retried record is READY with one retry more, its agents gone. -/
theorem retryRecord_leaves : ∃ (base : State) (q : Part), base.agentsOf n r.id = [] ∧ base.cycle = s.cycle
    ∧ base.Leaves n q (actCancel (retryRecord s n r.id) n r.id) ∧ q.rec? r.id = some ((r.retried s.cycle).readied s.cycle)
    ∧ pendingEvent (actCancel (retryRecord s n r.id) n r.id) (.admission n) = true := by
  obtain ⟨parts, -, gone⟩ := dropAgents_idle quiet
  obtain ⟨agents, parts', cycle⟩ := restoreArea_leaves (dropAgents s n r.id) n p r
  have clock := cycle.trans (dropAgents_cycle quiet)
  have restored := (State.Leaves.of_part (State.part_of_parts (parts'.trans parts) hp)).modRec r.id fun y => y.retried s.cycle
  obtain ⟨q, ready, found, pending⟩ := restored.readies (Part.rec?_mapRec_of_rec? hr fun y => y.retried_id s.cycle)
  have retry : retryRecord s n r.id =
      makeReady ((restoreArea (dropAgents s n r.id) n p r).modRec n r.id fun y => y.retried s.cycle) n r.id := by
    simp only [retryRecord, hp, State.rec?_eq hp, hr]
    rfl
  have uncancelled : ((r.retried s.cycle).readied s.cycle).cancelHeld = false := by
    rw [Record.readied_cancelHeld, Record.retried_cancelHeld, free]
  rw [clock] at found
  rw [retry, actCancel_of_free ((State.rec?_eq ready.part _).trans found) uncancelled]
  refine ⟨restoreArea (dropAgents s n r.id) n p r, q, ?_, clock, ready, found, pending⟩
  rw [State.agentsOf, agents]
  exact gone

/-- POISON without promise words: the agents go, and an ERR step is the next one. -/
theorem poisonRecord_leaves (row : r.rowFull = false) {x : RaisedTrap} (own : x.rid = r.id) (first : Nat) :
    ∃ (base : State) (q : Part), base.agentsOf n r.id = [] ∧ base.cycle = s.cycle
      ∧ base.Leaves n q (poisonRecord s n x first 0) ∧ q.rec? r.id = some r
      ∧ (r.id, .err (errOf s r x.trap.cause) .done) ∈ q.urgent
      ∧ pendingEvent (poisonRecord s n x first 0) (.storageStep n) = true := by
  have handled := (State.Leaves.of_part hp).modRec r.id Record.handled
  have found : (p.mapRec r.id Record.handled).rec? r.id = some r :=
    (Part.rec?_mapRec_of_rec? (f := Record.handled) hr fun _ => rfl).trans (congrArg some (Record.handled_of_free row free))
  have quiet' : ∀ g ∈ (s.modRec n r.id Record.handled).agentsOf n r.id, g.outs = [] := by
    rw [handled.agentsOf]
    exact quiet
  obtain ⟨-, -, gone⟩ := dropAgents_idle quiet'
  obtain ⟨erring, pending⟩ := errStep_leaves handled.part found quiet' x.trap.cause .done
  have word : errOf (s.modRec n r.id Record.handled) r x.trap.cause = errOf s r x.trap.cause := by
    rw [errOf, errOf, handled.home_cell]
  have step : poisonRecord s n x first 0 = errStep (s.modRec n r.id Record.handled) n r.id x.trap.cause .done := by
    rw [poisonRecord, poisonRange_none, own]
    rfl
  rw [word] at erring
  rw [step]
  exact ⟨_, _, gone, (dropAgents_cycle quiet').trans handled.cycle, erring, found, .head _, pending⟩

end

/-! What the actions come to, on a trap of the record. -/

variable {x : RaisedTrap} (own : x.rid = r.id)
include own

theorem takeAction_abort (first count : Nat) : takeAction s n x .abort first count = endWhole s n 0x01 x.trap.cause := by
  simp only [takeAction, hp, State.rec?_eq hp, own, hr]

theorem takeAction_poison (first count : Nat) : takeAction s n x .poison first count = poisonRecord s n x first count := by
  simp only [takeAction, hp, State.rec?_eq hp, own, hr]

section

variable (row : r.rowFull = false)
include row

theorem takeAction_retry (few : r.retries ≠ p.flags / 8 % 4) (first count : Nat) :
    takeAction s n x .retry first count = actCancel (retryRecord s n r.id) n r.id := by
  simp only [takeAction, hp, State.rec?_eq hp, own, hr, row, Bool.false_eq_true, if_false, retryOrPoison, if_neg few]

/-- At the retry limit RETRY is POISON. -/
theorem takeAction_retry_limit (limit : r.retries = p.flags / 8 % 4) (first count : Nat) :
    takeAction s n x .retry first count = takeAction s n x .poison first count := by
  rw [takeAction_poison hp hr own]
  simp only [takeAction, hp, State.rec?_eq hp, own, hr, row, Bool.false_eq_true, if_false, retryOrPoison, if_pos limit]

variable {h : Agent} {f : AFault} (agent : x.agent = some h.key) (found : s.agent h.key = some h) (source : x.source = 0)
  (trapped : h.trapped = some f) (early : f.late = false) (running : h.status = .running)
include agent found source trapped early running

/-- RESUME of an instruction's fault lets the trapped agent go on as it stands. -/
theorem takeAction_resume (first count : Nat) : takeAction s n x .resume first count =
    actCancel (goOn (s.setAgent h.key { h with trapped := none }) n r.id) n r.id := by
  have notExit : atExit { h with trapped := none } = false := by simp [atExit, running]
  have resumes : resumeAgent s h f = s.setAgent h.key { h with trapped := none } := by
    simp only [resumeAgent, early, Bool.not_false, if_true, notExit, Bool.false_eq_true, if_false]
  simp only [takeAction, hp, State.rec?_eq hp, own, hr, row, source, agent, Option.bind_some, found, trapped, resumes, ne_eq,
    not_true_eq_false, Bool.false_eq_true, if_false, if_true]

/-- SKIP lets it go on at the next word, unless it owes a tree operation its identity. -/
theorem takeAction_skip (redo : h.redo = []) (xrow : h.xrow = none) (plain : isTree f.trap.word = false ∨ f.trap.cause = 0x61)
    (first count : Nat) : takeAction s n x .skip first count =
      actCancel (goOn (s.setAgent h.key { h.next with trapped := none }) n r.id) n r.id := by
  have notExit : atExit { h with trapped := none } = false := by simp [atExit, running]
  have notTree : ¬ (isTree f.trap.word = true ∧ f.trap.cause ≠ 0x61) := by rcases plain with e | e <;> simp [e]
  have behind : ({ ({ h with trapped := none } : Agent).next with xrow := none } : Agent) = { h.next with trapped := none } := by
    rw [← xrow]
    rfl
  have skips : skipAgent s h f = s.setAgent h.key { h.next with trapped := none } := by
    simp only [skipAgent, early, notExit, Bool.false_eq_true, if_false, if_neg notTree, State.setAgent_setAgent]
    split
    next again => rw [redo] at again; cases again
    next => exact congrArg (s.setAgent h.key) behind
  simp only [takeAction, hp, State.rec?_eq hp, own, hr, row, source, agent, Option.bind_some, found, trapped, skips, ne_eq,
    not_true_eq_false, Bool.false_eq_true, if_false, reduceCtorEq]

end

end

/-! ## RFT (R226) -/

/-- The instruction of an action. -/
def Action.rft : Action → Instr
  | .resume => .rftResume
  | .skip => .rftSkip
  | .retry => .rftRetry
  | .poison => .rftPoison
  | .abort => .rftAbort

theorem exec_rft (act : Action) (s : State) : exec act.rft s = execRft act s := by cases act <;> rfl

/-- What holds of the instruction of every action, of each of the five. -/
theorem Action.forall_rft {P : Instr → Prop} (h : ∀ act : Action, P act.rft) :
    P .rftResume ∧ P .rftSkip ∧ P .rftRetry ∧ P .rftPoison ∧ P .rftAbort :=
  ⟨h .resume, h .skip, h .retry, h .poison, h .abort⟩

section

variable {s : State} {g : Agent} (turn : s.atTurn g)
include turn

theorem exec_rft_cell (cell : g.service = false) (act : Action) : takesFault act.rft s g 0x26 :=
  ⟨_, _, .inl ((exec_rft act s).trans (serviceOnly_cell turn cell ..))⟩

variable (service : g.service = true)
include service

theorem exec_rft_tries (act : Action) : exec act.rft s = .next (attempt s g (tryRft act s g)) :=
  (exec_rft act s).trans (serviceOnly_service turn service ..)

/-- DONE of the service agent is RFT.abort (R225). -/
theorem exec_done_service : exec .done s = exec .rftAbort s := by
  refine Eq.trans ?_ (exec_rft_tries turn service .abort).symm
  show onAgent s _ = _
  rw [onAgent_at turn, tryDone, if_pos service]

theorem exec_rft_waits (busy : ∃ c, 0 < g.count c) (act : Action) : staysPut act.rft s := by
  obtain ⟨c, hc⟩ := busy
  have notDone : allDone g = false := Bool.eq_false_iff.2 fun done => by simp [(allDone_iff g).1 done c] at hc
  rw [staysPut, exec_rft_tries turn service, tryRft, notDone]
  rfl

section

variable {p : Part} {l : Loc} (idle : ∀ c, g.count c = 0) (hp : s.part g.part = some p)
  (field : walkLoc s p.asid (bits g.trec.toNat 0 55 + 120) .read = .ok l)
include idle hp field

theorem exec_rft_malformed (bad : bits (leNat (rdPlace s l.place 8)) 48 16 ≠ 0) (act : Action) : takesFault act.rft s g 0x25 := by
  refine ⟨0, 0xFFFFFFFF, .inl ((exec_rft_tries turn service act).trans ?_)⟩
  simp only [tryRft, (allDone_iff g).2 idle, Bool.not_true, Bool.false_eq_true, if_false, hp, field, if_pos bad]
  rfl

/-- A well-formed field: the action is taken on the trap of the run, and the run ends. -/
theorem exec_rft_takes {q : QueuedTrap} (run : p.run = some q) (good : bits (leNat (rdPlace s l.place 8)) 48 16 = 0) (act : Action) :
    exec act.rft s = .next (endRun (takeAction s g.part q.raised act (bits (leNat (rdPlace s l.place 8)) 0 32)
      (bits (leNat (rdPlace s l.place 8)) 32 16)) g) := by
  rw [exec_rft_tries turn service]
  simp only [tryRft, (allDone_iff g).2 idle, Bool.not_true, Bool.false_eq_true, if_false, hp, field, good, ne_eq, not_true_eq_false, run]
  rfl

end

end

end Sys2Proof.Machine

section

open Sys2Proof Sys2Proof.Machine

/-- Settles O46: RFT waits, faults or takes its action, and each action is followed through the end of the run. -/
theorem returns : Obligations.Returns := by
  unfold Obligations.Returns
  refine fun s g turn => ⟨fun cell => Action.forall_rft (P := (takesFault · s g 0x26)) (exec_rft_cell turn cell), fun service =>
    ⟨exec_done_service turn service, fun busy => Action.forall_rft (P := (staysPut · s)) (exec_rft_waits turn service busy),
    fun p q r l idle hp run hr field => ?_⟩⟩
  intro w goes gone
  have own := (Part.id_of_rec? hr).symm
  rw [own] at hr
  have takes := exec_rft_takes turn service idle hp field run
  refine ⟨fun bad => Action.forall_rft (P := (takesFault · s g 0x25)) (exec_rft_malformed turn service idle hp field bad),
    fun zero row free quiet => ?_, fun good => ?_⟩
  · have takesZero : ∀ act : Action, exec act.rft s = .next (endRun (takeAction s g.part q.raised act 0 0) g) := by
      intro act
      rw [takes (by rw [show leNat (rdPlace s l.place 8) = 0 from zero]; rfl), show leNat (rdPlace s l.place 8) = 0 from zero]
      rfl
    refine ⟨fun h f agent found other source trapped early running => ⟨?_, fun redo xrow plain => ?_⟩, fun few => ?_, fun limit => ?_, ?_⟩
    · refine endsRun_goOn hp hr free ?_ other
      rw [← takeAction_resume hp hr own row agent found source trapped early running 0 0]
      exact takesZero .resume
    · refine endsRun_goOn hp hr free ?_ other
      rw [← takeAction_skip hp hr own row agent found source trapped early running redo xrow plain 0 0]
      exact takesZero .skip
    · obtain ⟨base, y, noAgents, clock, left, retried, pending⟩ := retryRecord_leaves hp hr quiet free
      rw [← takeAction_retry hp hr own row (Nat.ne_of_lt few) 0 0] at left pending
      exact endsRun_of_leaves (takesZero .retry) left clock retried
        ⟨rfl, rfl, rfl, endRun_agentsOf_nil left.part ((left.agentsOf ..).trans noAgents), endRun_pending left.part pending⟩
    · have retry := takesZero .retry
      rw [takeAction_retry_limit hp hr own row limit] at retry
      exact retry.trans (takesZero .poison).symm
    · obtain ⟨base, y, noAgents, clock, left, found, urgent, pending⟩ := poisonRecord_leaves hp hr quiet free row own 0
      rw [← takeAction_poison hp hr own 0 0] at left pending
      exact endsRun_of_leaves (takesZero .poison) left clock found
        ⟨urgent, endRun_agentsOf_nil left.part ((left.agentsOf ..).trans noAgents), endRun_pending left.part pending⟩
  · refine ⟨_, takes good .abort, ?_⟩
    rw [takeAction_abort hp hr own]
    obtain ⟨part, pcb, agents⟩ := endRun_without (endWhole_without hp 0x01 q.raised.trap.cause)
    exact ⟨part, pcb, agents⟩

end

/-! PROOF. O1, O2: the scalar integer instructions. -/

namespace Sys2Proof.Machine

open Sys2Proof

/-! ## Meanings that write one register -/

theorem runsTo_of_putS {i : Instr} {s : State} {g : Agent} {d : Reg} {v : Agent → Word} (turn : s.atTurn g) (hi : exec i s = putS s d v) :
    runsTo i s g (g.setS d (v g)).next :=
  runsTo_of_ok turn hi rfl

/-- An instruction that writes a scalar register gives the value that its word comes to. -/
theorem givesS_of_putS{i : Instr} {d : Reg} {v w : Agent → Word} (hi : ∀ s, exec i s = putS s d v) (e : ∀ g, v g = w g) : givesS i d w :=
  fun s g turn => e g ▸ runsTo_of_putS turn (hi s)

/-- The same of a predicate. -/
theorem givesP_of_putP {i : Instr} {d : PReg} {v w : Agent → Bool} (hi : ∀ s, exec i s = putP s d v) (e : ∀ g, v g = w g) : givesP i d w :=
  fun s g a => runsTo_of_ok a (hi s) (by rw [e g])

/-! ## Sums, products and quotients (R323, R350, R383, R391, R409) -/

theorem add_eq_ofNat (x y : Word) : x + y = BitVec.ofNat 64 (x.toNat + y.toNat) := by
  rw [BitVec.ofNat_add, BitVec.ofNat_toNat, BitVec.ofNat_toNat, BitVec.setWidth_eq, BitVec.setWidth_eq]

theorem add_signExtend_eq_ofInt (x : Word) (imm : BitVec 40) : x + imm.signExtend 64 = BitVec.ofInt 64 (x.toInt + imm.toInt) := by
  rw [BitVec.ofInt_add, BitVec.ofInt_toInt]; rfl

theorem sub_eq_ofInt (x y : Word) : x - y = BitVec.ofInt 64 (x.toInt - y.toInt) := by
  rw [Int.sub_eq_add_neg, BitVec.ofInt_add, BitVec.ofInt_neg, BitVec.ofInt_toInt, BitVec.ofInt_toInt, BitVec.sub_eq_add_neg]

theorem mulWord_low (x y : Word) : mulWord .low x y = BitVec.ofNat 64 (x.toNat * y.toNat) := by
  rw [mulWord, BitVec.ofNat_mul, BitVec.ofNat_toNat, BitVec.ofNat_toNat, BitVec.setWidth_eq, BitVec.setWidth_eq]

/-- The upper half of a product that is kept modulo 2^128. -/
theorem upper_half_ofInt (z : Int) : (((BitVec.ofInt 128 z) >>> 64).truncate 64 : Word) = BitVec.ofInt 64 (z / 2 ^ 64) := by
  apply BitVec.eq_of_toNat_eq
  simp only [BitVec.truncate_eq_setWidth, BitVec.toNat_setWidth, BitVec.toNat_ushiftRight, BitVec.toNat_ofInt, Nat.shiftRight_eq_div_pow]
  omega

theorem mulWord_hi (x y : Word) : mulWord .hi x y = BitVec.ofInt 64 (x.toInt * y.toInt / 2 ^ 64) := by
  rw [mulWord, BitVec.signExtend, BitVec.signExtend, ← BitVec.ofInt_mul, upper_half_ofInt]

theorem mulWord_hiu (x y : Word) : mulWord .hiu x y = BitVec.ofNat 64 (x.toNat * y.toNat / 2 ^ 64) := by
  have small : x.toNat * y.toNat < 2 ^ 128 := by
    calc x.toNat * y.toNat < 2 ^ 64 * 2 ^ 64 := Nat.mul_lt_mul'' x.isLt y.isLt
      _ = 2 ^ 128 := by norm_num
  have wide : ∀ z : Word, z.toNat % 2 ^ 128 = z.toNat := fun z => Nat.mod_eq_of_lt (by have := z.isLt; omega)
  apply BitVec.eq_of_toNat_eq
  simp only [mulWord, BitVec.zeroExtend, BitVec.truncate_eq_setWidth, BitVec.toNat_setWidth, BitVec.toNat_ushiftRight, BitVec.toNat_mul,
    Nat.shiftRight_eq_div_pow, BitVec.toNat_ofNat, wide, Nat.mod_eq_of_lt small]

theorem divWord_unsigned (x y : Word) : divWord true x y = BitVec.ofNat 64 (x.toNat / y.toNat) := by
  apply BitVec.eq_of_toNat_eq
  rw [BitVec.toNat_ofNat, Nat.mod_eq_of_lt (Nat.lt_of_le_of_lt (Nat.div_le_self ..) x.isLt)]
  rfl

theorem divWord_signed (x y : Word) : divWord false x y = BitVec.ofInt 64 (x.toInt.tdiv y.toInt) := by
  apply BitVec.eq_of_toInt_eq
  simp [divWord, BitVec.toInt_sdiv]

theorem remWord_unsigned (x y : Word) : remWord true x y = BitVec.ofNat 64 (x.toNat % y.toNat) := by
  apply BitVec.eq_of_toNat_eq
  rw [BitVec.toNat_ofNat, Nat.mod_eq_of_lt (Nat.lt_of_le_of_lt (Nat.mod_le ..) x.isLt)]
  rfl

theorem remWord_signed (x y : Word) : remWord false x y = BitVec.ofInt 64 (x.toInt.tmod y.toInt) := by
  rw [← BitVec.toInt_srem, BitVec.ofInt_toInt]; rfl

/-! ## Words put together (R370, R379) -/

theorem add_shiftLeft_eq_ofNat (x y : Word) (n : Nat) : x + (y <<< n) = BitVec.ofNat 64 (x.toNat + y.toNat * 2 ^ n) := by
  apply BitVec.eq_of_toNat_eq
  simp [BitVec.toNat_add, BitVec.toNat_shiftLeft, Nat.shiftLeft_eq]

theorem append_low40_eq_ofNat (imm : BitVec 24) (x : Word) :
    ((imm ++ x.extractLsb' 0 40 : BitVec (24 + 40)) : Word) = BitVec.ofNat 64 (imm.toNat * 2 ^ 40 + x.toNat % 2 ^ 40) := by
  apply BitVec.eq_of_toNat_eq
  have hi := imm.isLt
  rw [BitVec.toNat_append, ← Nat.shiftLeft_add_eq_or_of_lt (by simp; omega)]
  simp [Nat.shiftLeft_eq, BitVec.extractLsb'_toNat]
  omega

/-! ## Shifts (R398) -/

theorem shlWord_eq (x n : Word) : shlWord x n = BitVec.ofNat 64 (x.toNat * 2 ^ n.toNat) := by
  apply BitVec.eq_of_toNat_eq
  unfold shlWord
  split
  · simp [BitVec.toNat_shiftLeft, Nat.shiftLeft_eq]
  · rename_i h
    have far : 64 ≤ n.toNat := by simpa [BitVec.ult] using h
    obtain ⟨k, e⟩ := Nat.exists_eq_add_of_le far
    rw [e, Nat.pow_add, BitVec.toNat_ofNat, Nat.mul_left_comm, Nat.mul_mod_right]
    rfl

theorem shrWord_logical (x n : Word) : shrWord false x n = BitVec.ofNat 64 (x.toNat / 2 ^ n.toNat) := by
  apply BitVec.eq_of_toNat_eq
  rw [BitVec.toNat_ofNat, Nat.mod_eq_of_lt (Nat.lt_of_le_of_lt (Nat.div_le_self ..) x.isLt)]
  simp only [shrWord, Bool.false_eq_true, if_false]
  split
  · simp [BitVec.toNat_ushiftRight, Nat.shiftRight_eq_div_pow]
  · rename_i h
    have far : 64 ≤ n.toNat := by simpa [BitVec.ult] using h
    exact (Nat.div_eq_of_lt (Nat.lt_of_lt_of_le x.isLt (Nat.pow_le_pow_right (by decide) far))).symm

/-- An immediate count as a word. -/
theorem toNat_zeroExtend_count (n : BitVec 6) : (n.zeroExtend 64).toNat = n.toNat := by
  have := n.isLt
  simp; omega

/-- A number below 2^63 in size, divided by 2^63 or more and rounded down, is its sign. -/
theorem ediv_two_pow_far {z : Int} (low : -2 ^ 63 ≤ z) (high : z < 2 ^ 63) {n : Nat} (far : 63 ≤ n) : z / 2 ^ n = if z < 0 then -1 else 0 := by
  have big : (2 : Int) ^ 63 ≤ 2 ^ n := pow_le_pow_right₀ (by decide) far
  split
  · exact Int.ediv_eq_neg_one_of_neg_of_le ‹_› (by omega)
  · exact Int.ediv_eq_zero_of_lt (by omega) (by omega)

theorem shrWord_arithmetic (x n : Word) : shrWord true x n = BitVec.ofInt 64 (x.toInt / 2 ^ n.toNat) := by
  have low := x.le_toInt; have high := x.toInt_lt
  apply BitVec.eq_of_toInt_eq
  simp only [shrWord, if_true]
  have signed : ∀ k : Nat, BitVec.ofInt 64 (x.toInt / 2 ^ k) = x.sshiftRight k := fun k => by
    simp [BitVec.sshiftRight, Int.shiftRight_eq_div_pow]
  split
  · rw [signed]
  · rename_i h
    have far : 64 ≤ n.toNat := by simpa [BitVec.ult] using h
    rw [← signed, ediv_two_pow_far low high (by decide), ediv_two_pow_far low high (by omega)]

/-! ## Bit fields (R328, R329) -/

theorem getLsbD_lenMask (l : BitVec 6) (j : Nat) : (lenMask l).getLsbD j = decide (j < l.toNat + 1) := by
  have := l.isLt
  rw [lenMask, BitVec.getLsbD_ofNat, Nat.testBit_two_pow_sub_one]
  by_cases h : j < l.toNat + 1 <;> simp [h]; omega

theorem bfxWord_eq (x : Word) (pos l : BitVec 6) :
    bfxWord x pos l = BitVec.ofNat 64 (x.toNat / 2 ^ pos.toNat % 2 ^ (l.toNat + 1)) := by
  apply BitVec.eq_of_getLsbD_eq
  intro j hj
  rw [bfxWord, BitVec.getLsbD_and, getLsbD_lenMask, BitVec.getLsbD_ofNat, Nat.testBit_mod_two_pow, Nat.testBit_div_two_pow]
  simp [hj, BitVec.getLsbD, Bool.and_comm, Nat.add_comm]

theorem getLsbD_bfiWord (old x : Word) (pos l : BitVec 6) {j : Nat} (hj : j < 64) : (bfiWord old x pos l).getLsbD j =
    if pos.toNat ≤ j ∧ j < pos.toNat + l.toNat + 1 then x.getLsbD (j - pos.toNat) else old.getLsbD j := by
  simp only [bfiWord, BitVec.getLsbD_or, BitVec.getLsbD_and, BitVec.getLsbD_not, BitVec.getLsbD_shiftLeft, getLsbD_lenMask, hj]
  by_cases low : j < pos.toNat
  · simp [low]
  · by_cases inside : j - pos.toNat < l.toNat + 1
    · rw [if_pos (by omega)]; simp [low, inside]
    · rw [if_neg (by omega)]; simp [low, inside]

/-! ## Counts (R336, R388) -/

theorem clzWord_le (x : Word) : clzWord x ≤ 64 := by
  unfold clzWord; split <;> omega

theorem clzWord_below (x : Word) : x.toNat < 2 ^ (64 - clzWord x) := by
  unfold clzWord
  split
  · rename_i z; simp [z]
  · rename_i nz
    have : x.toNat ≠ 0 := fun e => nz (BitVec.eq_of_toNat_eq e)
    have small : x.toNat.log2 < 64 := (Nat.log2_lt this).2 x.isLt
    rw [show 64 - (63 - x.toNat.log2) = x.toNat.log2 + 1 by omega]
    exact Nat.lt_log2_self

theorem clzWord_above (x : Word) (h : clzWord x < 64) : 2 ^ (63 - clzWord x) ≤ x.toNat := by
  unfold clzWord at h ⊢
  split at h
  · omega
  · rename_i nz
    have : x.toNat ≠ 0 := fun e => nz (BitVec.eq_of_toNat_eq e)
    have small : x.toNat.log2 < 64 := (Nat.log2_lt this).2 x.isLt
    rw [if_neg nz, show 63 - (63 - x.toNat.log2) = x.toNat.log2 by omega]
    exact Nat.log2_self_le this

theorem popWord_eq (x : Word) : popWord x = (List.range 64).countP fun i => x.getLsbD i := (List.countP_eq_length_filter ..).symm

/-! ## Selection and comparison (R338, R373) -/

theorem minWord_signed (x y : Word) : minWord false x y = BitVec.ofInt 64 (min x.toInt y.toInt) := by
  simp only [minWord, Bool.false_eq_true, if_false, BitVec.sle_eq_decide, decide_eq_true_eq, min_def]
  split <;> simp

theorem minWord_unsigned (x y : Word) : minWord true x y = BitVec.ofNat 64 (min x.toNat y.toNat) := by
  simp only [minWord, if_true, BitVec.ule_eq_decide, decide_eq_true_eq, min_def]
  split <;> simp

theorem maxWord_signed (x y : Word) : maxWord false x y = BitVec.ofInt 64 (max x.toInt y.toInt) := by
  simp only [maxWord, Bool.false_eq_true, if_false, BitVec.sle_eq_decide, decide_eq_true_eq, max_comm x.toInt, max_def]
  split <;> simp

theorem maxWord_unsigned (x y : Word) : maxWord true x y = BitVec.ofNat 64 (max x.toNat y.toNat) := by
  simp only [maxWord, if_true, BitVec.ule_eq_decide, decide_eq_true_eq, max_comm x.toNat, max_def]
  split <;> simp

theorem icompare_eq (c : Cmp) (x y : Word) : icompare c x y = match c with
    | .eq => decide (x.toNat = y.toNat)
    | .ne => decide (x.toNat ≠ y.toNat)
    | .lt => decide (x.toInt < y.toInt)
    | .le => decide (x.toInt ≤ y.toInt)
    | .gt => decide (y.toInt < x.toInt)
    | .ge => decide (y.toInt ≤ x.toInt)
    | .ltu => decide (x.toNat < y.toNat)
    | .leu => decide (x.toNat ≤ y.toNat)
    | .gtu => decide (y.toNat < x.toNat)
    | .geu => decide (y.toNat ≤ x.toNat) := by
  cases c <;> simp [icompare, BitVec.toNat_inj, BitVec.slt_eq_decide, BitVec.sle_eq_decide, BitVec.ult_eq_decide, BitVec.ule_eq_decide]

end Sys2Proof.Machine

section

open Sys2Proof Sys2Proof.Machine

/-- Settles O1: each word as the exact number that it is of, and a division by the divisor that it finds. -/
theorem scalarArithmetic : Obligations.ScalarArithmetic := by
  unfold Obligations.ScalarArithmetic
  refine ⟨⟨fun d a b => ?_, fun d a imm => ?_, fun d a b => ?_, fun d a b => ?_, fun d a b => ?_, fun d a b => ?_, fun d a b sh => ?_,
    fun d imm => ?_, fun d imm => ?_⟩, fun u d a b s g turn => ⟨fun nz => ⟨?_, ?_⟩, fun zero => ⟨?_, ?_⟩⟩⟩
  · exact givesS_of_putS (fun _ => rfl) fun g => add_eq_ofNat ..
  · exact givesS_of_putS (fun _ => rfl) fun g => add_signExtend_eq_ofInt ..
  · exact givesS_of_putS (fun _ => rfl) fun g => sub_eq_ofInt ..
  · exact givesS_of_putS (fun _ => rfl) fun g => mulWord_low ..
  · exact givesS_of_putS (fun _ => rfl) fun g => mulWord_hi ..
  · exact givesS_of_putS (fun _ => rfl) fun g => mulWord_hiu ..
  · exact givesS_of_putS (fun _ => rfl) fun g => add_shiftLeft_eq_ofNat ..
  · exact givesS_of_putS (fun _ => rfl) fun _ => rfl
  · exact givesS_of_putS (fun _ => rfl) fun g => append_low40_eq_ofNat ..
  · refine runsTo_of_ok turn rfl ((if_neg nz).trans ?_)
    cases u
    · rw [divWord_signed]; rfl
    · rw [divWord_unsigned]; rfl
  · refine runsTo_of_ok turn rfl ((if_neg nz).trans ?_)
    cases u
    · rw [remWord_signed]; rfl
    · rw [remWord_unsigned]; rfl
  · exact takesFault_of_fault turn rfl (if_pos zero)
  · exact takesFault_of_fault turn rfl (if_pos zero)

/-- Settles O2: shifts and comparisons as exact numbers, the fields bit by bit, the leading zeros by the highest bit. -/
theorem scalarBits : Obligations.ScalarBits := by
  unfold Obligations.ScalarBits
  refine ⟨⟨fun d a b => ?_, fun d a imm => ?_, fun d a b => ?_, fun d a imm => ?_, fun d a b => ?_, fun d a imm => ?_⟩,
    ⟨fun d a b => ?_, fun d a n => ?_, fun d a b => ?_, fun d a b => ?_, fun d a n => ?_, fun d a n => ?_⟩,
    ⟨fun d a pos l => ?_, fun d a pos l s g turn => ?_, fun d a s g turn => ?_, fun d a => ?_⟩,
    ⟨fun d a b => ?_, fun d a b => ?_, fun d a b => ?_, fun d a b => ?_, fun d a b p => ?_, fun c d a x i form => ?_⟩⟩
  iterate 6 exact givesS_of_putS (fun _ => rfl) fun _ => rfl
  · exact givesS_of_putS (fun _ => rfl) fun g => shlWord_eq ..
  · exact givesS_of_putS (fun _ => rfl) fun g => (shlWord_eq ..).trans (by rw [toNat_zeroExtend_count])
  · exact givesS_of_putS (fun _ => rfl) fun g => shrWord_logical ..
  · exact givesS_of_putS (fun _ => rfl) fun g => shrWord_arithmetic ..
  · exact givesS_of_putS (fun _ => rfl) fun g => (shrWord_logical ..).trans (by rw [toNat_zeroExtend_count])
  · exact givesS_of_putS (fun _ => rfl) fun g => (shrWord_arithmetic ..).trans (by rw [toNat_zeroExtend_count])
  · exact givesS_of_putS (fun _ => rfl) fun g => bfxWord_eq ..
  · exact ⟨_, runsTo_of_putS turn rfl, fun j hj => getLsbD_bfiWord _ _ pos l hj⟩
  · exact ⟨clzWord (g.sr a), clzWord_le _, runsTo_of_putS (v := fun g => BitVec.ofNat 64 (clzWord (g.sr a))) turn rfl, clzWord_below _, clzWord_above _⟩
  · exact givesS_of_putS (fun _ => rfl) fun g => congrArg (BitVec.ofNat 64) (popWord_eq _)
  · exact givesS_of_putS (fun _ => rfl) fun g => minWord_signed ..
  · exact givesS_of_putS (fun _ => rfl) fun g => minWord_unsigned ..
  · exact givesS_of_putS (fun _ => rfl) fun g => maxWord_signed ..
  · exact givesS_of_putS (fun _ => rfl) fun g => maxWord_unsigned ..
  · exact givesS_of_putS (fun _ => rfl) fun g => rfl
  · obtain ⟨b, rfl, rfl⟩ | ⟨imm, rfl, rfl⟩ := form
    · exact givesP_of_putP (fun _ => rfl) fun g => icompare_eq ..
    · exact givesP_of_putP (fun _ => rfl) fun g => icompare_eq ..

end

/-! PROOF. O3, O8: LEA and PLOG, with their words and their reserved fields. -/

namespace Sys2Proof

/-! ## Fields of a word (R92, R95) -/

theorem toNat_fld (w : Word) (lo n : Nat) : (fld w lo n).toNat = w.toNat / 2 ^ lo % 2 ^ n := by
  rw [fld, BitVec.extractLsb'_toNat, Nat.shiftRight_eq_div_pow]

theorem toNat_fld_ofNat {m : Nat} (h : m < 2 ^ 64) (lo n : Nat) : (fld (BitVec.ofNat 64 m) lo n).toNat = m / 2 ^ lo % 2 ^ n := by
  rw [toNat_fld, BitVec.toNat_ofNat, Nat.mod_eq_of_lt h]

theorem fld_eq_zero {m : Nat} (h : m < 2 ^ 64) {lo n : Nat} (e : m / 2 ^ lo % 2 ^ n = 0) : fld (BitVec.ofNat 64 m) lo n = 0#n :=
  BitVec.eq_of_toNat_eq ((toNat_fld_ofNat h lo n).trans (by simpa using e))

theorem rowOf_eq_major (w : Word) : rowOf w = (major w).toNat / 16 := by
  simp only [rowOf, major, toNat_fld]; omega

theorem colOf_eq_major (w : Word) : colOf w = (major w).toNat % 16 := by
  simp only [colOf, major, toNat_fld]; omega

@[simp] theorem unused_zero {n : Nat} : unused (0#n) = some () := if_pos rfl

theorem unused_eq_some {n : Nat} {x : BitVec n} {u : Unit} : unused x = some u ↔ x = 0#n := by
  simp [unused]

theorem sreg_of_toNat {x : BitVec 6} {r : Reg} (h : x.toNat = r.val) : sreg x = some r := by
  rw [sreg, dif_pos (h ▸ r.isLt)]
  exact congrArg some (Fin.ext h)

theorem low3_of_toNat {x : BitVec 6} {r : Fin 8} (h : x.toNat = r.val) : low3 x = some r := by
  rw [low3, dif_pos (h ▸ r.isLt)]
  exact congrArg some (Fin.ext h)

theorem low3_eq_some {x : BitVec 6} {r : Fin 8} (h : low3 x = some r) : x.toNat < 8 := by
  by_contra big
  rw [low3, dif_neg big] at h
  cases h

/-- A word of a row other than 0xF whose major opcode is not 0 is neither the all-ones word nor NOP's. -/
theorem ne_allOnes_of_major {w : Word} (h : (major w).toNat < 0xF0) : w ≠ BitVec.allOnes 64 := by
  rintro rfl; exact absurd h (by decide)

theorem ne_zero_of_major {w : Word} (h : (major w).toNat ≠ 0) : w ≠ 0#64 := by
  rintro rfl; exact h (by decide)

/-! ## LEA's word (R370) -/

theorem decode_major_lea {w : Word} (h : major w = 0x0F#8) (w2 : Word) :
    decode w w2 = (Parse.of (fn3 w fun d a b f => if h : f < 8 then some (.lea d a b ⟨f, h⟩) else none)).fate := by
  have row : rowOf w = 0 := by rw [rowOf_eq_major, h]; rfl
  have col : colOf w = 0xF := by rw [colOf_eq_major, h]; rfl
  rw [decode, if_neg (ne_allOnes_of_major (by rw [h]; decide)), if_neg (ne_zero_of_major (by rw [h]; decide)), row]
  simp only [row0, col]

/-- What the fields of a word that fn3 accepts hold. -/
theorem fn3_eq_some {w : Word} {k : Reg → Reg → Reg → Nat → Option Instr} {i : Instr} (h : fn3 w k = some i) :
    fC w = 0 ∧ fFmt w = 0 ∧ fRm w = 0 ∧ fMod w = 0 ∧ ∃ d a b, k d a b (fFn w).toNat = some i := by
  simp only [fn3, bind, Option.bind_eq_some_iff, unused_eq_some] at h
  obtain ⟨_, c, _, fmt, _, rm, _, md, d, _, a, _, b, _, e⟩ := h
  exact ⟨c, fmt, rm, md, d, a, b, e⟩

theorem fn3_of_fields {w : Word} {k : Reg → Reg → Reg → Nat → Option Instr} {d a b : Reg} (c : fC w = 0#6) (fmt : fFmt w = 0#5)
    (rm : fRm w = 0#3) (md : fMod w = 0#8) (hd : (fD w).toNat = d.val) (ha : (fA w).toNat = a.val) (hb : (fB w).toNat = b.val) :
    fn3 w k = k d a b (fFn w).toNat := by
  simp [fn3, c, fmt, rm, md, sreg_of_toNat hd, sreg_of_toNat ha, sreg_of_toNat hb]

/-- A word of R format from its fields. -/
@[irreducible] def rWord (mj d a b fn : Nat) : Nat := mj * 2 ^ 56 + d * 2 ^ 46 + a * 2 ^ 40 + b * 2 ^ 34 + fn * 2 ^ 16

section

variable {mj d a b fn : Nat} (hmj : mj < 256) (hd : d < 64) (ha : a < 64) (hb : b < 64) (hfn : fn < 2 ^ 12)
include hmj hd ha hb hfn

theorem rWord_lt : rWord mj d a b fn < 2 ^ 64 := by unfold rWord; omega

theorem rWord_fields : let w := BitVec.ofNat 64 (rWord mj d a b fn)
    (major w).toNat = mj ∧ (fD w).toNat = d ∧ (fA w).toNat = a ∧ (fB w).toNat = b ∧ (fFn w).toNat = fn
      ∧ fC w = 0#6 ∧ fFmt w = 0#5 ∧ fRm w = 0#3 ∧ fMod w = 0#8 := by
  have small := rWord_lt hmj hd ha hb hfn
  simp only [major, fD, fA, fB, fFn, fC, fFmt, fRm, fMod, toNat_fld_ofNat small]
  refine ⟨?_, ?_, ?_, ?_, ?_, fld_eq_zero small ?_, fld_eq_zero small ?_, fld_eq_zero small ?_, fld_eq_zero small ?_⟩
  all_goals unfold rWord; omega

end

theorem decode_leaWord (d a b : Reg) (sh : Fin 8) (w2 : Word) :
    decode (BitVec.ofNat 64 (rWord 0x0F d.val a.val b.val sh.val)) w2 = .instr (.lea d a b sh) := by
  obtain ⟨mj, hd, ha, hb, hfn, c, fmt, rm, md⟩ :=
    rWord_fields (mj := 0x0F) (d := d.val) (a := a.val) (b := b.val) (fn := sh.val) (by decide) (by omega) (by omega) (by omega) (by omega)
  generalize BitVec.ofNat 64 (rWord 0x0F d.val a.val b.val sh.val) = w at *
  rw [decode_major_lea (BitVec.eq_of_toNat_eq mj), fn3_of_fields c fmt rm md hd ha hb, hfn, dif_pos sh.isLt]
  rfl

/-! ## PLOG's word (R386) -/

/-- What PLOG's word stands for. -/
def plogOf (w : Word) : Option Instr := do
  unused (fC w); unused (fFmt w); unused (fRm w); unused (fMod w); unused ((fFn w).extractLsb' 4 8)
  let d ← low3 (fD w); let a ← low3 (fA w); let b ← low3 (fB w)
  some (.plog d a b ((fFn w).extractLsb' 0 4))

theorem decode_major_plog {w : Word} (h : major w = 0x35#8) (w2 : Word) : decode w w2 = (Parse.of (plogOf w)).fate := by
  have row : rowOf w = 3 := by rw [rowOf_eq_major, h]; rfl
  have col : colOf w = 5 := by rw [colOf_eq_major, h]; rfl
  rw [decode, if_neg (ne_allOnes_of_major (by rw [h]; decide)), if_neg (ne_zero_of_major (by rw [h]; decide)), row]
  simp only [row3, col, plogOf]

theorem plogOf_eq_some {w : Word} {i : Instr} (h : plogOf w = some i) :
    fC w = 0 ∧ fFmt w = 0 ∧ fRm w = 0 ∧ fMod w = 0 ∧ (fFn w).toNat < 16 ∧ (fD w).toNat < 8 ∧ (fA w).toNat < 8 ∧ (fB w).toNat < 8 := by
  simp only [plogOf, bind, Option.bind_eq_some_iff, unused_eq_some] at h
  obtain ⟨_, c, _, fmt, _, rm, _, md, _, fn, d, hd, a, ha, b, hb, _⟩ := h
  have := congrArg BitVec.toNat fn
  rw [BitVec.extractLsb'_toNat, Nat.shiftRight_eq_div_pow] at this
  have := (fFn w).isLt
  exact ⟨c, fmt, rm, md, by simp at *; omega, low3_eq_some hd, low3_eq_some ha, low3_eq_some hb⟩

theorem plogOf_of_fields {w : Word} {d a b : PReg} {t : BitVec 4} (c : fC w = 0#6) (fmt : fFmt w = 0#5) (rm : fRm w = 0#3)
    (md : fMod w = 0#8) (hd : (fD w).toNat = d.val) (ha : (fA w).toNat = a.val) (hb : (fB w).toNat = b.val)
    (hfn : (fFn w).toNat = t.toNat) : plogOf w = some (.plog d a b t) := by
  have fn : fFn w = t.setWidth 12 := BitVec.eq_of_toNat_eq (by simp [hfn]; omega)
  have upper : (t.setWidth 12).extractLsb' 4 8 = 0#8 := by
    apply BitVec.eq_of_toNat_eq; simp [Nat.shiftRight_eq_div_pow]; omega
  have lower : (t.setWidth 12).extractLsb' 0 4 = t := by
    apply BitVec.eq_of_toNat_eq; simp; omega
  simp [plogOf, c, fmt, rm, md, low3_of_toNat hd, low3_of_toNat ha, low3_of_toNat hb, fn, upper, lower]

theorem decode_plogWord (d a b : PReg) (t : BitVec 4) (w2 : Word) :
    decode (BitVec.ofNat 64 (rWord 0x35 d.val a.val b.val t.toNat)) w2 = .instr (.plog d a b t) := by
  obtain ⟨mj, hd, ha, hb, hfn, c, fmt, rm, md⟩ :=
    rWord_fields (mj := 0x35) (d := d.val) (a := a.val) (b := b.val) (fn := t.toNat) (by decide) (by omega) (by omega) (by omega) (by omega)
  rw [decode_major_plog (BitVec.eq_of_toNat_eq mj), plogOf_of_fields c fmt rm md hd ha hb hfn]
  rfl

namespace Machine

/-- A word with a reserved value, met by an agent that may execute its kind of instruction (R107). -/
theorem agentFetch_reserved {s : State} {g : Agent} {w : Word} (row : rowOf w < 0xA) (nz : w ≠ 0#64)
    (open_ : privileged (major w).toNat = false) (r : decode w 0 = .reserved) : agentFetch s g w = .cause (4 * rowOf w + 1) := by
  have ones : w ≠ BitVec.allOnes 64 := by rintro rfl; exact absurd row (by decide)
  simp only [agentFetch, if_neg ones, if_neg nz, if_neg (show ¬ rowOf w = 0xA by omega), if_neg (show ¬ rowOf w = 0xB by omega), r, open_,
    Bool.false_and, Bool.false_eq_true, if_false]

/-- A word that stands for no instruction of an allocated cell of the map is reserved. -/
theorem agentFetch_of_none {s : State} {g : Agent} {w : Word} {o : Option Instr} (row : rowOf w < 0xA) (nz : w ≠ 0#64)
    (open_ : privileged (major w).toNat = false) (d : decode w 0 = (Parse.of o).fate) (none_ : ∀ i, o ≠ some i) :
    agentFetch s g w = .cause (4 * rowOf w + 1) := by
  cases o with
  | none => exact agentFetch_reserved row nz open_ d
  | some i => exact absurd rfl (none_ i)

theorem leaWord_reserved {s : State} {g : Agent} {w : Word} (h : major w = 0x0F#8)
    (bad : 8 ≤ (fFn w).toNat ∨ fC w ≠ 0 ∨ fFmt w ≠ 0 ∨ fRm w ≠ 0 ∨ fMod w ≠ 0) : agentFetch s g w = .cause 0x01 := by
  have row : rowOf w = 0 := by rw [rowOf_eq_major, h]; rfl
  rw [agentFetch_of_none (by omega) (ne_zero_of_major (by rw [h]; decide)) (by rw [h]; decide) (decode_major_lea h 0) fun i e => ?_, row]
  obtain ⟨c, fmt, rm, md, d, a, b, k⟩ := fn3_eq_some e
  have fn : (fFn w).toNat < 8 := by
    by_contra big
    rw [dif_neg big] at k
    cases k
  rcases bad with bad | bad | bad | bad | bad
  · omega
  · exact bad c
  · exact bad fmt
  · exact bad rm
  · exact bad md

theorem plogWord_reserved {s : State} {g : Agent} {w : Word} (h : major w = 0x35#8)
    (bad : 16 ≤ (fFn w).toNat ∨ fC w ≠ 0 ∨ fFmt w ≠ 0 ∨ fRm w ≠ 0 ∨ fMod w ≠ 0 ∨ 8 ≤ (fD w).toNat ∨ 8 ≤ (fA w).toNat ∨ 8 ≤ (fB w).toNat) :
    agentFetch s g w = .cause 0x0D := by
  have row : rowOf w = 3 := by rw [rowOf_eq_major, h]; rfl
  rw [agentFetch_of_none (by omega) (ne_zero_of_major (by rw [h]; decide)) (by rw [h]; decide) (decode_major_plog h 0) fun i e => ?_, row]
  obtain ⟨c, fmt, rm, md, fn, hd, ha, hb⟩ := plogOf_eq_some e
  rcases bad with bad | bad | bad | bad | bad | bad | bad | bad
  case inr.inl => exact bad c
  case inr.inr.inl => exact bad fmt
  case inr.inr.inr.inl => exact bad rm
  case inr.inr.inr.inr.inl => exact bad md
  all_goals omega

theorem tableBit_eq (t : BitVec 4) (a b : Bool) : tableBit t a b = t.getLsbD (2 * a.toNat + b.toNat) := by
  cases a <;> cases b <;> rfl

end Machine

end Sys2Proof

section

open Sys2Proof Sys2Proof.Machine

/-- Settles O3: the sum by its entry, the word and the reserved values by the fields that the decoder reads. -/
theorem leaWhole : Obligations.LeaWhole := by
  unfold Obligations.LeaWhole
  refine ⟨fun d a b sh => givesS_of_putS (fun _ => rfl) fun _ => rfl, fun d a b sh => ?_, by decide, fun s g w => leaWord_reserved⟩
  have word := decode_leaWord d a b sh 0
  unfold rWord at word
  exact word

/-- Settles O8: the table's bit by its entry, the word and the reserved values by the fields that the decoder reads. -/
theorem plogWhole : Obligations.PlogWhole := by
  unfold Obligations.PlogWhole
  refine ⟨fun d a b t => givesP_of_putP (fun _ => rfl) fun g => tableBit_eq ..,
    fun d a b t => ?_, by decide, fun s g w => plogWord_reserved, by decide, fun g v => if_pos rfl⟩
  have word := decode_plogWord d a b t 0
  unfold rWord at word
  exact word

end

/-! PROOF. O4, O11: scalar float instructions, and the vector instructions that move or compare lanes. -/

namespace Sys2Proof.Machine

open Sys2Proof

/-! ## Flags and traps (R122) -/

/-- A meaning that ends in FPSET writes its result with its flags, or takes the trap that they raise. -/
theorem floats_of_fpset {i : Instr} {s : State} {g h : Agent} {f : Agent → Eff} {kind : Nat} {fl : W32} (turn : s.atTurn g)
    (hi : exec i s = agentOp s f) (e : f g = fpset g h kind fl) : floats i s g kind fl h := by
  refine ⟨fun quiet => runsTo_of_ok turn hi ?_, fun r raised => hi.trans (agentOp_trap turn f ?_)⟩
  · rw [e, fpset, quiet]
  · rw [e, fpset, raised]

theorem floatsS_of_putF {i : Instr} {kind : Nat} {d : Reg} {v : Agent → Word × W32 × Word} {f : Agent → Eff}
    (hi : ∀ s, exec i s = agentOp s f) (e : ∀ g, f g = putF g kind d (v g).1 (v g).2.1 (v g).2.2) : floatsS i kind d v :=
  fun s g turn => floats_of_fpset turn (hi s) (e g)

theorem classBit_lt (x : W32) : classBit x < 10 := by
  unfold classBit
  cases val32 x <;> dsimp only <;> split_ifs <;> decide

theorem trapReason_none (trap : W32) : trapReason 0 trap = none := by
  simp [trapReason]

/-- Without flags FPSET is the agent with its result. -/
theorem fpset_no_flags {g h : Agent} {kind : Nat} (e : h.fflags = g.fflags) : fpset g h kind 0 = .ok h := by
  rw [fpset, trapReason_none, show g.fflags ||| 0 = h.fflags from BitVec.or_zero.trans e.symm]

/-! ## Lanes under a mask (R129) -/

/-- Lanes that raise no flag and draw nothing. -/
theorem eachLane_plain (k : W32) (seed : Word) (f : Nat → W32) :
    eachLane k seed (fun i sd => (f i, 0, sd)) = (mapLanes fun i => if lane k i then f i else 0, 0, seed) := by
  have go : ∀ n, (List.range n).foldl (fun (acc : List W32 × W32 × Word) i =>
      if lane k i then (acc.1 ++ [f i], acc.2.1 ||| 0, acc.2.2) else (acc.1 ++ [0#32], acc.2)) ([], 0#32, seed)
      = ((List.range n).map fun i => if lane k i then f i else 0, 0, seed) := by
    intro n
    induction n with
    | zero => rfl
    | succ n ih =>
      rw [List.range_succ, List.foldl_append, ih, List.map_append]
      by_cases act : lane k n <;> simp [act]
  simp only [eachLane, go, mapLanes]
  congr 2
  funext i
  have := i.isLt
  simp [List.getD_eq_getElem?_getD, this]

theorem maskLanes_mapLanes (k : W32) (z : Bool) (old : Lanes) (f : Nat → W32) : maskLanes k z old (mapLanes f) =
    Vector.ofFn fun i : Fin 32 => if k.getLsbD i.val then f i.val else if z then 0 else old[i] := by
  simp [maskLanes, mapLanes, lane]

theorem maskLanes_active (k : W32) (z : Bool) (old : Lanes) (f : Nat → W32) :
    maskLanes k z old (mapLanes fun i => if lane k i then f i else 0) = maskLanes k z old (mapLanes f) := by
  rw [maskLanes_mapLanes, maskLanes_mapLanes]
  congr 1
  funext i
  by_cases act : k.getLsbD i.val = true <;> simp only [act, lane, if_true, if_false, Bool.false_eq_true]

theorem givesV_of_putPlain {i : Instr} {k : VMask} {d : VNum} {v w : Agent → Nat → W32}
    (hi : ∀ s, exec i s = agentOp s fun g => putPlain g k d (v g)) (e : ∀ g j, v g j = w g j) : givesV i k d w :=
  fun s g turn => runsTo_of_ok turn (hi s) (by
    rw [← funext (e g), putPlain, maskLanes_mapLanes])

theorem vecBits_eq (f : W32 → W32 → W32) (k : VMask) (d a b : VNum) (g : Agent) :
    vecBits f k d a b g = putPlain g k d fun i => f (laneAt (g.vr a) i) (laneAt (g.vr b) i) := by
  have plain := eachLane_plain (g.kr k.k) g.seed fun i => f (laneAt (g.vr a) i) (laneAt (g.vr b) i)
  simp only [vecBits, putLanes, putPlain, show (0#32 : W32) = 0 from rfl, plain, maskLanes_active]
  exact fpset_no_flags rfl

theorem givesV_of_vecBits {i : Instr} {f : W32 → W32 → W32} {k : VMask} {d a b : VNum} {w : Agent → Nat → W32}
    (hi : ∀ s, exec i s = agentOp s (vecBits f k d a b)) (e : ∀ g j, f (laneAt (g.vr a) j) (laneAt (g.vr b) j) = w g j) : givesV i k d w :=
  givesV_of_putPlain (fun s => (hi s).trans (by rw [funext (vecBits_eq f k d a b)])) e

/-! ## Lane shifts (R421) -/

/-- A number below 2^31 in size, divided by 2^31 or more and rounded down, is its sign. -/
theorem ediv_two_pow_beyond {z : Int} (low : -2 ^ 31 ≤ z) (high : z < 2 ^ 31) {n : Nat} (far : 31 ≤ n) : z / 2 ^ n = if z < 0 then -1 else 0 := by
  have big : (2 : Int) ^ 31 ≤ 2 ^ n := pow_le_pow_right₀ (by decide) far
  split
  · exact Int.ediv_eq_neg_one_of_neg_of_le ‹_› (by omega)
  · exact Int.ediv_eq_zero_of_lt (by omega) (by omega)

theorem vshlWord_eq (x n : W32) : vshlWord x n = BitVec.ofNat 32 (x.toNat * 2 ^ n.toNat) := by
  apply BitVec.eq_of_toNat_eq
  unfold vshlWord
  split
  · simp [BitVec.toNat_shiftLeft, Nat.shiftLeft_eq]
  · obtain ⟨k, e⟩ := Nat.exists_eq_add_of_le (show 32 ≤ n.toNat by omega)
    rw [e, Nat.pow_add, BitVec.toNat_ofNat, Nat.mul_left_comm, Nat.mul_mod_right]
    rfl

theorem vshrWord_logical (x n : W32) : vshrWord false x n = BitVec.ofNat 32 (x.toNat / 2 ^ n.toNat) := by
  apply BitVec.eq_of_toNat_eq
  rw [BitVec.toNat_ofNat, Nat.mod_eq_of_lt (Nat.lt_of_le_of_lt (Nat.div_le_self ..) x.isLt)]
  simp only [vshrWord, Bool.false_eq_true, if_false]
  split
  · simp [BitVec.toNat_ushiftRight, Nat.shiftRight_eq_div_pow]
  · exact (Nat.div_eq_of_lt (Nat.lt_of_lt_of_le x.isLt (Nat.pow_le_pow_right (by decide) (by omega)))).symm

theorem vshrWord_arithmetic (x n : W32) : vshrWord true x n = BitVec.ofInt 32 (x.toInt / 2 ^ n.toNat) := by
  have low := x.le_toInt; have high := x.toInt_lt
  have signed : ∀ k : Nat, BitVec.ofInt 32 (x.toInt / 2 ^ k) = x.sshiftRight k := fun k => by
    simp [BitVec.sshiftRight, Int.shiftRight_eq_div_pow]
  simp only [vshrWord, if_true, ← signed]
  by_cases near : n.toNat ≤ 31
  · rw [min_eq_left near]
  · rw [min_eq_right (by omega), ediv_two_pow_beyond low high (by decide), ediv_two_pow_beyond low high (by omega)]

/-! ## VSEL and VSHUF (R132, R429) -/

theorem laneAt_val (v : Lanes) (i : Fin 32) : laneAt v i.val = v[i] := by
  simp [laneAt, List.getD_eq_getElem?_getD]

theorem runsTo_vsel {s : State} {g : Agent} {k : KReg} {d a b : VNum} (turn : s.atTurn g) : runsTo (.vsel k d a b) s g
    (g.setV d (Vector.ofFn fun i : Fin 32 => if (g.kr k).getLsbD i.val then (g.vr a)[i] else (g.vr b)[i])).next :=
  agentOp_ok turn (vecSel k d a b) (by simp only [vecSel, mapLanes, laneAt_val, lane])

theorem runsTo_vshuf {s : State} {g src : Agent} {k : VMask} {d a : VNum} {b : Reg} (turn : s.atTurn g) (inside : (g.sr b).toNat < g.alen)
    (found : s.agentAt g.part g.rid (g.sr b).toNat = some src) (near : src.core = g.core) (held : a.val < 4 * src.gran)
    (awake : src.drowsy = false) : runsTo (.vshuf k d a b) s g (g.setV d (maskLanes (g.kr k.k) k.z (g.vr d) (src.vr a))).next := by
  refine (onAgent_at turn _).trans ?_
  dsimp only
  rw [if_neg (by omega), found]
  dsimp only
  rw [if_neg (not_not.2 near), if_neg (by omega)]
  simp [awake, State.modAgent, turn.2]

/-! ## VCMP (R424) -/

theorem sumNat_concat (l : List Nat) (a : Nat) : sumNat (l ++ [a]) = sumNat l + a := by
  simp [sumNat]

/-- Bits added up at their places stay below the next place. -/
theorem sumBits_lt (f : Nat → Bool) (n : Nat) : sumNat ((List.range n).map fun i => b2n (f i) * 2 ^ i) < 2 ^ n := by
  induction n with
  | zero => simp [sumNat]
  | succ n ih =>
    have bit : b2n (f n) * 2 ^ n ≤ 2 ^ n := by cases f n <;> simp [b2n]
    rw [List.range_succ, List.map_append, List.map_singleton, sumNat_concat, Nat.pow_succ]
    omega

/-- And each stands at its place. -/
theorem testBit_sumBits (f : Nat → Bool) (n i : Nat) :
    (sumNat ((List.range n).map fun i => b2n (f i) * 2 ^ i)).testBit i = (decide (i < n) && f i) := by
  induction n with
  | zero => simp [sumNat]
  | succ n ih =>
    rw [List.range_succ, List.map_append, List.map_singleton, sumNat_concat, Nat.mul_comm, Nat.add_comm,
      Nat.testBit_two_pow_mul_add _ (sumBits_lt f n), ih]
    by_cases below : i < n
    · simp [below, show i < n + 1 by omega]
    · by_cases here : i = n
      · subst here; cases f i <;> simp [b2n]
      · rw [if_neg below, decide_eq_false (show ¬ i < n + 1 by omega), Bool.false_and]
        exact Nat.testBit_lt_two_pow (Nat.lt_of_le_of_lt (by cases f n <;> decide) (Nat.one_lt_two_pow (show i - n ≠ 0 by omega)))

theorem getLsbD_maskOf (f : Nat → Bool) {i : Nat} (h : i < 32) : (maskOf f).getLsbD i = f i := by
  rw [maskOf, BitVec.getLsbD_ofNat, testBit_sumBits]
  simp [h]

theorem getLsbD_orLanes (k : W32) (f : Nat → W32) (j : Nat) :
    ((List.range 32).foldl (fun (x : W32) i => if lane k i then x ||| f i else x) 0#32).getLsbD j = true
      ↔ ∃ i < 32, k.getLsbD i = true ∧ (f i).getLsbD j = true := by
  have go : ∀ n, ((List.range n).foldl (fun (x : W32) i => if lane k i then x ||| f i else x) 0#32).getLsbD j = true
      ↔ ∃ i < n, k.getLsbD i = true ∧ (f i).getLsbD j = true := by
    intro n
    induction n with
    | zero => simp
    | succ n ih =>
      rw [List.range_succ, List.foldl_append, Nat.exists_lt_succ_right, ← ih]
      by_cases act : k.getLsbD n <;> simp [act, lane]
  exact go 32

end Sys2Proof.Machine

section

open Sys2Proof Sys2Proof.Machine

/-- Settles O4: each result by the model's arithmetic, FPSET by the flags that it finds. -/
theorem scalarFloat : Obligations.ScalarFloat := by
  unfold Obligations.ScalarFloat
  dsimp only
  refine ⟨⟨fun rm d a b => ?_, fun rm d a b => ?_, fun rm d a b => ?_, fun rm d a b => ?_, fun rm d a b c => ?_, fun rm d a => ?_⟩,
    fun d a b => ?_, fun d a b => ?_, fun cv rm d a => ?_, fun f rm d a => ?_, fun d a s g turn => ?_, fun c d a b s g turn => ?_⟩
  iterate 10 exact floatsS_of_putF (fun _ => rfl) fun _ => rfl
  · exact ⟨_, classBit_lt _, runsTo_of_putS (v := fun g => BitVec.ofNat 64 (2 ^ classBit (low32 (g.sr a)))) turn rfl⟩
  · exact floats_of_fpset turn rfl rfl

/-- Settles O11: lane by lane under the mask; VSHUF by the source it finds, VCMP bit by bit, VRED as one result. -/
theorem laneMoves : Obligations.LaneMoves := by
  unfold Obligations.LaneMoves
  refine ⟨⟨fun k d a b => ?_, fun k d a b => ?_, fun k d a b => ?_, fun k d a b => ?_, fun k d a b => ?_, fun k d a b => ?_⟩,
    ⟨fun k d a b => ?_, fun k d a => ?_, fun k d => ?_, fun k d a b s g turn => ?_, fun k d a b s g src turn inside found near held awake => ?_⟩,
    fun c iw k d a b s g turn => ?_, fun op md k d a s g turn => ?_⟩
  iterate 3 exact givesV_of_vecBits (fun _ => rfl) fun _ _ => rfl
  · exact givesV_of_vecBits (fun _ => rfl) fun _ _ => vshlWord_eq ..
  · exact givesV_of_vecBits (fun _ => rfl) fun _ _ => vshrWord_logical ..
  · exact givesV_of_vecBits (fun _ => rfl) fun _ _ => vshrWord_arithmetic ..
  iterate 3 exact givesV_of_putPlain (fun _ => rfl) fun _ _ => rfl
  · exact runsTo_vsel turn
  · exact runsTo_vshuf turn inside found near held awake
  · exact ⟨_, _, fun i hi => getLsbD_maskOf _ hi, fun j => getLsbD_orLanes _ _ j, floats_of_fpset turn rfl rfl⟩
  · exact agentOp_ok turn (fun g => let r := reduce op md (g.kr k) (g.vr a)
      .ok { ((g.setS d r.1).later (.s d.val) (s.cycle + 6)).next with fflags := g.fflags ||| r.2 }) rfl

end

/-! PROOF. O9: moves between masks, predicates and scalars, and the register files. -/

namespace Sys2Proof.Machine

open Sys2Proof

/-! ## The register files (R71, R72) -/

theorem Agent.pr_setP (g : Agent) (r q : PReg) (v : Bool) : (g.setP r v).pr q = if q = r ∧ r ≠ 0 then v else g.pr q := by
  unfold Agent.setP Agent.pr
  by_cases hr : r = 0
  · simp [hr]
  · by_cases hq : q = r
    · subst hq; simp [hr]
    · have apart : r.val ≠ q.val := fun e => hq (Fin.ext e.symm)
      simp [hr, hq, apart]

theorem Agent.kr_setK (g : Agent) (r q : KReg) (v : W32) : (g.setK r v).kr q = if q = r ∧ r ≠ 0 then v else g.kr q := by
  unfold Agent.setK Agent.kr
  by_cases hr : r = 0
  · simp [hr]
  · by_cases hq : q = r
    · subst hq; simp [hr]
    · have apart : r.val ≠ q.val := fun e => hq (Fin.ext e.symm)
      simp [hr, hq, apart]

theorem Agent.vr_setV (g : Agent) (r q : VNum) (v : Lanes) : (g.setV r v).vr q = if q = r then v else g.vr q := by
  unfold Agent.setV Agent.vr
  by_cases hq : q = r
  · subst hq; simp
  · have apart : r.val ≠ q.val := fun e => hq (Fin.ext e.symm)
    simp [hq, apart]

/-! ## Predicates as a byte (R387) -/

theorem predByte_lt (g : Agent) : (predByte g).toNat < 256 := by
  have small := sumBits_lt (fun i => g.pr (Fin.ofNat 8 i)) 8
  rw [predByte, BitVec.toNat_ofNat, Nat.mod_eq_of_lt (by omega)]
  exact small

theorem getLsbD_predByte (g : Agent) (i : Fin 8) : (predByte g).getLsbD i.val = g.pr i := by
  have := i.isLt
  rw [predByte, BitVec.getLsbD_ofNat, testBit_sumBits (fun i => g.pr (Fin.ofNat 8 i))]
  simp [this, show i.val < 64 by omega, Fin.ofNat, Nat.mod_eq_of_lt this]

theorem givesK_of_setK {i : Instr} {d : KReg} {v : Agent → W32} (hi : ∀ s, exec i s = agentOp s fun g => .ok (g.setK d (v g)).next) :
    givesK i d v :=
  fun s _ turn => (hi s).trans (agentOp_ok turn _ rfl)

end Sys2Proof.Machine

section

open Sys2Proof Sys2Proof.Machine

/-- Settles O9: each move by the register that it writes, KLOG bit by bit, and each file by the register that is read. -/
theorem registerMoves : Obligations.RegisterMoves := by
  unfold Obligations.RegisterMoves
  refine ⟨⟨fun d a b t s g turn => ?_, fun d a => ?_, fun d a => ?_, fun d a => ?_, fun d a => ?_, fun d s g turn => ?_, fun a s g turn => ?_⟩,
    fun g => ⟨?_, ?_, ?_, fun v => if_pos rfl, fun v => if_pos rfl, fun v => if_pos rfl,
      fun r q v => g.sr_setS r q v, fun r q v => g.pr_setP r q v, fun r q v => g.kr_setK r q v, fun r q v => g.vr_setV r q v⟩⟩
  · refine ⟨_, givesK_of_setK (fun _ => rfl) s g turn, fun i hi => ?_⟩
    rw [getLsbD_maskOf _ hi, tableBit_eq]
  · exact givesK_of_setK fun _ => rfl
  · exact givesS_of_putS (fun _ => rfl) fun _ => rfl
  · exact givesK_of_setK fun _ => rfl
  · exact givesP_of_putP (fun _ => rfl) fun _ => rfl
  · exact ⟨_, runsTo_of_putS (v := predByte) turn rfl, predByte_lt g, getLsbD_predByte g 0, getLsbD_predByte g⟩
  · refine ⟨_, agentOp_ok turn (fun g => .ok (Agent.next { g with p := Vector.ofFn fun i : Fin 8 => (g.sr a).getLsbD i.val })) rfl,
      fun i nz => ?_, rfl, rfl⟩
    simp [Agent.pr, nz]
  · rfl
  · rfl
  · rfl

end

/-! PROOF. O21: tree operations as contributions of their area. -/

namespace Sys2Proof.Machine

open Sys2Proof

/-! ## The agents of an area, in order -/

theorem insertBy_perm {α : Type} (le : α → α → Bool) (a : α) (l : List α) : (insertBy le a l).Perm (a :: l) := by
  induction l with
  | nil => exact .refl _
  | cons b l ih =>
    simp only [insertBy]
    split
    · exact .refl _
    · exact (ih.cons b).trans (.swap a b l)

theorem sortBy_perm {α : Type} (le : α → α → Bool) (l : List α) : (sortBy le l).Perm l := by
  induction l with
  | nil => exact .refl _
  | cons a l ih => exact (insertBy_perm le a _).trans (ih.cons a)

theorem State.mem_agentsOf {s : State} {k n rid : Nat} {g : Agent} (h : s.agent k = some g) (part : g.part = n) (own : g.rid = rid)
    (cell : g.slot < 64) : g ∈ s.agentsOf n rid := by
  rw [State.agentsOf, (sortBy_perm _ _).mem_iff, List.mem_filter]
  exact ⟨List.mem_map_of_mem (Tbl.mem_of_find h), by simp [part, own, cell]⟩

/-! ## Contributions (R413) -/

@[simp] theorem tryJoins_mem (s : State) (n rid : Nat) : (tryJoins s n rid).mem = s.mem := by
  refine foldl_inv (fun t : State => t.mem = s.mem) _ (fun t g e => ?_) _ s rfl
  split
  · exact e
  · split
    · exact (schedOnce_mem ..).trans e
    · exact e

/-- A join that every agent of the area has come to is on the agenda (R413). -/
theorem pendingEvent_tryJoins {s : State} {n rid : Nat} {g : Agent} (mem : g ∈ s.agentsOf n rid) (given : g.contrib.isSome = true)
    (all : ∀ q ∈ s.agentsOf n rid, q.status = .ended ∨ g.join ≤ q.join) :
    pendingEvent (tryJoins s n rid) (.treeJoinComplete n rid g.join) = true := by
  have ready : joinReady (s.agentsOf n rid) g.join = true := by
    rw [joinReady, Bool.and_eq_true, List.all_eq_true, joinRef, List.findSome?_isSome_iff]
    exact ⟨fun q hq => by simpa [Agent.arrived] using all q hq, g, mem, by simpa [Agent.given] using given⟩
  refine foldl_reaches (P := fun _ => True) (Q := fun t => pendingEvent t (.treeJoinComplete n rid g.join) = true) (fun _ _ _ => trivial)
    (fun t q h => ?_) (fun t _ => ?_) mem trivial
  · split
    · exact h
    · split
      · exact pendingEvent_schedOnce_of _ _ h
      · exact h
  · rw [if_neg (by simpa using Option.isSome_iff_ne_none.1 given), if_pos ready]
    exact pendingEvent_schedOnce_self ..

/-- The agent with its contribution to its next tree operation. -/
def Agent.contributing (g : Agent) (c : Contrib) : Agent := { g with status := .joining, contrib := some c, join := g.join + 1 }

theorem contribute_leaves {s : State} {g : Agent} (c : Contrib) (cell : g.slot < 64) :
    let t := contribute s g c
    t.agent g.key = some (g.contributing c) ∧ (∀ k, k ≠ g.key → t.agent k = s.agent k) ∧ t.mem = s.mem ∧ t.parts = s.parts ∧ t.cells = s.cells
      ∧ ((∀ q ∈ (s.setAgent g.key (g.contributing c)).agentsOf g.part g.rid, q.status = .ended ∨ g.join + 1 ≤ q.join) →
          pendingEvent t (.treeJoinComplete g.part g.rid (g.join + 1)) = true) := by
  have kept := kept_tryJoins (s.setAgent g.key (g.contributing c)) g.part g.rid
  refine ⟨(kept.home_agent _).trans (State.agent_setAgent ..), fun k other => (kept.home_agent k).trans (State.agent_setAgent_other _ _ _ _ other),
    tryJoins_mem .., kept.parts, kept.cells, fun all => ?_⟩
  exact pendingEvent_tryJoins (g := g.contributing c)
    (State.mem_agentsOf (s := s.setAgent g.key (g.contributing c)) (State.agent_setAgent ..) rfl rfl cell) rfl all

/-- The contribution that a tree instruction makes where it may (R193, R414, R417, R418, R157). -/
def contributes (s : State) (g : Agent) (i : Instr) (c : Contrib) : Prop :=
  (∃ d a imm, i = .tbc d a imm ∧ imm.toNat < g.alen ∧ c = .tbc (g.sr a) imm.toNat d)
    ∨ (∃ op d a, i = .tred op d a ∧ c = .tred op (g.sr a) d)
    ∨ (∃ op ex d a, i = .tscan op ex d a ∧ c = .tscan op ex (g.sr a) d)
    ∨ (i = .tbar ∧ (∀ x ∈ g.outs, x.op.orders = false) ∧ c = .tbar)
    ∨ ∃ d a q, i = .tmean d a ∧ ((tmsShape g.tms).mode ≠ 2 ∨ (pairOf (s.core g.core) (tmsShape g.tms).slot).isSome)
        ∧ c = .tmean q.1.m q.1.a q.1.n q.2 d g.tms
        ∧ (tmsShape g.tms).take ((pairOf (s.core g.core) (tmsShape g.tms).slot).map (·.1)) ((g.sr a).truncate 32) = .ok q

theorem exec_of_contributes {s : State} {g : Agent} {i : Instr} {c : Contrib} (turn : s.atTurn g) (cell : g.service = false) (h : contributes s g i c) :
    exec i s = .next (contribute s g c) := by
  rcases h with ⟨d, a, imm, rfl, inside, rfl⟩ | ⟨op, d, a, rfl, rfl⟩ | ⟨op, ex, d, a, rfl, rfl⟩ | ⟨rfl, ordered, rfl⟩
    | ⟨d, a, q, rfl, pair, rfl, take⟩
  · exact (cellOnly_cell turn cell 0x21 _).trans (by rw [if_neg (by omega)])
  · exact cellOnly_cell turn cell 0x21 _
  · exact cellOnly_cell turn cell 0x21 _
  · refine (cellOnly_cell turn cell 0x21 _).trans ?_
    rw [tryTbar, if_neg (by simpa using ordered)]
    rfl
  · refine (cellOnly_cell turn cell 0x1D _).trans ?_
    dsimp only
    rw [if_neg (by rintro ⟨two, none_⟩; rcases pair with h | h <;> simp_all), take]

end Sys2Proof.Machine

section

open Sys2Proof Sys2Proof.Machine

/-- Settles O21: a tree instruction contributes, which puts its join on the agenda; where it may not it faults or waits. -/
theorem treeContributions : Obligations.TreeContributions := by
  unfold Obligations.TreeContributions
  refine ⟨fun s g i c turn cell form => ⟨_, exec_of_contributes turn (by simp [Agent.service]; omega) form, contribute_leaves c cell⟩,
    fun s g turn cell => ⟨fun d a imm beyond => ?_, fun ⟨x, mem, ordered⟩ => ?_, fun d a two none_ => ?_⟩⟩
  · exact ⟨0, 0xFFFFFFFF, .inl ((cellOnly_cell turn cell 0x21 _).trans (by rw [if_pos beyond]))⟩
  · refine (cellOnly_cell turn cell 0x21 _).trans ?_
    rw [tryTbar, if_pos (List.any_eq_true.2 ⟨x, mem, ordered⟩)]
    rfl
  · refine ⟨0, 0xFFFFFFFF, .inl ((cellOnly_cell turn cell 0x1D _).trans ?_)⟩
    dsimp only
    rw [if_pos ⟨two, by rw [none_]; rfl⟩]

end

/-! PROOF. O22: what a join gives its agents, and what the tree of a TRED or TSCAN computes. -/

namespace Sys2Proof.Machine

open Sys2Proof

/-! ## Levels of the tree (R127) -/

/-- A node combines its two children, and passes a left one that stands alone. -/
theorem pairUp_getElem? {α : Type} (f : α → α → α) (l : List α) : ∀ j, (pairUp f l)[j]? = match l[2 * j]?, l[2 * j + 1]? with
    | some a, some b => some (f a b)
    | some a, none => some a
    | none, _ => none := by
  induction l using pairUp.induct with
  | case1 a b l ih =>
    intro j
    cases j with
    | zero => rfl
    | succ j => simpa [pairUp, Nat.mul_add] using ih j
  | case2 l short =>
    intro j
    rcases l with _ | ⟨a, _ | ⟨b, l⟩⟩
    · rfl
    · cases j <;> simp [pairUp, Nat.mul_add]
    · exact absurd rfl (short a b l)

theorem levels_getD {α : Type} (f : α → α → α) (n : Nat) : ∀ (k : Nat) (l : List α), k ≤ n → (levels f n l).getD k [] = (pairUp f)^[k] l := by
  induction n with
  | zero => intro k l h; obtain rfl : k = 0 := (by omega); rfl
  | succ n ih =>
    intro k l h
    cases k with
    | zero => rfl
    | succ k => exact ih k (pairUp f l) (by omega)

theorem pairUp_map {α β : Type} {f : α → α → α} {h : β → β → β} {m : α → β} (hom : ∀ x y, h (m x) (m y) = m (f x y)) (l : List α) :
    pairUp h (l.map m) = (pairUp f l).map m := by
  induction l using pairUp.induct with
  | case1 a b l ih => simp [pairUp, hom, ih]
  | case2 l short =>
    rcases l with _ | ⟨a, _ | ⟨b, l⟩⟩
    · rfl
    · rfl
    · exact absurd rfl (short a b l)

theorem pairUp_iterate_map {α β : Type} {f : α → α → α} {h : β → β → β} {m : α → β} (hom : ∀ x y, h (m x) (m y) = m (f x y)) (k : Nat)
    (l : List α) : (pairUp h)^[k] (l.map m) = ((pairUp f)^[k] l).map m := by
  induction k generalizing l with
  | zero => rfl
  | succ k ih => rw [Function.iterate_succ_apply, Function.iterate_succ_apply, pairUp_map hom, ih]

/-! ## The combination of a segment, where the operation is associative with an identity -/

section

variable {f : Word → Word → Word} {e : Word} (assoc : ∀ x y z, f (f x y) z = f x (f y z)) (left : ∀ x, f e x = x) (right : ∀ x, f x e = x)
include assoc left right

theorem foldl_from (l : List Word) (a : Word) : l.foldl f a = f a (l.foldl f e) := by
  induction l generalizing a with
  | nil => exact (right a).symm
  | cons x l ih => rw [List.foldl_cons, List.foldl_cons, ih (f a x), ih (f e x), left, assoc]

theorem foldl_append_eq (l m : List Word) : (l ++ m).foldl f e = f (l.foldl f e) (m.foldl f e) := by
  rw [List.foldl_append, foldl_from assoc left right]

/-- A node of level k combines the cells under it. -/
theorem pairUp_iterate_getElem? (xs : List Word) (k : Nat) : ∀ j, ((pairUp f)^[k] xs)[j]? =
    if j * 2 ^ k < xs.length then some (((xs.drop (j * 2 ^ k)).take (2 ^ k)).foldl f e) else none := by
  induction k with
  | zero =>
    intro j
    by_cases h : j < xs.length
    · have one : (xs.drop j).take 1 = [xs[j]] := by rw [List.drop_eq_getElem_cons h]; rfl
      simp [h, one, left]
    · simp [h]
  | succ k ih =>
    intro j
    have pos : 0 < 2 ^ k := Nat.two_pow_pos k
    have lower : 2 * j * 2 ^ k = j * 2 ^ (k + 1) := by rw [Nat.pow_succ]; ring
    have upper : (2 * j + 1) * 2 ^ k = j * 2 ^ (k + 1) + 2 ^ k := by rw [Nat.pow_succ]; ring
    have split : ((xs.drop (j * 2 ^ (k + 1))).take (2 ^ (k + 1))).foldl f e =
        f (((xs.drop (j * 2 ^ (k + 1))).take (2 ^ k)).foldl f e) (((xs.drop (j * 2 ^ (k + 1) + 2 ^ k)).take (2 ^ k)).foldl f e) := by
      rw [Nat.pow_succ 2 k, Nat.mul_two (2 ^ k), List.take_add, foldl_append_eq assoc left right, List.drop_drop]
    rw [Function.iterate_succ_apply', pairUp_getElem?, ih, ih, lower, upper, split]
    by_cases low : j * 2 ^ (k + 1) < xs.length
    · by_cases high : j * 2 ^ (k + 1) + 2 ^ k < xs.length
      · simp only [if_pos low, if_pos high]
      · have none_ : xs.drop (j * 2 ^ (k + 1) + 2 ^ k) = [] := List.drop_eq_nil_iff.2 (by omega)
        simp only [if_pos low, if_neg high, none_, List.take_nil, List.foldl_nil, right]
    · simp only [if_neg low]

/-- The root combines all cells (R127). -/
theorem pairUp_iterate_head {xs : List Word} (some_ : xs ≠ []) {k : Nat} (fits : xs.length ≤ 2 ^ k) (d : Word) :
    ((pairUp f)^[k] xs).headD d = xs.foldl f e := by
  have root := pairUp_iterate_getElem? assoc left right xs k 0
  rw [Nat.zero_mul, if_pos (List.length_pos_of_ne_nil some_), List.drop_zero, List.take_of_length_le fits] at root
  rw [List.headD_eq_head?_getD, List.head?_eq_getElem?, root]
  rfl

/-- The nodes that tile the first c cells combine them (R128). -/
theorem scanAt_eq (xs : List Word) (n c : Nat) (inside : c ≤ xs.length) : ∀ l, l ≤ n + 1 →
    scanAt f (levels f n xs) c l (c / 2 ^ l * 2 ^ l) (if c / 2 ^ l * 2 ^ l = 0 then none else some ((xs.take (c / 2 ^ l * 2 ^ l)).foldl f e))
      = if c = 0 then none else some ((xs.take c).foldl f e) := by
  intro l
  induction l with
  | zero => intro _; simp [scanAt]
  | succ l ih =>
    intro h
    have half : c / 2 ^ (l + 1) = c / 2 ^ l / 2 := by rw [Nat.pow_succ, Nat.div_div_eq_div_mul]
    rw [← ih (by omega), scanAt]
    generalize at_ : c / 2 ^ (l + 1) * 2 ^ (l + 1) = pos
    by_cases one : c / 2 ^ l % 2 = 1
    · have step : c / 2 ^ l * 2 ^ l = pos + 2 ^ l := by
        have odd : c / 2 ^ l = 2 * (c / 2 ^ l / 2) + 1 := by omega
        rw [← at_, half, Nat.pow_succ]
        generalize c / 2 ^ l / 2 = m at odd
        rw [odd]; ring
      have here : pos / 2 ^ l * 2 ^ l = pos := by
        rw [← at_, Nat.pow_succ, ← Nat.mul_assoc, Nat.mul_right_comm, Nat.mul_div_cancel _ (Nat.two_pow_pos l)]
      have below : pos + 2 ^ l ≤ xs.length := by have := Nat.div_mul_le_self c (2 ^ l); omega
      have pos0 := Nat.two_pow_pos l
      have node := pairUp_iterate_getElem? assoc left right xs l (pos / 2 ^ l)
      rw [here, if_pos (by omega)] at node
      have more : (xs.take (pos + 2 ^ l)).foldl f e = f ((xs.take pos).foldl f e) (((xs.drop pos).take (2 ^ l)).foldl f e) := by
        rw [List.take_add, foldl_append_eq assoc left right]
      rw [if_pos (by simpa [bit] using one), levels_getD f n l xs (by omega), node, step, if_neg (show ¬ pos + 2 ^ l = 0 by omega), more]
      by_cases first : pos = 0
      · simp only [first, if_true, List.take_zero, List.foldl_nil, left]
      · simp only [first, if_false]
    · have step : c / 2 ^ l * 2 ^ l = pos := by
        have even : c / 2 ^ l = 2 * (c / 2 ^ l / 2) := by omega
        rw [← at_, half, Nat.pow_succ]
        generalize c / 2 ^ l / 2 = m at even
        rw [even]; ring
      rw [if_neg (by simpa [bit] using one), step]

theorem scanAt_levels (xs : List Word) {n c : Nat} (inside : c ≤ xs.length) (few : xs.length ≤ 2 ^ n) :
    (scanAt f (levels f n xs) c (n + 1) 0 none).getD e = (xs.take c).foldl f e := by
  have all := scanAt_eq assoc left right xs n c inside (n + 1) le_rfl
  rw [Nat.div_eq_of_lt (Nat.lt_of_le_of_lt (inside.trans few) (Nat.pow_lt_pow_succ (by decide))), Nat.zero_mul, if_pos rfl] at all
  rw [all]
  by_cases zero : c = 0
  · simp [zero]
  · simp [zero]

end

/-! ## Words that raise no flag -/

/-- A word with no flag. -/
def unflagged (x : Word) : Word × W32 := (x, 0)

theorem levels_map {α β : Type} {f : α → α → α} {h : β → β → β} {m : α → β} (hom : ∀ x y, h (m x) (m y) = m (f x y)) (n : Nat) :
    ∀ l : List α, levels h n (l.map m) = (levels f n l).map (List.map m) := by
  induction n with
  | zero => intro l; rfl
  | succ n ih => intro l; simp only [levels, pairUp_map hom, ih, List.map_cons]

theorem scanAt_map {α β : Type} {f : α → α → α} {h : β → β → β} {m : α → β} (hom : ∀ x y, h (m x) (m y) = m (f x y)) (lev : List (List α))
    (c l : Nat) : ∀ (pos : Nat) (acc : Option α), scanAt h (lev.map (List.map m)) c l pos (acc.map m) = (scanAt f lev c l pos acc).map m := by
  induction l with
  | zero => intro pos acc; rfl
  | succ l ih =>
    intro pos acc
    have node : ((lev.map (List.map m)).getD l [])[pos / 2 ^ l]? = ((lev.getD l [])[pos / 2 ^ l]?).map m := by
      rw [List.getD_eq_getElem?_getD, List.getD_eq_getElem?_getD, List.getElem?_map]
      cases lev[l]? <;> simp
    simp only [scanAt, node]
    split
    · rw [← ih]
      congr 1
      cases acc <;> cases (lev.getD l [])[pos / 2 ^ l]? <;> simp [hom]
    · exact ih pos acc

/-- An operation without flags, associative and with an identity, gives every agent the combination of all operands, or of those before
it (R417, R418). -/
theorem treeResults_monoid {o : TreeOp} {f : Word → Word → Word} (comb : ∀ x y, treeComb o x y = (f x y, 0))
    (assoc : ∀ x y z, f (f x y) z = f x (f y z)) (left : ∀ x, f (treeIdentity o) x = x) (right : ∀ x, f x (treeIdentity o) = x)
    {xs : List Word} (some_ : xs ≠ []) (few : xs.length ≤ 2 ^ 18) :
    (∀ ex, treeResults o false ex xs = (xs.map fun _ => xs.foldl f (treeIdentity o), 0))
      ∧ ∀ ex, treeResults o true ex xs =
        ((List.range xs.length).map fun i => (xs.take (if ex then i else i + 1)).foldl f (treeIdentity o), 0) := by
  have hom : ∀ x y, combF (treeComb o) (unflagged x) (unflagged y) = unflagged (f x y) := fun x y => by simp [combF, unflagged, comb]
  have lev : levels (combF (treeComb o)) treeDepth (xs.map unflagged) = (levels f treeDepth xs).map (List.map unflagged) := levels_map hom _ _
  have root : (((levels f treeDepth xs).map (List.map unflagged)).getD treeDepth []).headD (treeIdentity o, 0#32)
      = unflagged (xs.foldl f (treeIdentity o)) := by
    rw [← lev, levels_getD _ _ _ _ le_rfl, pairUp_iterate_map hom]
    have head := pairUp_iterate_head assoc left right some_ few (treeIdentity o)
    rw [List.headD_eq_head?_getD] at head ⊢
    rw [List.head?_map, ← head]
    exact Option.getD_map unflagged (treeIdentity o) _
  have scan : ∀ c, c ≤ xs.length → (scanAt (combF (treeComb o)) ((levels f treeDepth xs).map (List.map unflagged)) c (treeDepth + 1) 0 none).getD
      (treeIdentity o, 0#32) = unflagged ((xs.take c).foldl f (treeIdentity o)) := fun c inside => by
    have whole := scanAt_levels assoc left right xs inside few
    rw [← whole, show (none : Option (Word × W32)) = (none : Option Word).map unflagged from rfl, scanAt_map hom]
    exact Option.getD_map unflagged (treeIdentity o) _
  have plain : xs.map (fun x => (x, (0#32 : W32))) = xs.map unflagged := rfl
  refine ⟨fun ex => ?_, fun ex => ?_⟩
  · simp only [treeResults, plain, lev, root, Bool.not_false, if_true]
    rfl
  · have all : ((List.range xs.length).map fun i => (scanAt (combF (treeComb o)) ((levels f treeDepth xs).map (List.map unflagged))
        (if ex then i else i + 1) (treeDepth + 1) 0 none).getD (treeIdentity o, 0#32))
        = (List.range xs.length).map fun i => unflagged ((xs.take (if ex then i else i + 1)).foldl f (treeIdentity o)) :=
      List.map_congr_left fun i hi => scan _ (by have := List.mem_range.1 hi; split <;> omega)
    simp only [treeResults, plain, lev, root, all, Bool.not_true, Bool.false_eq_true, if_false, List.map_map, Prod.mk.injEq]
    refine ⟨rfl, ?_⟩
    rw [List.foldl_map]
    exact foldl_inv (fun a : W32 => a = 0) _ (fun a i h => by simp [unflagged, h]) _ _ rfl

/-! ## Minimum and maximum of signed words -/

def minInt (x y : Word) : Word := if x.toInt ≤ y.toInt then x else y
def maxInt (x y : Word) : Word := if y.toInt ≤ x.toInt then x else y

theorem toInt_minInt (x y : Word) : (minInt x y).toInt = min x.toInt y.toInt := by
  rw [minInt, min_def]; split <;> rfl

theorem toInt_maxInt (x y : Word) : (maxInt x y).toInt = max x.toInt y.toInt := by
  rw [maxInt, max_comm, max_def]; split <;> rfl

theorem minInt_assoc (x y z : Word) : minInt (minInt x y) z = minInt x (minInt y z) :=
  BitVec.eq_of_toInt_eq (by simp only [toInt_minInt, min_assoc])

theorem maxInt_assoc (x y z : Word) : maxInt (maxInt x y) z = maxInt x (maxInt y z) :=
  BitVec.eq_of_toInt_eq (by simp only [toInt_maxInt, max_assoc])

theorem minInt_identity (x : Word) : minInt (treeIdentity .min) x = x ∧ minInt x (treeIdentity .min) = x := by
  have top : (treeIdentity .min).toInt = 2 ^ 63 - 1 := by decide
  have high := x.toInt_lt
  constructor <;> refine BitVec.eq_of_toInt_eq ?_ <;> rw [toInt_minInt, top] <;> omega

theorem maxInt_identity (x : Word) : maxInt (treeIdentity .max) x = x ∧ maxInt x (treeIdentity .max) = x := by
  have bottom : (treeIdentity .max).toInt = -2 ^ 63 := by decide
  have low := x.le_toInt
  constructor <;> refine BitVec.eq_of_toInt_eq ?_ <;> rw [toInt_maxInt, bottom] <;> omega

theorem treeResults_integer {xs : List Word} (some_ : xs ≠ []) (few : xs.length ≤ 2 ^ 18) {o : TreeOp} {f : Word → Word → Word}
    (op : (o = .add ∧ f = (· + ·)) ∨ (o = .and ∧ f = (· &&& ·)) ∨ (o = .or ∧ f = (· ||| ·)) ∨ (o = .xor ∧ f = (· ^^^ ·))
      ∨ (o = .min ∧ f = minInt) ∨ (o = .max ∧ f = maxInt)) :
    (∀ ex, treeResults o false ex xs = (xs.map fun _ => xs.foldl f (treeIdentity o), 0))
      ∧ ∀ ex, treeResults o true ex xs =
        ((List.range xs.length).map fun i => (xs.take (if ex then i else i + 1)).foldl f (treeIdentity o), 0) := by
  rcases op with ⟨rfl, rfl⟩ | ⟨rfl, rfl⟩ | ⟨rfl, rfl⟩ | ⟨rfl, rfl⟩ | ⟨rfl, rfl⟩ | ⟨rfl, rfl⟩
  · exact treeResults_monoid (fun _ _ => rfl) BitVec.add_assoc BitVec.zero_add BitVec.add_zero some_ few
  · exact treeResults_monoid (fun _ _ => rfl) BitVec.and_assoc (fun _ => BitVec.allOnes_and) (fun _ => BitVec.and_allOnes) some_ few
  · exact treeResults_monoid (fun _ _ => rfl) BitVec.or_assoc (fun _ => BitVec.zero_or) (fun _ => BitVec.or_zero) some_ few
  · exact treeResults_monoid (fun _ _ => rfl) BitVec.xor_assoc (fun _ => BitVec.zero_xor) (fun _ => BitVec.xor_zero) some_ few
  · exact treeResults_monoid (fun x y => by simp [treeComb, minInt, BitVec.sle_eq_decide]) minInt_assoc (fun x => (minInt_identity x).1)
      (fun x => (minInt_identity x).2) some_ few
  · exact treeResults_monoid (fun x y => by simp [treeComb, maxInt, BitVec.sle_eq_decide]) maxInt_assoc (fun x => (maxInt_identity x).1)
      (fun x => (maxInt_identity x).2) some_ few

end Sys2Proof.Machine

/-! PROOF. O22: the completion of a join. -/

namespace Sys2Proof.Machine

open Sys2Proof

@[simp] theorem State.modAgent_cells (s : State) (k : Nat) (f : Agent → Agent) : (s.modAgent k f).cells = s.cells := by
  unfold State.modAgent; split <;> rfl

theorem State.agent_modAgent_other (s : State) {k j : Nat} (f : Agent → Agent) (h : j ≠ k) : (s.modAgent k f).agent j = s.agent j := by
  unfold State.modAgent
  split
  · exact State.agent_setAgent_other _ _ _ _ h
  · rfl

/-! ## Changes of several agents, one by one -/

section

variable {β : Type} (key : β → Nat) (change : β → Agent → Agent)

/-- The agents that a list names, each changed. -/
def changeAll (l : List β) (s : State) : State := l.foldl (fun t p => t.modAgent (key p) (change p)) s

theorem changeAll_mem (l : List β) (s : State) : (changeAll key change l s).mem = s.mem :=
  foldl_inv (fun t : State => t.mem = s.mem) _ (fun _ _ h => (State.modAgent_mem ..).trans h) l s rfl

theorem changeAll_cells (l : List β) (s : State) : (changeAll key change l s).cells = s.cells :=
  foldl_inv (fun t : State => t.cells = s.cells) _ (fun _ _ h => (State.modAgent_cells ..).trans h) l s rfl

theorem agent_changeAll_other {q : Nat} {l : List β} (none_ : ∀ p ∈ l, key p ≠ q) (s : State) : (changeAll key change l s).agent q = s.agent q := by
  induction l generalizing s with
  | nil => rfl
  | cons p l ih =>
    exact (ih (fun x hx => none_ x (List.mem_cons_of_mem _ hx)) _).trans
      (State.agent_modAgent_other _ _ (none_ p (List.mem_cons_self ..)).symm)

theorem agent_changeAll {p : β} {l : List β} (apart : (l.map key).Nodup) (mem : p ∈ l) (s : State) :
    (changeAll key change l s).agent (key p) = (s.agent (key p)).map (change p) := by
  induction l generalizing s with
  | nil => cases mem
  | cons x l ih =>
    obtain ⟨new, apart⟩ := List.nodup_cons.1 apart
    rcases List.mem_cons.1 mem with rfl | mem
    · refine (agent_changeAll_other key change (l := l) (fun y hy e => new ?_) _).trans (State.agent_modAgent ..)
      rw [← e]; exact List.mem_map_of_mem hy
    · refine (ih apart mem _).trans ?_
      rw [State.agent_modAgent_other _ _ fun e => new (by rw [← e]; exact List.mem_map_of_mem mem)]

end

/-! ## A join that every contributor agrees with (R413) -/

section

variable {s : State} {n rid k : Nat} {ref : Contrib} {res : List Word} {fl : W32} (quiet : s.quietUnits)
  (listed : ∀ g ∈ s.agentsOf n rid, s.agent g.key = some g) (apart : ((s.agentsOf n rid).map Agent.key).Nodup)
  (all : ∀ g ∈ s.agentsOf n rid, g.status = .ended ∨ k ≤ g.join) (found : joinRef (s.agentsOf n rid) k = some ref)
  (agree : ∀ g ∈ s.agentsOf n rid, ∀ c, g.given k = some c → ref.agrees c = true ∧ c.tms = ref.tms)
  (computes : joinCompute s n (s.agentsOf n rid) k ref = .ok res fl)

/-- The agents that have contributed to a join. -/
def contributors (ags : List Agent) (k : Nat) : List Agent := ags.filter fun g => (g.given k).isSome

/-- What the join leaves of one agent, with its result. -/
def joinedWith (k : Nat) (fl : W32) (p : Agent × Word) (h : Agent) : Agent :=
  h.joined (((p.1.given k).bind Contrib.dest).map fun d => (d, p.2)) fl

/-- The contributors with their results. -/
def joinPairs (ags : List Agent) (res : List Word) (k : Nat) : List (Agent × Word) :=
  (ags.zip res).filter fun p => (contributors ags k).any fun g => g.key = p.1.key

include quiet all found agree computes in
theorem exec_treeJoinComplete : exec (.treeJoinComplete n rid k) s =
    .next (changeAll (fun p => p.1.key) (joinedWith k fl) (joinPairs (s.agentsOf n rid) res k) s) := by
  have ready : joinReady (s.agentsOf n rid) k = true := by
    rw [joinReady, Bool.and_eq_true, List.all_eq_true, found]
    exact ⟨fun g mem => by simpa [Agent.arrived] using all g mem, rfl⟩
  have same : ∀ g ∈ contributors (s.agentsOf n rid) k, ((g.given k).map ref.agrees).getD false = true ∧ ((g.given k).map Contrib.tms).getD 0 = ref.tms := by
    intro g mem
    obtain ⟨mem, given⟩ := List.mem_filter.1 mem
    obtain ⟨c, e⟩ := Option.isSome_iff_exists.1 given
    simpa [e] using agree g mem c e
  have even : ((s.agentsOf n rid).any fun g => ((g.given k).map fun c => !ref.agrees c || c.tms ≠ ref.tms).getD false) = false := by
    refine List.any_eq_false.2 fun g mem => ?_
    cases e : g.given k with
    | none => simp
    | some c => obtain ⟨agrees, tms⟩ := agree g mem c e; simp [agrees, tms]
  have mine : (contributors (s.agentsOf n rid) k).filter (fun g => ((g.given k).map ref.agrees).getD false) = contributors (s.agentsOf n rid) k :=
    List.filter_eq_self.2 fun g mem => (same g mem).1
  have others : (contributors (s.agentsOf n rid) k).filter (fun g => !(((g.given k).map ref.agrees).getD false)) = [] :=
    List.filter_eq_nil_iff.2 fun g mem => by simp [(same g mem).1]
  have off : (contributors (s.agentsOf n rid) k).filter (fun g => ((g.given k).map Contrib.tms).getD 0 ≠ ref.tms) = [] :=
    List.filter_eq_nil_iff.2 fun g mem => by rw [(same g mem).2]; simp
  have pass : ∀ (us : List W32) (e : Event), e.expected = e.found → (if ref.checked = true then transit s us e else (s, none)) = (s, none) :=
    fun us e genuine => by split; exacts [transit_quiet s us e quiet.2 genuine, rfl]
  refine congrArg Host.Outcome.next ?_
  dsimp only
  rw [ready, found]
  unfold contributors at mine others off
  simp only [Bool.not_true, Bool.false_eq_true, if_false, fencedOn_quiet _ _ quiet, even, computes, Joined.faults, or_self, and_false,
    mine, others, off, List.isEmpty_nil]
  rw [pass _ _ rfl]
  rfl

theorem joinPairs_apart (apart : ((s.agentsOf n rid).map Agent.key).Nodup) (whole : res.length = (s.agentsOf n rid).length) :
    ((joinPairs (s.agentsOf n rid) res k).map fun p => p.1.key).Nodup := by
  have zipped : ((s.agentsOf n rid).zip res).map (fun p => p.1.key) = (s.agentsOf n rid).map Agent.key := by
    change ((s.agentsOf n rid).zip res).map (Agent.key ∘ Prod.fst) = _
    rw [← List.map_map, List.map_fst_zip (by omega)]
  refine List.Nodup.sublist ((List.filter_sublist).map _) ?_
  rw [zipped]
  exact apart

/-- Each contributor stands behind its instruction, with its result. -/
theorem agent_joined (listed : ∀ g ∈ s.agentsOf n rid, s.agent g.key = some g) (apart : ((s.agentsOf n rid).map Agent.key).Nodup)
    (whole : res.length = (s.agentsOf n rid).length) {i : Nat} (hi : i < (s.agentsOf n rid).length) {c : Contrib}
    (given : (s.agentsOf n rid)[i].given k = some c) :
    (changeAll (fun p => p.1.key) (joinedWith k fl) (joinPairs (s.agentsOf n rid) res k) s).agent (s.agentsOf n rid)[i].key
      = some ((s.agentsOf n rid)[i].joined (c.dest.map fun d => (d, res.getD i 0)) fl) := by
  have mem : ((s.agentsOf n rid)[i], res[i]) ∈ joinPairs (s.agentsOf n rid) res k := by
    refine List.mem_filter.2 ⟨?_, List.any_eq_true.2 ⟨(s.agentsOf n rid)[i], ?_, by simp⟩⟩
    · exact List.mem_iff_getElem.2 ⟨i, by simp [whole, hi], by simp⟩
    · exact List.mem_filter.2 ⟨List.getElem_mem hi, by simp [given]⟩
  rw [agent_changeAll (fun p : Agent × Word => p.1.key) (joinedWith k fl) (joinPairs_apart apart whole) mem s, listed _ (List.getElem_mem hi)]
  simp [joinedWith, given, whole, hi]

/-- And every other agent stands as it did. -/
theorem agent_joined_other {q : Nat} (none_ : ∀ g ∈ s.agentsOf n rid, (g.given k).isSome → g.key ≠ q) :
    (changeAll (fun p => p.1.key) (joinedWith k fl) (joinPairs (s.agentsOf n rid) res k) s).agent q = s.agent q := by
  refine agent_changeAll_other _ _ (fun p mem => ?_) s
  obtain ⟨g, mine, e⟩ := List.any_eq_true.1 (List.mem_filter.1 mem).2
  obtain ⟨mem, given⟩ := List.mem_filter.1 mine
  exact (of_decide_eq_true e) ▸ none_ g mem given

/-! ## Operations that every agent has given alike -/

theorem joinRef_of_all {ags : List Agent} (some_ : ags ≠ []) {P : Contrib → Prop} (h : ∀ g ∈ ags, ∃ c, g.given k = some c ∧ P c) :
    ∃ ref, joinRef ags k = some ref ∧ P ref := by
  obtain ⟨g, l, rfl⟩ := List.exists_cons_of_ne_nil some_
  obtain ⟨c, given, hc⟩ := h g (List.mem_cons_self ..)
  exact ⟨c, by simp [joinRef, given], hc⟩

/-- What every agent of a completed join has in common. -/
theorem Agent.joined_fields (g : Agent) (d : Option (Reg × Word)) (fl : W32) : (g.joined d fl).status = .running
    ∧ (g.joined d fl).contrib = none ∧ (g.joined d fl).pc = g.pc + 1 ∧ (g.joined d fl).fflags = g.fflags ||| fl := by
  cases d <;> simp [Agent.joined]

include quiet in
theorem join_completes (listed : ∀ g ∈ s.agentsOf n rid, s.agent g.key = some g) (apart : ((s.agentsOf n rid).map Agent.key).Nodup)
    (some_ : s.agentsOf n rid ≠ []) (here : ∀ g ∈ s.agentsOf n rid, g.join = k) {P : Contrib → Prop}
    (gave : ∀ g ∈ s.agentsOf n rid, ∃ c, g.contrib = some c ∧ P c) (alike : ∀ c d, P c → P d → c.agrees d = true ∧ d.tms = c.tms)
    (computes : ∀ ref, P ref → ∃ res fl, joinCompute s n (s.agentsOf n rid) k ref = .ok res fl ∧ res.length = (s.agentsOf n rid).length) :
    ∃ t fl, exec (.treeJoinComplete n rid k) s = .next t ∧ t.mem = s.mem ∧ t.cells = s.cells
      ∧ ∀ g ∈ s.agentsOf n rid, ∃ h, t.agent g.key = some h ∧ h.status = .running ∧ h.contrib = none ∧ h.pc = g.pc + 1
        ∧ h.fflags = g.fflags ||| fl := by
  have given : ∀ g ∈ s.agentsOf n rid, g.given k = g.contrib := fun g mem => if_pos (here g mem)
  obtain ⟨ref, found, hr⟩ := joinRef_of_all (k := k) some_ (P := P) fun g mem => by rw [given g mem]; exact gave g mem
  obtain ⟨res, fl, comp, whole⟩ := computes ref hr
  have agree : ∀ g ∈ s.agentsOf n rid, ∀ c, g.given k = some c → ref.agrees c = true ∧ c.tms = ref.tms := by
    intro g mem c e
    obtain ⟨d, e', hd⟩ := gave g mem
    obtain rfl : d = c := Option.some.inj (e'.symm.trans ((given g mem).symm.trans e))
    exact alike ref d hr hd
  refine ⟨_, fl, exec_treeJoinComplete quiet (fun g mem => .inr (here g mem).ge) found agree comp, changeAll_mem .., changeAll_cells ..,
    fun g mem => ?_⟩
  obtain ⟨i, hi, rfl⟩ := List.mem_iff_getElem.1 mem
  obtain ⟨c, e, -⟩ := gave _ mem
  exact ⟨_, agent_joined listed apart whole hi ((given _ mem).trans e), Agent.joined_fields ..⟩

end

theorem treeResults_length (o : TreeOp) (scan ex : Bool) (xs : List Word) : (treeResults o scan ex xs).1.length = xs.length := by
  cases scan <;> simp [treeResults]

end Sys2Proof.Machine

section

open Sys2Proof Sys2Proof.Machine

/-- Settles O22: a join that all agree with, its four operations without a fault, and the tree of an operation that is associative with an
identity. -/
theorem treeResults : Obligations.TreeResults := by
  unfold Obligations.TreeResults
  refine ⟨?_, ?_, ?_⟩
  · intro s n rid k ref res fl ags quiet listed apart all found agree comp whole
    refine ⟨_, exec_treeJoinComplete quiet all found agree comp, changeAll_mem .., changeAll_cells .., fun i hi c given => ?_,
      fun q none_ => agent_joined_other none_⟩
    rw [agent_joined listed apart whole hi given]
    cases c.dest <;> rfl
  · intro s n rid k ags quiet listed apart some_ here forms
    rcases forms with bar | ⟨r, tbc⟩ | ⟨o, tred⟩ | ⟨o, ex, tscan⟩
    · refine join_completes quiet listed apart some_ here (P := fun c => c = .tbar) (fun g mem => ⟨_, bar g mem, rfl⟩) ?_ ?_
      · rintro _ _ rfl rfl; exact ⟨rfl, rfl⟩
      · rintro _ rfl; exact ⟨_, _, rfl, List.length_map ..⟩
    · refine join_completes quiet listed apart some_ here (P := fun c => ∃ a d, c = .tbc a r d)
        (fun g mem => (tbc g mem).elim fun a ⟨d, e⟩ => ⟨_, e, a, d, rfl⟩) ?_ ?_
      · rintro _ _ ⟨_, _, rfl⟩ ⟨_, _, rfl⟩; exact ⟨decide_eq_true rfl, rfl⟩
      · rintro _ ⟨_, _, rfl⟩; exact ⟨_, _, rfl, List.length_map ..⟩
    · refine join_completes quiet listed apart some_ here (P := fun c => ∃ a d, c = .tred o a d)
        (fun g mem => (tred g mem).elim fun a ⟨d, e⟩ => ⟨_, e, a, d, rfl⟩) ?_ ?_
      · rintro _ _ ⟨_, _, rfl⟩ ⟨_, _, rfl⟩; exact ⟨decide_eq_true rfl, rfl⟩
      · rintro _ ⟨_, _, rfl⟩; exact ⟨_, _, rfl, (treeResults_length ..).trans (List.length_map ..)⟩
    · refine join_completes quiet listed apart some_ here (P := fun c => ∃ a d, c = .tscan o ex a d)
        (fun g mem => (tscan g mem).elim fun a ⟨d, e⟩ => ⟨_, e, a, d, rfl⟩) ?_ ?_
      · rintro _ _ ⟨_, _, rfl⟩ ⟨_, _, rfl⟩; exact ⟨by simp [Contrib.agrees], rfl⟩
      · rintro _ ⟨_, _, rfl⟩; exact ⟨_, _, rfl, (treeResults_length ..).trans (List.length_map ..)⟩
  · intro xs some_ few o f op
    exact treeResults_integer some_ few op

end

/-! PROOF. O14: what an access meets at its issue. -/

namespace Sys2Proof.Machine

open Sys2Proof

/-! ## An access at one address (R318) -/

section

variable (s : State) (g : Agent) (cls : Option Cls) (op : AccOp) (a : Word) (n : Nat) (acq rel : Bool) (sc : Scope)

/-- The access, as it goes on its way from its agent. -/
def accessAt (locs : List Loc) (phase : Phase) : Access :=
  ⟨g.nextId, cls, op, [a], locs, n, acq, rel, sc, phase, { hereTrap s g with addr := a }, ⟨[], [], []⟩⟩

/-- The agent behind it. -/
def Agent.sending (x : Access) : Agent :=
  { g.next with
    outs := g.outs ++ [x]
    ops := match x.cls with
      | some c => g.ops ++ [⟨c, x.id, false⟩]
      | none => g.ops
    nextId := g.nextId + 1 }

theorem issueAccess_faults {r : Nat} (e : resolve s g a op.want = .error r) :
    issueAccess s g cls op [a] n acq rel sc = faultNow s g (memCause op.kind r) a := by
  simp only [issueAccess, resolveAll, e]

theorem issueAccess_badPage {l : Loc} {c : Nat} (e : resolve s g a op.want = .ok (some l)) (bad : locCheck op l = some c) :
    issueAccess s g cls op [a] n acq rel sc = faultNow s g c a := by
  simp only [issueAccess, resolveAll, e, bad]

theorem issueAccess_parks (e : resolve s g a op.want = .ok none) :
    issueAccess s g cls op [a] n acq rel sc = schedFree (s.setAgent g.key (g.sending (accessAt s g cls op a n acq rel sc [] .parked)))
      (.translationWalkDone (.agent g.core g.slot g.nextId)) := by
  cases cls <;> simp [issueAccess, resolveAll, e, launchAccess, accessAt, Agent.sending, Agent.addOp, Agent.next]

theorem issueAccess_moves {l : Loc} (e : resolve s g a op.want = .ok (some l)) (good : locCheck op l = none)
    (away : l.place.own g.core = false) :
    issueAccess s g cls op [a] n acq rel sc = schedFree (s.setAgent g.key (g.sending (accessAt s g cls op a n acq rel sc [l] .moving)))
      (accEvent g (accessAt s g cls op a n acq rel sc [l] .moving)) := by
  cases cls <;> simp [issueAccess, resolveAll, e, good, launchAccess, away, accessAt, Agent.sending, Agent.addOp, Agent.next]

end

/-! ## The instructions of R318 -/

/-- What an access instruction comes to, alignment and the window of a presence word first. -/
def issueWhole (s : State) (g : Agent) (x : OneAccess) : State :=
  if misaligned x.addr x.width then faultNow s g (memCause x.op.kind 2) x.addr
  else if x.op.isPresence ∧ 2 ≤ bits x.addr.toNat 62 2 then faultNow s g (memCause x.op.kind 3) x.addr
  else issueAccess s g (some x.cls) x.op [x.addr] x.width x.acq x.rel x.scope

theorem issueOne_eq (s : State) (g : Agent) (cls : Cls) {op : AccOp} (plain : op.isPresence = false) (a : Word) (n : Nat) (acq rel : Bool)
    (sc : Scope) : issueOne s g cls op a n acq rel sc = issueWhole s g ⟨cls, op, a, n, acq, rel, sc⟩ := by
  simp [issueOne, issueWhole, plain]

theorem issuePresence_eq (s : State) (g : Agent) (cls : Cls) {op : AccOp} (presence : op.isPresence = true) (a : Word) (acq rel : Bool) :
    issuePresence s g cls op a acq rel = issueWhole s g ⟨cls, op, a, 8, acq, rel, .dev⟩ := by
  simp [issuePresence, issueWhole, presence]

theorem Order.acquires_eq (o : Order) : Order.acquires o = decide (o = .acq ∨ o = .ar) := by cases o <;> rfl
theorem Order.releases_eq (o : Order) : Order.releases o = decide (o = .rel ∨ o = .ar) := by cases o <;> rfl

theorem exec_of_accessOf {s : State} {g : Agent} {i : Instr} {x : OneAccess} (turn : s.atTurn g) (h : accessOf g i = some x) :
    exec i s = .next (issueWhole s g x) := by
  cases i <;> simp only [accessOf, reduceCtorEq] at h
  case ld => cases h; exact (onAgent_at turn _).trans (congrArg _ (issueOne_eq s g .loads rfl _ _ _ _ _))
  case st => cases h; exact (onAgent_at turn _).trans (congrArg _ (issueOne_eq s g .stores rfl _ _ _ _ _))
  case atom =>
    cases h
    refine (onAgent_at turn _).trans (congrArg _ ?_)
    rw [← Order.acquires_eq, ← Order.releases_eq]
    exact issueOne_eq s g .loads rfl _ _ _ _ _
  case vld => cases h; exact (onAgent_at turn _).trans (congrArg _ (issueOne_eq s g .loads rfl _ _ _ _ _))
  case vst => cases h; exact (onAgent_at turn _).trans (congrArg _ (issueOne_eq s g .stores rfl _ _ _ _ _))
  case ldp => cases h; exact (onAgent_at turn _).trans (congrArg _ (issuePresence_eq s g .loads rfl _ _ _))
  case stp => cases h; exact (onAgent_at turn _).trans (congrArg _ (issuePresence_eq s g .stores rfl _ _ _))
  case psetEmpty =>
    split at h
    · cases h; exact (serviceOnly_service turn ‹_› _ _).trans (congrArg _ (issuePresence_eq s g .stores rfl _ _ _))
    · cases h
  case psetPoison =>
    split at h
    · rename_i ok
      obtain ⟨service, small⟩ := ok
      cases h
      refine (serviceOnly_service turn service _ _).trans (congrArg _ ?_)
      dsimp only
      rw [if_neg (by simpa [reservedErrCause] using small)]
      exact issuePresence_eq s g .stores rfl _ _ _
    · cases h
  case tlinc => cases h; exact (onAgent_at turn _).trans (congrArg _ (issueOne_eq s g .stores rfl _ _ _ _ _))

/-- The agent of an access in flight is the one behind it. -/
theorem inFlight_eq (s : State) (g : Agent) (x : OneAccess) (locs : List Loc) (phase : Phase) : g.inFlight s x locs phase =
    g.sending (accessAt s g (some x.cls) x.op x.addr x.width x.acq x.rel x.scope locs phase) := rfl

/-! ## TDESC (R415) -/

theorem locCheck_tdesc (d : Reg) (l : Loc) : locCheck (.tdesc d) l = none := rfl

theorem issueAccess_tdesc {s : State} {g : Agent} {d : Reg} {va : Word} {l : Loc} (e : resolve s g va .read = .ok (some l))
    (away : l.place.own g.core = false) : issueAccess s g none (.tdesc d) [va] 8 false false .core =
      schedFree (s.setAgent g.key { g.next with
        outs := g.outs ++ [⟨g.nextId, none, .tdesc d, [va], [l], 8, false, false, .core, .moving, { hereTrap s g with addr := va }, ⟨[], [], []⟩⟩]
        nextId := g.nextId + 1 }) (.loadDataReturn g.core g.slot g.nextId) := by
  refine (issueAccess_moves s g none (.tdesc d) va 8 false false .core e (locCheck_tdesc d l) away).trans ?_
  rfl

theorem exec_tdesc {s : State} {g : Agent} (turn : s.atTurn g) {p : Part} (part : s.part g.part = some p) (d a : Reg) (imm : BitVec 28) :
    exec (.tdesc d a imm) s = .next (
      if imm.toNat % 8 ≠ 0 ∨ 64 ≤ imm.toNat ∨ symKind (g.sr a) ≠ 9 then faultNow s g 0x21
      else if p.ndesc ≤ bits (g.sr a).toNat 12 20 then faultNow s g 0x83
      else issueAccess s g none (.tdesc d) [p.desc + BitVec.ofNat 64 (64 * bits (g.sr a).toNat 12 20 + imm.toNat)] 8 false false .core) := by
  refine (onAgent_at turn _).trans ?_
  simp only [part]

theorem takesFault_of_next {i : Instr} {s : State} {g : Agent} {c lane : Nat} {addr : Word} (e : exec i s = .next (faultNow s g c addr lane)) :
    takesFault i s g c :=
  ⟨addr, lane, .inl e⟩

end Sys2Proof.Machine

section

open Sys2Proof Sys2Proof.Machine

/-- Settles O14: every access instruction issues one access whole, and TDESC one of its descriptor, which its location decides. -/
theorem accessIssue : Obligations.AccessIssue := by
  unfold Obligations.AccessIssue
  refine ⟨fun s g i x turn h => ?_, fun s g d a imm p turn part => ?_⟩
  · have run := exec_of_accessOf turn h
    unfold issueWhole at run
    refine ⟨fun bad => ?_, fun aligned => ⟨fun presence inner => ?_, fun outer => ?_⟩⟩
    · rw [if_pos bad] at run
      exact takesFault_of_next run
    · rw [if_neg (by simp [aligned]), if_pos ⟨presence, inner⟩] at run
      exact takesFault_of_next run
    · rw [if_neg (by simp [aligned]), if_neg (fun ⟨presence, inner⟩ => by have := outer presence; omega)] at run
      refine ⟨fun r e => ?_, fun e => ?_, fun l e => ⟨fun c bad => ?_, fun good away => ?_⟩⟩
      · exact takesFault_of_next (run.trans (congrArg _ (issueAccess_faults s g _ _ _ _ _ _ _ e)))
      · exact run.trans (congrArg _ (issueAccess_parks s g _ _ _ _ _ _ _ e))
      · exact takesFault_of_next (run.trans (congrArg _ (issueAccess_badPage s g _ _ _ _ _ _ _ e bad)))
      · exact run.trans (congrArg _ (issueAccess_moves s g _ _ _ _ _ _ _ e good away))
  · have run := exec_tdesc turn part d a imm
    refine ⟨fun bad => ?_, fun aligned inside kind => ?_⟩
    · rw [if_pos bad] at run
      exact takesFault_of_next run
    · rw [if_neg (by rintro (h | h | h); exacts [h aligned, by omega, h kind])] at run
      refine ⟨fun beyond => ?_, fun l held e away => ?_⟩
      · rw [if_pos beyond] at run
        exact takesFault_of_next run
      · rw [if_neg (Nat.not_le.2 held)] at run
        exact run.trans (congrArg _ (issueAccess_tdesc e away))

end

/-! PROOF. O18: instructions that wait. -/

namespace Sys2Proof.Machine

open Sys2Proof

/-! ## MONW and TLWAIT (R280, R378) -/

section

variable {s : State} {g : Agent} {a : Word} {n : Nat} {test : Nat → Bool} {go : Agent → Nat → Agent}

theorem waitRead_met {w : Word} (aligned : misaligned a n = false) (met : g.met = some w) :
    attempt s g (waitRead s g a n test go) = (cacheVa s g a).setAgent g.key { (go g w.toNat).next with polled := none } := by
  simp [waitRead, aligned, met]

/-- A wait that has not been met goes on with what it sees, or stands. -/
theorem waitRead_sees {v : Nat} (aligned : misaligned a n = false) (unmet : g.met = none) (sees : monitorRead s g a n = .ok (some v)) :
    attempt s g (waitRead s g a n test go) =
      if test v then (cacheVa s g a).setAgent g.key { (go g v).next with polled := none } else s := by
  simp only [waitRead, aligned, unmet, sees, Bool.false_eq_true, if_false]
  split <;> rfl

theorem waitRead_blind (aligned : misaligned a n = false) (unmet : g.met = none) (blind : monitorRead s g a n = .ok none) :
    attempt s g (waitRead s g a n test go) = s := by
  simp only [waitRead, aligned, unmet, blind, Bool.false_eq_true, if_false, attempt_wait]

/-! ### What they see -/

theorem monitorRead_calm {l : Loc} (calm : s.calm g) (lies : resolveCached s g a .read = .ok l) (reached : l.place.unreachable s = false) :
    monitorRead s g a n = .ok (match g.polled with
      | some w => some (w.toNat % 2 ^ (8 * n))
      | none => if l.place.far then none else some (leNat (readLoc s l n))) := by
  simp only [monitorRead, lies, reached, heldBack_calm calm, Bool.false_eq_true, if_false]
  cases g.polled <;> rfl

/-- In the own scratchpad: the word as the cycle began with it, else as it stands. -/
theorem monitorRead_local {off v : Nat} (calm : s.calm g) (low : off < 2 ^ 20)
    (seen : (g.polled = none ∧ v = rdNat s (spadKey g.core off) n) ∨ ∃ w : Word, g.polled = some w ∧ v = w.toNat % 2 ^ (8 * n)) :
    monitorRead s g (localAddr off) n = .ok (some v) := by
  rw [monitorRead_calm calm (resolveCached_local s g low .read) rfl]
  rcases seen with ⟨unpolled, rfl⟩ | ⟨w, polled, rfl⟩
  · rw [unpolled]; rfl
  · rw [polled]

theorem resolveCached_of_resolve {l : Loc} {w : Want} (e : resolve s g a w = .ok (some l)) : resolveCached s g a w = .ok l := by
  rw [resolveCached, e]

/-- What the next cycle's test of a word in the own scratchpad will be of: the word, but for what the trace unit alone has written
(R284). -/
theorem watchWord_local {off : Nat} (low : off < 2 ^ 20) : watchWord s g (localAddr off) n =
    s.setAgent g.key { g with
      polled := if g.polled.isSome && s.hushedAt (spadKey g.core off) n then g.polled
        else some (BitVec.ofNat 64 (rdNat s (spadKey g.core off) n)) } := by
  simp only [watchWord, resolveCached_local s g low, cacheVa_local s g low, Place.far, Bool.false_eq_true, if_false]
  rfl

theorem farWait_tlwait {d : Reg} {m : MemOp} {l : Loc} (here : s.instrAt g = some (.tlwait d m))
    (lies : resolveCached s g (g.ea m) .read = .ok l) (far : l.place.far = true) : farWait s g = some (l, 8) := by
  have decoded : decode (s.wordAt g g.pc) 0 = .instr (.tlwait d m) := by
    rw [State.instrAt] at here
    split at here
    · rename_i i e
      rw [e, Option.some.inj here]
    · exact absurd here (by simp)
  simp only [farWait, decoded, lies, far, if_true]

end

/-! ## WAIT (R433) -/

theorem waitMet_iff (g : Agent) (l st c x : BitVec 6) : waitMet g l st c x = true ↔
    (g.ops.countP fun o => o.cls = Cls.loads) ≤ l.toNat ∧ (g.ops.countP fun o => o.cls = Cls.stores) ≤ st.toNat
      ∧ (g.ops.countP fun o => o.cls = Cls.copies) ≤ c.toNat ∧ (g.ops.countP fun o => o.cls = Cls.tiles) ≤ x.toNat := by
  simp only [waitMet, Agent.count, ← List.countP_eq_length_filter, Bool.and_eq_true, decide_eq_true_eq, and_assoc]

theorem exec_wait (l st c x : BitVec 6) {s : State} {g : Agent} (turn : s.atTurn g) :
    exec (.wait l st c x) s = .next (if waitMet g l st c x then s.setAgent g.key g.next else s) := by
  refine (onAgent_at turn _).trans (congrArg _ ?_)
  rw [tryWait]
  split <;> rfl

/-! ## At an address -/

theorem atomBytes_eq (is64 : Bool) : atomBytes is64 = if is64 then 8 else 4 := by cases is64 <;> rfl

theorem atomBytes_dvd (is64 : Bool) : atomBytes is64 ∣ 2 ^ 63 := by cases is64 <;> decide

section

variable {s : State} {g : Agent} (turn : s.atTurn g) (d : Reg) (m : MemOp)
include turn

theorem exec_monw (is64 : Bool) : exec (.monw is64 d m) s = .next (attempt s g (tryMonw is64 d m s g)) := onAgent_at turn _

theorem exec_tlwait : exec (.tlwait d m) s = .next (attempt s g (tryTlwait d m s g)) := onAgent_at turn _

variable {off : Nat}

theorem monw_local (is64 : Bool) (calm : s.calm g) (there : localAt (g.ea m) (atomBytes is64) off) :
    let n := atomBytes is64
    (∀ v, ((g.polled = none ∧ v = rdNat s (spadKey g.core off) n) ∨ ∃ w : Word, g.polled = some w ∧ v = w.toNat % 2 ^ (8 * n)) →
        g.met = none →
      (v ≠ (g.sr d).toNat % 2 ^ (8 * n) → runsTo (.monw is64 d m) s g { (g.setS d (BitVec.ofNat 64 v)).next with polled := none })
      ∧ (v = (g.sr d).toNat % 2 ^ (8 * n) → staysPut (.monw is64 d m) s))
    ∧ ∀ w, g.met = some w → runsTo (.monw is64 d m) s g { (g.setS d w).next with polled := none } := by
  obtain ⟨ea, fits, divides⟩ := there
  have low : off < 2 ^ 20 := by cases is64 <;> simp only [atomBytes, Bool.false_eq_true, if_true, if_false] at fits <;> omega
  have aligned : misaligned (g.ea m) (atomBytes is64) = false := by
    rw [ea]; exact misaligned_local low (atomBytes_dvd is64) divides
  have cached : cacheVa s g (g.ea m) = s := by rw [ea]; exact cacheVa_local s g low
  refine ⟨fun v seen unmet => ?_, fun w met => ?_⟩
  · have sees : monitorRead s g (g.ea m) (atomBytes is64) = .ok (some v) := by rw [ea]; exact monitorRead_local calm low seen
    refine ⟨fun differs => ?_, fun same => ?_⟩
    · rw [runsTo, exec_monw turn, tryMonw, waitRead_sees aligned unmet sees, if_pos (decide_eq_true differs), cached]
    · rw [staysPut, exec_monw turn, tryMonw, waitRead_sees aligned unmet sees, if_neg (by simpa using same)]
  · rw [runsTo, exec_monw turn, tryMonw, waitRead_met aligned met, cached, BitVec.ofNat_toNat, BitVec.setWidth_eq]

theorem tlwait_local (calm : s.calm g) (there : localAt (g.ea m) 8 off) :
    (∀ v, ((g.polled = none ∧ v = rdNat s (spadKey g.core off) 8) ∨ ∃ w : Word, g.polled = some w ∧ v = w.toNat) → g.met = none →
      ((g.sr d).toNat ≤ v → runsTo (.tlwait d m) s g { g.next with polled := none })
      ∧ (v < (g.sr d).toNat → staysPut (.tlwait d m) s))
    ∧ ∀ w, g.met = some w → runsTo (.tlwait d m) s g { g.next with polled := none } := by
  obtain ⟨ea, fits, divides⟩ := there
  have low : off < 2 ^ 20 := by omega
  have aligned : misaligned (g.ea m) 8 = false := by rw [ea]; exact misaligned_local low (by decide) divides
  have cached : cacheVa s g (g.ea m) = s := by rw [ea]; exact cacheVa_local s g low
  refine ⟨fun v seen unmet => ?_, fun w met => ?_⟩
  · have sees : monitorRead s g (g.ea m) 8 = .ok (some v) := by
      rw [ea]
      refine monitorRead_local calm low (seen.imp_right fun ⟨w, polled, e⟩ => ⟨w, polled, ?_⟩)
      rw [e, Nat.mod_eq_of_lt w.isLt]
    refine ⟨fun reached => ?_, fun below => ?_⟩
    · rw [runsTo, exec_tlwait turn, tryTlwait, waitRead_sees aligned unmet sees, if_pos (decide_eq_true reached), cached]
    · rw [staysPut, exec_tlwait turn, tryTlwait, waitRead_sees aligned unmet sees, if_neg (by simpa using below)]
  · rw [runsTo, exec_tlwait turn, tryTlwait, waitRead_met aligned met, cached]

end

/-! ## Beyond the device -/

section

variable {s : State} {g : Agent} {m : MemOp} {l : Loc} (turn : s.atTurn g) (d : Reg) (calm : s.calm g)
  (aligned : misaligned (g.ea m) 8 = false) (lies : resolve s g (g.ea m) .read = .ok (some l))
  (reached : l.place.unreachable s = false) (unmet : g.met = none)
include turn calm aligned lies reached unmet

theorem waits_unpolled (far : l.place.far = true) (unpolled : g.polled = none) : staysPut (.tlwait d m) s ∧ staysPut (.monw true d m) s := by
  have blind : monitorRead s g (g.ea m) 8 = .ok none := by
    rw [monitorRead_calm calm (resolveCached_of_resolve lies) reached, unpolled]
    simp only [far, if_true]
  constructor
  · rw [staysPut, exec_tlwait turn, tryTlwait, waitRead_blind aligned unmet blind]
  · rw [staysPut, exec_monw turn, tryMonw, atomBytes, if_pos rfl, waitRead_blind aligned unmet blind]

theorem tlwait_below {v : Word} (polled : g.polled = some v) (below : v.toNat < (g.sr d).toNat) : staysPut (.tlwait d m) s := by
  have sees : monitorRead s g (g.ea m) 8 = .ok (some v.toNat) := by
    rw [monitorRead_calm calm (resolveCached_of_resolve lies) reached, polled]
    simp only [Nat.mod_eq_of_lt v.isLt]
  rw [staysPut, exec_tlwait turn, tryTlwait, waitRead_sees aligned unmet sees, if_neg (by simpa using below)]

end

end Sys2Proof.Machine

section

open Sys2Proof Sys2Proof.Machine

/-- Settles O18: MONW and TLWAIT by what they see, which is the word as the cycle began with it or the last poll; WAIT by its counts. -/
theorem waitingInstructions : Obligations.WaitingInstructions := by
  unfold Obligations.WaitingInstructions
  intro s g turn
  refine ⟨fun is64 d m off calm there => ?_, fun d m off calm there => tlwait_local turn d m calm there, fun a n off there pos _ => ?_,
    fun d m l calm aligned lies far reached unmet => ⟨waits_unpolled turn d calm aligned lies reached unmet far,
      fun v polled below => tlwait_below turn d calm aligned lies reached unmet polled below, fun here k host => ?_⟩,
    fun l st c x => ?_⟩
  · rw [← atomBytes_eq] at there ⊢
    exact monw_local turn d m is64 calm there
  · obtain ⟨rfl, fits, -⟩ := there
    have watched := watchWord_local (s := s) (g := g) (n := n) (off := off) (by omega)
    refine ⟨fun loud => watched.trans ?_, fun w polled hushed => watched.trans ?_⟩
    · rw [if_neg (by rcases loud with h | h <;> simp [h])]
    · rw [polled, hushed, Option.isSome_some, Bool.and_self, if_pos rfl, ← polled]
  · rw [exec_monitorPoll_agent turn.2 (farWait_tlwait here (resolveCached_of_resolve lies) far), host]
    rfl
  · have met := waitMet_iff g l st c x
    refine ⟨fun low => ?_, fun high => ?_⟩
    · rw [runsTo, exec_wait l st c x turn, if_pos (met.2 low)]
    · rw [staysPut, exec_wait l st c x turn, if_neg fun h => high (met.1 h)]

end

/-! PROOF. O13: accesses in the own scratchpad, which act as they issue. -/

namespace Sys2Proof.Machine

open Sys2Proof

/-! ## Nothing holds an access back -/

section

variable (s : State) (g : Agent) (cls : Option Cls) (op : AccOp) (vas : List Word) (locs : List Loc) (n : Nat) (acq rel : Bool) (sc : Scope)

/-- The access as it issues to places that are known. -/
def accessTo : Access :=
  ⟨g.nextId, cls, op, vas, locs, n, acq, rel, sc, .moving, { hereTrap s g with addr := vas.headD 0 }, ⟨[], [], []⟩⟩

/-- An agent without an access in flight, behind the issue of this one. -/
def Agent.behind (a : Access) : Agent :=
  { g.next with
    outs := [a]
    ops := match a.cls with
      | some c => [⟨c, a.id, false⟩]
      | none => []
    nextId := g.nextId + max 1 a.vas.length }

/-- The agent behind an access of this many addresses that is over. -/
def Agent.past (k : Nat) : Agent := { g.next with nextId := g.nextId + max 1 k }

/-- An agent with the access in its list and its class count, still at its instruction. -/
def Agent.listed (a : Access) : Agent :=
  match a.cls with
  | some c => ({ g with outs := g.outs ++ [a], nextId := g.nextId + max 1 a.vas.length } : Agent).addOp c a.id
  | none => { g with outs := g.outs ++ [a], nextId := g.nextId + max 1 a.vas.length }

theorem launchAccess_sends {s : State} {g : Agent} {a : Access} (moving : a.phase = .moving) : launchAccess s g a =
    let h := (g.listed a).next
    let t := s.setAgent g.key h
    if (a.locs.all fun l => l.place.own g.core) ∧ mayPerform t h a ∧ !postedDead t (g.listed a) a ∧ quiet t (accUnits t g a) then perform t h a
    else schedFree t (accEvent g a) := by
  unfold launchAccess
  dsimp only
  rw [if_neg (by simp [moving])]
  rfl

@[simp] theorem Agent.behind_key (a : Access) : (g.behind a).key = g.key := rfl
@[simp] theorem Agent.behind_outs (a : Access) : (g.behind a).outs = [a] := rfl

variable {s g cls op vas locs n acq rel sc} (calm : s.calm g)
include calm

theorem Agent.listed_next (a : Access) : (g.listed a).next = g.behind a := by
  obtain ⟨-, outs, ops, -⟩ := calm
  cases h : a.cls <;> simp [Agent.listed, Agent.behind, Agent.addOp, Agent.next, outs, ops, h]

theorem launchAccess_calm {a : Access} (moving : a.phase = .moving) (own : (a.locs.all fun l => l.place.own g.core) = true) :
    launchAccess s g a = perform (s.setAgent g.key (g.behind a)) (g.behind a) a := by
  rw [launchAccess_sends moving, Agent.listed_next calm, if_pos]
  obtain ⟨-, outs, ops, posted, queue, tests, injections⟩ := calm
  have first : earlier a.id [a] = [] := by simp [earlier]
  have unposted : (g.listed a).posted = [] := by cases h : a.cls <;> simp [Agent.listed, Agent.addOp, h, posted]
  have behind : (g.behind a).posted = [] := posted
  have core : (g.behind a).core = g.core := rfl
  refine ⟨own, ?_, ?_, ?_⟩
  · simp [mayPerform, first, postedBlocks, postedAt, behind, mmaHolds, mmaAt, mmaUnread, core, queue]
  · simp [postedDead, unposted]
  · simp [quiet, fencedOn, tests, injections]

theorem issueAccess_calm (found : resolveAll s g op vas 0 = .ok (some locs)) (own : (locs.all fun l => l.place.own g.core) = true) :
    issueAccess s g cls op vas n acq rel sc =
      let a := accessTo s g cls op vas locs n acq rel sc
      perform (s.setAgent g.key (g.behind a)) (g.behind a) a := by
  simp only [issueAccess, found]
  exact launchAccess_calm calm rfl own

/-- Once it is over, the agent has nothing in flight and nothing counted, as before. -/
theorem Agent.behind_over (a : Access) : (g.behind a).over a = g.past a.vas.length := by
  obtain ⟨-, outs, ops, -⟩ := calm
  cases h : a.cls <;> simp [Agent.over, Agent.behind, Agent.past, Agent.opDone, mapIf, retire, Agent.next, h, outs, ops]

end

/-! ## The end of an access that acts at once -/

theorem Agent.setS_over (g : Agent) (d : Reg) (v : Word) (a : Access) : (g.setS d v).over a = (g.over a).setS d v := by
  unfold Agent.setS; split <;> rfl

theorem Agent.past_setS (g : Agent) (d : Reg) (v : Word) (k : Nat) :
    (g.past k).setS d v = { (g.setS d v).next with nextId := g.nextId + max 1 k } := by
  unfold Agent.setS; split <;> rfl

theorem Agent.past_setV (g : Agent) (d : VNum) (v : Lanes) (k : Nat) :
    (g.past k).setV d v = { (g.setV d v).next with nextId := g.nextId + max 1 k } := rfl

section

variable {s : State} {g : Agent} {a : Access} (calm : s.calm g)
include calm

theorem finishAccess_behind (t : State) : finishAccess (t.setAgent g.key (g.behind a)) g.key a.id = t.setAgent g.key (g.past a.vas.length) := by
  rw [finishAccess_last t g (g.behind a) a rfl, Agent.behind_over calm]

theorem finishAccess_behind_setS (t : State) (d : Reg) (v : Word) :
    finishAccess ((t.setAgent g.key (g.behind a)).setAgent g.key ((g.behind a).setS d v)) g.key a.id =
      t.setAgent g.key ((g.past a.vas.length).setS d v) := by
  rw [State.setAgent_setAgent, finishAccess_last t g _ a (by rw [Agent.setS_outs]; rfl), Agent.setS_over, Agent.behind_over calm]

theorem finishAccess_behind_atom (new : Option Nat) (k n : Nat) (d : Reg) (v : Word) :
    let t := s.setAgent g.key (g.behind a)
    finishAccess (State.setAgent (match new with
      | some x => wrPlace t (.here k) (toLe n x)
      | none => t) g.key ((g.behind a).setS d v)) g.key a.id =
      State.setAgent (match new with
        | some x => wr s k (toLe n x)
        | none => s) g.key ((g.past a.vas.length).setS d v) := by
  cases new with
  | none => exact finishAccess_behind_setS calm s d v
  | some x => exact finishAccess_behind_setS calm (wr s k (toLe n x)) d v

theorem finishAccess_behind_setV (t : State) (d : VNum) (v : Lanes) :
    finishAccess ((t.setAgent g.key (g.behind a)).setAgent g.key ((g.behind a).setV d v)) g.key a.id =
      t.setAgent g.key ((g.past a.vas.length).setV d v) := by
  rw [State.setAgent_setAgent, finishAccess_last t g _ a rfl]
  exact congrArg (fun h : Agent => t.setAgent g.key (h.setV d v)) (Agent.behind_over calm a)

end

theorem foldl_wr_setAgent {α : Type} (f : α → Nat) (b : α → List Byte) (k : Nat) (h : Agent) (l : List α) : ∀ s : State,
    l.foldl (fun t x => wr t (f x) (b x)) (s.setAgent k h) = (l.foldl (fun t x => wr t (f x) (b x)) s).setAgent k h := by
  induction l with
  | nil => exact fun _ => rfl
  | cons x l ih => exact fun s => ih (wr s (f x) (b x))

/-! ## In the own scratchpad (R159) -/

section

variable {s : State} {g : Agent} {op : AccOp} {off n : Nat}

/-- A place of the own scratchpad. -/
def ownLoc (g : Agent) (off : Nat) : Loc := ⟨.here (spadKey g.core off), false⟩

theorem resolve_local (low : off < 2 ^ 20) (w : Want) : resolve s g (localAddr off) w = .ok (some (ownLoc g off)) := by
  simp only [resolve, window_local s g low]
  rfl

theorem locCheck_own (known : op.isPresence = false) : locCheck op (ownLoc g off) = none := by
  cases op <;> cases known <;> rfl

theorem issueOne_own (calm : s.calm g) (known : op.isPresence = false) {a : Word} (there : localAt a n off) (divides : n ∣ 2 ^ 63) (pos : 0 < n)
    (cls : Cls) (acq rel : Bool) (sc : Scope) : issueOne s g cls op a n acq rel sc =
      let x := accessTo s g (some cls) op [a] [ownLoc g off] n acq rel sc
      perform (s.setAgent g.key (g.behind x)) (g.behind x) x := by
  obtain ⟨rfl, fits, aligned⟩ := there
  have low : off < 2 ^ 20 := by omega
  have straight : misaligned (BitVec.ofNat 64 (2 ^ 63 + off)) n = false := misaligned_local low divides aligned
  rw [issueOne, straight, if_neg (by simp)]
  refine issueAccess_calm calm ?_ (by simp [ownLoc, own_spadKey calm.1 low])
  have here := resolve_local (s := s) (g := g) low op.want
  rw [localAddr] at here
  simp only [resolveAll, here, locCheck_own known]

/-! ### Lanes -/

theorem resolveAll_own (known : op.isPresence = false) (l : List Nat) (low : ∀ o ∈ l, o < 2 ^ 20) : ∀ i,
    resolveAll s g op (l.map localAddr) i = .ok (some (l.map (ownLoc g))) := by
  induction l with
  | nil => exact fun _ => rfl
  | cons o l ih =>
    intro i
    simp only [List.map_cons, resolveAll, resolve_local (low o (List.mem_cons_self ..)), locCheck_own known,
      ih fun x hx => low x (List.mem_cons_of_mem _ hx)]

theorem laneFault_own (l : List Nat) (low : ∀ o ∈ l, o < 2 ^ 20 ∧ o % 4 = 0) : ∀ i, laneFault s g op (l.map localAddr) i = none := by
  induction l with
  | nil => exact fun _ => rfl
  | cons o l ih =>
    intro i
    obtain ⟨h, aligned⟩ := low o (List.mem_cons_self ..)
    simp only [List.map_cons, laneFault, misaligned_local h (by decide) aligned, resolve_local h, Bool.false_eq_true, if_false,
      ih fun x hx => low x (List.mem_cons_of_mem _ hx)]

theorem lanes_toList (v : Lanes) : v.toList = (List.range 32).map (laneAt v) := by
  refine List.ext_getElem (by simp) fun i h _ => ?_
  rw [List.getElem_map, List.getElem_range, laneAt, List.getD_eq_getElem?_getD, List.getElem?_eq_getElem h, Option.getD_some]

theorem laneAddrs_own {base : Reg} {idx : VNum} {o : BitVec 26} {at_ : Nat → Nat}
    (there : ∀ i < 32, localAt (g.sr base + (laneAt (g.vr idx) i).signExtend 64 + o.signExtend 64) 4 (at_ i)) :
    laneAddrs g base idx o = ((List.range 32).map at_).map localAddr := by
  rw [laneAddrs, lanes_toList, List.map_map, List.map_map]
  exact List.map_congr_left fun i hi => (there i (List.mem_range.1 hi)).1

end

/-! ## Bytes -/

/-- The lanes of 128 bytes of memory. -/
theorem lanesOfBytes_rd (s : State) (k : Nat) : lanesOfBytes (rd s k 128) =
    Vector.ofFn fun i : Fin 32 => BitVec.ofNat 32 (rdNat s (k + 4 * i.val) 4) := by
  exact congrArg Vector.ofFn (funext fun i => congrArg (BitVec.ofNat 32) (leAt_rd s k 128 (4 * i.val) 4 (by omega)))

theorem ldExtend_eq (z : LdSize) (v : Nat) : ldExtend z v = match z with
    | .s8 => (BitVec.ofNat 8 v).signExtend 64
    | .s16 => (BitVec.ofNat 16 v).signExtend 64
    | .s32 => (BitVec.ofNat 32 v).signExtend 64
    | _ => BitVec.ofNat 64 v := by
  cases z <;> rfl

theorem ldBytes_dvd (z : LdSize) : ldBytes z ∣ 2 ^ 63 := by cases z <;> decide
theorem ldBytes_pos (z : LdSize) : 0 < ldBytes z := by cases z <;> decide
theorem stBytes_dvd (z : StSize) : stBytes z ∣ 2 ^ 63 := by cases z <;> decide
theorem stBytes_pos (z : StSize) : 0 < stBytes z := by cases z <;> decide

theorem atomBytes_pos (is64 : Bool) : 0 < atomBytes is64 := by cases is64 <;> decide

/-! ## Lanes that lie in the own scratchpad -/

theorem lanes_low {g : Agent} {base : Reg} {idx : VNum} {o : BitVec 26} {at_ : Nat → Nat}
    (there : ∀ i < 32, localAt (g.sr base + (laneAt (g.vr idx) i).signExtend 64 + o.signExtend 64) 4 (at_ i)) :
    ∀ x ∈ (List.range 32).map at_, x < 2 ^ 20 ∧ x % 4 = 0 := by
  intro x hx
  obtain ⟨i, hi, rfl⟩ := List.mem_map.1 hx
  obtain ⟨-, fits, aligned⟩ := there i (List.mem_range.1 hi)
  exact ⟨by omega, aligned⟩

theorem lane_all (i : Fin 32) : lane 0xFFFFFFFF#32 i.val = true := by
  revert i; decide

/-- A gather of all lanes loads the word of each. -/
theorem loadResult_lanes (s : State) (g h : Agent) (d : VNum) (n : Nat) (at_ : Nat → Nat) :
    loadResult h (.gather d 0xFFFFFFFF#32) n ((((List.range 32).map at_).map (ownLoc g)).map fun l => readLoc s l 4) =
      h.setV d (Vector.ofFn fun i : Fin 32 => BitVec.ofNat 32 (rdNat s (spadKey g.core (at_ i.val)) 4)) := by
  refine congrArg (h.setV d) (congrArg Vector.ofFn (funext fun i => ?_))
  rw [lane_all, if_pos rfl, List.getD_eq_getElem?_getD, List.getElem?_eq_getElem (by simp), Option.getD_some, List.getElem_map,
    List.getElem_map, List.getElem_map, List.getElem_range]
  rfl

/-- The words of a scatter with their places. -/
theorem zip_lanes (g : Agent) (at_ : Nat → Nat) (v : Lanes) : (((List.range 32).map at_).map (ownLoc g)).zip v.toList =
    (List.range 32).map fun i => (ownLoc g (at_ i), laneAt v i) := by
  rw [lanes_toList, List.map_map, List.zip_map']
  rfl

/-! ## Loads -/

section

variable {s : State} {g : Agent} {off : Nat} (turn : s.atTurn g) (calm : s.calm g)
include turn calm

theorem exec_ld_local (z : LdSize) (acq : Bool) (sc : Scope) (d : Reg) {m : MemOp} (there : localAt (g.ea m) (ldBytes z) off) :
    runsTo (.ld z acq sc d m) s g
      { (g.setS d (ldExtend z (rdNat s (spadKey g.core off) (ldBytes z)))).next with nextId := g.nextId + 1 } := by
  refine (onAgent_at turn _).trans (congrArg _ ?_)
  rw [issueOne_own calm rfl there (ldBytes_dvd z) (ldBytes_pos z)]
  exact (finishAccess_behind_setS calm s d _).trans (congrArg _ (Agent.past_setS ..))

theorem exec_vld_local (acq : Bool) (sc : Scope) (d : VNum) {m : MemOp} (there : localAt (g.ea m) 128 off) :
    runsTo (.vld acq sc d m) s g { (g.setV d (Vector.ofFn fun i : Fin 32 =>
      BitVec.ofNat 32 (rdNat s (spadKey g.core off + 4 * i.val) 4))).next with nextId := g.nextId + 1 } := by
  refine (onAgent_at turn _).trans (congrArg _ ?_)
  rw [issueOne_own calm rfl there (by decide) (by decide), ← lanesOfBytes_rd]
  exact finishAccess_behind_setV calm s d _

/-! ## Stores and fences -/

theorem exec_st_local (z : StSize) (rel : Bool) (sc : Scope) {m : MemOp} (d : Reg) (there : localAt (g.ea m) (stBytes z) off) :
    exec (.st z rel sc m d) s =
      .next ((wr s (spadKey g.core off) (toLe (stBytes z) (g.sr d).toNat)).setAgent g.key (g.past 1)) := by
  refine (onAgent_at turn _).trans (congrArg _ ?_)
  rw [issueOne_own calm rfl there (stBytes_dvd z) (stBytes_pos z)]
  exact finishAccess_behind calm (wr s _ _)

theorem exec_vst_local (rel : Bool) (sc : Scope) {m : MemOp} (d : VNum) (there : localAt (g.ea m) 128 off) :
    exec (.vst rel sc m d) s = .next ((wr s (spadKey g.core off) (bytesOfLanes (g.vr d))).setAgent g.key (g.past 1)) := by
  refine (onAgent_at turn _).trans (congrArg _ ?_)
  rw [issueOne_own calm rfl there (by decide) (by decide)]
  exact finishAccess_behind calm (wr s _ _)

theorem exec_fence_calm (o : Order) (sc : Scope) : exec (.fence o sc) s = .next (s.setAgent g.key (g.past 1)) := by
  refine (onAgent_at turn _).trans (congrArg _ ?_)
  rw [issueAccess_calm calm (locs := []) rfl rfl]
  exact finishAccess_behind calm s

/-! ## Gathers and scatters (R133) -/

section

variable {base : Reg} {idx : VNum} {o : BitVec 26} {at_ : Nat → Nat}
  (there : ∀ i < 32, localAt (g.sr base + (laneAt (g.vr idx) i).signExtend 64 + o.signExtend 64) 4 (at_ i))
include there

omit turn in
theorem issueAccess_lanes {op : AccOp} (known : op.isPresence = false) (cls : Cls) (sc : Scope) :
    issueAccess s g (some cls) op (((List.range 32).map at_).map localAddr) 4 false false sc =
      let x := accessTo s g (some cls) op (((List.range 32).map at_).map localAddr) (((List.range 32).map at_).map (ownLoc g)) 4 false false sc
      perform (s.setAgent g.key (g.behind x)) (g.behind x) x := by
  refine issueAccess_calm calm (resolveAll_own known _ (fun x hx => (lanes_low there x hx).1) 0) (List.all_eq_true.2 fun l hl => ?_)
  obtain ⟨x, hx, rfl⟩ := List.mem_map.1 hl
  exact own_spadKey calm.1 (lanes_low there x hx).1

theorem exec_vgath_local (sc : Scope) (d : VNum) : runsTo (.vgath sc d base idx o) s g { (g.setV d (Vector.ofFn fun i : Fin 32 =>
    BitVec.ofNat 32 (rdNat s (spadKey g.core (at_ i.val)) 4))).next with nextId := g.nextId + 32 } := by
  refine (onAgent_at turn _).trans (congrArg _ ?_)
  simp only [laneAddrs_own there, laneFault_own _ (lanes_low there)]
  rw [issueAccess_lanes calm there rfl]
  simp only [perform, accessTo, loadResult_lanes]
  exact finishAccess_behind_setV calm s d _

theorem exec_vscat_local (sc : Scope) (d : VNum) : exec (.vscat sc base idx o d) s = .next (((List.range 32).foldl (fun t i =>
    wr t (spadKey g.core (at_ i)) (of32 (laneAt (g.vr d) i))) s).setAgent g.key (g.past 32)) := by
  refine (onAgent_at turn _).trans (congrArg _ ?_)
  simp only [laneAddrs_own there, laneFault_own _ (lanes_low there)]
  rw [issueAccess_lanes calm there rfl]
  simp only [perform, accessTo, zip_lanes, List.foldl_map]
  refine (congrArg (finishAccess · g.key _) (foldl_wr_setAgent (fun i => spadKey g.core (at_ i)) (fun i => of32 (laneAt (g.vr d) i)) _ _ _ _)).trans ?_
  exact finishAccess_behind calm _

end

/-! ## Atomics (R104, R325) -/

theorem exec_atom_local (fn : AtomFn) (is64 : Bool) (o : Order) (sc : Scope) (d base b c : Reg) {imm : BitVec 16}
    (there : localAt (g.sr base + imm.signExtend 64) (atomBytes is64) off) :
    let k := spadKey g.core off
    exec (.atom fn is64 o sc d base b c imm) s = .next (State.setAgent
      (match atomNew fn (atomBytes is64) (rdNat s k (atomBytes is64)) (g.sr b).toNat (g.sr c).toNat with
        | some v => wr s k (toLe (atomBytes is64) v)
        | none => s) g.key ((g.past 1).setS d (BitVec.ofNat 64 (rdNat s k (atomBytes is64))))) := by
  refine (onAgent_at turn _).trans (congrArg _ ?_)
  rw [eaA, issueOne_own calm rfl there (atomBytes_dvd is64) (atomBytes_pos is64)]
  exact finishAccess_behind_atom calm _ (spadKey g.core off) (atomBytes is64) d _

end

/-- The new value of an atomic, by its function (R325). -/
theorem atomNew_eq (fn : AtomFn) (n old b c : Nat) : atomNew fn n old b c =
    let x := b % 2 ^ (8 * n)
    let sg := fun (v : Nat) => (BitVec.ofNat (8 * n) v).toInt
    match fn with
    | .add => some ((old + x) % 2 ^ (8 * n))
    | .and => some (old &&& x)
    | .or => some (old ||| x)
    | .xor => some (old ^^^ x)
    | .smin => some (if sg x < sg old then x else old)
    | .smax => some (if sg old < sg x then x else old)
    | .umin => some (min old x)
    | .umax => some (max old x)
    | .swap => some x
    | .cas => if old = c % 2 ^ (8 * n) then some x else none
    | .fadd => some (addRne (BitVec.ofNat 32 old) (BitVec.ofNat 32 x)).1.toNat := by
  cases fn
  case smin =>
    refine congrArg some ?_
    simp only [signedOf, ← Int.not_lt]
    rw [ite_not]
  case smax =>
    refine congrArg some ?_
    simp only [signedOf, ← Int.not_lt]
    rw [ite_not]
  all_goals rfl

end Sys2Proof.Machine

section

open Sys2Proof Sys2Proof.Machine

/-- Settles O13: an access that nothing holds back, with all its places in the own scratchpad, is performed as it issues. -/
theorem localAccesses : Obligations.LocalAccesses := by
  unfold Obligations.LocalAccesses
  refine ⟨fun s g off turn calm => ⟨fun z acq sc d m there => ?_, fun acq sc d m there => exec_vld_local turn calm acq sc d there⟩,
    fun s g off turn calm => ⟨fun z rel sc m d there => exec_st_local turn calm z rel sc d there,
      fun rel sc m d there => exec_vst_local turn calm rel sc d there, fun o sc => exec_fence_calm turn calm o sc⟩,
    fun s g base idx off at_ d sc turn calm there => ⟨exec_vgath_local turn calm there sc d, exec_vscat_local turn calm there sc d⟩,
    fun s g off fn is64 o sc d base b c imm turn calm there => ?_⟩
  · have runs := exec_ld_local turn calm z acq sc d there
    rwa [ldExtend_eq] at runs
  · have runs := exec_atom_local turn calm fn is64 o sc d base b c there
    dsimp only at runs
    rw [Agent.past_setS, atomNew_eq] at runs
    exact runs

end

/-! PROOF. O20: symbols, emissions and chimes. -/

namespace Sys2Proof.Machine

open Sys2Proof

/-! ## A cell of the own area (R411, R412) -/

theorem endOf_eq (ws : List Word) {c e : Nat} (behind : c < e) (inside : e < ws.length)
    (ends : symKind (ws.getD e 0) = 3 ∧ symDepth (ws.getD e 0) = symDepth (ws.getD c 0))
    (first : ∀ j, c < j → j < e → ¬ (symKind (ws.getD j 0) = 3 ∧ symDepth (ws.getD j 0) = symDepth (ws.getD c 0))) : endOf ws c = e := by
  have split : ws.drop (c + 1) = (ws.take e).drop (c + 1) ++ ws.getD e 0 :: ws.drop (e + 1) := by
    conv_lhs => rw [← List.take_append_drop e ws, List.drop_append_of_le_length (by simp; omega), List.drop_eq_getElem_cons inside]
    rw [List.getD_eq_getElem?_getD, List.getElem?_eq_getElem inside, Option.getD_some]
  have opens : ∀ w ∈ (ws.take e).drop (c + 1), (!(symKind w = 3 && symDepth w = symDepth (ws.getD c 0))) = true := by
    intro w hw
    obtain ⟨i, hi, rfl⟩ := List.mem_iff_getElem.1 hw
    simp only [List.length_drop, List.length_take] at hi
    have here : ((ws.take e).drop (c + 1))[i] = ws.getD (c + 1 + i) 0 := by
      rw [List.getElem_drop, List.getElem_take, List.getD_eq_getElem?_getD, List.getElem?_eq_getElem (by omega), Option.getD_some]
    have none := first (c + 1 + i) (by omega) (by omega)
    rw [here, Bool.not_eq_true', ← Bool.not_eq_true, Bool.and_eq_true, decide_eq_true_eq, decide_eq_true_eq]
    exact none
  have closes : (!(decide (symKind (ws.getD e 0) = 3) && decide (symDepth (ws.getD e 0) = symDepth (ws.getD c 0)))) = false := by
    rw [ends.1, ends.2]; simp
  rw [endOf, split, List.takeWhile_append_of_pos opens, List.takeWhile_cons, closes, if_neg Bool.false_ne_true]
  simp
  omega

section

variable {s : State} {g : Agent} {d b : Reg} {imm : BitVec 28} {f : List Word → Nat → Word}

theorem areaWord_beyond (beyond : g.alen ≤ (g.sr b).toNat + imm.toNat) : areaWord s g d b imm f = faultNow s g 0x21 := if_pos beyond

theorem areaWord_inside {r : Record} (found : s.rec? g.part g.rid = some r) (inside : (g.sr b).toNat + imm.toNat < g.alen) :
    areaWord s g d b imm f =
      let c := (g.sr b).toNat + imm.toNat
      let cells := areaCells s r.start g.alen
      s.setAgent g.key ((g.setS d (f (cells.map s.cell) c)).later (.s d.val)
        (s.cycle + 2 + (if cells.getD c 0 / 64 = g.core then 0 else halfSpan cells))).next := by
  refine (if_neg (Nat.not_le.2 inside)).trans ?_
  rw [found]
  rfl

theorem symProp_endc_other {depth c : Nat} {ws : List Word} (h : ¬ (symKind (ws.getD c 0) = 1 ∨ symKind (ws.getD c 0) = 2)) :
    symProp .endc depth ws c = BitVec.ofNat 64 c := congrArg (BitVec.ofNat 64) (if_neg h)

theorem symProp_endc_opens {depth c e : Nat} {ws : List Word} (opens : symKind (ws.getD c 0) = 1 ∨ symKind (ws.getD c 0) = 2) (behind : c < e)
    (inside : e < ws.length) (ends : symKind (ws.getD e 0) = 3 ∧ symDepth (ws.getD e 0) = symDepth (ws.getD c 0))
    (first : ∀ j, c < j → j < e → ¬ (symKind (ws.getD j 0) = 3 ∧ symDepth (ws.getD j 0) = symDepth (ws.getD c 0))) :
    symProp .endc depth ws c = BitVec.ofNat 64 e :=
  congrArg (BitVec.ofNat 64) ((if_pos opens).trans (endOf_eq ws behind inside ends first))

theorem words_getD (s : State) (cells : List Nat) {c : Nat} (h : c < cells.length) : (cells.map s.cell).getD c 0 = s.cell (cells.getD c 0) := by
  simp [List.getD_eq_getElem?_getD, h]

end

/-! ## Emissions (R352, R353) -/

theorem clearHints_eq (w : Word) : clearHints w = w &&& 0xFFFFFFFCFFFFFFFF#64 := rfl

section

variable {s : State} {g : Agent} (turn : s.atTurn g) (cell : g.service = false) (a b : Reg)
include turn cell

theorem exec_emit : exec (.emit a) s = .next (
    let w := g.sr a
    let kept := if symKind w = 1 then w else w &&& 0xFFFFFFFCFFFFFFFF#64
    if symKind w = 8 ∨ 0xC ≤ symKind w ∨ reservedSym kept then faultNow s g 0xF2
    else if 64 ≤ g.emits.length then faultNow s g 0xF4
    else if 63 < g.depth + symDepth w then faultNow s g 0xF6
    else s.setAgent g.key { g.next with emits := g.emits ++ [⟨kept, none, 0⟩] }) := cellOnly_cell turn cell _ _

theorem exec_emitt : exec (.emitt a b) s = .next (attempt s g (tryEmitt a b s g)) := cellOnly_cell turn cell _ _

end

/-- May the word stand for a tile whose payload EMITT copies? -/
def emitsTile (w : Word) : Prop := symKind w = 8 ∧ tileFmt w ≤ 27 ∧ symPay w % 4096 = 0 ∧ symSub w = 0
  ∧ (fmtBlock (tileFmt w) ≠ 0 → tileCols w % fmtBlock (tileFmt w) = 0) ∧ 0 < tileBytes w ∧ tileBytes w ≤ 4096

/-- An address in the local window, from which the bytes still lie in it. -/
theorem localOff_inside {off n : Nat} (low : off < 2 ^ 20) (fits : off + n ≤ 2 ^ 20) : localOff (localAddr off) n = some off := by
  obtain ⟨two, high, -, mod⟩ := localAddr_bits low
  rw [localOff, if_pos ⟨two, high, by rwa [mod]⟩, mod]

section

variable {s : State} {g : Agent} {a b : Reg}

theorem tryEmitt_noTile (h : symKind (g.sr a) ≠ 8) : tryEmitt a b s g = .trap 0xF2 0 := if_pos (.inl h)

/-- A tile passes the checks of its word. -/
theorem tryEmitt_tile (tile : emitsTile (g.sr a)) : tryEmitt a b s g =
    if 64 ≤ g.emits.length then .trap 0xF4 0
    else if 63 < g.depth + symDepth (g.sr a) then .trap 0xF6 0
    else if (g.sr b).toNat % 32 ≠ 0 then .trap 0x82 (g.sr b)
    else match localOff (g.sr b) (tileBytes (g.sr a)) with
      | none => .trap 0x83 (g.sr b)
      | some off =>
        if heldBack s g (.load .d64 0) (g.sr b) ⟨.here (spadKey g.core off), false⟩ (tileBytes (g.sr a)) false false then .wait
        else
          let l := rd s (spadKey g.core off) (tileBytes (g.sr a))
          let w' := setCv (clearHints (g.sr a))
          .go (s.setAgent g.key { g.next with
            emits := g.emits ++ [⟨w', some l, payloadChime w' l⟩]
            wakeAt := s.cycle + ceilDiv (tileBytes (g.sr a)) 1024
            fflags := if tileFmt (g.sr a) = 27 && (List.range (tileRows (g.sr a) * tileCols (g.sr a))).any fun i => elemAt l 2 i = 2
              then g.fflags ||| fTC else g.fflags }) := by
  obtain ⟨kind, known, pay, sub, whole, -, small⟩ := tile
  refine (if_neg ?_).trans (if_neg ?_)
  · rintro (h | h | h | h)
    exacts [h kind, by omega, h pay, h sub]
  · rintro (⟨h, rest⟩ | h)
    exacts [rest (whole h), by omega]

/-- With room for it and its payload in the own scratchpad it is emitted. -/
theorem tryEmitt_emits {off : Nat} (tile : emitsTile (g.sr a)) (room : g.emits.length < 64) (shallow : g.depth + symDepth (g.sr a) ≤ 63)
    (calm : s.calm g) (there : g.sr b = localAddr off) (aligned : off % 32 = 0) (fits : off + tileBytes (g.sr a) ≤ 2 ^ 20) {fl : W32} :
    let l := rd s (spadKey g.core off) (tileBytes (g.sr a))
    let w' := setCv (clearHints (g.sr a))
    (if tileFmt (g.sr a) = 27 && (List.range (tileRows (g.sr a) * tileCols (g.sr a))).any fun i => elemAt l 2 i = 2
      then g.fflags ||| fTC else g.fflags) = fl →
    tryEmitt a b s g = .go (s.setAgent g.key { g.next with
      emits := g.emits ++ [⟨w', some l, payloadChime w' l⟩]
      wakeAt := s.cycle + ceilDiv (tileBytes (g.sr a)) 1024
      fflags := fl }) := by
  rintro l w' rfl
  have pos : 0 < tileBytes (g.sr a) := by obtain ⟨-, -, -, -, -, h, -⟩ := tile; exact h
  have low : off < 2 ^ 20 := by omega
  rw [tryEmitt_tile tile, if_neg (by omega), if_neg (by omega), there, if_neg (by rw [localAddr_toNat low]; omega), localOff_inside low fits]
  simp only [heldBack_calm calm, Bool.false_eq_true, if_false]
  rfl

end

/-- What a condition decides, by a test of it. -/
theorem ite_of_iff {α : Type} {c : Bool} {p : Prop} {x y z : α} (test : c = true ↔ p) (has : p → z = x) (hasNot : ¬ p → z = y) :
    (if c then x else y) = z := by
  split
  · next h => exact (has (test.1 h)).symm
  · next h => exact (hasNot fun hp => h (test.2 hp)).symm

/-! ## Chimes (R199, R201) -/

theorem chimeSum_eq (us : List Nat) : ∀ i, chimeSum i us = (((us.zipIdx i).map fun x => (x.2 + 1) * x.1).foldr (· + ·) 0) % (2 ^ 61 - 1) := by
  induction us with
  | nil => exact fun _ => rfl
  | cons u us ih =>
    intro i
    rw [chimeSum, ih, chimeP, Nat.add_mod_mod]
    rfl

section

variable {s : State} {g : Agent} {lin : Bool} {f : Fmt} {sc : Bool} {d a b : Reg}

theorem tryChime_refuses (bad : 4096 < (g.sr b).toNat ∨ (g.sr b).toNat * 8 % fmtWidth f.val ≠ 0) :
    tryChime lin f sc d a b s g = .trap 0x21 0 := if_pos bad

theorem tryChime_local {off : Nat} (calm : s.calm g) (there : g.sr a = localAddr off) (low : off < 2 ^ 20) (small : (g.sr b).toNat ≤ 4096)
    (whole : (g.sr b).toNat * 8 % fmtWidth f.val = 0) {h : Agent} :
    let n := (g.sr b).toNat
    let m := n * 8 / fmtWidth f.val
    let k := if sc then m / fmtBlock f.val else 0
    let l := rd s (spadKey g.core off) n
    off + (n + k) ≤ 2 ^ 20 →
    (if lin && f.val = 27 && (List.range m).any fun i => elemAt l (fmtWidth f.val) i = 2 then { g with fflags := g.fflags ||| fTC } else g) = h →
    tryChime lin f sc d a b s g = .go (s.setAgent g.key
      (((h.setS d (chimeWord lin f.val m l (rd s (spadKey g.core off + n) k))).later (.s d.val) (s.cycle + ceilDiv n 128 + 2)).next)) := by
  rintro n m k l fits rfl
  refine (if_neg ?_).trans ?_
  · rintro (h | h)
    exacts [by omega, h whole]
  · have lies : localOff (g.sr a) (n + k) = some off := by rw [there]; exact localOff_inside low fits
    simp only [n, m, k] at lies
    simp only [lies, heldBack_calm calm, Bool.false_eq_true, if_false]
    rfl

end

end Sys2Proof.Machine

section

open Sys2Proof Sys2Proof.Machine

/-- Settles O20: a cell of the area by its position, an emission by the checks of its word, a chime by its bytes. -/
theorem symbols : Obligations.Symbols := by
  unfold Obligations.Symbols
  refine ⟨?_, ?_, fun us => chimeSum_eq us 0, fun s g turn => ⟨?_, ?_, ?_⟩⟩
  · intro s g d b imm r turn cell found c cells word w closes gives
    refine ⟨fun beyond => ⟨?_, fun q => ?_⟩, fun inside known => ?_⟩
    · exact takesFault_of_next ((cellOnly_cell turn cell _ _).trans (congrArg _ (areaWord_beyond beyond)))
    · exact takesFault_of_next ((cellOnly_cell turn cell _ _).trans (congrArg _ (areaWord_beyond beyond)))
    · have at_ : ∀ {j}, j < cells.length → (cells.map s.cell).getD j 0 = word j := words_getD s cells
      have read : gives (.symr d b imm) ((cells.map s.cell).getD c 0) :=
        (cellOnly_cell turn cell _ _).trans (congrArg _ (areaWord_inside found inside))
      have prop : ∀ q, gives (.symq q d b imm) (symProp q g.depth (cells.map s.cell) c) := fun q =>
        (cellOnly_cell turn cell _ _).trans (congrArg _ (areaWord_inside found inside))
      have here : (cells.map s.cell).getD c 0 = w := at_ known
      refine ⟨here ▸ read, here ▸ prop .kind, here ▸ prop .depth, here ▸ prop .bytes, fun noApp noSeq => ?_,
        fun e opens behind within ends first => ?_⟩
      · exact symProp_endc_other (depth := g.depth) (here ▸ not_or_intro noApp noSeq) ▸ prop .endc
      · refine symProp_endc_opens (depth := g.depth) (e := e) (here ▸ opens) behind (by simpa using within) ?_ (fun j above below => ?_) ▸ prop .endc
        · rw [at_ within, here]; exact ends
        · rw [at_ (Nat.lt_trans below within), here]; exact first j above below
  · intro s g a b turn cell w bare kept legal n tile fits
    have emit := exec_emit turn cell a
    have emitt : ∀ {x}, tryEmitt a b s g = x → exec (.emitt a b) s = .next (attempt s g x) := fun h => h ▸ exec_emitt turn cell a b
    have rightly : legal → ¬ (symKind w = 8 ∨ 0xC ≤ symKind w ∨ reservedSym kept = true) := by
      rintro ⟨noTile, known, unreserved⟩ (h | h | h)
      exacts [noTile h, by omega, by simp [unreserved] at h]
    refine ⟨fun ok room => ?_, fun bad => ?_, fun ok full => ?_, fun ok room deep => ?_, fun noTile => ?_, fun ok full => ?_,
      fun ok room odd => ?_, ?_⟩
    · exact emit.trans (congrArg _ ((if_neg (rightly ok)).trans ((if_neg (Nat.not_le.2 room.1)).trans (if_neg (Nat.not_lt.2 room.2)))))
    · refine takesFault_of_next (emit.trans (congrArg _ (if_pos ?_)))
      by_contra all
      obtain ⟨noTile, known, unreserved⟩ := not_or.1 all |>.imp_right not_or.1
      exact bad ⟨noTile, Nat.not_le.1 known, by simpa using unreserved⟩
    · exact takesFault_of_next (emit.trans (congrArg _ ((if_neg (rightly ok)).trans (if_pos full))))
    · exact takesFault_of_next (emit.trans (congrArg _ ((if_neg (rightly ok)).trans ((if_neg (Nat.not_le.2 room)).trans (if_pos deep)))))
    · exact takesFault_of_next (emitt (tryEmitt_noTile noTile))
    · exact takesFault_of_next (emitt ((tryEmitt_tile ok).trans (if_pos full)))
    · exact takesFault_of_next (emitt ((tryEmitt_tile ok).trans ((if_neg (Nat.not_le.2 room.1)).trans
        ((if_neg (Nat.not_lt.2 room.2)).trans (if_pos odd)))))
    · intro off ok room calm there aligned inside l w' tern fl has hasNot
      exact emitt (tryEmitt_emits ok room.1 room.2 calm there aligned inside (ite_of_iff (by simp [tern, w, l, n]) has hasNot))
  · intro lin f sc d a b off calm there low n m k small whole fits l tern h has hasNot
    have tries := tryChime_local (lin := lin) (sc := sc) (d := d) calm there low small whole (Nat.add_assoc off n k ▸ fits)
      (ite_of_iff (p := tern) (by simp [tern, l, m, n, and_assoc]) has hasNot)
    exact (onAgent_at turn _).trans (congrArg (fun x => Host.Outcome.next (attempt s g x)) tries)
  · intro lin f sc d a b bad
    exact takesFault_of_next ((onAgent_at turn _).trans (congrArg (fun x => Host.Outcome.next (attempt s g x)) (tryChime_refuses bad)))
  · intro a p part
    refine (onAgent_at turn _).trans ?_
    rw [part]
    rfl

end

/-! PROOF. O31: rows that a stream context copies, and the ends of its commands and fills. -/

namespace Sys2Proof.Machine

open Sys2Proof

/-! ## One row (R395, R397) -/

/-- The context behind a row, with slot 0 as it is afterwards. -/
def Ctx.rowMoved (x : Ctx) (u : Option TlbEntry) (q p1 : Pattern) : Ctx :=
  { x with tlb := u, walked := false, pats := (x.pats.set 0 q).set 1 { p1 with pos := p1.pos + 1 } }

section

variable {s : State} {e c : Nat} {x : Ctx} (quiet : s.quietUnits) (posted : s.posted = []) (tensor : x.tensor = none)
include quiet posted tensor

/-- A row that the context reads and writes in one turn, whatever its command has read before. -/
theorem copyRow_whole {a : Word} {p0 p1 : Pattern} {t u : Option TlbEntry} {ps qs : List Piece} (log : x.log[x.cur]? = none)
    (behind : x.log.length = x.cur) (got : x.got = []) (put : x.put = 0) (gotB : x.gotB = none) (r : s.reaches e x a p1.rowb .read t ps)
    (whole : (readPieces s ps).length = p1.rowb)
    (w : (charge s e p1.rowb).reaches e (x.noted t (readPieces s ps)) (p1.rowAt p1.pos) p1.rowb .write u qs) :
    copyRow s e c x a p0 p1 1 =
      issued (charge (writePieces (charge s e p1.rowb) (4096 + e, c) qs (readPieces s ps)) e p1.rowb) e c (x.rowMoved u p0 p1) := by
  have next : (x.noted t (readPieces s ps)).log[(x.noted t (readPieces s ps)).cur]? = none := by simp [Ctx.noted, behind]
  rw [copyRow, ctxGet_quiet e c quiet posted tensor log got gotB r]
  rw [← whole] at w
  have puts := ctxPut_quiet (s := charge s e (readPieces s ps).length) (x := x.noted t (readPieces s ps)) e c quiet tensor next put gotB w
  rw [whole] at puts
  simp only [Moved.andThen, Ctx.stops, Option.map_none, ite_self, puts]
  rfl

end

section

variable {s : State} {e c : Nat} {x : Ctx} (at_ : s.ctxAt e c x) (fresh : x.fresh)
include at_ fresh

theorem exec_scopy_one : exec (.scopy 1) s = .next (
    if x.pats[0].rowb ≠ x.pats[1].rowb ∨ x.pats[0].rest < 1 ∨ x.pats[1].rest < 1 then endCtx s e c x 0x20 0xB3
    else copyRow s e c x (x.pats[0].rowAt x.pats[0].pos) { x.pats[0] with pos := x.pats[0].pos + 1 } x.pats[1] 1) := by
  obtain ⟨begun, -⟩ := fresh
  have one : x.want 1 x.pats[0] = 1 := by simp [Ctx.want, begun]
  change execScopy 1 s = _
  refine (onCtx_at at_ _).trans (congrArg _ ?_)
  simp only [one, Nat.one_ne_zero, if_false]
  rfl

variable (quiet : s.quietUnits) (posted : s.posted = []) (tensor : x.tensor = none)
include quiet posted tensor

/-- SGATH of one row reads its list entry first. -/
theorem exec_sgath_one {list : Word} {t : Option TlbEntry} {ps : List Piece} (same : x.pats[0].rowb = x.pats[1].rowb)
    (left : x.pats[1].pos < x.pats[1].rows) (aligned : list.toNat % 4 = 0) (r : s.reaches e x list 4 .read t ps) :
    exec (.sgath 1 list) s = .next (
      let l := readPieces s ps
      if x.pats[0].cnt.getD 0 0 ≤ leNat l then endCtx (charge s e 4) e c x 0x20 0xB3
      else copyRow (charge s e 4) e c (x.noted t l) (x.pats[0].base + BitVec.ofInt 64 (leNat l * x.pats[0].str.getD 0 0)) x.pats[0] x.pats[1] 1) := by
  have rest : ¬ x.pats[1].rest < 1 := by simp only [Pattern.rest]; omega
  have start : list + BitVec.ofNat 64 (4 * (1 - 1)) = list := by simp
  obtain ⟨begun, log, cur, got, -, gotB⟩ := fresh
  have read := ctxGet_quiet e c quiet posted tensor (by rw [log]; rfl) got gotB r
  have one : BitVec.toNat (1 : W32) = 1 := rfl
  change execSgath 1 list s = _
  refine (onCtx_at at_ _).trans (congrArg _ ?_)
  simp only [begun, Bool.false_eq_true, if_false, one, start, read, same, rest, aligned, Moved.andThen, Ctx.stops, Option.map_none, ite_self,
    ne_eq, not_true_eq_false, or_self, Nat.one_ne_zero]
  rfl

end

/-! ### A row that the cycle has no room for whole -/

section

variable {s : State} {e c : Nat} {x : Ctx} {a : Word} {p0 p1 : Pattern} (tensor : x.tensor = none) (fresh : x.fresh) (some_ : 0 < p1.rowb)
include tensor fresh some_

theorem copyRow_noRoom (want : Nat) (none_ : pieceLen s e a p1.rowb = 0) : copyRow s e c x a p0 p1 want = pause s e c x := by
  obtain ⟨-, log, cur, got, -, -⟩ := fresh
  have some' : ¬ p1.rowb = 0 := by omega
  simp [copyRow, ctxGet, log, Ctx.schkTensor, tensor, rawGet, spotOf, sumNat, got, some', some_, none_, Moved.note, Moved.andThen]

theorem copyRow_part (quiet : s.quietUnits) (posted : s.posted = []) (want : Nat) {m : Nat} {t : Option TlbEntry} {ps : List Piece} (pos : 0 < m)
    (part : m < p1.rowb) (fits : pieceLen s e a p1.rowb = m) (hits : x.misses a = false) (span : unitSpan s x.asid x.tlb a m .read = .ok (t, ps))
    (apart : x.fillMeets ps = false) : copyRow s e c x a p0 p1 want =
      pause (charge s e m) e c { x with tlb := t, walked := false, got := readPieces s ps } := by
  obtain ⟨-, log, cur, got, -, gotB⟩ := fresh
  have some' : ¬ p1.rowb = 0 := by omega
  have pos' : ¬ m = 0 := by omega
  have less : ¬ m = p1.rowb := by omega
  simp [copyRow, ctxGet, log, Ctx.schkTensor, tensor, rawGet, spotOf, sumNat, got, gotB, some', some_, fits, pos', less, hits, span, apart,
    fencedOn_quiet _ _ quiet, unacked, posted, transit_quiet _ _ _ quiet.2 (piecesEvent_genuine ..), Moved.note, Moved.andThen]

end

theorem spadKey_home (core : Nat) {off : Nat} (low : off < 2 ^ 20) :
    spadCore (spadKey core off) = core ∧ (spadKey core off - 2 ^ 42) % Config.scratchBytes = off := by
  simp only [spadCore, spadKey, Config.scratchBytes]
  omega

theorem Fill.passed_idle {s : State} (idle : s.dev.transfers = []) (f : Fill) : f.passed s = true := by
  rw [Fill.passed, idle]; rfl

theorem State.modDev_transfers_idle {s : State} (idle : s.dev.transfers = []) (p : Transfer → Bool) :
    s.modDev (fun d => { d with transfers := d.transfers.filter p }) = s := by
  have none_ : s.dev.transfers.filter p = s.dev.transfers := by rw [idle]; rfl
  change { s with dev := { s.dev with transfers := s.dev.transfers.filter p } } = s
  rw [none_]

/-! ## The end of a command (R175, R278) -/

section

variable {s : State} {e c : Nat} {x : Ctx} (here : s.ctx (ctxKey e c) = x)
include here

theorem exec_streamCommandComplete (busy : x.status ≠ .free) : exec (.streamCommandComplete e c) s = .next (
    if unacked s (ctxPoster e c) ∨ x.relSlot.isSome then sched s 1 (.streamCommandComplete e c) else s.setCtx (ctxKey e c) x.completed) := by
  subst here
  exact congrArg Host.Outcome.next (if_neg busy)

/-! ## Fills (R180, R181, R402) -/

variable {f : Fill} (fills : x.fills = [f])

include fills

theorem exec_engineFillLand_waits (bytes : f.bytes ≠ []) : exec (.engineFillLand e c) s = .next (sched s 1 (.engineFillLand e c)) := by
  subst here
  change execEngineFillLand e c s = _
  simp [execEngineFillLand, fills, bytes]

theorem landBytes_whole (idle : s.dev.transfers = []) (bytes : f.bytes ≠ []) (fits : f.bytes.length ≤ room s e)
    (due : ∃ a ∈ s.agenda, a.1 ≤ s.cycle ∧ a.2 = .engineFillLand e c) : landBytes s e c =
      (charge (wr s f.key f.bytes) e f.bytes.length).setCtx (ctxKey e c) { x with
        fills := [{ f with key := f.key + f.bytes.length, bytes := [] }] } := by
  subst here
  have due' : (s.agenda.any fun a => a.1 ≤ s.cycle && a.2 = Instr.engineFillLand e c) = true := by simpa using due
  simp [landBytes, fills, due', Fill.passed_idle idle, bytes, Nat.min_eq_right fits]

variable {core off : Nat} (hdr : f.hdr = spadKey core off) (low : off < 2 ^ 20) (sound : f.condemned = none) (idle : s.dev.transfers = [])
  (landed : f.bytes = [])
include hdr low sound idle landed

theorem exec_engineFillLand : exec (.engineFillLand e c) s = .next (
    if (ringAt s core off).state f.slotIdx ≠ 1 then
      if f.orphan then s.setCtx (ctxKey e c) { x with fills := [] } else endCtx s e c { x with fills := [] } 0x20 0xB4
    else (putRing s core off ((ringAt s core off).setState f.slotIdx 2)).setCtx (ctxKey e c) { x with
      fills := [], timeline := x.timeline + (if f.last then 1 else 0) }) := by
  subst here
  obtain ⟨home, at_⟩ := spadKey_home core low
  change execEngineFillLand e c s = _
  have clean : (f.condemned <|> (s.dev.transfers.find? fun t => t.id = f.transfer).bind (·.condemned)) = none := by
    rw [sound, idle]; rfl
  simp only [execEngineFillLand, fills, landed, Fill.passed_idle idle, hdr, home, at_, clean, State.modDev_transfers_idle idle,
    List.isEmpty_nil, Bool.not_true, Bool.false_eq_true, or_self, if_false, Option.isSome_none]
  cases f.last <;> simp [ctxFault, Ctx.completed]

end

end Sys2Proof.Machine

section

open Sys2Proof Sys2Proof.Machine

/-- Settles O31: a row through its read and its write; a command and a fill by what their events find. -/
theorem streamCopies : Obligations.StreamCopies := by
  unfold Obligations.StreamCopies
  refine ⟨fun s e c x at_ quiet posted tensor fresh => ?_, fun s e c x here busy => ⟨fun posted rel => ?_, fun rel => ?_,
    fun f core off fills hdr low sound idle => ⟨fun bytes => exec_engineFillLand_waits here fills bytes,
      fun bytes fits due => landBytes_whole here fills idle bytes fits due, fun landed filling => ?_, fun landed gone own => ?_⟩⟩⟩
  · intro p0 p1 moves
    have scopy := exec_scopy_one at_ fresh
    have fails : (p0.rowb ≠ p1.rowb ∨ p0.rest < 1 ∨ p1.rest < 1) ↔ (p0.rowb ≠ p1.rowb ∨ p0.rows ≤ p0.pos ∨ p1.rows ≤ p1.pos) := by
      simp only [Pattern.rest]; omega
    refine ⟨fun bad => ?_, fun same left0 left1 => ?_, fun list t ps same left aligned r => ⟨fun beyond => ?_, fun inside => ?_⟩⟩
    · exact scopy.trans (congrArg _ (if_pos (fails.2 bad)))
    · have copies := scopy.trans (congrArg _ (if_neg (mt fails.1 (by omega))))
      obtain ⟨-, log, cur, got, put, gotB⟩ := id fresh
      refine ⟨?_, fun some_ none_ => ?_, fun m t ps pos part fits hits span apart => ?_⟩
      · intro t ps u qs r l w whole puts
        exact copies.trans (congrArg _ (copyRow_whole quiet posted tensor (by rw [log]; rfl) (by rw [log, cur]; rfl) got put gotB r whole puts))
      · exact copies.trans (congrArg _ (copyRow_noRoom tensor fresh some_ 1 none_))
      · exact copies.trans (congrArg _ (copyRow_part tensor fresh (Nat.lt_trans pos part) quiet posted 1 pos part fits hits span apart))
    · exact (exec_sgath_one at_ fresh quiet posted tensor same left aligned r).trans (congrArg _ (if_pos beyond))
    · obtain ⟨-, log, cur, got, put, gotB⟩ := id fresh
      intro t' ps' u qs r' l' w whole puts
      refine ((exec_sgath_one at_ fresh quiet posted tensor same left aligned r).trans (congrArg _ (if_neg (Nat.not_le.2 inside)))).trans
        (congrArg _ ?_)
      exact copyRow_whole (s := charge s e 4) (x := x.noted t (readPieces s ps)) quiet posted tensor (by simp [Ctx.noted, log, cur]) (by simp [Ctx.noted, log, cur]) got put gotB
        r' whole puts
  · exact (exec_streamCommandComplete here busy).trans (congrArg _ (if_neg (by simp [unacked, posted, rel])))
  · exact (exec_streamCommandComplete here busy).trans (congrArg _ (if_pos (.inr rel)))
  · exact (exec_engineFillLand here fills hdr low sound idle landed).trans (congrArg _ (if_neg (not_not.2 filling)))
  · refine (exec_engineFillLand here fills hdr low sound idle landed).trans (congrArg _ ((if_pos gone).trans (if_neg ?_)))
    rw [own]; exact Bool.false_ne_true

end

/-! PROOF. O33: loops, peers, waits, signals and times of a ringer. -/

namespace Sys2Proof.Machine

open Sys2Proof

/-! ## A command of the ringer that has the turn -/

theorem onRinger_at {s : State} {g : Nat} {x : Ringer} (h : s.ringerAt g x) (f : Nat → Ringer → State) : onRinger s f = .next (f g x) := by
  obtain ⟨turn, rfl⟩ := h
  simp [onRinger, turn]

/-- A command that comes to an end, or stops short. -/
theorem onRing_at {s : State} {g : Nat} {x : Ringer} (h : s.ringerAt g x) (m : State → Nat → Ringer → RM State) :
    onRing s (fun s g x => settle s g x (m s g x)) = .next ((settle s g x (m s g x)).getD s) := onRinger_at h _

/-- The counter of a loop, and its index, behind one pass. -/
def Ringer.looped (x : Ringer) (n : Fin 4) : Ringer := { x with l := x.l.set n.val (x.l[n] - 1), i := x.i.set n.val (x.i[n] + 1) }

section

variable {s : State} {g : Nat} {x : Ringer} (at_ : s.ringerAt g x)
include at_

theorem exec_nop_ringer :
    exec .nop s = .next (s.setRinger g { x.past with timeline := x.timeline + 1, status := .running, wakeAt := s.cycle + 1 }) := by
  obtain ⟨turn, rfl⟩ := at_
  change execNop s = _
  simp only [execNop, turn]
  rfl

theorem exec_cloopSet (n : Fin 4) (v : W32) :
    exec (.cloopSet n v) s = .next (rgIssued s g { x with l := x.l.set n.val v, i := x.i.set n.val 0 }) := by
  change execCloopSet n v s = _
  exact onRinger_at at_ _

theorem exec_cstop : exec .cstop s = .next (endRinger s g x 0 0) := by
  change execCstop s = _
  exact onRinger_at at_ _

theorem exec_cloop (n : Fin 4) (off : W32) : exec (.cloop n off) s = .next (
    if x.l[n] = 0 then rgIssued s g x
    else if x.l[n] = 1 then rgIssued s g (x.looped n)
    else if (x.pc : Int) + off.toInt < 0 ∨ (x.words.length : Int) ≤ x.pc + off.toInt then endRinger s g x 0x20 0x2D
    else schedFree (s.setRinger g { (x.looped n).past with pc := ((x.pc : Int) + off.toInt).toNat, status := .busy })
      (.collectiveCommandComplete g)) := by
  change execCloop n off s = _
  exact onRinger_at at_ _

theorem exec_cloop_more (n : Fin 4) (off : W32) (more : 1 < x.l[n].toNat) : exec (.cloop n off) s = .next (
    if (x.pc : Int) + off.toInt < 0 ∨ (x.words.length : Int) ≤ x.pc + off.toInt then endRinger s g x 0x20 0x2D
    else schedFree (s.setRinger g { (x.looped n).past with pc := ((x.pc : Int) + off.toInt).toNat, status := .busy })
      (.collectiveCommandComplete g)) := by
  have zero : x.l[n] ≠ 0 := fun z => by simp [z] at more
  have one : x.l[n] ≠ 1 := fun z => by simp [z] at more
  rw [exec_cloop at_, if_neg zero, if_neg one]

theorem exec_cpeer (k j : Fin 4) (lp add abs : Bool) (d : W32) :
    ∃ m : Nat, exec (.cpeer k lp add j abs d) s = .next (rgIssued s g { x with n := x.n.set k.val m })
      ∧ (0 < x.size → m < x.size ∧ ∃ q : Int, (m : Int) + q * x.size =
          if abs then d.toInt else x.rank + d.toInt + (if lp then (if add then (x.i[j].toNat : Int) else -(x.i[j].toNat : Int)) else 0)) := by
  change ∃ m : Nat, execCpeer k lp add j abs d s = _ ∧ _
  refine ⟨_, onRinger_at at_ _, fun pos => ?_⟩
  generalize (if abs then d.toInt else _ : Int) = t
  have size : (0 : Int) < x.size := by omega
  have low := Int.emod_nonneg t (Int.ne_of_gt size)
  have high := Int.emod_lt_of_pos t size
  refine ⟨by omega, t / x.size, ?_⟩
  rw [Int.toNat_of_nonneg low, Int.mul_comm]
  exact Int.emod_add_mul_ediv t x.size

/-! ## CTIME (R268, R348) -/

theorem exec_ctime (slot : W32) (t : Word) : exec (.ctime slot t) s = .next (
    if t.toNat < s.time.toNat then rgIssued (logOnly s 0x144 (ringerHop g) 0) g { x with late := true, triggered := !x.handshake }
    else
      let skew := !s.dev.synced || decide (21 * (if slot = 0 then 200 else slot.toNat) < s.timeOff.natAbs)
      let s1 := if skew then logOnly s 0x145 (ringerHop g) 0 else s
      let x1 : Ringer := if skew then { x with handshake := true, triggered := false } else { x with triggered := !x.handshake }
      if s.time.toNat = t.toNat then rgIssued s1 g x1
      else sched (s1.setRinger g { x1 with status := .waiting }) (timeWait (t.toNat - s.time.toNat)) (.ctimeFire g)) := by
  change execCtime slot t s = _
  exact onRinger_at at_ _

/-- In step with its leader. -/
theorem exec_ctime_synced {slot : W32} {t : Word} (synced : s.dev.synced = true)
    (close : s.timeOff.natAbs ≤ 21 * if slot = 0 then 200 else slot.toNat) (due : s.time.toNat ≤ t.toNat) : exec (.ctime slot t) s = .next (
      if s.time.toNat = t.toNat then rgIssued s g { x with triggered := !x.handshake }
      else sched (s.setRinger g { x with triggered := !x.handshake, status := .waiting }) (timeWait (t.toNat - s.time.toNat)) (.ctimeFire g)) := by
  have inStep : (!s.dev.synced || decide (21 * (if slot = 0 then 200 else slot.toNat) < s.timeOff.natAbs)) = false := by
    rw [synced, decide_eq_false (Nat.not_lt.2 close)]; rfl
  rw [exec_ctime at_, if_neg (Nat.not_lt.2 due), inStep]
  simp only [Bool.false_eq_true, if_false]

/-- Out of step. -/
theorem exec_ctime_skewed {slot : W32} (skewed : s.dev.synced = false ∨ 21 * (if slot = 0 then 200 else slot.toNat) < s.timeOff.natAbs) :
    exec (.ctime slot s.time) s =
      .next (rgIssued (logOnly s 0x145 (ringerHop g) 0) g { x with handshake := true, triggered := false }) := by
  have out : (!s.dev.synced || decide (21 * (if slot = 0 then 200 else slot.toNat) < s.timeOff.natAbs)) = true := by
    simpa using skewed
  rw [exec_ctime at_, if_neg (Nat.lt_irrefl _), out]
  simp only [if_true]

/-! ## CWAIT and CSIG (R346, R349) -/

variable (v : BitVec 40) {a : Word}

theorem exec_cwait : exec (.cwait v a) s = .next ((settle s g x (awaitWord v a s g x)).getD s) := by
  change execCwait v a s = _
  exact onRing_at at_ (awaitWord v a)

theorem exec_csig : exec (.csigSt v a) s = .next ((settle s g x (ringerSignal a (.store (toLe 8 v.toNat)) s g x)).getD s)
    ∧ exec (.csigAdd v a) s = .next ((settle s g x (ringerSignal a (.raise false (v.zeroExtend 64)) s g x)).getD s)
    ∧ exec (.csigMax v a) s = .next ((settle s g x (ringerSignal a (.raise true (v.zeroExtend 64)) s g x)).getD s) := by
  refine ⟨?_, ?_, ?_⟩
  · change execCsigSt v a s = _
    exact onRing_at at_ (ringerSignal a _)
  · change execCsigAdd v a s = _
    exact onRing_at at_ (ringerSignal a _)
  · change execCsigMax v a s = _
    exact onRing_at at_ (ringerSignal a _)

omit at_

theorem awaitWord_misaligned (odd : a.toNat % 8 ≠ 0) : awaitWord v a s g x = .error (.fault 0xBA) := if_pos odd

theorem awaitWord_eq {ps : List Piece} (aligned : a.toNat % 8 = 0) (span : ringerSpan s g x a 8 .read = .ok ps) : awaitWord v a s g x = .ok (
    if leNat (readPieces s ps) < v.toNat ∨ (x.sent ∧ quietPieces s ps) then
      if ps.any fun p => p.far then sched (s.setRinger g { x with status := .waiting }) 2100 (.monitorPoll (.ringer g))
      else s.setRinger g { x with sent := true, wakeAt := s.cycle + 1 }
    else rgIssued s g x) := by
  rw [awaitWord, if_neg (by omega), span]
  simp only [bind, Except.bind]
  split
  · split <;> rfl
  · rfl

theorem ringerSignal_misaligned (op : AccOp) (odd : a.toNat % 8 ≠ 0) : ringerSignal a op s g x = .error (.fault 0xBA) := if_pos odd

/-- A raise of a word in one piece; nothing that the program has posted before holds it. -/
theorem ringerSignal_eq (op : AccOp) {l : Loc} {n : Nat} (posted : s.posted = []) (aligned : a.toNat % 8 = 0)
    (span : ringerSpan s g x a 8 .write = .ok [(l, n)]) :
    ringerSignal a op s g x = .ok (rgIssued (postUnit s (ringerPoster g) l.place op) g x) := by
  rw [ringerSignal, if_neg (by omega), span]
  simp [bind, Except.bind, raiseWaits, unacked, posted]

end

end Sys2Proof.Machine

section

open Sys2Proof Sys2Proof.Machine

/-- Settles O33: the commands one by one; a time by whether it has passed and whether the module is in step. -/
theorem ringerControl : Obligations.RingerControl := by
  unfold Obligations.RingerControl
  refine ⟨fun s g x at_ => ⟨exec_cloopSet at_, fun n off => ?_, fun k j lp add abs d => exec_cpeer at_ k j lp add abs d,
    exec_cstop at_, exec_nop_ringer at_⟩, fun s g x at_ posted => ⟨fun v a => ?_, fun slot t => ?_⟩⟩
  · intro v y t
    refine ⟨fun zero => ?_, fun one => ?_, fun more low high => ?_, fun more out => ?_⟩
    · exact (exec_cloop at_ n off).trans (congrArg _ (if_pos zero))
    · exact (exec_cloop at_ n off).trans (congrArg _ ((if_neg fun zero => absurd (one.symm.trans zero) (by decide)).trans (if_pos one)))
    · exact (exec_cloop_more at_ n off more).trans (congrArg _ (if_neg fun out => out.elim (Int.not_lt.mpr low) (Int.not_le.mpr high)))
    · exact (exec_cloop_more at_ n off more).trans (congrArg _ (if_pos out))
  · intro done
    obtain ⟨st, add, raise⟩ := exec_csig at_ v (a := a)
    refine ⟨fun odd => ?_, fun ps aligned span => ?_, fun l n aligned span => ?_⟩
    · rw [exec_cwait at_, awaitWord_misaligned v odd, st, add, raise]
      simp only [ringerSignal_misaligned _ odd]
      exact ⟨rfl, rfl, rfl, rfl⟩
    · have go := exec_cwait at_ v (a := a)
      rw [awaitWord_eq v aligned span] at go
      intro w met
      refine ⟨fun reached => ?_, fun short near => ?_, fun short far => ?_⟩
      · exact go.trans (congrArg _ (if_neg fun h => monitor_stands.mp h reached))
      · exact go.trans (congrArg _ ((if_pos (monitor_stands.mpr short)).trans (if_neg (by simpa [Piece.far] using near))))
      · exact go.trans (congrArg _ ((if_pos (monitor_stands.mpr short)).trans (if_pos (by simpa [Piece.far] using far))))
    · simp only [ringerSignal_eq _ posted aligned span] at st add raise
      refine ⟨fun k here => ?_, fun _ => ⟨st, add, raise⟩⟩
      obtain ⟨putSt, putAdd, putMax⟩ := postUnit_here s (ringerPoster g) k v
      rw [here] at st add raise
      exact ⟨st.trans (by rw [putSt]; rfl), add.trans (by rw [putAdd]; rfl), raise.trans (by rw [putMax]; rfl)⟩
  · intro w
    refine ⟨fun past => ?_, fun synced close => ⟨fun now => ?_, fun future => ?_⟩, fun skewed now => ?_⟩
    · exact (exec_ctime at_ slot t).trans (congrArg _ (if_pos past))
    · exact (exec_ctime_synced at_ synced close (by rw [now])).trans (congrArg _ (if_pos (by rw [now])))
    · exact (exec_ctime_synced at_ synced close (Nat.le_of_lt future)).trans (congrArg _ (if_neg (Nat.ne_of_lt future)))
    · rw [now]
      exact exec_ctime_skewed at_ skewed

end

/-! PROOF. O34: what reaches a ringer, and what it sends. -/

namespace Sys2Proof.Machine

open Sys2Proof

/-! ## What reaches a ringer -/

section

variable {s : State} {g : Nat} {x : Ringer} (here : s.ringer g = x)
include here

theorem exec_collectiveCommandComplete (busy : x.status = .busy) :
    exec (.collectiveCommandComplete g) s = .next (s.setRinger g (x.completed s.cycle)) := by
  subst here
  exact congrArg Host.Outcome.next (if_pos busy)

theorem exec_ringerMessageArrival (m : Msg) (up : s.dev.bstat ≠ 1) :
    exec (.ringerMessageArrival g m) s = .next (s.setRinger g { x with staging := x.staging ++ [m] }) := by
  subst here
  exact congrArg Host.Outcome.next (if_neg up)

variable (waits : x.status = .waiting)
include waits

theorem exec_ctimeFire : exec (.ctimeFire g) s = .next (
    let t := (x.words.getD (x.pc + 1) 0).toNat
    if s.time.toNat < t then sched s (timeWait (t - s.time.toNat)) (.ctimeFire g) else s.setRinger g (x.past.completed s.cycle)) := by
  subst here
  exact congrArg Host.Outcome.next (if_neg (not_not.2 waits))

theorem exec_monitorPoll_ringer :
    exec (.monitorPoll (.ringer g)) s = .next (s.setRinger g { x with status := .running, wakeAt := s.cycle }) := by
  subst here
  exact congrArg Host.Outcome.next (if_pos waits)

end

/-! ## Buffers (R259, R260) -/

/-- A buffer takes its options from its command. -/
theorem rbuf_options {x : Ringer} {p : CPay} {addr : Word} {b : RBuf} (h : rbuf x p addr = .ok b) :
    b.fold = p.fold ∧ b.dot = p.dot ∧ b.bf16 = p.bf16 := by
  simp only [rbuf] at h
  split_ifs at h <;> cases h <;> exact ⟨rfl, rfl, rfl⟩

section

variable {s : State} {g : Nat} {x : Ringer}

/-- Genuine data passes where no injection is armed. -/
theorem ringerPass_genuine {us : List W32} {e : Event} (quiet : s.dev.injections = []) (genuine : e.expected = e.found) :
    ringerPass s us e = .ok s := by
  rw [ringerPass, transit_quiet s us e quiet genuine]

theorem ringerWrite_quiet {a : Word} {l : List Byte} {ps : List Piece} (quiet : s.dev.injections = [])
    (span : ringerSpan s g x a l.length .write = .ok ps) : ringerWrite s g x a l = .ok (writePieces s (8192 + g, 0) ps l) := by
  simp only [ringerWrite, span, bind, Except.bind, ringerPass_genuine quiet (piecesEvent_genuine ..)]
  rfl

theorem operand_quiet {b : RBuf} {ps : List Piece} (quiet : s.dev.injections = [])
    (span : ringerSpan s g x b.addr (b.cnt * b.es) .read = .ok ps) :
    operand s g x b = .ok (s, (pieces b.es b.cnt (readPieces s ps)).map leNat) := by
  simp only [operand, ringerRead_quiet quiet span, bind, Except.bind]

/-! ## One message (R258, R264, R265) -/

theorem exec_csend (at_ : s.ringerAt g x) (p : CPay) (addr : Word) :
    exec (.csend p addr) s = .next ((settle s g x (sendLocal p addr s g x)).getD s) := by
  change execCsend p addr s = _
  exact onRing_at at_ (sendLocal p addr)

theorem exec_ccopy (at_ : s.ringerAt g x) (p : CPay) (addr : Word) :
    exec (.ccopy p addr) s = .next ((settle s g x (copyLocal p addr s g x)).getD s) := by
  change execCcopy p addr s = _
  exact onRing_at at_ (copyLocal p addr)

/-- What CSEND sends of its elements. -/
def sendWhat (x : Ringer) (p : CPay) (b : RBuf) (img : List Nat) (m : Msg) : Prop :=
  (p.dm = false ∧ p.fold = false ∧ m = msgOf x x.n[p.na] p.tag .plain b 0 (img.map (BitVec.ofNat 64)))
  ∨ (p.dm = false ∧ p.fold = true ∧ m = msgOf x x.n[p.na] p.tag .arr b 0 (if b.cnt = 0 then [] else [BitVec.ofNat 64 (arrFold b img)]))
  ∨ (p.dm = true ∧ ∃ o, detOperand x b img = .ok o ∧ m = msgOf x x.n[p.na] p.tag .det b o.2 (o.1.map intWord))

variable {p : CPay} {addr : Word} {b : RBuf} {ps : List Piece}

theorem sendLocal_eq (quiet : s.dev.injections = []) (buf : rbuf x p addr = .ok b)
    (span : ringerSpan s g x b.addr (b.cnt * b.es) .read = .ok ps) {m : Msg}
    (what : sendWhat x p b ((pieces b.es b.cnt (readPieces s ps)).map leNat) m) :
    sendLocal p addr s g x = (sendMsg s x m).map fun t => rgIssued t.1 g t.2 := by
  obtain ⟨fold, -⟩ := rbuf_options buf
  have all : ∀ y : RM (State × Ringer), (y >>= fun t => Except.ok (rgIssued t.1 g t.2)) = y.map fun t => rgIssued t.1 g t.2 := fun y => by
    cases y <;> rfl
  simp only [sendLocal, buf, operand_quiet quiet span, bind, Except.bind] at all ⊢
  rcases what with ⟨dm, plain, rfl⟩ | ⟨dm, folds, rfl⟩ | ⟨dm, o, ok, rfl⟩
  · simp only [dm, plain, arrOperand, fold, Bool.false_eq_true, if_false]
    exact all _
  · have words : (if b.cnt = 0 then [] else [arrFold b ((pieces b.es b.cnt (readPieces s ps)).map leNat)]).map (BitVec.ofNat 64) =
        if b.cnt = 0 then [] else [BitVec.ofNat 64 (arrFold b ((pieces b.es b.cnt (readPieces s ps)).map leNat))] := by
      split <;> rfl
    simp only [dm, folds, arrOperand, fold, Bool.false_eq_true, if_false, if_true, words]
    exact all _
  · simp only [dm, ok, if_true]
    exact all _

/-- The chime that a message carries is that of what it holds. -/
theorem sendWhat_event {img : List Nat} {m : Msg} (what : sendWhat x p b img m) (s : State) :
    m.dest = x.n[p.na] ∧ (msgEvent s m).expected = (msgEvent s m).found := by
  rcases what with ⟨-, -, rfl⟩ | ⟨-, -, rfl⟩ | ⟨-, o, -, rfl⟩ <;> exact ⟨rfl, rfl⟩

variable {m : Msg}

theorem sendMsg_self (self : m.dest = x.rank) : sendMsg s x m =
    if stagingFull x.staging then .error .wait else .ok (s, { x with staging := x.staging ++ [m] }) := by
  rw [sendMsg, wayTo, if_pos self]

theorem sendMsg_near {h : Nat} (near : wayTo s x m.dest = .near h) : sendMsg s x m =
    if stagingFull (s.ringer h).staging then .error .wait
    else .ok (s.setRinger h { s.ringer h with staging := (s.ringer h).staging ++ [m] }, x) := by
  rw [sendMsg, near]

theorem sendMsg_port {q : Nat} {dev : BitVec 16} (port : wayTo s x m.dest = .port q dev) (quiet : s.quietUnits)
    (genuine : (msgEvent s m).expected = (msgEvent s m).found) : sendMsg s x m =
      if x.triggered = false ∧ x.credit = false then .error .credit
      else .ok ({ s with outbox := s.outbox ++ [.message dev m] }, { x with credit := false }) := by
  rw [sendMsg, port]
  simp [fencedOn_quiet _ _ quiet, ringerPass_genuine quiet.2 genuine, bind, Except.bind]

theorem sendMsg_absent (absent : wayTo s x m.dest = .absent) : sendMsg s x m = .error .wait := by rw [sendMsg, absent]

theorem sendMsg_cut (cut : wayTo s x m.dest = .cut) : sendMsg s x m = .error .down := by rw [sendMsg, cut]

/-! ## Copies (R334) -/

theorem copyLocal_eq (quiet : s.dev.injections = []) (buf : rbuf x p addr = .ok b) {qs : List Piece}
    (span : ringerSpan s g x b.addr (b.cnt * b.es) .read = .ok ps) (whole : (readPieces s ps).length = b.cnt * b.es)
    (dest : ringerSpan s g x (addr + BitVec.ofNat 64 (x.n[p.nb] * b.cnt * b.es)) (b.cnt * b.es) .write = .ok qs) :
    copyLocal p addr s g x = .ok (rgIssued (writePieces s (8192 + g, 0) qs (readPieces s ps)) g x) := by
  rw [← whole] at dest
  have writes := ringerWrite_quiet quiet dest
  simp only [copyLocal, buf, ringerRead_quiet quiet span, writes, bind, Except.bind]

end

end Sys2Proof.Machine

section

open Sys2Proof Sys2Proof.Machine

/-- Settles O34: the events of a ringer; CSEND by the way to its rank, CCOPY by its two spans. -/
theorem ringerSends : Obligations.RingerSends := by
  unfold Obligations.RingerSends
  refine ⟨fun s g x here => ⟨fun busy => exec_collectiveCommandComplete here busy, fun m up => exec_ringerMessageArrival here m up,
      fun waits due => (exec_ctimeFire here waits).trans (congrArg _ (if_neg (Nat.not_lt.2 due))),
      fun waits early => (exec_ctimeFire here waits).trans (congrArg _ (if_pos early)), fun waits => exec_monitorPoll_ringer here waits⟩,
    fun s g x p addr b ps at_ quiet buf span => ⟨fun m what => ?_, fun qs whole dest => ?_⟩⟩
  · obtain ⟨goal, genuine⟩ := sendWhat_event what s
    have sends : exec (.csend p addr) s = .next ((settle s g x ((sendMsg s x m).map fun t => rgIssued t.1 g t.2)).getD s) :=
      (exec_csend at_ p addr).trans (by rw [sendLocal_eq quiet.2 buf span what])
    refine ⟨fun self => ?_, fun h near => ?_, fun absent => ?_, fun q dev port => ?_, fun cut => ?_⟩
    · rw [sendMsg_self (goal.trans self)] at sends
      refine ⟨fun room => ?_, fun full => ?_⟩
      · rwa [room] at sends
      · rwa [full] at sends
    · rw [← goal] at near
      rw [sendMsg_near near] at sends
      refine ⟨fun room => ?_, fun full => ?_⟩
      · rwa [room] at sends
      · rwa [full] at sends
    · rw [← goal] at absent
      rwa [sendMsg_absent absent] at sends
    · rw [← goal] at port
      rw [sendMsg_port port quiet genuine] at sends
      refine ⟨fun ready => ?_, fun untriggered none_ => ?_⟩
      · rwa [if_neg (by rintro ⟨h, h'⟩; simp [h, h'] at ready)] at sends
      · rwa [if_pos ⟨untriggered, none_⟩] at sends
    · rw [← goal] at cut
      rwa [sendMsg_cut cut] at sends
  · exact (exec_ccopy at_ p addr).trans (by rw [copyLocal_eq quiet.2 buf span whole dest]; rfl)

end

/-! PROOF. What a ringer reaches through the core window, and the messages that it takes from staging. -/

namespace Sys2Proof.Machine

open Sys2Proof

/-! ## The core window (R159, R161) -/

section

variable {s : State} {asid n key : Nat} {a : Word}

theorem windowAddr_bits {l off : Nat} (core : l < 4096) (low : off < 2 ^ 20) : let v := (BitVec.ofNat 64 (3 * 2 ^ 62 + l * 2 ^ 20 + off)).toNat
    bits v 62 2 = 3 ∧ bits v 32 30 = 0 ∧ bits v 20 12 = l ∧ bits v 0 20 = off := by
  simp only [bits, BitVec.toNat_ofNat]
  omega

theorem unitSpan_window (h : s.windowAt asid a n key) (held : Option TlbEntry) (want : Want) :
    unitSpan s asid held a n want = .ok (held, [(⟨.here key, false⟩, n)]) := by
  obtain ⟨l, off, core, rfl, few, low, fits, window, rfl⟩ := h
  obtain ⟨three, high, page, rest⟩ := windowAddr_bits few low
  simp only [unitSpan, three, high, page, rest, window]
  rw [if_neg (by omega)]

/-- The window of a partition that is not being cut is not held (R238). -/
theorem ringerHeld_window (h : s.windowAt asid a n key) (settled : s.settled) : ringerHeld s asid a = false := by
  obtain ⟨l, off, core, rfl, few, low, -, window, -⟩ := h
  obtain ⟨three, high, page, -⟩ := windowAddr_bits few low
  simp only [ringerHeld, page, Bool.and_eq_false_imp]
  intro _
  rw [windowCore] at window
  split at window
  · cases window
  · next c found =>
    have mine : ∃ e ∈ s.parts, (decide (e.2.asid = asid) && (e.2.phys e.1 l).isSome) = true := by
      obtain ⟨e, he, phys⟩ := List.exists_of_findSome?_eq_some found
      refine ⟨e, he, ?_⟩
      split at phys
      · simp [*]
      · cases phys
    obtain ⟨e, he⟩ := Option.isSome_iff_exists.1 (List.find?_isSome.2 mine)
    have idle := settled.2.2 e (List.mem_of_find?_eq_some he)
    simp only [he, idle]

variable {g : Nat} {x : Ringer}

/-- A ringer reaches bytes of the window in one piece. -/
theorem ringerSpan_window (h : s.windowAt x.asid a n key) (settled : s.settled) (want : Want) :
    ringerSpan s g x a n want = .ok [(⟨.here key, false⟩, n)] := by
  have quiet : s.quietUnits := ⟨settled.1, settled.2.1⟩
  simp [ringerSpan, ringerHeld_window h settled, unitSpan_window h, fencedOn_quiet _ _ quiet, Piece.far, Place.far]

theorem readPieces_here (s : State) (key n : Nat) : readPieces s [(⟨.here key, false⟩, n)] = rd s key n := List.append_nil _

theorem writePieces_here (s : State) (who : Nat × Nat) (key : Nat) (l : List Byte) :
    writePieces s who [(⟨.here key, false⟩, l.length)] l = wr s key l := by
  simp only [writePieces, postUnit, applyAt, List.take_length]

theorem ringerRead_window (h : s.windowAt x.asid a n key) (settled : s.settled) : ringerRead s g x a n = .ok (s, rd s key n) := by
  rw [ringerRead_quiet settled.2.1 (ringerSpan_window h settled .read), readPieces_here]

theorem ringerWrite_window {l : List Byte} (h : s.windowAt x.asid a l.length key) (settled : s.settled) :
    ringerWrite s g x a l = .ok (wr s key l) := by
  rw [ringerWrite_quiet settled.2.1 (ringerSpan_window h settled .write), writePieces_here]

end

/-- Elements of bytes that stand in memory. -/
theorem pieces_rd (s : State) (key es cnt : Nat) : (pieces es cnt (rd s key (cnt * es))).map leNat =
    (List.range cnt).map fun i => rdNat s (key + es * i) es := by
  rw [pieces, List.map_map]
  refine List.map_congr_left fun i hi => leAt_rd s key (cnt * es) (es * i) es ?_
  have inside : es * i + es ≤ es * cnt := by rw [← Nat.mul_succ]; exact Nat.mul_le_mul_left _ (List.mem_range.1 hi)
  rwa [Nat.mul_comm cnt]

theorem length_toLe (n : Nat) : ∀ v, (toLe n v).length = n := by
  induction n with
  | zero => exact fun _ => rfl
  | succ n ih => exact fun v => congrArg (· + 1) (ih (v / 256))

theorem imagesB_length (es : Nat) (xs : List Nat) : (imagesB es xs).length = es * xs.length := by
  induction xs with
  | nil => rfl
  | cons v xs ih =>
    change (toLe es v ++ imagesB es xs).length = _
    rw [List.length_append, length_toLe, ih, List.length_cons, Nat.mul_succ, Nat.add_comm]

/-! ## Messages from staging (R258) -/

section

variable {coll : BitVec 16} {tag : Byte} {srcs : List Nat}

/-- Where no message is meant, none is taken. -/
theorem takeMsgs_none (l : List Msg) (none_ : ∀ m ∈ l, ¬ (m.coll = coll ∧ m.tag = tag ∧ srcs.contains m.src = true)) : ∀ used got,
    takeMsgs coll tag srcs used got l = (got, l) := by
  induction l with
  | nil => exact fun _ _ => rfl
  | cons m l ih =>
    intro used got
    rw [takeMsgs]
    split
    · rfl
    · rw [if_neg fun h => none_ m (List.mem_cons_self ..) ⟨h.1, h.2.1, h.2.2.1⟩, ih fun x hx => none_ x (List.mem_cons_of_mem _ hx)]

/-- Messages of different sources that are all meant are all taken. -/
theorem takeMsgs_all (l : List Msg) (meant : ∀ m ∈ l, m.coll = coll ∧ m.tag = tag ∧ m.src ∈ srcs) : ∀ got,
    ((got ++ l).map Msg.src).Nodup → takeMsgs coll tag srcs 0 got l = (got ++ l, []) := by
  induction l with
  | nil => intro got _; rw [List.append_nil]; rfl
  | cons m l ih =>
    intro got once
    obtain ⟨hc, ht, hs⟩ := meant m (List.mem_cons_self ..)
    have fresh : (got.any fun q => q.src = m.src) = false := by
      rw [List.map_append, List.map_cons, List.nodup_append] at once
      refine List.any_eq_false.2 fun q hq same => once.2.2 q.src (List.mem_map.2 ⟨q, hq, rfl⟩) m.src (List.mem_cons_self ..) ?_
      simpa using same
    rw [takeMsgs, if_neg (by decide), if_pos ⟨hc, ht, by simpa using hs, by rw [fresh]; rfl⟩,
      ih (fun x hx => meant x (List.mem_cons_of_mem _ hx)) (got ++ [m]) (by rwa [List.append_assoc]), List.append_assoc]
    rfl

end

/-- A message is what its chime says, or has no format. -/
def soundMsg (m : Msg) : Prop := m.mode = .rows ∨ m.mode = .table ∨ m.chime = msgChime m

theorem msgEvent_sound (s : State) {m : Msg} (h : soundMsg m) : (msgEvent s m).expected = (msgEvent s m).found := by
  simp only [msgEvent]
  split
  · rfl
  · next free => rcases h with h | h | h
                 exacts [absurd (.inl h) free, absurd (.inr h) free, h]

/-- Sound messages pass the units of their ways. -/
theorem checks_sound {s : State} (quiet : s.dev.injections = []) (us : State → Msg → List W32) (l : List Msg) (sound : ∀ m ∈ l, soundMsg m) :
    (l.foldlM (fun (u : State) m => ringerPass u (us u m) (msgEvent u m)) s : RM State) = .ok s := by
  induction l with
  | nil => rfl
  | cons m l ih =>
    rw [List.foldlM_cons, ringerPass_genuine quiet (msgEvent_sound s (sound m (List.mem_cons_self ..)))]
    exact ih fun x hx => sound x (List.mem_cons_of_mem _ hx)

section

variable {s : State} {g : Nat} {x : Ringer} {tag : Byte} {srcs : List Nat} (got : x.got = [])
include got

/-- All messages of a command are there, each of another source. -/
theorem received_all (quiet : s.dev.injections = []) (meant : ∀ m ∈ x.staging, m.coll = x.coll ∧ m.tag = tag ∧ m.src ∈ srcs)
    (once : (x.staging.map Msg.src).Nodup) (come : ∀ q ∈ srcs, q ∈ x.staging.map Msg.src) (sound : ∀ m ∈ x.staging, soundMsg m) :
    received s g x tag srcs = .ok (s, { x with got := x.staging, staging := [] }, x.staging) := by
  have taken := takeMsgs_all x.staging meant [] (by simpa using once)
  rw [List.nil_append] at taken
  have all : (srcs.all fun q => x.staging.any fun m => m.src = q) = true := by
    refine List.all_eq_true.2 fun q hq => ?_
    obtain ⟨m, hm, e⟩ := List.mem_map.1 (come q hq)
    exact List.any_eq_true.2 ⟨m, hm, by simpa using e⟩
  simp only [received, got, taken, all, if_true, checks_sound quiet (fun u m => msgUnits u g { x with got := x.staging, staging := [] } m) x.staging sound]
  rfl

/-- Of nobody, nothing is awaited. -/
theorem received_nobody : received s g x tag [] = .ok (s, x, []) := by
  have taken := takeMsgs_none (coll := x.coll) (tag := tag) (srcs := []) x.staging (fun m _ h => by simp at h) 0 []
  have same : { x with got := ([] : List Msg) } = x := by cases x; cases got; rfl
  simp only [received, got, taken, List.all_nil, if_true, List.foldlM_nil]
  exact congrArg (fun y : Ringer => (Except.ok (s, y, []) : RM (State × Ringer × List Msg))) same

/-- None of them is. -/
theorem received_none (srcs_ : ¬ srcs = []) (none_ : ∀ m ∈ x.staging, ¬ (m.coll = x.coll ∧ m.tag = tag ∧ srcs.contains m.src = true)) :
    received s g x tag srcs = .error (if missingDown s x srcs [] then .down else .wait) := by
  have unmet : (srcs.all fun q => ([] : List Msg).any fun m => m.src = q) = false := by
    cases srcs with
    | nil => exact absurd rfl srcs_
    | cons q l => rfl
  simp only [received, got, takeMsgs_none x.staging none_, unmet, Bool.false_eq_true, if_false]
  split <;> rfl

end

end Sys2Proof.Machine

/-! PROOF. O35: messages that a ringer takes and combines. -/

namespace Sys2Proof.Machine

open Sys2Proof

/-! ## A combination does not depend on the order (R262 to R264) -/

theorem maxOpt_comm (a b : Option Int) : maxOpt a b = maxOpt b a := by
  cases a <;> cases b <;> simp [maxOpt, Int.max_comm]

theorem maxOpt_assoc (a b c : Option Int) : maxOpt (maxOpt a b) c = maxOpt a (maxOpt b c) := by
  cases a <;> cases b <;> cases c <;> simp [maxOpt, Int.max_assoc]

theorem mergeEntry_comm (u v : XEntry) : mergeEntry u v = mergeEntry v u := by
  simp only [mergeEntry, maxOpt_comm u.e, Bool.or_comm]

theorem mergeEntry_assoc (u v w : XEntry) : mergeEntry (mergeEntry u v) w = mergeEntry u (mergeEntry v w) := by
  simp only [mergeEntry, maxOpt_assoc, Bool.or_assoc]

/-- Words added to integers one message after the other. -/
theorem zipWith_add_swap : ∀ (acc : List Int) (u v : List Word), List.zipWith (fun a (c : Word) => a + c.toInt)
    (List.zipWith (fun a (c : Word) => a + c.toInt) acc u) v =
      List.zipWith (fun a (c : Word) => a + c.toInt) (List.zipWith (fun a (c : Word) => a + c.toInt) acc v) u
  | [], _, _ => by simp
  | _ :: _, [], [] => rfl
  | _ :: _, [], _ :: _ => rfl
  | _ :: _, _ :: _, [] => rfl
  | a :: acc, c :: u, d :: v => by
    simp only [List.zipWith_cons_cons, zipWith_add_swap acc u v, Int.add_right_comm]

theorem combine_perm (x : Ringer) (b : RBuf) (k : Nat) (xs : List Nat) {ms ns : List Msg} (h : ms.Perm ns) :
    combine x b true k xs ms = combine x b true k xs ns := by
  have bad : (ms.any fun m => !(expected b true m)) = ns.any fun m => !(expected b true m) := h.any_eq
  have sums : ∀ acc : List Int, ms.foldl (fun (acc : List Int) m => List.zipWith (fun a (c : Word) => a + c.toInt) acc m.words) acc =
      ns.foldl (fun (acc : List Int) m => List.zipWith (fun a (c : Word) => a + c.toInt) acc m.words) acc := fun acc =>
    h.foldl_eq' (fun m _ n _ z => zipWith_add_swap z m.words n.words) acc
  have widths : ∀ w : Nat, ms.foldl (fun w m => max w m.width) w = ns.foldl (fun w m => max w m.width) w := fun w =>
    h.foldl_eq' (fun m _ n _ z => by simp only [Nat.max_right_comm]) w
  simp only [combine, bad, sums, widths, if_true]

theorem foldl_max_le (ms : List Msg) : ∀ w, w ≤ ms.foldl (fun w m => max w m.width) w := by
  induction ms with
  | nil => exact fun w => Nat.le_refl w
  | cons m ms ih => exact fun w => Nat.le_trans (Nat.le_max_left ..) (ih (max w m.width))

/-- What combines with its messages passes the check before they have come. -/
theorem detCheck_of_combine {x : Ringer} {b : RBuf} {det : Bool} {k : Nat} {xs : List Nat} {ms : List Msg} {c : List Int × Nat}
    (h : combine x b det k xs ms = .ok c) : detCheck x b det k xs = .ok () := by
  cases det with
  | false => rfl
  | true =>
    simp only [combine, if_true] at h
    split at h
    · cases h
    · simp only [detCheck, if_true]
      cases own : detOperand x b xs with
      | error e => rw [own] at h; cases h
      | ok o =>
        simp only [own, bind, Except.bind] at h ⊢
        have wide := foldl_max_le ms o.2
        split at h
        · cases h
        · rw [if_neg (by omega)]

/-- A list with its positions. -/
theorem zip_range_length {α : Type} (l : List α) : l.zip (List.range l.length) = l.zipIdx := by
  rw [List.range_eq_range', ← List.zipIdx_eq_zip_range']

theorem ok_bind {ε α β : Type} (a : α) (f : α → Except ε β) : Except.bind (.ok a) f = f a := rfl

theorem bind_ok {ε α β : Type} (z : Except ε α) (f : α → β) : (z.bind fun a => .ok (f a)) = z.map f := by cases z <;> rfl

/-! ## The commands -/

section

variable {s : State} {g : Nat} {x : Ringer} {p : CPay} {addr : Word}

theorem exec_crecv (at_ : s.ringerAt g x) : exec (.crecv p addr) s = .next ((settle s g x (recvOne p addr s g x)).getD s) := by
  change execCrecv p addr s = _
  exact onRing_at at_ (recvOne p addr)

theorem exec_crrs (at_ : s.ringerAt g x) : exec (.crrs p addr) s = .next ((settle s g x (relay p addr s g x)).getD s) := by
  change execCrrs p addr s = _
  exact onRing_at at_ (relay p addr)

theorem exec_crrl (at_ : s.ringerAt g x) (all : Bool) :
    exec (.crrl all p addr) s = .next ((settle s g x (reduceRing all p addr s g x)).getD s) := by
  change execCrrl all p addr s = _
  exact onRing_at at_ (reduceRing all p addr)

/-- What a ringer reduces passes its own check. -/
theorem reduced_quiet (quiet : s.dev.injections = []) (det : Bool) (ws : List Int) : reduced s g det ws = .ok s := by
  unfold reduced
  split
  · exact ringerPass_genuine quiet rfl
  · rfl

/-- What CRRL writes of a combination. -/
def reducedOut (s : State) (x : Ringer) (p : CPay) (b : RBuf) (c : List Int) : List Nat :=
  let xs := if p.dm then c.zipIdx.map fun v => roundSum b.fd (entryOf x b.fold v.2) v.1 else c.map Int.toNat
  if p.fold = true ∧ xs = [] then [foldOfNone s x b p.dm] else xs

variable {b : RBuf} (quiet : s.quietUnits) (buf : rbuf x p addr = .ok b)
include quiet buf

section

variable {y : Ringer} {ms : List Msg}

omit quiet in
theorem recvOne_eq (came : received s g x p.tag [x.n[p.na]] = .ok (s, y, ms)) {m : Msg} (first : ms.headD (msgOf x 0 0 .plain b 0 []) = m) :
    recvOne p addr s g x = if !(expected b (m.mode = .det) m) then .error (.fault 0xBB)
      else (recvImages x b m).bind fun xs => (ringerWrite s g x b.addr (imagesB b.out xs)).map fun t => rgIssued t g y := by
  simp only [recvOne, buf, came, first, bind, ok_bind, bind_ok]

variable {ps : List Piece} (span : ringerSpan s g x b.addr (b.cnt * b.es) .read = .ok ps) {c : List Int × Nat}
include span

theorem relay_eq (came : received s g x p.tag [x.n[p.na]] = .ok (s, y, ms))
    (sum : combine x b p.dm 2 ((pieces b.es b.cnt (readPieces s ps)).map leNat) ms = .ok c) : relay p addr s g x =
      (sendMsg s y (msgOf x x.n[p.nb] p.tag (if p.dm then .det else if p.fold then .arr else .plain) b c.2 (c.1.map intWord))).map
        fun t => rgIssued t.1 g t.2 := by
  simp only [relay, buf, operand_quiet quiet.2 span, detCheck_of_combine sum, came, sum, reduced_quiet quiet.2, bind, ok_bind, bind_ok]

theorem reduceRing_eq (all : Bool) (came : received s g x p.tag (if all then (List.range x.size).filter fun q => q ≠ x.rank else [x.n[p.na]]) = .ok (s, y, ms))
    (sum : combine x b p.dm (if all then x.size else 2) ((pieces b.es b.cnt (readPieces s ps)).map leNat) ms = .ok c)
    (aligned : p.fold = true → x.a1.toNat % b.out = 0) : reduceRing all p addr s g x =
      (ringerWrite { s with free := s.free + 1 } g x (if p.fold then x.a1 else b.addr) (imagesB b.out (reducedOut s x p b c.1))).map
        fun t => rgIssued t g y := by
  have fine : ¬ (p.fold = true ∧ x.a1.toNat % b.out ≠ 0) := fun h => h.2 (aligned h.1)
  simp only [reduceRing, buf, operand_quiet quiet.2 span, detCheck_of_combine sum, came, sum, reduced_quiet quiet.2, fine, bind, ok_bind, bind_ok,
    List.isEmpty_iff, zip_range_length, if_false, reducedOut]

end

end

/-! ## One message -/

section

variable {s : State} {g : Nat} {x : Ringer} {p : CPay} {addr : Word} {b : RBuf} {m : Msg}

/-- The ringer once the message has been taken. -/
def Ringer.took (x : Ringer) (m : Msg) : Ringer := { x with got := [m], staging := [] }

section

variable (quiet : s.dev.injections = []) (got : x.got = []) (staged : x.staging = [m]) (coll : m.coll = x.coll) (tag : m.tag = p.tag)
  (src : m.src = x.n[p.na]) (sound : soundMsg m)
include quiet got staged coll tag src sound

theorem received_one : received s g x p.tag [x.n[p.na]] = .ok (s, x.took m, [m]) := by
  have all := received_all (s := s) (g := g) (tag := p.tag) (srcs := [x.n[p.na]]) got quiet (by rw [staged]; simp [coll, tag, src])
    (by rw [staged]; simp) (by rw [staged]; simp [src]) (by rw [staged]; simpa using sound)
  rw [all, staged]
  rfl

end

/-! ### What it holds (R320, R340) -/

theorem plain_ne_det (mode : m.mode = .plain ∨ m.mode = .arr) : decide (m.mode = .det) = false := by
  rcases mode with h | h <;> rw [h] <;> rfl

theorem expected_plain (mode : m.mode = .plain ∨ m.mode = .arr) (fold : m.fold = b.fold) (count : m.count = b.cnt) (bf16 : m.bf16 = b.bf16) :
    expected b false m = true := by
  rcases mode with h | h <;> simp [expected, h, fold, count, bf16]

theorem expected_det (mode : m.mode = .det) (fold : m.fold = b.fold) (count : m.count = b.cnt) (bf16 : m.bf16 = b.bf16) :
    expected b true m = true := by
  simp [expected, mode, fold, count, bf16]

theorem recvImages_plain (mode : m.mode = .plain ∨ m.mode = .arr) : recvImages x b m = .ok (m.words.map (·.toNat)) :=
  if_neg (of_decide_eq_false (plain_ne_det mode))

theorem recvImages_det {dot : Bool} (mode : m.mode = .det) (table : x.xtOf = some (b.cnt, false, dot)) : recvImages x b m =
    .ok (m.words.zipIdx.map fun w => roundSum b.fd (entryOf x false w.2) w.1.toInt) := by
  simp [recvImages, mode, table, zip_range_length]

/-- In arrival mode its images are added to the own operand. -/
theorem combine_plain (mode : m.mode = .plain ∨ m.mode = .arr) (fold : m.fold = b.fold) (count : m.count = b.cnt) (bf16 : m.bf16 = b.bf16)
    (k : Nat) (xs : List Nat) : combine x b false k xs [m] =
      .ok (((List.zipWith (fun u (c : Word) => arrAdd b.fd u c.toNat) (arrOperand b xs) m.words).map (canonImage b.fd)).map Int.ofNat, 0) := by
  simp [combine, expected_plain mode fold count bf16]

theorem combine_alone (k : Nat) (xs : List Nat) : combine x b false k xs [] =
    .ok (((arrOperand b xs).map (canonImage b.fd)).map Int.ofNat, 0) := by
  simp [combine]

/-- What CRRL writes of sums in arrival mode; a fold of no elements is a free value (log 33). -/
theorem reducedOut_plain (s : State) (dm : p.dm = false) (l : List Nat) : reducedOut s x p b (l.map Int.ofNat) =
    if p.fold = true ∧ l = [] then [(Config.freeWord s.free).toNat % 2 ^ (8 * b.out)] else l := by
  have back : (l.map Int.ofNat).map Int.toNat = l := by rw [List.map_map]; exact List.map_id'' (fun _ => rfl) l
  simp only [reducedOut, dm, Bool.false_eq_true, if_false, back, foldOfNone]

/-! ### No message -/

section

variable {tag : Byte} {q : Nat} (got : x.got = []) (none_ : ∀ m ∈ x.staging, ¬ (m.coll = x.coll ∧ m.tag = tag ∧ m.src = q))
include got none_

theorem received_missing : received s g x tag [q] = .error (match wayTo s x q with
    | .cut => .down
    | _ => .wait) := by
  rw [received_none got (by simp) fun m hm h => none_ m hm ⟨h.1, h.2.1, by simpa using h.2.2⟩]
  cases h : wayTo s x q <;> simp [missingDown, h]

theorem received_waits (up : wayTo s x q ≠ .cut) : received s g x tag [q] = .error .wait := by
  rw [received_missing got none_]
  cases h : wayTo s x q with
  | cut => exact absurd h up
  | _ => rfl

theorem received_down (down : wayTo s x q = .cut) : received s g x tag [q] = .error .down := by
  rw [received_missing got none_, down]

end

variable (quiet : s.quietUnits) (buf : rbuf x p addr = .ok b)
include buf

theorem recvOne_error {e : RStop} (came : received s g x p.tag [x.n[p.na]] = .error e) : recvOne p addr s g x = .error e := by
  simp only [recvOne, buf, came, bind, ok_bind]
  rfl

include quiet

variable {ps : List Piece} (span : ringerSpan s g x b.addr (b.cnt * b.es) .read = .ok ps) {e : RStop}
  (came : received s g x p.tag [x.n[p.na]] = .error e)
  (fine : detCheck x b p.dm 2 ((pieces b.es b.cnt (readPieces s ps)).map leNat) = .ok ())
include span came fine

theorem relay_error : relay p addr s g x = .error e := by
  simp only [relay, buf, operand_quiet quiet.2 span, fine, came, bind, ok_bind]
  rfl

theorem reduceRing_error : reduceRing false p addr s g x = .error e := by
  simp only [reduceRing, buf, operand_quiet quiet.2 span, fine, came, bind, ok_bind, Bool.false_eq_true, if_false]
  rfl

end

/-! ## The commands with their message -/

section

variable {s : State} {g : Nat} {x : Ringer} {p : CPay} {addr : Word} {b : RBuf} {m : Msg} (at_ : s.ringerAt g x) (quiet : s.quietUnits)
  (buf : rbuf x p addr = .ok b) (got : x.got = []) (staged : x.staging = [m]) (coll : m.coll = x.coll) (tag : m.tag = p.tag)
  (src : m.src = x.n[p.na]) (sound : soundMsg m)
include at_ quiet buf got staged coll tag src sound

theorem exec_crecv_one : exec (.crecv p addr) s = .next ((settle s g x (
    if !(expected b (m.mode = .det) m) then .error (.fault 0xBB)
    else (recvImages x b m).bind fun xs => (ringerWrite s g x b.addr (imagesB b.out xs)).map fun t =>
      rgIssued t g { x with staging := [] })).getD s) := by
  refine (exec_crecv at_).trans ?_
  rw [recvOne_eq (m := m) buf (received_one quiet.2 got staged coll tag src sound) rfl]
  rfl

/-- Its images are written. -/
theorem exec_crecv_writes {xs : List Nat} {t : State} (meets : expected b (m.mode = .det) m = true) (images : recvImages x b m = .ok xs)
    (writes : ringerWrite s g x b.addr (imagesB b.out xs) = .ok t) :
    exec (.crecv p addr) s = .next (rgIssued t g { x with staging := [] }) := by
  refine (exec_crecv_one at_ quiet buf got staged coll tag src sound).trans ?_
  rw [meets, images, ok_bind, writes]
  rfl

variable {ps : List Piece} (span : ringerSpan s g x b.addr (b.cnt * b.es) .read = .ok ps) {c : List Int × Nat}
  (sum : combine x b p.dm 2 ((pieces b.es b.cnt (readPieces s ps)).map leNat) [m] = .ok c)
include span sum

/-- Its combination is sent on. -/
theorem exec_crrs_sends {q : Nat} {dev : BitVec 16} (port : wayTo s x x.n[p.nb] = .port q dev) (ready : x.triggered = true ∨ x.credit = true) :
    exec (.crrs p addr) s = .next (rgIssued { s with
      outbox := s.outbox ++ [.message dev (msgOf x x.n[p.nb] p.tag (if p.dm then .det else if p.fold then .arr else .plain) b c.2
        (c.1.map intWord))] } g { x with staging := [], credit := false }) := by
  refine (exec_crrs at_).trans ?_
  rw [relay_eq quiet buf span (received_one quiet.2 got staged coll tag src sound) sum,
    sendMsg_port (x := x.took m) port quiet (msgEvent_sound s (.inr (.inr rfl))), if_neg]
  · rfl
  · rintro ⟨h, h'⟩
    rcases ready with r | r
    · exact Bool.false_ne_true (h.symm.trans r)
    · exact Bool.false_ne_true (h'.symm.trans r)

/-- Or written. -/
theorem exec_crrl_writes {t : State} (aligned : p.fold = true → x.a1.toNat % b.out = 0)
    (writes : ringerWrite { s with free := s.free + 1 } g x (if p.fold then x.a1 else b.addr) (imagesB b.out (reducedOut s x p b c.1)) = .ok t) :
    exec (.crrl false p addr) s = .next (rgIssued t g { x with staging := [] }) := by
  refine (exec_crrl at_ false).trans ?_
  rw [reduceRing_eq quiet buf span false (received_one quiet.2 got staged coll tag src sound) sum aligned, writes]
  rfl

end

end Sys2Proof.Machine

section

open Sys2Proof Sys2Proof.Machine

/-- Settles O35: a command takes its message and combines it; the order does not matter because each merge is commutative and
associative. -/
theorem ringerReceives : Obligations.RingerReceives := by
  unfold Obligations.RingerReceives
  refine ⟨?_, ?_, ⟨fun x b k xs ms ns h => combine_perm x b k xs h, fun u v w => ⟨mergeEntry_comm u v, mergeEntry_assoc u v w⟩⟩, ?_⟩
  · intro s g x p addr b m at_ quiet buf got staged coll tag src sound y
    refine ⟨fun differs => ?_, fun xs qs meets images span => ?_, fun ps c span sum => ⟨fun q dev port ready => ?_, ?_⟩⟩
    · exact (exec_crecv_one at_ quiet buf got staged coll tag src sound).trans (by rw [differs]; rfl)
    · exact exec_crecv_writes at_ quiet buf got staged coll tag src sound meets images (ringerWrite_quiet quiet.2 span)
    · exact exec_crrs_sends at_ quiet buf got staged coll tag src sound span sum port ready
    · intro qs xs ys v aligned out
      exact exec_crrl_writes at_ quiet buf got staged coll tag src sound span sum aligned (ringerWrite_quiet (s := v) quiet.2 out)
  · intro s g x p addr b at_ quiet buf got none_
    refine ⟨fun up => ⟨?_, fun ps span fine => ?_⟩, fun down => ?_⟩
    · exact (exec_crecv at_).trans (by rw [recvOne_error buf (received_waits got none_ up)]; rfl)
    · have fine' : detCheck x b p.dm 2 ((pieces b.es b.cnt (readPieces s ps)).map leNat) = .ok () := by
        cases dm : p.dm with
        | false => rfl
        | true => exact fine.resolve_left (by rw [dm]; decide)
      have waits := received_waits (g := g) got none_ up
      exact ⟨(exec_crrs at_).trans (by rw [relay_error quiet buf span waits fine']; rfl),
        (exec_crrl at_ false).trans (by rw [reduceRing_error quiet buf span waits fine']; rfl)⟩
    · exact (exec_crecv at_).trans (by rw [recvOne_error buf (received_down got none_ down)]; rfl)
  · intro s g x p addr b k at_ settled buf got xs own out orOne more
    have quiet : s.quietUnits := ⟨settled.1, settled.2.1⟩
    have writes : ∀ {a n key} (l : List Nat), b.out * l.length = n → s.windowAt x.asid a n key →
        ringerWrite more g x a (imagesB b.out l) = .ok (wr more key (imagesB b.out l)) := fun l size h =>
      ringerWrite_window (s := more) (by rw [imagesB_length, size]; exact h) settled
    refine ⟨fun m staged coll tag src chime fold count bf16 => ?_, fun kw alone first dm window aligned target => ?_⟩
    · intro y sums
      refine ⟨fun mode window => ?_, fun dot mode table window => ?_, fun mode dm window => ?_⟩
      · refine (exec_crecv_writes at_ quiet buf got staged coll tag src (.inr (.inr chime)) ?_ (recvImages_plain mode)
          (ringerWrite_window (by rwa [imagesB_length, List.length_map]) settled)).trans ?_
        · rw [plain_ne_det mode]; exact expected_plain mode fold count bf16
        · rw [imagesB, List.flatMap_map]
      · refine (exec_crecv_writes at_ quiet buf got staged coll tag src (.inr (.inr chime)) ?_ (recvImages_det mode table)
          (ringerWrite_window (by rwa [imagesB_length, List.length_map, List.length_zipIdx]) settled)).trans ?_
        · rw [decide_eq_true mode]; exact expected_det mode fold count bf16
        · rw [imagesB, List.flatMap_map]; rfl
      · have sum : combine x b p.dm 2 ((pieces b.es b.cnt (readPieces s [(⟨.here k, false⟩, b.cnt * b.es)])).map leNat) [m] =
            .ok (sums.map Int.ofNat, 0) := by
          rw [readPieces_here, pieces_rd, dm]; exact combine_plain mode fold count bf16 2 xs
        have span := ringerSpan_window (g := g) window settled .read
        refine ⟨fun q dev port ready => ?_, fun kw aligned target => ?_⟩
        · refine (exec_crrs_sends at_ quiet buf got staged coll tag src (.inr (.inr chime)) span sum port ready).trans ?_
          simp only [dm, Bool.false_eq_true, if_false, List.map_map]
          rfl
        · refine (exec_crrl_writes at_ quiet buf got staged coll tag src (.inr (.inr chime)) span sum aligned ?_)
          rw [reducedOut_plain s dm]
          exact writes _ rfl target
    · have nobody : (List.range x.size).filter (fun q => q ≠ x.rank) = [] := by rw [alone, first]; rfl
      have sum : combine x b p.dm x.size ((pieces b.es b.cnt (readPieces s [(⟨.here k, false⟩, b.cnt * b.es)])).map leNat) [] =
          .ok ((out own).map Int.ofNat, 0) := by
        rw [readPieces_here, pieces_rd, dm]; exact combine_alone x.size xs
      have came : received s g x p.tag ((List.range x.size).filter fun q => q ≠ x.rank) = .ok (s, x, []) := by
        rw [nobody]; exact received_nobody got
      refine (exec_crrl at_ true).trans ?_
      rw [reduceRing_eq quiet buf (ringerSpan_window window settled .read) true came sum aligned, reducedOut_plain s dm]
      have size : (orOne (out own)).length = (orOne own).length := by
        simp only [orOne, out, List.map_eq_nil_iff]
        split
        · rfl
        · exact List.length_map _
      rw [writes (orOne (out own)) (congrArg (b.out * ·) size) target]
      rfl


end

/-! PROOF. O36: CSENDV faults for a rank without rows where the rows before its place end at the end of a scratchpad: the empty read there
lies in the next core's window. -/

namespace Sys2Proof.Machine

open Sys2Proof

/-- A ringer of rank 0 of 2, the other of which is a rank of this module that does not run. -/
def emptyRowsRinger : Ringer := { Ringer.reset with status := .running, words := [0, 0], size := 2, list := [0, 0] }

/-- In the scratchpad of the only core of its partition: at 0 a descriptor of rows of 8 bytes, the data in the last 8 bytes, one expert per
rank; at 64 the counts, one row for rank 0 and none for rank 1. -/
def emptyRows : State :=
  { State.reset with
    agenda := []
    turn := .ringer 0
    ringers := [(0, emptyRowsRinger)]
    parts := [(0, freshPart 0 0 0)]
    mem := [(2 ^ 42, 0xF8), (2 ^ 42 + 1, 0xFF), (2 ^ 42 + 2, 0x0F), (2 ^ 42 + 7, 0xC0), (2 ^ 42 + 8, 0x40), (2 ^ 42 + 15, 0xC0), (2 ^ 42 + 16, 8),
      (2 ^ 42 + 20, 1), (2 ^ 42 + 64, 1)] }

/-- An address of the window of core 0. -/
def windowWord (off : Nat) : Word := BitVec.ofNat 64 (3 * 2 ^ 62 + 0 * 2 ^ 20 + off)

theorem windowAt_emptyRows {off n : Nat} (low : off < 2 ^ 20) (fits : off + n ≤ 2 ^ 20) :
    emptyRows.windowAt 0 (windowWord off) n (spadKey 0 off) := ⟨0, off, 0, rfl, by decide, low, fits, rfl, rfl⟩

theorem settled_emptyRows : emptyRows.settled := by
  refine ⟨rfl, rfl, fun e he => ?_⟩
  obtain rfl := List.mem_singleton.1 he
  rfl

/-- Its memory, read through the window. -/
theorem ringerRead_emptyRows {off n : Nat} (low : off < 2 ^ 20) (fits : off + n ≤ 2 ^ 20) :
    ringerRead emptyRows 0 emptyRowsRinger (windowWord off) n = .ok (emptyRows, rd emptyRows (spadKey 0 off) n) :=
  ringerRead_window (x := emptyRowsRinger) (windowAt_emptyRows low fits) settled_emptyRows

theorem descriptor_emptyRows : rd emptyRows (spadKey 0 0) 32 =
    [0xF8, 0xFF, 0x0F, 0, 0, 0, 0, 0xC0, 0x40, 0, 0, 0, 0, 0, 0, 0xC0, 8, 0, 0, 0, 1, 0, 0, 0, 0, 0, 0, 0, 0, 0, 0, 0] := by decide

theorem vectorDesc_emptyRows : vectorDesc emptyRows 0 emptyRowsRinger (windowWord 0) =
    .ok (emptyRows, windowWord (2 ^ 20 - 8), windowWord 64, 8, 1, 0) := by
  rw [vectorDesc, if_neg (by decide), ringerRead_emptyRows (by decide) (by decide), descriptor_emptyRows]
  rfl

/-- Behind the last core of the partition there is no window, even for no bytes. -/
theorem ringerRead_emptyRows_beyond : ringerRead emptyRows 0 emptyRowsRinger (windowWord (2 ^ 20)) 0 = .error (.fault 0xB9) := rfl

theorem counts_emptyRows :
    (pieces 4 (1 * emptyRowsRinger.size) (rd emptyRows (spadKey 0 64) (4 * 1 * emptyRowsRinger.size))).map leNat = [1, 0] := by decide

/-- The rows of rank 0 are read, and then, from the address behind them, none. -/
theorem sendRows_emptyRows : sendRows 7 (windowWord 0) emptyRows 0 emptyRowsRinger = .error (.fault 0xB9) := by
  have table := ringerRead_emptyRows (off := 64) (n := 4 * 1 * emptyRowsRinger.size) (by decide) (by decide)
  have first : ringerRead emptyRows 0 emptyRowsRinger (windowWord (2 ^ 20 - 8) + BitVec.ofNat 64 (0 * 8))
      (sumNat (([1, 0].drop (1 * 0)).take 1) * 8) = .ok (emptyRows, rd emptyRows (spadKey 0 (2 ^ 20 - 8)) 8) := by
    rw [show windowWord (2 ^ 20 - 8) + BitVec.ofNat 64 (0 * 8) = windowWord (2 ^ 20 - 8) by decide]
    exact ringerRead_emptyRows (off := 2 ^ 20 - 8) (n := 8) (by decide) (by decide)
  have second : ringerRead emptyRows 0 emptyRowsRinger (windowWord (2 ^ 20 - 8) + BitVec.ofNat 64 ((0 + sumNat (([1, 0].drop (1 * 0)).take 1)) * 8))
      (sumNat (([1, 0].drop (1 * 1)).take 1) * 8) = .error (.fault 0xB9) := ringerRead_emptyRows_beyond
  have ranks : List.range emptyRowsRinger.size = [0, 1] := rfl
  rw [sendRows, if_neg (by decide), rowMsgs, vectorDesc_emptyRows]
  simp only [bind, ok_bind, table, counts_emptyRows, ranks, List.foldlM_cons, first, second]
  rfl

/-- The ringer stops. -/
theorem exec_csendv_emptyRows : exec (.csendv 7 (windowWord 0)) emptyRows = .next (endRinger emptyRows 0 emptyRowsRinger 0x20 0xB9) := by
  have runs : exec (.csendv 7 (windowWord 0)) emptyRows =
      .next ((settle emptyRows 0 emptyRowsRinger (sendRows 7 (windowWord 0) emptyRows 0 emptyRowsRinger)).getD emptyRows) := by
    change execCsendv 7 (windowWord 0) emptyRows = _
    exact onRing_at (x := emptyRowsRinger) ⟨rfl, rfl⟩ (sendRows 7 (windowWord 0))
  rw [runs, sendRows_emptyRows]
  rfl

theorem endRinger_status (s : State) (g : Nat) (x : Ringer) (status cause : Nat) : ((endRinger s g x status cause).ringer g).status = .idle := by
  simp [endRinger, Ringer.reset]

/-- The messages that the statement has it send would leave it running: the other rank takes none yet. -/
theorem sendOut_emptyRows {m n : Msg} (self : m.dest = 0) (other : n.dest = 1) (done : State → Ringer → State) :
    ((sendOut emptyRows 0 { emptyRowsRinger with sent := true, unsent := [m, n] } done).ringer 0).status = .running := by
  have own : wayTo emptyRows { emptyRowsRinger with sent := true, unsent := [m, n] } m.dest = .self := by
    rw [self]
    rfl
  have away : wayTo emptyRows { emptyRowsRinger with sent := true, unsent := [m, n], staging := [m] } n.dest = .absent := by
    rw [other]
    rfl
  have first : sendMsg emptyRows { emptyRowsRinger with sent := true, unsent := [m, n] } m =
      .ok (emptyRows, { emptyRowsRinger with sent := true, unsent := [m, n], staging := [m] }) := by
    rw [sendMsg, own]
    rfl
  have second : sendMsg emptyRows { emptyRowsRinger with sent := true, unsent := [m, n], staging := [m] } n = .error .wait := by
    rw [sendMsg, away]
  simp only [sendOut, sendMsgs, first, second, settle]
  exact congrArg Ringer.status (State.ringer_setRinger _ _ _)

end Sys2Proof.Machine

section

open Sys2Proof Sys2Proof.Machine

/-- Refutes O36: two ranks, of which the first has one row, in the last bytes of its scratchpad, and the second none. -/
theorem not_ringerTables : ¬ Obligations.RingerTables := by
  unfold Obligations.RingerTables
  rintro ⟨-, h⟩
  obtain ⟨-, -, sends⟩ := h emptyRows 0 emptyRowsRinger ⟨rfl, rfl⟩ settled_emptyRows
  have sent := sends 7 (windowWord 0) (spadKey 0 0) (by decide) (windowAt_emptyRows (by decide) (by decide))
  rw [descriptor_emptyRows] at sent
  obtain ⟨sent, -⟩ := sent (by decide) (by decide) (by decide) (by decide) (by decide)
  have table : emptyRows.windowAt 0 (windowWord 64) 8 (spadKey 0 64) := windowAt_emptyRows (by decide) (by decide)
  have rows : emptyRows.windowAt 0 (windowWord (2 ^ 20 - 8)) 8 (spadKey 0 (2 ^ 20 - 8)) := windowAt_emptyRows (by decide) (by decide)
  have out := sent (spadKey 0 64) (spadKey 0 (2 ^ 20 - 8)) table rfl rows
  rw [exec_csendv_emptyRows] at out
  have status := (endRinger_status emptyRows 0 emptyRowsRinger 0x20 0xB9).symm.trans
    (congrArg (fun t : State => (t.ringer 0).status) (Host.Outcome.next.inj out))
  exact absurd (status.trans (sendOut_emptyRows rfl rfl _)) (by decide)

end

/-! PROOF. O50: what a request, the marker, the cut, the image and its valid word each leave of a partition. -/

namespace Sys2Proof.Machine

open Sys2Proof

/-! ## The request and the marker (R232, R233) -/

section

variable {s : State} {n : Nat} {p : Part}

theorem exec_pcbPreempt_live (live : (s.pcb n).state = 1) (hp : s.part n = some p) (free : p.pre = .none) :
    ∃ t, exec (.pcbPreempt n) s = .next t ∧ t.part n = some { p with pre := .asked p.wideStop, wideStop := false, again := false }
      ∧ t.pcb n = { s.pcb n with cmd := 0, state := 2 } ∧ pendingEvent t (.preemptMarkerArrival n) = true ∧ t.cells = s.cells := by
  have e : exec (.pcbPreempt n) s = .next (requestPreempt (s.modPcb n fun b => { b with cmd := 0 }) n false false) := by
    change execPcbPreempt n s = _
    simp [execPcbPreempt, State.modPcb, live]
  have part : (s.modPcb n fun b => { b with cmd := 0 }).part n = some p := hp
  simp only [requestPreempt, part, free, ne_eq, not_true, if_false, Bool.false_or] at e
  exact ⟨_, e, by simp [State.modPcb], by simp [State.modPcb], pendingEvent_schedOnce_self .., (kept_schedOnce ..).cells⟩

theorem exec_pcbPreempt_other (other : (s.pcb n).state ≠ 1) : exec (.pcbPreempt n) s = .next (s.setPcb n { s.pcb n with cmd := 0 }) := by
  change execPcbPreempt n s = _
  simp [execPcbPreempt, State.modPcb, other]

theorem exec_preemptMarkerArrival_busy {wide : Bool} (hp : s.part n = some p) (asked : p.pre = .asked wide) (busy : rootBusy s n p = true) :
    exec (.preemptMarkerArrival n) s = .next (schedOnce s 1 (.preemptMarkerArrival n)) := by
  change execPreemptMarkerArrival n s = _
  simp only [execPreemptMarkerArrival, hp, asked, busy, if_true]

theorem exec_preemptMarkerArrival_asked {wide : Bool} (hp : s.part n = some p) (asked : p.pre = .asked wide) (idle : rootBusy s n p = false) :
    exec (.preemptMarkerArrival n) s = .next (schedOnce
      (State.setPart { s with agenda := s.agenda.filter fun a => a.2 ≠ Instr.preemptMarkerArrival n } n { p with
        pre := .marker (s.cycle + 1 + sweepTime p.j / 2) wide, sweep := none, sweepQueued := false }) (1 + sweepTime p.j / 2)
      (.preemptMarkerArrival n)) := by
  change execPreemptMarkerArrival n s = _
  simp only [execPreemptMarkerArrival, hp, asked, idle]
  rfl

theorem exec_preemptMarkerArrival_early {wide : Bool} {reach : Nat} (hp : s.part n = some p) (marker : p.pre = .marker reach wide)
    (early : s.cycle < reach) : exec (.preemptMarkerArrival n) s = .next s := by
  change execPreemptMarkerArrival n s = _
  simp only [execPreemptMarkerArrival, hp, marker, early, if_true]

theorem exec_preemptMarkerArrival_there {wide : Bool} {reach : Nat} (hp : s.part n = some p) (marker : p.pre = .marker reach wide)
    (there : reach ≤ s.cycle) : exec (.preemptMarkerArrival n) s = .next (freezeAll s n p wide) := by
  change execPreemptMarkerArrival n s = _
  simp only [execPreemptMarkerArrival, hp, marker, Nat.not_lt.2 there, if_false]

end

/-! ## The freeze (R234, R239) -/

/-- The engine and the chains of a core stand still. -/
def freezeCore (t : State) (c : Nat) : State :=
  (freezeEngine t c).modCore c fun x => { x with chains := x.chains.map fun ch => { ch with frozen := true } }

/-- A record of which nothing is started or counted. -/
def Record.unstarted (r : Record) : Record := { r with startAt := 0, phase := none }

/-- A record whose admission is undone. -/
def Record.withdrawn (now : Nat) (r : Record) : Record := (r.movedTo now .ready).unstarted

/-- The admission of a record is undone. -/
def withdraw (n : Nat) (t : State) (r : Record) : State :=
  (setRecState t n r.id .ready).modRec n r.id Record.unstarted

/-- A context at the marker. -/
def Ctx.atMarker (asid : Nat) (x : Ctx) : Ctx :=
  if x.asid = asid ∧ x.status ≠ .free then if x.midway then { x with stopping := true } else { x with status := .stopped } else x

/-- The cores of the partition, its agents and its stream contexts at the marker. -/
def frozen (s : State) (n : Nat) (p : Part) : State :=
  let t := (s.live n p).foldl freezeCore (disarmAll s n)
  { t with
    agents := t.agents.map fun e => if e.2.part = n then (e.1, freezeAgent s e.2) else e
    ctxs := t.ctxs.map fun e =>
      if e.2.asid = p.asid ∧ e.2.status ≠ .free then
        (e.1, if e.2.midway then { e.2 with stopping := true } else { e.2 with status := .stopped }) else e }

/-- A record whose counters stand still from the cut on. -/
def Record.stilled (p : Part) (now : Nat) (r : Record) : Record :=
  { (if r.stopped = some 0 ∨ p.stops.any fun x => x.rid = r.id then r else r.countTo now) with stopped := none }

/-- The partition at the cut. -/
def Part.cutAt (p : Part) (now : Nat) (wide : Bool) (q : Part) : Part :=
  { q with
    pre := .cut (wide || q.wideStop)
    wideStop := false
    coming := none
    sweep := none
    sweepQueued := false
    stops := []
    records := q.records.map (Record.stilled p now) }

theorem freezeAll_eq (s : State) (n : Nat) (p : Part) (wide : Bool) : freezeAll s n p wide =
    schedOnce (((p.records.filter fun r => r.state = .admitted).foldl (withdraw n) (frozen s n p)).modPart n (p.cutAt s.cycle wide)) 1
      (.cutComplete n) := rfl

/-- The freeze of cores changes nothing but cores. -/
theorem foldl_freezeCore {α : Type} (f : State → α) (noCores : ∀ t c x, f (t.setCore c x) = f t) (l : List Nat) (s : State) :
    f (l.foldl freezeCore s) = f s :=
  foldl_inv (fun t => f t = f s) freezeCore (fun t c h => ((noCores _ c _).trans (noCores t c _)).trans h) l s rfl

theorem frozen_part (s : State) (n : Nat) (p : Part) (m : Nat) : (frozen s n p).part m = s.part m :=
  foldl_freezeCore (fun t => t.part m) (fun _ _ _ => rfl) (s.live n p) (disarmAll s n)

theorem frozen_mem (s : State) (n : Nat) (p : Part) : (frozen s n p).mem = s.mem :=
  foldl_freezeCore (fun t => t.mem) (fun _ _ _ => rfl) (s.live n p) (disarmAll s n)

theorem frozen_cells (s : State) (n : Nat) (p : Part) : (frozen s n p).cells = s.cells :=
  foldl_freezeCore (fun t => t.cells) (fun _ _ _ => rfl) (s.live n p) (disarmAll s n)

theorem frozen_cycle (s : State) (n : Nat) (p : Part) : (frozen s n p).cycle = s.cycle :=
  foldl_freezeCore (fun t => t.cycle) (fun _ _ _ => rfl) (s.live n p) (disarmAll s n)

/-- A table changed entry by entry, its keys kept. -/
theorem Tbl.find_map {α β : Type} (f : α → β) (t : Tbl α) (k : Nat) : Tbl.find (t.map fun e => (e.1, f e.2)) k = (Tbl.find t k).map f := by
  induction t with
  | nil => rfl
  | cons e t ih =>
    simp only [List.map_cons, Tbl.find]
    split
    · rfl
    · exact ih

theorem frozen_ctxs (s : State) (n : Nat) (p : Part) : (frozen s n p).ctxs = s.ctxs.map fun e => (e.1, e.2.atMarker p.asid) := by
  have same : ((s.live n p).foldl freezeCore (disarmAll s n)).ctxs = s.ctxs :=
    foldl_freezeCore (fun t => t.ctxs) (fun _ _ _ => rfl) (s.live n p) (disarmAll s n)
  simp only [frozen, same]
  refine List.map_congr_left fun e _ => ?_
  simp only [Ctx.atMarker]
  split <;> rfl

/-! Admissions undone one by one: what becomes of the partition, and that stream contexts stand. -/

theorem schedOnce_ctxs (s : State) (n : Nat) (i : Instr) : (schedOnce s n i).ctxs = s.ctxs := by
  unfold schedOnce
  split <;> rfl

theorem appendRecord_ctxs (s : State) (b : Word) (r : List Byte) : (appendRecord s b r).ctxs = s.ctxs := by
  simp only [appendRecord]
  split <;> rfl

theorem traceState_ctxs (s : State) (n : Nat) (r : Record) (x : RecState) (c : Nat) : (traceState s n r x c).ctxs = s.ctxs := by
  unfold traceState
  split
  · rfl
  · split
    · exact appendRecord_ctxs ..
    · rfl

theorem modPart_ctxs (s : State) (n : Nat) (f : Part → Part) : (s.modPart n f).ctxs = s.ctxs := by
  unfold State.modPart
  split <;> rfl

theorem setRecState_ctxs (s : State) (n id : Nat) (new : RecState) (cause : Nat) : (setRecState s n id new cause).ctxs = s.ctxs := by
  unfold setRecState
  split
  · rfl
  · refine (modPart_ctxs ..).trans ?_
    split
    · rfl
    · exact traceState_ctxs ..

theorem withdraw_ctxs (n : Nat) (s : State) (r : Record) : (withdraw n s r).ctxs = s.ctxs :=
  (modPart_ctxs ..).trans (setRecState_ctxs ..)

theorem Part.mapRec_mapRec (q : Part) (id : Nat) (f g : Record → Record) (hf : ∀ r, (f r).id = r.id) :
    (q.mapRec id f).mapRec id g = q.mapRec id fun r => g (f r) := by
  simp only [Part.mapRec, mapIf, List.map_map]
  congr 1
  refine List.map_congr_left fun r _ => ?_
  by_cases same : r.id = id <;> simp [same, hf]

theorem State.Leaves.withdraw {s t : State} {n : Nat} {q : Part} (h : s.Leaves n q t) {r : Record} (found : ∃ x ∈ q.records, x.id = r.id) :
    s.Leaves n (q.mapRec r.id (Record.withdrawn s.cycle)) (Machine.withdraw n t r) := by
  obtain ⟨x, mem, same⟩ := found
  have some : (q.rec? r.id).isSome = true := by
    rw [Part.rec?, List.find?_isSome]
    exact ⟨x, mem, by simpa using same⟩
  obtain ⟨y, hy⟩ := Option.isSome_iff_exists.1 some
  have once := Part.mapRec_mapRec q r.id (Record.movedTo · s.cycle .ready) Record.unstarted fun _ => rfl
  have moved := (h.setRecState hy .ready 0).modRec r.id Record.unstarted
  rwa [once] at moved

/-- The partition with the admissions of these records undone. -/
def Part.withdrawAll (now : Nat) (l : List Record) (q : Part) : Part := l.foldl (fun q r => q.mapRec r.id (Record.withdrawn now)) q

/-- A record with the admissions of these records undone. -/
def Record.withdrawAll (now : Nat) (l : List Record) (r : Record) : Record := l.foldl (fun r x => if r.id = x.id then r.withdrawn now else r) r

theorem Record.withdrawAll_facts (now : Nat) (l : List Record) (r : Record) :
    (r.withdrawAll now l).id = r.id ∧ (r.withdrawAll now l).start = r.start
    ∧ (r.withdrawAll now l).state = if ∃ x ∈ l, r.id = x.id then .ready else r.state := by
  induction l generalizing r with
  | nil => simp [Record.withdrawAll]
  | cons x l ih =>
    by_cases same : r.id = x.id
    · obtain ⟨id, start, state⟩ := ih (r.withdrawn now)
      have step : r.withdrawAll now (x :: l) = (r.withdrawn now).withdrawAll now l := by simp [Record.withdrawAll, same]
      rw [step]
      refine ⟨id, start, state.trans ?_⟩
      rw [if_pos (⟨x, List.mem_cons_self, same⟩ : ∃ y ∈ x :: l, r.id = y.id)]
      exact ite_self _
    · have step : r.withdrawAll now (x :: l) = r.withdrawAll now l := by simp [Record.withdrawAll, same]
      simpa [step, same] using ih r

theorem Part.withdrawAll_eq (now : Nat) (l : List Record) (q : Part) :
    q.withdrawAll now l = { q with records := q.records.map (Record.withdrawAll now l) } := by
  induction l generalizing q with
  | nil =>
    have nothing : Record.withdrawAll now [] = id := rfl
    rw [nothing, List.map_id]
    rfl
  | cons x l ih =>
    have step : q.withdrawAll now (x :: l) = (q.mapRec x.id (Record.withdrawn now)).withdrawAll now l := rfl
    rw [step, ih]
    simp only [Part.mapRec, mapIf, List.map_map]
    congr 1
    refine List.map_congr_left fun r _ => ?_
    by_cases same : r.id = x.id <;> simp [Record.withdrawAll, same]

theorem State.Leaves.withdrawAll {s : State} {n : Nat} {l : List Record} {t : State} {q : Part} (h : s.Leaves n q t)
    (found : ∀ r ∈ l, ∃ x ∈ q.records, x.id = r.id) : s.Leaves n (q.withdrawAll s.cycle l) (l.foldl (Machine.withdraw n) t) := by
  induction l generalizing t q with
  | nil => exact h
  | cons r l ih =>
    refine ih (h.withdraw (found r List.mem_cons_self)) fun y hy => ?_
    obtain ⟨x, mem, same⟩ := found y (List.mem_cons_of_mem _ hy)
    refine ⟨if x.id = r.id then x.withdrawn s.cycle else x, List.mem_map.2 ⟨x, mem, ?_⟩, ?_⟩
    · by_cases e : x.id = r.id <;> simp [e]
    · split <;> exact same

theorem Record.stilled_state (p : Part) (now : Nat) (r : Record) : (r.stilled p now).state = r.state := by
  unfold Record.stilled
  split
  · rfl
  · exact Record.countTo_state r now

theorem Record.countTo_start (r : Record) (now : Nat) : (r.countTo now).start = r.start := by
  simp only [Record.countTo]; split <;> rfl

theorem Record.stilled_start (p : Part) (now : Nat) (r : Record) : (r.stilled p now).start = r.start := by
  unfold Record.stilled
  split
  · rfl
  · exact Record.countTo_start r now

/-- The records that are admitted. -/
def Part.admitted (p : Part) : List Record := p.records.filter fun r => r.state = .admitted

/-- Where identifiers differ, exactly the admitted records are undone. -/
theorem Part.withdrawAll_state {p : Part} (ids : (p.records.map (·.id)).Nodup) (now : Nat) {r : Record} (mem : r ∈ p.records) :
    (r.withdrawAll now p.admitted).state = if r.state = .admitted then .ready else r.state := by
  have among : (∃ x ∈ p.admitted, r.id = x.id) ↔ r.state = .admitted := by
    constructor
    · rintro ⟨x, hx, same⟩
      obtain ⟨hx, admitted⟩ := List.mem_filter.1 hx
      rw [List.inj_on_of_nodup_map ids mem hx same]
      exact of_decide_eq_true admitted
    · exact fun admitted => ⟨r, List.mem_filter.2 ⟨mem, decide_eq_true admitted⟩, rfl⟩
  rw [(Record.withdrawAll_facts now p.admitted r).2.2]
  by_cases admitted : r.state = .admitted <;> simp only [among, admitted, if_true, if_false]

theorem freezeAll_leaves {s : State} {n : Nat} {p : Part} (hp : s.part n = some p) (wide : Bool) :
    (freezeAll s n p wide).part n = some (p.cutAt s.cycle wide (p.withdrawAll s.cycle p.admitted)) ∧ (freezeAll s n p wide).cells = s.cells
    ∧ pendingEvent (freezeAll s n p wide) (.cutComplete n) = true := by
  have start : (frozen s n p).Leaves n p (frozen s n p) := State.Leaves.of_part ((frozen_part ..).trans hp)
  have undone := (start.withdrawAll (l := p.admitted) fun r hr => ⟨r, (List.mem_filter.1 hr).1, rfl⟩).modPart (p.cutAt s.cycle wide)
  rw [frozen_cycle] at undone
  rw [freezeAll_eq]
  exact ⟨(undone.kept (kept_schedOnce ..)).part, (undone.kept (kept_schedOnce ..)).cells.trans (frozen_cells ..), pendingEvent_schedOnce_self ..⟩

theorem freezeAll_ctx {s : State} {n : Nat} {p : Part} {k : Nat} {x : Ctx} (found : Tbl.find s.ctxs k = some x) (wide : Bool) :
    (freezeAll s n p wide).ctx k = x.atMarker p.asid := by
  have ctxs : (freezeAll s n p wide).ctxs = (frozen s n p).ctxs := by
    rw [freezeAll_eq]
    refine (schedOnce_ctxs ..).trans ((modPart_ctxs ..).trans ?_)
    exact foldl_inv (fun t : State => t.ctxs = (frozen s n p).ctxs) (withdraw n) (fun t r h => (withdraw_ctxs n t r).trans h) _ _ rfl
  rw [State.ctx, ctxs, frozen_ctxs, Tbl.find_map, found]
  rfl

theorem freezeAll_mem {s : State} {n : Nat} {p : Part} (none_ : ∀ r ∈ p.records, r.state ≠ .admitted) (wide : Bool) :
    (freezeAll s n p wide).mem = s.mem := by
  have empty : (p.records.filter fun r => r.state = .admitted) = [] := by simpa using none_
  rw [freezeAll_eq, empty]
  refine (schedOnce_mem ..).trans (Eq.trans ?_ (frozen_mem s n p))
  simp only [List.foldl_nil, State.modPart]
  split <;> rfl

/-! ## The cut, the image and the valid word (R240) -/

section

variable {s : State} {n : Nat} {p : Part} {wide : Bool}

theorem exec_cutComplete_waits (hp : s.part n = some p) (cut : p.pre = .cut wide) (underway : landed (atCut s n) n p = false) :
    exec (.cutComplete n) s = .next (schedOnce (atCut s n) 1 (.cutComplete n)) := by
  change execCutComplete n s = _
  simp [execCutComplete, hp, cut, underway]

theorem exec_cutComplete_writes (hp : s.part n = some p) (cut : p.pre = .cut wide) (all : landed (atCut s n) n p = true) {u : State}
    (written : writeVa (keepBeside (cutImage (atCut s n) n p).1 n p) p.asid (s.pcb n).save.toNat (cutImage (atCut s n) n p).2 = some u) :
    exec (.cutComplete n) s = .next (sched u (ceilDiv (cutImage (atCut s n) n p).2.length 64) (.imageValid n)) := by
  have pcb : (atCut s n).pcb n = s.pcb n := rfl
  change execCutComplete n s = _
  simp [execCutComplete, hp, cut, all, pcb, written]

theorem mem_payloadOffs {cells : List Nat} {va : Nat} {x : Nat × Nat} (mem : x ∈ payloadOffs s va cells) :
    x.1 ∈ cells ∧ symKind (s.cell x.1) = 8 := by
  induction cells generalizing va with
  | nil => cases mem
  | cons c cells ih =>
    rw [payloadOffs] at mem
    split at mem
    case isTrue tile =>
      rcases List.mem_cons.1 mem with rfl | mem
      · exact ⟨List.mem_cons_self, tile⟩
      · exact ⟨List.mem_cons_of_mem _ (ih mem).1, (ih mem).2⟩
    case isFalse => exact ⟨List.mem_cons_of_mem _ (ih mem).1, (ih mem).2⟩

/-- A payload whose chime word agrees leaves unharmed where no injection is armed. -/
theorem payloadLeaves_quiet (quiet : s.dev.injections = []) (rid : Nat) {x : Nat × Nat}
    (agrees : s.chime x.1 = payloadChime (s.cell x.1) (slotBytes s x.1)) : payloadLeaves s n p rid x = (s, none) := by
  simp only [payloadLeaves]
  split
  · rfl
  · split
    · rfl
    · exact transit_quiet s _ _ quiet agrees

theorem cutImage_quiet (quiet : s.dev.injections = [])
    (agree : ∀ x ∈ imageCells s n p, symKind (s.cell x) = 8 → s.chime x = payloadChime (s.cell x) (slotBytes s x)) :
    cutImage s n p = (s, imageBytes s n p) := by
  have stays : ∀ va, payloadsLeave s n p 0 va (imageCells s n p) = (s, s) := fun va =>
    foldl_stays _ fun x hx => by
      obtain ⟨mem, tile⟩ := mem_payloadOffs hx
      simp [payloadLeaves_quiet quiet 0 (agree x.1 mem tile)]
  simp [cutImage, stays]

/-- The device without a partition that has left. -/
theorem leave_facts (s : State) (n : Nat) (p : Part) : (leave s n p).part n = none ∧ (leave s n p).mem = s.mem ∧ (leave s n p).cells = s.cells
    ∧ (leave s n p).pcbs = s.pcbs ∧ ∀ k g, (leave s n p).agent k = some g → g.part ≠ n := by
  have tiles := foldl_releaseTiles (s.agents.filter fun e => e.2.part = n) s
  have blocks : ((s.agents.filter fun e => e.2.part = n).foldl (fun t e => releaseTiles t e.2) s).pcbs = s.pcbs :=
    foldl_inv (fun t : State => t.pcbs = s.pcbs) (fun t (e : Nat × Agent) => releaseTiles t e.2) (fun _ _ h => h) _ _ rfl
  refine ⟨Tbl.find_drop_same .., tiles.1, tiles.2, blocks, fun k g hg => ?_⟩
  have mem := Tbl.mem_of_find hg
  simp only [leave, List.mem_filter, decide_eq_true_eq] at mem
  exact mem.2

/-- A removal of cores changes cores and the device alone. -/
theorem applyRemovals_rest {α : Type} (f : State → α) (noCores : ∀ t x d, f { t with cores := x, dev := d } = f t) (s : State) :
    f (applyRemovals s) = f s :=
  foldl_inv (fun t => f t = f s) removeCore (fun t c h => by
    unfold removeCore
    split
    · exact (noCores t _ _).trans h
    · exact h) _ s rfl

theorem exec_imageValid (hp : s.part n = some p) (cut : p.pre = .cut false) (once : p.again = false) {u : State}
    (written : writeVa s p.asid ((s.pcb n).save.toNat + 8) (toLe 4 1) = some u) :
    exec (.imageValid n) s = .next (applyRemovals (State.modPcb
      { leave u n p with savedParts := Tbl.put u.savedParts n { p with pre := .saved } } n fun b => { b with state := 3 })) := by
  change execImageValid n s = _
  simp [execImageValid, hp, cut, once, written]

end

end Sys2Proof.Machine

section

open Sys2Proof Sys2Proof.Machine

/-- Settles O50: every step of a pre-emption by its own equation; the freeze undoes exactly the admitted records, for their identifiers
differ. -/
theorem preemption : Obligations.Preemption := by
  unfold Obligations.Preemption
  intro s n p hp
  refine ⟨fun live => exec_pcbPreempt_live live hp, exec_pcbPreempt_other, fun wide asked => ⟨exec_preemptMarkerArrival_busy hp asked,
    exec_preemptMarkerArrival_asked hp asked⟩, fun reach wide marker => ⟨exec_preemptMarkerArrival_early hp marker, fun there ids => ?_⟩,
    fun wide cut once => ?_⟩
  · obtain ⟨part, cells, pending⟩ := freezeAll_leaves hp wide
    refine ⟨_, _, exec_preemptMarkerArrival_there hp marker there, part, ?_, rfl, rfl, ?_, ?_, fun h => freezeAll_mem h wide, cells, pending,
      fun k x found asid used => ?_⟩
    · rw [Part.withdrawAll_eq]
      rfl
    · rw [Part.withdrawAll_eq]
      simp only [Part.cutAt, List.map_map]
      exact List.map_congr_left fun r mem => (Record.stilled_state ..).trans (Part.withdrawAll_state ids _ mem)
    · rw [Part.withdrawAll_eq]
      simp only [Part.cutAt, List.map_map]
      exact List.map_congr_left fun r _ => (Record.stilled_start ..).trans (Record.withdrawAll_facts _ _ r).2.1
    · rw [freezeAll_ctx found, Ctx.atMarker, if_pos ⟨asid, used⟩]
  · refine ⟨exec_cutComplete_waits hp cut, fun u all => exec_cutComplete_writes hp cut all, fun quiet => cutImage_quiet quiet.2,
      fun u narrow written => ?_⟩
    subst narrow
    obtain ⟨part, mem, cells, -, agents⟩ := leave_facts u n p
    refine ⟨_, exec_imageValid hp cut once written, ?_, ?_, ?_, ?_, ?_, ?_⟩
    · exact (applyRemovals_rest (fun t => t.part n) (fun _ _ _ => rfl) _).trans part
    · refine (congrArg Pcb.state (applyRemovals_rest (fun t => t.pcb n) (fun _ _ _ => rfl) _)).trans ?_
      simp [State.modPcb]
    · refine (applyRemovals_rest (fun t => Tbl.find t.savedParts n) (fun _ _ _ => rfl) _).trans ?_
      simp [State.modPcb]
    · exact (applyRemovals_rest State.mem (fun _ _ _ => rfl) _).trans mem
    · refine (applyRemovals_rest State.cells (fun _ _ _ => rfl) _).trans (cells.trans ?_)
      exact writeVa_inv (P := fun t => t.cells = s.cells) (fun t q _ h => by cases q <;> exact h) rfl written
    · intro k g hg
      refine agents k g (Eq.trans (Eq.symm ?_) hg)
      exact applyRemovals_rest (fun t => t.agent k) (fun _ _ _ => rfl) _

end

/-! PROOF. O51: what a restore places, how everything goes on, and the commands of a partition control block. -/

namespace Sys2Proof.Machine

open Sys2Proof

/-! ## A restore (R246) -/

/-- A partition that differs from another in its traps alone. -/
def Part.trapsAside (p q : Part) : Prop := ∃ ts k rs w, q = { p with traps := ts, trapCount := k, raised := rs, ended := w }

/-- A partition stands in a state, its traps aside. -/
def State.holds (s : State) (n : Nat) (p : Part) : Prop := ∃ q, s.part n = some q ∧ p.trapsAside q

theorem Part.trapsAside_refl (p : Part) : p.trapsAside p := ⟨_, _, _, _, rfl⟩

theorem State.holds_of_parts {s t : State} {n : Nat} {p : Part} (same : t.parts = s.parts) (h : s.holds n p) : t.holds n p := by
  obtain ⟨q, part, aside⟩ := h
  exact ⟨q, (congrArg (Tbl.find · n) same).trans part, aside⟩

/-- Its traps change. -/
theorem State.holds_modPart {s : State} {n : Nat} {p : Part} {f : Part → Part} (h : s.holds n p) (traps : ∀ q : Part, q.trapsAside (f q)) :
    (s.modPart n f).holds n p := by
  obtain ⟨q, part, _, _, _, _, rfl⟩ := h
  obtain ⟨_, _, _, _, e⟩ := traps _
  exact ⟨_, by rw [State.modPart_eq part, State.part_setPart, e], _, _, _, _, rfl⟩

theorem putAgent_parts (s : State) (n : Nat) (m : ImageIn) (asid : Nat) (a : AgentImage) : (putAgent s n m asid a).parts = s.parts := by
  unfold putAgent
  split <;> rfl

theorem restoreCore_parts (s : State) (core : Nat) (b : List Byte) (queue : List QEntry) (f : Core → Core) :
    ((putCore s core b queue).modCore core f).parts = s.parts := rfl

theorem writeVa_parts {s u : State} {asid va : Nat} {l : List Byte} (h : writeVa s asid va l = some u) : u.parts = s.parts :=
  writeVa_inv (P := fun t => t.parts = s.parts) (fun t q _ h => by cases q <;> exact h) rfl h

theorem restoreAll_holds (s : State) (n : Nat) (m : ImageIn) (cells : List Nat) (ops : List Oper) (handler : Option Nat) :
    ∃ q, (restoreAll s n m cells ops handler).part n = some q ∧ q.pre = .saved ∧ q.j = (s.pcb n).arg.toNat % 16 ∧ q.asid = leAt m.head 16 2
      ∧ q.opers = ops ∧ q.handler = handler ∧ q.peal = leAt m.head 24 8 ∧ q.nextRec = leAt m.head 32 4
      ∧ q.records.length = m.recs.length := by
  unfold restoreAll
  extract_lets h j asid w s0 s1 target kept beside recs0 tq fresh q0 recs s2 s3 s4 s5 s6 ts held s7 s8
  have placed : s2.holds n { q0 with records := recs } := ⟨_, State.part_setPart .., Part.trapsAside_refl _⟩
  have cleared : s3.holds n { q0 with records := recs } :=
    foldl_inv (fun t : State => t.holds n _) _ (fun t c h => State.holds_of_parts (kept_wr ..).parts h) _ _ placed
  have cores : s4.holds n { q0 with records := recs } :=
    foldl_inv (fun t : State => t.holds n _) _ (fun t c h => State.holds_of_parts (restoreCore_parts ..) h) _ _ cleared
  have loaded : s5.holds n { q0 with records := recs } :=
    foldl_inv (fun t : State => t.holds n _) _ (fun t r h => foldl_inv (fun u : State => u.holds n _) _ (fun u c h => by
      split
      · exact State.holds_of_parts (kept_loadMicro ..).parts h
      · exact h) _ _ h) _ _ cores
  have agents : s6.holds n { q0 with records := recs } :=
    foldl_inv (fun t : State => t.holds n _) _ (fun t a h => State.holds_of_parts (putAgent_parts ..) h) _ _ loaded
  have trapped : s7.holds n { q0 with records := recs } := State.holds_modPart agents fun q => ⟨_, _, _, _, rfl⟩
  have written : s8.holds n { q0 with records := recs } := by
    refine foldl_inv (fun t : State => t.holds n _) _ (fun t x h => ?_) _ _ trapped
    have lost : ∀ w : Option Word, (t.modPart n fun p => { p with ended := p.ended <|> w }).holds n { q0 with records := recs } := fun w =>
      State.holds_modPart h fun q => ⟨_, _, _, _, rfl⟩
    dsimp only
    split
    · exact lost _
    · split
      case h_1 _ _ _ u e => exact State.holds_of_parts (writeVa_parts e) h
      case h_2 => exact lost _
  obtain ⟨q, part, _, _, _, _, rfl⟩ := written
  have length : recs.length = m.recs.length := by simp [recs, recordsBeside, q0, recs0]
  exact ⟨_, part, rfl, rfl, rfl, rfl, rfl, rfl, rfl, length⟩

section

variable {s : State} {n : Nat}

/-- The command taken, and the cores removed that no live partition spans. -/
def cleared (s : State) (n : Nat) : State := applyRemovals (s.setPcb n { s.pcb n with cmd := 0 })

theorem cleared_pcb : (cleared s n).pcb n = { s.pcb n with cmd := 0 } :=
  (applyRemovals_rest (fun t => t.pcb n) (fun _ _ _ => rfl) _).trans (State.pcb_setPcb ..)

theorem cleared_free (can : (s.pcb n).state = 0 ∨ (s.pcb n).state = 3) :
    ¬ (((s.modPcb n fun b => { b with cmd := 0 }).pcb n).state ≠ 0 ∧ ((s.modPcb n fun b => { b with cmd := 0 }).pcb n).state ≠ 3) := by
  rw [State.pcb_modPcb]
  exact fun other => can.elim other.1 other.2

theorem exec_pcbRestore_taken (free : (s.pcb n).state ≠ 0) (saved : (s.pcb n).state ≠ 3) :
    exec (.pcbRestore n) s = .next (s.setPcb n { s.pcb n with cmd := 0 }) := by
  change execPcbRestore n s = _
  simp [execPcbRestore, State.modPcb, free, saved]

theorem exec_pcbRestore_refused (can : (s.pcb n).state = 0 ∨ (s.pcb n).state = 3) {st : Nat}
    (refused : restoreStatus (cleared s n) n = (st, none)) :
    exec (.pcbRestore n) s = .next ((cleared s n).setPcb n { s.pcb n with cmd := 0, rstat := st }) := by
  have again : applyRemovals (s.modPcb n fun b => { b with cmd := 0 }) = cleared s n := rfl
  change execPcbRestore n s = _
  simp only [execPcbRestore, again, if_neg (cleared_free can), refused]
  simp only [State.modPcb, cleared_pcb]

theorem exec_pcbRestore_places (can : (s.pcb n).state = 0 ∨ (s.pcb n).state = 3) {st : Nat} {m : ImageIn} {cells : List Nat} {ops : List Oper}
    {h : Option Nat} (read : restoreStatus (cleared s n) n = (st, some (m, cells, ops, h))) :
    exec (.pcbRestore n) s = .next (sched ((restoreAll (cleared s n) n m cells ops h).modPcb n fun b => { b with state := 4 }) (ceilDiv m.size 64)
      (.restorePlacementEnd n)) := by
  have again : applyRemovals (s.modPcb n fun b => { b with cmd := 0 }) = cleared s n := rfl
  change execPcbRestore n s = _
  simp only [execPcbRestore, again, if_neg (cleared_free can), read]

end

/-! ## Going on (R247) -/

/-- Engines and agenda go on; agents, row, clock, partitions and blocks stand. -/
structure State.Calm (s t : State) : Prop extends State.Kept s t where
  pcbs : t.pcbs = s.pcbs

theorem State.Calm.refl (s : State) : s.Calm s := ⟨.refl s, rfl⟩

theorem State.Calm.trans {s t u : State} (h : s.Calm t) (k : t.Calm u) : s.Calm u := ⟨h.toKept.trans k.toKept, k.pcbs.trans h.pcbs⟩

theorem State.Calm.foldl {β : Type} {f : State → β → State} {l : List β} (hf : ∀ x ∈ l, ∀ t, State.Calm t (f t x)) (s : State) :
    s.Calm (l.foldl f s) := by
  induction l generalizing s with
  | nil => exact .refl s
  | cons x l ih => exact (hf x List.mem_cons_self s).trans (ih (fun y hy => hf y (List.mem_cons_of_mem _ hy)) _)

theorem calm_schedOnce (s : State) (k : Nat) (i : Instr) : s.Calm (schedOnce s k i) := by
  refine ⟨kept_schedOnce .., ?_⟩
  unfold schedOnce
  split <;> rfl

theorem calm_pump (s : State) (core : Nat) : s.Calm (pump s core) := by
  simp only [pump]
  split
  · exact .refl s
  · split
    · exact .refl s
    · exact calm_schedOnce ..
  · split
    · exact .refl s
    · exact calm_schedOnce ..
  · exact calm_schedOnce ..

theorem calm_setCore_sched (s : State) (c : Nat) (x : Core) (k : Nat) (i : Instr) : s.Calm (sched (s.setCore c x) k i) :=
  ⟨(kept_setCore ..).trans (kept_sched ..), rfl⟩

theorem calm_pumpCopies (s : State) (core : Nat) : s.Calm (pumpCopies s core) := by
  refine State.Calm.foldl (fun x _ t => ?_) s
  dsimp only
  split
  · split
    · exact .refl t
    · exact calm_setCore_sched ..
  · split
    · exact .refl t
    · exact calm_setCore_sched ..
  · exact .refl t

theorem calm_pumpRels (s : State) (core : Nat) : s.Calm (pumpRels s core) := by
  refine State.Calm.foldl (fun r _ t => ?_) s
  split
  · exact .refl t
  · exact calm_schedOnce ..

theorem calm_modCore (s : State) (c : Nat) (f : Core → Core) : s.Calm (s.modCore c f) := ⟨kept_setCore .., rfl⟩

theorem calm_thawEngine (s : State) (core : Nat) : s.Calm (thawEngine s core) :=
  ((calm_modCore ..).trans (calm_pump ..)).trans ((calm_pumpCopies ..).trans (calm_pumpRels ..))

theorem calm_resumeRecord {r : Record} (running : r.state = .running) (s : State) (n : Nat) : s.Calm (resumeRecord s n r) := by
  simp only [resumeRecord, running]
  refine State.Calm.foldl (fun g _ t => ?_) s
  split
  · exact .refl t
  · exact calm_schedOnce ..

/-- An agent goes on now. -/
def Agent.wokenIn (n now : Nat) (g : Agent) : Agent := if g.part = n then { g with wakeAt := now, lastIssue := now } else g

/-- The streams of a restored partition have their contexts: cores, contexts and agents go on. -/
def thawed (now : Nat) (s : State) (n : Nat) (p : Part) : State :=
  let t := (s.live n p).foldl (fun t c => thawEngine (t.modCore c fun x => { x with chains := x.chains.map fun ch => { ch with frozen := false } }) c) s
  { t with
    ctxs := t.ctxs.map fun e => if e.2.status = .stopped ∧ e.2.asid = p.asid then (e.1, { e.2 with status := .running, wakeAt := now + 1 }) else e
    agents := t.agents.map fun e => if e.2.part = n then (e.1, { e.2 with wakeAt := now, lastIssue := now }) else e }

/-- Accesses that the cut found waiting are on their way again. -/
def rewalked (s : State) (n : Nat) : State :=
  (s.agents.filter fun e => e.2.part = n).foldl (fun t e =>
    (e.2.outs.filter fun a => a.phase = .parked).foldl (fun u a => schedFree u (.translationWalkDone (.agent e.2.core e.2.slot a.id))) t) s

/-- The block is live again. -/
def unsaved (s : State) (n : Nat) (p : Part) : State :=
  ((s.setPart n { p with streams := [] }).modPart n fun q => { q with pre := .none }).modPcb n fun b => { b with state := 1, rstat := 0 }

theorem unsaved_eq (s : State) (n : Nat) (p : Part) : unsaved s n p =
    (s.setPart n { p with streams := [], pre := .none }).setPcb n { s.pcb n with state := 1, rstat := 0 } := by
  have part := State.modPart_eq (State.part_setPart s n { p with streams := [] }) fun q => { q with pre := .none }
  rw [unsaved, part, State.setPart_setPart]
  rfl

/-- A sweep starts, the records go on, the cancels held have acted. -/
def resumed (s : State) (n : Nat) (p : Part) : State :=
  (p.records.foldl (fun t r => resumeRecord t n r) (startSweep (rewalked (thawed s.cycle (unsaved s n p) n p) n) n)).modPart n fun q => { q with heldCancels := [] }

theorem exec_restorePlacementEnd_eq {s : State} {n : Nat} {p : Part} (hp : s.part n = some p) (saved : p.pre = .saved) (streams : p.streams = []) :
    exec (.restorePlacementEnd n) s = .next (
      let t := planRun (p.heldCancels.foldl (fun t r => schedOnce t 0 (.cancelEffect n r)) (resumed s n p)) n
      if ((t.part n).map fun q => q.raised.isEmpty && q.ended.isNone).getD true then t else schedOnce t 0 (.trapEnqueue n)) := by
  change execRestorePlacementEnd n s = _
  simp only [execRestorePlacementEnd, hp]
  rw [if_neg (not_not.2 saved), streams]
  simp only [placeStreams, State.part_setPart, Option.map_some, Option.getD_some, List.isEmpty_nil, Bool.not_true, Bool.false_eq_true, if_false]
  rfl

/-- A partition that goes on: its records stand, its peal counts on, its sweep runs. -/
structure Resumed (s : State) (n : Nat) (p : Part) (t : State) : Prop where
  part : ∃ q, t.part n = some q ∧ q.pre = .none ∧ q.records = p.records ∧ q.peal = p.peal + 1 ∧ q.traps = p.traps
  block : (t.pcb n).state = 1 ∧ (t.pcb n).rstat = 0
  pending : pendingEvent t (.sweepComplete n) = true
  cells : t.cells = s.cells
  agents : t.agents = s.agents.map fun e => (e.1, e.2.wokenIn n s.cycle)

theorem Resumed.calm {s t u : State} {n : Nat} {p : Part} (h : Resumed s n p t) (k : t.Calm u) : Resumed s n p u where
  part := by simpa only [State.part, k.parts] using h.part
  block := by simpa only [State.pcb, k.pcbs] using h.block
  pending := k.pending _ h.pending
  cells := k.cells.trans h.cells
  agents := k.agents.trans h.agents

theorem calm_thawing (s : State) (l : List Nat) : s.Calm (l.foldl (fun t c =>
    thawEngine (t.modCore c fun x => { x with chains := x.chains.map fun ch => { ch with frozen := false } }) c) s) :=
  State.Calm.foldl (fun _ _ _ => (calm_modCore ..).trans (calm_thawEngine ..)) s

theorem calm_rewalked (s : State) (n : Nat) : s.Calm (rewalked s n) :=
  State.Calm.foldl (fun _ _ _ => State.Calm.foldl (fun _ _ _ => ⟨kept_schedFree .., rfl⟩) _) s

theorem resumed_facts {s : State} {n : Nat} {p : Part} (idle : p.sweep = none) (running : ∀ r ∈ p.records, r.state = .running) :
    Resumed s n p (resumed s n p) := by
  have block : (unsaved s n p).part n = some { p with streams := [], pre := .none } := by
    rw [unsaved_eq]
    exact State.part_setPart ..
  have thaw := calm_thawing (unsaved s n p) ((unsaved s n p).live n p)
  have walk := calm_rewalked (thawed s.cycle (unsaved s n p) n p) n
  have before : (rewalked (thawed s.cycle (unsaved s n p) n p) n).part n = some { p with streams := [], pre := .none } := by
    rw [State.part, walk.parts]
    exact (congrArg (Tbl.find · n) thaw.parts).trans block
  obtain ⟨⟨tab, com, stop, part⟩, pcb, pending⟩ := startSweep_begins before rfl idle
  have beside := beside_startSweep (rewalked (thawed s.cycle (unsaved s n p) n p) n) n
  have begun : Resumed s n p (startSweep (rewalked (thawed s.cycle (unsaved s n p) n p) n) n) := by
    refine ⟨⟨_, part, rfl, rfl, rfl, rfl⟩, ?_, pending, ?_, ?_⟩
    · rw [pcb, State.pcb, walk.pcbs]
      have live : (unsaved s n p).pcb n = { s.pcb n with state := 1, rstat := 0 } := by
        rw [unsaved_eq]
        exact State.pcb_setPcb ..
      have same := (congrArg (fun l => (Tbl.find l n).getD Pcb.reset) thaw.pcbs).trans live
      exact ⟨congrArg Pcb.state same, congrArg Pcb.rstat same⟩
    · exact beside.cells.trans (walk.cells.trans (thaw.cells.trans (by rw [unsaved_eq]; rfl)))
    · refine beside.agents.trans (walk.agents.trans ?_)
      refine (congrArg (List.map _) (thaw.agents.trans (by rw [unsaved_eq]; rfl))).trans (List.map_congr_left fun e _ => ?_)
      rw [Agent.wokenIn]
      split <;> rfl
  have all := begun.calm (State.Calm.foldl (fun r mem t => calm_resumeRecord (running r mem) t n) _)
  obtain ⟨q, here, pre, records, peal, traps⟩ := all.part
  rw [resumed, State.modPart_eq here]
  exact ⟨⟨_, State.part_setPart .., pre, records, peal, traps⟩, all.block, all.pending, all.cells, all.agents⟩

theorem planRun_idle {s : State} {n : Nat} {p : Part} (hp : s.part n = some p) (traps : p.traps = []) : planRun s n = s := by
  simp only [planRun, hp, traps, or_true, if_true]
  split <;> rfl

theorem exec_restorePlacementEnd {s : State} {n : Nat} {p : Part} (hp : s.part n = some p) (saved : p.pre = .saved) (streams : p.streams = [])
    (cancels : p.heldCancels = []) (traps : p.traps = []) (idle : p.sweep = none) (running : ∀ r ∈ p.records, r.state = .running) :
    ∃ t, exec (.restorePlacementEnd n) s = .next t ∧ Resumed s n p t := by
  have facts := resumed_facts (s := s) (n := n) idle running
  obtain ⟨q, part, -, -, -, none_⟩ := facts.part
  refine ⟨_, exec_restorePlacementEnd_eq hp saved streams, ?_⟩
  simp only [cancels, List.foldl_nil, planRun_idle part (none_.trans traps)]
  split
  · exact facts
  · exact facts.calm (calm_schedOnce ..)

/-! ## Commands of a partition control block (R294) -/

section

variable {s : State} {n : Nat} {p : Part}

theorem exec_pcbCancelRecord_none (gone : s.part n = none) : exec (.pcbCancelRecord n) s = .next (s.setPcb n { s.pcb n with cmd := 0 }) := by
  have part : (takeCmd s n).part n = none := gone
  change execPcbCancelRecord n s = _
  simp only [execPcbCancelRecord, part]
  rfl

theorem exec_pcbCancelRecord_acts (hp : s.part n = some p) :
    exec (.pcbCancelRecord n) s = .next (sched (s.setPcb n { s.pcb n with cmd := 0 }) 0 (.cancelEffect n (s.pcb n).arg.toNat)) := by
  have part : (takeCmd s n).part n = some p := hp
  change execPcbCancelRecord n s = _
  simp only [execPcbCancelRecord, part]
  simp only [takeCmd, State.modPcb, State.pcb_setPcb]

theorem takeCmd_state : ((takeCmd s n).pcb n).state = (s.pcb n).state := by rw [takeCmd, State.pcb_modPcb]

theorem exec_pcbCancelPartition : exec (.pcbCancelPartition n) s =
    .next (if (s.pcb n).state = 1 then endWhole (takeCmd s n) n 0x02 0 else takeCmd s n) := by
  change execPcbCancelPartition n s = _
  simp only [execPcbCancelPartition, takeCmd_state]

theorem exec_pcbRelease : exec (.pcbRelease n) s = .next (if (s.pcb n).state ≠ 3 then takeCmd s n
    else State.modPcb { takeCmd s n with savedParts := Tbl.drop s.savedParts n } n fun b => { b with state := 0 }) := by
  change execPcbRelease n s = _
  simp only [execPcbRelease, takeCmd_state]
  rfl

/-- A partition that is full of rows runs its handler for that. -/
def Part.rowFull (p : Part) : Prop := ∃ q, p.run = some q ∧ q.raised.trap.cause = 0xC0

theorem Part.rowFull_iff : p.rowFull ↔ (p.run.map fun q => decide (q.raised.trap.cause = 0xC0)).getD false = true := by
  unfold Part.rowFull
  cases p.run <;> simp

/-- The new first core of a partition that takes its sibling, and the sibling's. -/
def Part.wider (p : Part) (n : Nat) : Nat := n - n % 2 ^ (p.j + 1)

def Part.sibling (p : Part) (n : Nat) : Nat := if p.wider n = n then n + 2 ^ p.j else p.wider n

theorem takeCmd_rstat (st : Nat) : ((takeCmd s n).modPcb n fun b => { b with rstat := st }) =
    (s.setPcb n { s.pcb n with cmd := 0 }).setPcb n { s.pcb n with cmd := 0, rstat := st } := by
  simp only [takeCmd, State.modPcb, State.pcb_setPcb]

theorem exec_pcbExtend (hp : s.part n = some p) : exec (.pcbExtend n) s = .next (
    if !((p.run.map fun q => decide (q.raised.trap.cause = 0xC0)).getD false) then takeCmd s n
    else if p.j = 12 then (takeCmd s n).modPcb n fun b => { b with rstat := 0x06 }
    else if overlapsLive s (p.sibling n) p.j then (takeCmd s n).modPcb n fun b => { b with rstat := 0x1B } else extend (takeCmd s n) n p) := by
  have part : (takeCmd s n).part n = some p := hp
  change execPcbExtend n s = _
  simp only [execPcbExtend, part]
  rfl

theorem exec_pcbExtend_other (hp : s.part n = some p) (other : ¬ p.rowFull) : exec (.pcbExtend n) s = .next (takeCmd s n) := by
  rw [exec_pcbExtend hp, if_pos (by simpa using mt p.rowFull_iff.2 other)]

theorem exec_pcbExtend_whole (hp : s.part n = some p) (full : p.rowFull) (whole : p.j = 12) :
    exec (.pcbExtend n) s = .next ((s.setPcb n { s.pcb n with cmd := 0 }).setPcb n { s.pcb n with cmd := 0, rstat := 0x06 }) := by
  rw [exec_pcbExtend hp, if_neg (by simpa using p.rowFull_iff.1 full), if_pos whole, takeCmd_rstat]

theorem exec_pcbExtend_taken (hp : s.part n = some p) (full : p.rowFull) (part : p.j ≠ 12) (taken : overlapsLive s (p.sibling n) p.j = true) :
    exec (.pcbExtend n) s = .next ((s.setPcb n { s.pcb n with cmd := 0 }).setPcb n { s.pcb n with cmd := 0, rstat := 0x1B }) := by
  rw [exec_pcbExtend hp, if_neg (by simpa using p.rowFull_iff.1 full), if_neg part, if_pos taken, takeCmd_rstat]

theorem exec_pcbExtend_free (hp : s.part n = some p) (full : p.rowFull) (part : p.j ≠ 12) (free : overlapsLive s (p.sibling n) p.j = false) :
    exec (.pcbExtend n) s = .next (extend (takeCmd s n) n p) := by
  rw [exec_pcbExtend hp, if_neg (by simpa using p.rowFull_iff.1 full), if_neg part, if_neg (Bool.eq_false_iff.1 free)]

end

/-! ### The sibling's cells (R70) -/

/-- What every step of a loop keeps is kept by the loop. -/
theorem foldl_kept {σ β : Type} {Q : σ → Prop} {f : σ → β → σ} {l : List β} (step : ∀ x, ∀ a ∈ l, Q x → Q (f x a)) {x : σ} (h : Q x) :
    Q (l.foldl f x) := by
  induction l generalizing x with
  | nil => exact h
  | cons a l ih => exact ih (fun y b hb => step y b (List.mem_cons_of_mem _ hb)) (step x a List.mem_cons_self h)

/-- What every step of a loop keeps holds behind the step that makes it. -/
theorem foldl_made {σ β : Type} {Q : σ → Prop} {f : σ → β → σ} {b : β} {l : List β} (step : ∀ x, ∀ a ∈ l, Q x → Q (f x a))
    (here : ∀ x, Q (f x b)) (mem : b ∈ l) (x : σ) : Q (l.foldl f x) := by
  obtain ⟨before, after, rfl⟩ := List.append_of_mem mem
  rw [List.foldl_append, List.foldl_cons]
  exact foldl_kept (fun y a ha => step y a (List.mem_append_right _ (List.mem_cons_of_mem _ ha))) (here _)

/-- A clearing of cells changes nothing but cells. -/
theorem clearCells_rest {α : Type} (f : State → α) (noCells : ∀ t x y, f { t with cells := x, cellChime := y } = f t) (s : State) (first j : Nat) :
    f (clearCells s first j) = f s :=
  foldl_inv (fun t => f t = f s) _ (fun _ _ h => foldl_inv (fun t => f t = f s) _ (fun t _ h => (noCells t _ _).trans h) _ _ h) _ _ rfl

/-- What a cleared cell holds. -/
def clearedWord (s : State) (core : Nat) : Word := if (s.core core).removed then blockedWord else 0

/-- The cell k of a core cleared. -/
def clearCell (s : State) (core : Nat) (u : State) (k : Nat) : State := (u.setCell (64 * core + k) (clearedWord s core)).setChime (64 * core + k) 0

theorem clearCells_eq (s : State) (first j : Nat) :
    clearCells s first j = (List.range (2 ^ j)).foldl (fun t i => (List.range 64).foldl (clearCell s (first + i)) t) s := rfl

theorem clearCell_cell (s : State) (core : Nat) (u : State) (k i : Nat) :
    (clearCell s core u k).cell i = if i = 64 * core + k then clearedWord s core else u.cell i := State.cell_setCell ..

theorem clearCells_cell (s : State) {first j c k : Nat} (low : first ≤ c) (high : c < first + 2 ^ j) (within : k < 64) :
    (clearCells s first j).cell (64 * c + k) = clearedWord s c := by
  have keeps : ∀ core, ∀ t : State, ∀ l ∈ List.range 64, t.cell (64 * c + k) = clearedWord s c →
      (clearCell s core t l).cell (64 * c + k) = clearedWord s c := by
    intro core t l hl h
    rw [clearCell_cell]
    split
    case isTrue e =>
      have same : core = c := by have := List.mem_range.1 hl; omega
      rw [same]
    case isFalse => exact h
  have stays : ∀ core, ∀ t : State, t.cell (64 * c + k) = clearedWord s c →
      ((List.range 64).foldl (clearCell s core) t).cell (64 * c + k) = clearedWord s c := by
    intro core t h
    exact foldl_kept (Q := fun t : State => t.cell (64 * c + k) = clearedWord s c) (keeps core) h
  rw [clearCells_eq]
  refine foldl_made (Q := fun t : State => t.cell (64 * c + k) = clearedWord s c) (b := c - first) (fun t i _ h => stays _ t h) (fun t => ?_)
    (List.mem_range.2 (by omega)) s
  rw [Nat.add_sub_cancel' low]
  refine foldl_made (Q := fun t : State => t.cell (64 * c + k) = clearedWord s c) (b := k) (keeps c) (fun t => ?_) (List.mem_range.2 within) t
  rw [clearCell_cell, if_pos rfl]

/-- Where the partition stands behind its move. -/
theorem movePart_facts {s : State} {n : Nat} {p : Part} (hp : s.part n = some p) (m : Nat) :
    (movePart s n m).part m = some p ∧ (m ≠ n → (movePart s n m).part n = none) ∧ (movePart s n m).mem = s.mem
    ∧ (movePart s n m).cells = s.cells := by
  unfold movePart
  split
  case isTrue same => exact ⟨same ▸ hp, fun other => absurd same.symm other, rfl, rfl⟩
  case isFalse other =>
    simp only [hp]
    refine ⟨Tbl.find_put_same .., fun _ => ?_, rfl, rfl⟩
    exact (Tbl.find_put_other _ _ _ _ other).trans (Tbl.find_drop_same ..)

theorem mapMore_eq (p : Part) (cores : List Nat) : ∃ map, mapMore p cores = { p with map := map } := by
  unfold mapMore
  split
  · exact ⟨p.map, rfl⟩
  · exact ⟨_, rfl⟩

/-- The partition with its sibling: wider, of other cores, as it was. -/
theorem extend_facts {s : State} {n : Nat} (p : Part) :
    ∃ q, (extend s n p).part (p.wider n) = some q ∧ q.j = p.j + 1 ∧ q.records = p.records ∧ q.run = p.run ∧ q.asid = p.asid
      ∧ ((extend s n p).pcb (p.wider n)).rstat = 0 ∧ (p.wider n ≠ n → (extend s n p).part n = none) ∧ (extend s n p).mem = s.mem
      ∧ ∀ c k, p.sibling n ≤ c → c < p.sibling n + 2 ^ p.j → k < 64 → (extend s n p).cell (64 * c + k) = clearedWord s c := by
  let added := ((List.range (2 ^ p.j)).map (p.sibling n + ·)).filter fun c => !(s.core c).removed
  have e : extend s n p = (movePart ((clearCells s (p.sibling n) p.j).setPart n { mapMore p added with j := p.j + 1 }) n (p.wider n)).modPcb (p.wider n)
      fun b => { b with rstat := 0 } := rfl
  obtain ⟨map, more⟩ := mapMore_eq p added
  rw [more] at e
  obtain ⟨part, gone, mem, cells⟩ := movePart_facts (State.part_setPart (clearCells s (p.sibling n) p.j) n { p with map := map, j := p.j + 1 }) (p.wider n)
  rw [e]
  refine ⟨_, part, rfl, rfl, rfl, rfl, by rw [State.pcb_modPcb], gone, ?_, fun c k low high within => ?_⟩
  · exact mem.trans (clearCells_rest State.mem (fun _ _ _ => rfl) s _ _)
  · exact (congrArg (fun l => (Tbl.find l (64 * c + k)).getD 0) cells).trans (clearCells_cell s low high within)

end Sys2Proof.Machine

section

open Sys2Proof Sys2Proof.Machine

/-- Settles O51: a restore by what it places, its end by what goes on, each command by its equation. -/
theorem restoring : Obligations.Restoring := by
  unfold Obligations.Restoring
  refine ⟨⟨fun s n => ⟨exec_pcbRestore_taken, fun can => ⟨fun st => exec_pcbRestore_refused can, fun m cells ops h read => ?_⟩⟩,
    fun s n p hp saved streams cancels traps idle running => ?_⟩, fun s n => ⟨exec_pcbCancelRecord_none, fun p => exec_pcbCancelRecord_acts,
    fun live => ?_, fun other => ?_, fun saved => ?_, fun other => ?_, fun p hp => ⟨exec_pcbExtend_other hp, exec_pcbExtend_whole hp, exec_pcbExtend_taken hp,
      fun full part free => ?_⟩⟩⟩
  · obtain ⟨q, part, pre, j, asid, opers, handler, peal, next, length⟩ := restoreAll_holds (cleared s n) n m cells ops h
    rw [cleared_pcb] at j
    exact ⟨_, q, exec_pcbRestore_places can read, by rw [sched_home_pcb, State.pcb_modPcb], part, pre, j, asid, opers, handler, peal, next, length,
      (pendingEvent_sched ..).2 (.inl rfl)⟩
  · obtain ⟨t, goes, facts⟩ := exec_restorePlacementEnd hp saved streams cancels traps idle running
    obtain ⟨q, part, pre, records, peal, -⟩ := facts.part
    have agent : ∀ k, t.agent k = (s.agent k).map (Agent.wokenIn n s.cycle) := fun k => by
      rw [State.agent, facts.agents]
      exact Tbl.find_map ..
    refine ⟨t, q, goes, part, pre, records, peal, facts.block.1, facts.block.2, facts.pending, facts.cells, fun k g found mine => ?_,
      fun k g found other => ?_⟩
    · rw [agent, found, Option.map_some, Agent.wokenIn, if_pos mine]
    · rw [agent, found, Option.map_some, Agent.wokenIn, if_neg other]
  · rw [exec_pcbCancelPartition, if_pos live]
    rfl
  · rw [exec_pcbCancelPartition, if_neg other]
    rfl
  · refine ⟨_, exec_pcbRelease.trans (congrArg _ (if_neg (not_not.2 saved))), Tbl.find_drop_same .., ?_, rfl, rfl⟩
    simp [State.modPcb, takeCmd, State.pcb, State.setPcb]
  · rw [exec_pcbRelease, if_pos other]
    rfl
  · obtain ⟨q, here, facts⟩ := extend_facts (s := takeCmd s n) (n := n) p
    exact ⟨_, q, exec_pcbExtend_free hp full part free, here, facts⟩

end

/-! PROOF. What leaves the device alone: faults, answers, posted writes, the end of a collective, what a cycle begins with. -/

namespace Sys2Proof.Machine

open Sys2Proof

/-! ## Changes of agents, records and partitions -/

@[simp] theorem schedOnce_dev (s : State) (n : Nat) (i : Instr) : (schedOnce s n i).dev = s.dev := by
  unfold schedOnce; split <;> rfl

@[simp] theorem State.modAgent_dev (s : State) (k : Nat) (f : Agent → Agent) : (s.modAgent k f).dev = s.dev := by
  unfold State.modAgent; split <;> rfl

@[simp] theorem State.modPart_dev (s : State) (n : Nat) (f : Part → Part) : (s.modPart n f).dev = s.dev := by
  unfold State.modPart; split <;> rfl

@[simp] theorem State.modRec_dev (s : State) (n id : Nat) (f : Record → Record) : (s.modRec n id f).dev = s.dev := State.modPart_dev ..

@[simp] theorem appendRecord_dev (s : State) (b : Word) (r : List Byte) : (appendRecord s b r).dev = s.dev := by
  simp only [appendRecord]; split <;> rfl

@[simp] theorem traceState_dev (s : State) (n : Nat) (r : Record) (x : RecState) (c : Nat) : (traceState s n r x c).dev = s.dev := by
  unfold traceState
  split
  · rfl
  · split
    · exact appendRecord_dev ..
    · rfl

@[simp] theorem setRecState_dev (s : State) (n id : Nat) (x : RecState) (c : Nat) : (setRecState s n id x c).dev = s.dev := by
  unfold setRecState
  split
  · rfl
  · split <;> simp

/-! ## Faults and answers -/

@[simp] theorem endStep_dev (s : State) (g : Agent) : (endStep s g).dev = s.dev := by simp [endStep]

@[simp] theorem trapAgent_dev (s : State) (r : Record) (g : Agent) (f : AFault) : (trapAgent s r g f).dev = s.dev := by
  simp only [trapAgent]
  split
  · split <;> simp
  · simp

@[simp] theorem untrapAgent_dev (s : State) (g : Agent) : (untrapAgent s g).dev = s.dev := by simp [untrapAgent]

@[simp] theorem agentFault_dev (s : State) (g : Agent) (f : AFault) : (agentFault s g f).dev = s.dev := by
  have stepped : (if g.stepLeft.isSome then endStep s g else s).dev = s.dev := by split <;> simp
  simp only [agentFault]
  generalize (if g.stepLeft.isSome then endStep s g else s) = t at stepped ⊢
  generalize (if g.stepLeft.isSome = true then _ else g) = h
  split
  · simpa using stepped
  · split
    · exact stepped
    · split
      · simpa using stepped
      · split
        · split <;> simpa using stepped
        · simpa using stepped

@[simp] theorem faultNow_dev (s : State) (g : Agent) (c : Nat) (a : Word) (l : Nat) : (faultNow s g c a l).dev = s.dev := agentFault_dev ..

@[simp] theorem lateFault_dev (s : State) (k : Nat) (f : AFault) : (lateFault s k f).dev = s.dev := by
  unfold lateFault; split <;> simp

@[simp] theorem finishAccess_dev (s : State) (k id : Nat) : (finishAccess s k id).dev = s.dev := by
  unfold finishAccess; split <;> simp

@[simp] theorem failAccess_dev (s : State) (g : Agent) (a : Access) (c : Nat) (w : Word) (l : Nat) (alone : Bool) :
    (failAccess s g a c w l alone).dev = s.dev := by
  simp only [failAccess, failWith]
  split <;> simp

@[simp] theorem answerAsker_dev (s : State) (v : Word) (who : Asker) (p : Bool) : (answerAsker s v who p).dev = s.dev := by
  cases who <;> simp [answerAsker]

@[simp] theorem claimRefused_dev (s : State) (g : Agent) (hdr : Word) : (claimRefused s g hdr).dev = s.dev := by simp [claimRefused]

/-! ## Posted writes, completions, the end of a collective -/

@[simp] theorem applyAt_dev (s : State) (k : Nat) (op : AccOp) : (applyAt s k op).dev = s.dev := by
  unfold applyAt; split <;> rfl

@[simp] theorem sendPosted_dev (s : State) (p : Posted) : (sendPosted s p).dev = s.dev := by
  unfold sendPosted; split <;> simp

@[simp] theorem postFar_dev (s : State) (who : Nat × Nat) (id : Nat) (p : Place) (op : AccOp) : (postFar s who id p op).dev = s.dev := by
  simp only [postFar]; split <;> simp

@[simp] theorem postUnit_dev (s : State) (who : Nat × Nat) (p : Place) (op : AccOp) : (postUnit s who p op).dev = s.dev := by
  unfold postUnit; split <;> simp

theorem signalEnd_dev {s u : State} {who : Nat × Nat} {asid : Nat} {tl v w : Word} (h : signalEnd s who asid tl v w = some u) : u.dev = s.dev := by
  unfold signalEnd at h
  split at h
  · cases h
  · split at h
    · cases h
    · cases h
      simp

@[simp] theorem queueFail_dev (s : State) (h : Word) (st i : Nat) : (queueFail s h st i).dev = s.dev := by
  unfold queueFail
  cases e : writeVa s 0 (h.toNat + 32) (toLe 8 (st % 256 + 256 * i)) with
  | none => rfl
  | some t => exact (writeVa_agents_dev e).2

@[simp] theorem endRinger_dev (s : State) (g : Nat) (x : Ringer) (st c : Nat) : (endRinger s g x st c).dev = s.dev := by
  simp only [endRinger, State.setRinger_dev]
  split
  next t _ e => exact signalEnd_dev e
  next => exact queueFail_dev ..
  next => rfl

/-! ## What a cycle begins with -/

@[simp] theorem tlbInsert_dev (s : State) (core : Nat) (e : TlbEntry) : (tlbInsert s core e).dev = s.dev := by
  simp only [tlbInsert]; split <;> rfl

@[simp] theorem cacheVa_dev (s : State) (g : Agent) (a : Word) : (cacheVa s g a).dev = s.dev := by
  simp only [cacheVa]
  split
  · rfl
  · split <;> simp

@[simp] theorem watchWord_dev (s : State) (g : Agent) (a : Word) (n : Nat) : (watchWord s g a n).dev = s.dev := by
  simp only [watchWord]
  split
  · rfl
  · split <;> simp

@[simp] theorem latch_dev (s : State) (g : Agent) : (latch s g).dev = s.dev := by
  simp only [latch]
  split
  · rfl
  · split <;> rfl

@[simp] theorem waiting_dev (s : State) (g : Agent) : (waiting s g).dev = s.dev := by
  simp only [waiting]
  split
  · rfl
  · split
    · split <;> rfl
    · simp
    · simp
    · rfl

@[simp] theorem tickAgent_dev (s : State) (k : Nat) : (tickAgent s k).dev = s.dev := by
  unfold tickAgent
  split
  · rfl
  next g _ =>
    have latched : (latch (if g.gran ≠ 0 ∧ g.lastIssue + 1025 = s.cycle then schedOnce s 0 (.granuleDrowsy g.core g.slot) else s) g).dev = s.dev := by
      rw [latch_dev]; split <;> simp
    generalize latch _ g = t at latched
    dsimp only
    split
    · split <;> simpa using latched
    · split <;> simpa using latched

@[simp] theorem takeRow_dev (s : State) (c : Nat) : (takeRow s c).dev = s.dev := by
  simp only [takeRow]
  split
  · rfl
  · split
    · rfl
    · split <;> rfl

@[simp] theorem tickCore_dev (s : State) (c : Nat) : (tickCore s c).dev = s.dev := takeRow_dev ..

@[simp] theorem takeTable_dev (s : State) (n : Nat) : (takeTable s n).dev = s.dev := by
  unfold takeTable
  split
  · rfl
  · split
    · rfl
    · split <;> rfl

/-- A table that is watched puts events on the agenda, and its partition remembers the go word. -/
@[simp] theorem watchTable_dev (s : State) (e : Nat × Part) : (watchTable s e).dev = s.dev := by
  simp only [watchTable]
  repeat' split
  all_goals simp

@[simp] theorem watchQueues_dev (s : State) : (watchQueues s).dev = s.dev :=
  foldl_inv (fun t : State => t.dev = s.dev) _ (fun t q h => by
    split
    · exact h
    · split
      · exact h
      · simpa using h) _ _ rfl

@[simp] theorem stretch_dev (s : State) : (stretch s).dev = s.dev := by
  simp only [stretch]; split <;> rfl

@[simp] theorem tickTime_dev (s : State) : (tickTime s).dev = s.dev := by
  simp only [tickTime]
  generalize (if s.timeOff = 0 then (0 : Int) else _) = slew
  split <;> simp

/-! ## A link that goes down -/

/-- A loop whose rounds leave the device leaves it. -/
theorem foldl_dev {β : Type} {f : State → β → State} (hf : ∀ t x, (f t x).dev = t.dev) (l : List β) (s : State) : (l.foldl f s).dev = s.dev :=
  foldl_inv (fun t : State => t.dev = s.dev) f (fun t x h => (hf t x).trans h) l s rfl

@[simp] theorem dropWaiting_dev (s t : State) (port : Nat) (e : Nat × Agent) : (dropWaiting s port t e).dev = t.dev := by
  simp only [dropWaiting]
  refine (foldl_dev (fun u a => ?_) _ _).trans ?_
  · split
    · rfl
    · split
      · exact answerAsker_dev ..
      · split
        · exact failAccess_dev ..
        · rfl
  · split
    · split
      · split
        · split <;> simp
        · rfl
      · rfl
    · rfl

@[simp] theorem dropPromises_dev (s t : State) (port : Nat) (e : Nat × Part) : (dropPromises s port t e).dev = t.dev := by
  refine foldl_dev (fun u r => foldl_dev (fun v i => ?_) _ _) _ _
  dsimp only
  split
  · split <;> rfl
  · rfl

@[simp] theorem dropPosted_dev (s t : State) (port : Nat) : (dropPosted s port t).dev = t.dev := by
  refine foldl_dev (fun u p => ?_) _ _
  split
  · split <;> rfl
  · rfl

/-- What waits behind a port that leaves ACTIVE. -/
def portDropped (s : State) (port : Nat) : State := s.parts.foldl (dropPromises s port) (dropPosted s port (s.agents.foldl (dropWaiting s port) s))

@[simp] theorem portDropped_dev (s : State) (port : Nat) : (portDropped s port).dev = s.dev := by
  refine (foldl_dev (fun u e => dropPromises_dev s u port e) _ _).trans ((dropPosted_dev ..).trans ?_)
  exact foldl_dev (fun u e => dropWaiting_dev s u port e) _ _

/-- A lost port concerns time, its peer slot and the log. -/
theorem portLost_dev (s : State) (port : Nat) : ∃ synced path peers,
    (portLost s port).dev = { s.dev with synced := synced, path := path, peers := peers, eidx := s.dev.eidx + 1 } := by
  refine ⟨(portLost s port).dev.synced, (portLost s port).dev.path, (portLost s port).dev.peers, ?_⟩
  rw [← portDropped_dev s port]
  rfl

end Sys2Proof.Machine

/-! PROOF. O52: register writes of the host and of the management plane, BAR2, attestation, module reset and the end of bring-up. -/

namespace Sys2Proof.Machine

open Sys2Proof

/-! ## Register writes (R290 to R294) -/

section

variable {s : State}

/-- A module whose firmware failed takes no write. -/
theorem serving_failed (failed : s.dev.bstat = 1) (t : State) : serving s t = .next s := by rw [serving, if_pos failed]

theorem serving_works (works : s.dev.bstat ≠ 1) (t : State) : serving s t = .next t := by rw [serving, if_neg works]

theorem outState_serving (works : s.dev.bstat ≠ 1) (t : State) : outState s (serving s t) = t := by rw [serving_works works]; rfl

theorem exec_idtabWrite_takes (works : s.dev.bstat ≠ 1) {v : Word} (aligned : v.toNat % 2 ^ 20 = 0) (idle : s.parts = []) :
    exec (.idtabWrite v) s = .next (s.modDev fun d => { d with idtab := v }) := by
  refine (serving_works works _).trans (congrArg _ (if_neg (not_or.2 ⟨not_not.2 aligned, ?_⟩)))
  simp [idle]

theorem exec_idtabWrite_keeps (works : s.dev.bstat ≠ 1) {v : Word} (not : v.toNat % 2 ^ 20 ≠ 0 ∨ s.parts ≠ []) :
    exec (.idtabWrite v) s = .next s := by
  refine (serving_works works _).trans (congrArg _ (if_pos ?_))
  simpa using not

/-- What a link's aperture may begin at. -/
def baseOk (s : State) (v : Word) (l : Fin 2) : Prop := v.toNat < 2 ^ 55 ∧ v.toNat % 2 ^ s.dev.bar2size[l] = 0

theorem baseOk_iff (v : Word) (l : Fin 2) : baseOk s v l ↔ ¬ (2 ^ 55 ≤ v.toNat ∨ v.toNat % 2 ^ s.dev.bar2size[l] ≠ 0) := by
  rw [baseOk, not_or, Nat.not_le, not_not]

theorem exec_apertureBaseWrite_takes (works : s.dev.bstat ≠ 1) {v : Word} {l : Fin 2} (ok : baseOk s v l) : exec (.apertureBaseWrite l v) s =
    .next (s.modDev fun d => if l = 0 then { d with ap0base := v } else { d with ap1base := v }) :=
  (serving_works works _).trans (congrArg _ (if_neg ((baseOk_iff v l).1 ok)))

theorem exec_apertureBaseWrite_keeps (works : s.dev.bstat ≠ 1) {v : Word} {l : Fin 2} (not : ¬ baseOk s v l) :
    exec (.apertureBaseWrite l v) s = .next s :=
  (serving_works works _).trans (congrArg _ (if_pos (not_not.1 (mt (baseOk_iff v l).2 not))))

theorem exec_peerSlotWrite_takes (works : s.dev.bstat ≠ 1) (k : Fin 16) (v : W32) (idle : s.parts = []) :
    exec (.peerSlotWrite k v) s = .next (s.modDev fun d => { d with peers := d.peers.set k (v &&& 0x8000FFFF#32) }) := by
  refine (serving_works works _).trans (congrArg _ (if_neg ?_))
  simp [idle]

theorem exec_peerSlotWrite_keeps (works : s.dev.bstat ≠ 1) (k : Fin 16) (v : W32) (live : s.parts ≠ []) :
    exec (.peerSlotWrite k v) s = .next s := by
  refine (serving_works works _).trans (congrArg _ (if_pos ?_))
  simpa using live

theorem exec_arbitrationWrite_takes (works : s.dev.bstat ≠ 1) {k : Nat} (v : W32) (small : k < 268) :
    exec (.arbitrationWrite k v) s = .next (s.modDev fun d => { d with arb := Tbl.put d.arb k (v &&& 0xFFFF#32) }) :=
  (serving_works works _).trans (congrArg _ (if_neg (Nat.not_le.2 small)))

theorem exec_arbitrationWrite_keeps (works : s.dev.bstat ≠ 1) {k : Nat} (v : W32) (large : 268 ≤ k) : exec (.arbitrationWrite k v) s = .next s :=
  (serving_works works _).trans (congrArg _ (if_pos large))

theorem exec_inject_takes (works : s.dev.bstat ≠ 1) {h : Nat} {v : Word} (mode : v.toNat < 4) (present : hopPresent s (BitVec.ofNat 32 h) = true) :
    exec (.registerWrite (.inject h) v) s = .next (s.modDev fun d => { d with
      injections := (d.injections.filter fun j => j.unit ≠ BitVec.ofNat 32 h) ++ [⟨BitVec.ofNat 32 h, v.toNat⟩] }) :=
  (serving_works works _).trans (congrArg _ (if_pos ⟨mode, present⟩))

theorem exec_inject_keeps (works : s.dev.bstat ≠ 1) {h : Nat} {v : Word} (not : 4 ≤ v.toNat ∨ hopPresent s (BitVec.ofNat 32 h) = false) :
    exec (.registerWrite (.inject h) v) s = .next s := by
  refine (serving_works works _).trans (congrArg _ (if_neg fun both => ?_))
  rcases not with large | absent
  · exact Nat.not_le.2 both.1 large
  · exact Bool.eq_false_iff.1 absent both.2

theorem exec_resize_takes (works : s.dev.bstat ≠ 1) (l : Fin 2) {v : Word} (low : 30 ≤ v.toNat) (high : v.toNat ≤ 41) :
    exec (.registerWrite (.resize l) v) s = .next (s.modDev fun d => { d with bar2size := d.bar2size.set l.val v.toNat }) :=
  (serving_works works _).trans (congrArg _ (if_pos ⟨low, high⟩))

theorem exec_resize_keeps (works : s.dev.bstat ≠ 1) (l : Fin 2) {v : Word} (not : v.toNat < 30 ∨ 41 < v.toNat) :
    exec (.registerWrite (.resize l) v) s = .next s :=
  (serving_works works _).trans (congrArg _ (if_neg fun both => by omega))

theorem exec_host_down (works : s.dev.bstat ≠ 1) (l : Fin 2) (off : Nat) (v : Word) (down : s.dev.hostUp[l] = false) :
    exec (.registerWrite (.host l off) v) s = .next s :=
  (serving_works works _).trans (congrArg _ (if_neg (by simp [down])))

/-- Where the host's link is in service, and always from the management plane, a write reaches BAR0. -/
def writesBar0 (s : State) (from_ : Nat → RegTarget) : Prop := from_ = .management ∨ ∃ l, s.dev.hostUp[l] = true ∧ from_ = .host l

theorem exec_host_up (works : s.dev.bstat ≠ 1) {l : Fin 2} (off : Nat) (v : Word) (up : s.dev.hostUp[l] = true) :
    exec (.registerWrite (.host l off) v) s = .next (writeBar0 s false off v) :=
  (serving_works works _).trans (congrArg _ (if_pos up))

theorem exec_management (works : s.dev.bstat ≠ 1) (off : Nat) (v : Word) :
    exec (.registerWrite (.management off) v) s = .next (writeBar0 s true off v) := serving_works works _

theorem exec_writesBar0 (works : s.dev.bstat ≠ 1) {from_ : Nat → RegTarget} (reaches : writesBar0 s from_) :
    ∃ m, ∀ off v, exec (.registerWrite (from_ off) v) s = .next (writeBar0 s m off v) := by
  rcases reaches with rfl | ⟨l, up, rfl⟩
  · exact ⟨true, exec_management works⟩
  · exact ⟨false, fun off v => exec_host_up works off v up⟩

/-! ### BAR0 -/

theorem writeBar0_misaligned {off : Nat} (odd : off % 8 ≠ 0) (m : Bool) (v : Word) : writeBar0 s m off v = s := by
  rw [writeBar0, if_pos odd]

theorem writeBar0_leader (v : Word) : writeBar0 s true 0x1038 v = s.modDev fun d => { d with leader := v.truncate 16 } := rfl

theorem writeBar0_noLeader (v : Word) : writeBar0 s false 0x1038 v = s := rfl

theorem writeBar0_routes {off : Nat} (aligned : off % 8 = 0) (low : 0x20000 ≤ off) (high : off < 0x30000) (m : Bool) (v : Word) :
    writeBar0 s m off v = if m then writeRoutes s (off - 0x20000) v else s := by
  unfold writeBar0
  rw [if_neg (by omega), if_neg (by omega), if_neg (by omega), if_neg (by omega)]
  cases m
  · rw [if_neg (by simp), if_neg (by omega)]
    rfl
  · exact if_pos ⟨low, high, rfl⟩

theorem writeBar0_pcb {n off : Nat} (block : n < 4096) (within : off < 256) (aligned : off % 8 = 0) (m : Bool) (v : Word) :
    writeBar0 s m (0x100000 + 256 * n + off) v = writePcb s n off v := by
  have number : (0x100000 + 256 * n + off - 0x100000) / 256 = n := by omega
  have place : (0x100000 + 256 * n + off) % 256 = off := by omega
  unfold writeBar0
  rw [if_neg (by omega), if_neg (by omega), if_neg (by omega), if_neg (by omega), if_neg (by omega), if_pos (by omega), number, place]

/-- The registers of the device control block that have an event of their own. -/
theorem writeBar0_dcb (works : s.dev.bstat ≠ 1) (m : Bool) (v : Word) :
    Host.Outcome.next (writeBar0 s m 0x1000 v) = exec (.idtabWrite v) s
    ∧ Host.Outcome.next (writeBar0 s m 0x1008 v) = exec (.apertureBaseWrite 0 v) s
    ∧ Host.Outcome.next (writeBar0 s m 0x1018 v) = exec (.apertureBaseWrite 1 v) s
    ∧ Host.Outcome.next (writeBar0 s m 0x1028 v) = exec .fcntWrite s ∧ Host.Outcome.next (writeBar0 s m 0x1030 v) = exec (.attestRequest v) s := by
  have same : ∀ t, Host.Outcome.next (outState s (serving s t)) = serving s t := fun t => by rw [outState_serving works, serving_works works]
  exact ⟨same _, same _, same _, same _, same _⟩

/-! ### The route table (R290) -/

/-- The entry of a route byte, its bits [6:4] zero. -/
def routeByte (v : Word) (k : Nat) : Nat := bits v.toNat (8 * k) 8 % 16 + bits v.toNat (8 * k) 8 / 128 * 128

theorem routeByte_eq (v : Word) (k : Nat) : routeByte v k = bits v.toNat (8 * k) 4 + 128 * bits v.toNat (8 * k + 7) 1 := by
  have high : v.toNat / 2 ^ (8 * k + 7) = v.toNat / 2 ^ (8 * k) / 128 := by norm_num [pow_add, Nat.div_div_eq_div_mul]
  simp only [routeByte, bits, high]
  omega

theorem writeRoutes_routes (i : Nat) (v : Word) {k : Nat} (within : k < 8) : Tbl.find (writeRoutes s i v).dev.routes (i + k) = some (routeByte v k) := by
  refine foldl_made (Q := fun t : State => Tbl.find t.dev.routes (i + k) = some (routeByte v k)) (b := k) (fun t a _ h => ?_) (fun t => ?_)
    (List.mem_range.2 within) s
  · by_cases same : i + k = i + a
    · obtain rfl : k = a := by omega
      exact Tbl.find_put_same ..
    · exact (Tbl.find_put_other _ _ _ _ same).trans h
  · exact Tbl.find_put_same ..

theorem writeRoutes_others (i : Nat) (v : Word) {j : Nat} (outside : j < i ∨ i + 8 ≤ j) :
    Tbl.find (writeRoutes s i v).dev.routes j = Tbl.find s.dev.routes j := by
  refine foldl_kept (Q := fun t : State => Tbl.find t.dev.routes j = Tbl.find s.dev.routes j) (fun t a ha h => ?_) rfl
  have := List.mem_range.1 ha
  exact (Tbl.find_put_other _ _ _ _ (by omega)).trans h

theorem writeRoutes_parts (i : Nat) (v : Word) : (writeRoutes s i v).parts = s.parts := by
  unfold writeRoutes forN
  refine foldl_inv (fun t : State => t.parts = s.parts) _ ?_ _ _ rfl
  exact fun _ _ h => h

/-! ### Partition control blocks (R293, R294) -/

/-- A partition stands in the block. -/
def Pcb.live (b : Pcb) : Prop := b.state = 1 ∨ b.state = 2 ∨ b.state = 4

theorem writePcb_live {n off : Nat} (live : (s.pcb n).live) (notCmd : off ≠ 0) (v : Word) : writePcb s n off v = s := by
  rw [writePcb, if_neg notCmd]
  exact if_pos live

theorem writePcb_free {n : Nat} (free : ¬ (s.pcb n).live) (v : Word) :
    writePcb s n 40 v = s.setPcb n { s.pcb n with trapq := v } ∧ writePcb s n 48 v = s.setPcb n { s.pcb n with save := v }
    ∧ writePcb s n 96 v = s.setPcb n { s.pcb n with seed := v } := by
  have put : ∀ off, off ≠ 0 → writePcb s n off v = s.modPcb n _ := fun off notCmd => by
    rw [writePcb, if_neg notCmd]
    exact if_neg free
  exact ⟨put 40 (by decide), put 48 (by decide), put 96 (by decide)⟩

theorem State.setPcb_setPcb (n : Nat) (a b : Pcb) : (s.setPcb n a).setPcb n b = s.setPcb n b := by simp [State.setPcb]

theorem writeCmd_busy {n : Nat} (busy : (s.pcb n).cmd ≠ 0) (v : Word) : writeCmd s n v = s := by rw [writeCmd, if_pos busy]

/-- The event of a command. -/
def commandOf (n c : Nat) (e : Instr) : Prop :=
  (c = 1 ∧ e = .pcbCancelRecord n) ∨ (c = 2 ∧ e = .pcbCancelPartition n) ∨ (c = 3 ∧ e = .pcbPreempt n) ∨ (c = 4 ∧ e = .pcbRestore n)
    ∨ (c = 5 ∧ e = .pcbExtend n) ∨ (c = 6 ∧ e = .pcbRelease n)

theorem writeCmd_takes {n c : Nat} {e : Instr} (ready : (s.pcb n).cmd = 0) {v : Word} (code : v.toNat % 256 = c) (known : commandOf n c e) :
    writeCmd s n v = sched (s.setPcb n { s.pcb n with cmd := c, arg := BitVec.ofNat 32 (v.toNat / 2 ^ 32) }) 1 e := by
  have field : bits v.toNat 0 8 = c := by simpa [bits] using code
  have arg : BitVec.ofNat 32 (bits v.toNat 32 32) = BitVec.ofNat 32 (v.toNat / 2 ^ 32) := by
    rw [bits, Nat.mod_eq_of_lt (by have := v.isLt; omega)]
  rw [writeCmd, if_neg (not_not.2 ready)]
  simp only [field, arg]
  rcases known with ⟨rfl, rfl⟩ | ⟨rfl, rfl⟩ | ⟨rfl, rfl⟩ | ⟨rfl, rfl⟩ | ⟨rfl, rfl⟩ | ⟨rfl, rfl⟩ <;> simp [State.modPcb, State.setPcb_setPcb]

end

/-! ## BAR2 (R288, R289, R275) -/

section

variable {s : State} {k : Fin 2} {off n : Nat}

/-- An access within BAR2 of a link in service. -/
def reachesBar2 (s : State) (k : Fin 2) (off n : Nat) : Prop := s.dev.hostUp[k] = true ∧ off + n ≤ 2 ^ s.dev.bar2size[k]

theorem inBar2_iff : inBar2 s k off n = true ↔ reachesBar2 s k off n := by simp [inBar2, reachesBar2]

/-- What a read answers. -/
def answered (s : State) (k : Fin 2) (off : Nat) (l : List Byte) : State := { s with outbox := s.outbox ++ [.hostRead k.val off l] }

theorem exec_bar2Read_outside (outside : ¬ reachesBar2 s k off n) : exec (.bar2Read k off n) s = .next s := by
  change execBar2Read k off n s = _
  simp [execBar2Read, mt inBar2_iff.1 outside]

theorem exec_bar2Read_unpublished (reaches : reachesBar2 s k off n) (early : s.dev.published = false) :
    exec (.bar2Read k off n) s = .next (answered s k off (List.replicate n 0xFF#8)) := by
  change execBar2Read k off n s = _
  simp [execBar2Read, inBar2_iff.2 reaches, early, answered]

theorem exec_bar2Read_reads (reaches : reachesBar2 s k off n) (published : s.dev.published = true) {va : Nat} (place : apertureVa s k off n = some va)
    {l : List Byte} (read : readVa s (aperture s k).2 va n = some l) : exec (.bar2Read k off n) s = .next (answered s k off l) := by
  change execBar2Read k off n s = _
  simp [execBar2Read, inBar2_iff.2 reaches, published, place, read, answered]

theorem exec_bar2Read_fails (reaches : reachesBar2 s k off n) (published : s.dev.published = true)
    (fails : ((apertureVa s k off n).bind fun va => readVa s (aperture s k).2 va n) = none) :
    exec (.bar2Read k off n) s = .next (answered (addFault s k) k off (List.replicate n 0xFF#8)) := by
  change execBar2Read k off n s = _
  simp [execBar2Read, inBar2_iff.2 reaches, published, fails, answered]

variable {l : List Byte}

theorem exec_bar2Write_lost (not : s.dev.published = false ∨ ¬ reachesBar2 s k off l.length) : exec (.bar2Write k off l) s = .next s := by
  change execBar2Write k off l s = _
  rcases not with early | outside
  · simp [execBar2Write, early]
  · simp [execBar2Write, mt inBar2_iff.1 outside]

theorem exec_bar2Write_writes (reaches : reachesBar2 s k off l.length) (published : s.dev.published = true) {va : Nat}
    (place : apertureVa s k off l.length = some va) {u : State} (written : writeVa s (aperture s k).2 va l = some u) :
    exec (.bar2Write k off l) s = .next u := by
  change execBar2Write k off l s = _
  simp [execBar2Write, inBar2_iff.2 reaches, published, place, written]

theorem exec_bar2Write_fails (reaches : reachesBar2 s k off l.length) (published : s.dev.published = true)
    (fails : ((apertureVa s k off l.length).bind fun va => writeVa s (aperture s k).2 va l) = none) :
    exec (.bar2Write k off l) s = .next (addFault s k) := by
  change execBar2Write k off l s = _
  simp [execBar2Write, inBar2_iff.2 reaches, published, fails]

end

/-! ## Attestation (R295) -/

theorem leNat_toLe (n : Nat) : ∀ v, leNat (toLe n v) = v % 2 ^ (8 * n) := by
  induction n with
  | zero => exact fun v => (Nat.mod_one v).symm
  | succ n ih =>
    intro v
    have split : v % 2 ^ (8 * (n + 1)) = v % 256 + 256 * (v / 256 % 2 ^ (8 * n)) := by
      rw [Nat.mul_succ, Nat.add_comm, pow_add, Nat.mod_mul]
      norm_num
    rw [toLe, leNat, ih, split]
    simp

theorem length_exactly (n : Nat) (l : List Byte) : (exactly n l).length = n := by
  simp only [exactly, zerosB, List.length_take, List.length_append, List.length_replicate]
  omega

theorem exactly_of_length {n : Nat} {l : List Byte} (h : l.length = n) : exactly n l = l := by simp [exactly, h, zerosB]

/-- The report holds its nonce, then the device identifier. -/
theorem attestReport_facts (s : State) {nonce : List Byte} (length : nonce.length = 32) :
    (attestReport s nonce).length = 320 ∧ (attestReport s nonce).take 32 = nonce ∧ leAt (attestReport s nonce) 32 2 = s.dev.devid.toNat := by
  have parts : ∃ rest, attestReport s nonce = nonce ++ (toLe 2 s.dev.devid.toNat ++ rest) := by
    simp only [attestReport, exactly_of_length length, List.append_assoc]
    exact ⟨_, rfl⟩
  refine ⟨by simp [attestReport, length_exactly, zerosB, toLe, ofWord], ?_⟩
  obtain ⟨rest, e⟩ := parts
  have device : leNat (toLe 2 s.dev.devid.toNat) = s.dev.devid.toNat := by
    rw [leNat_toLe]
    exact Nat.mod_eq_of_lt s.dev.devid.isLt
  rw [e]
  refine ⟨List.take_left' length, ?_⟩
  rw [leAt, sliceB, List.drop_left' length, List.take_left' (by simp [toLe]), device]

theorem exec_attestRequest {s u : State} {a : Word} {l : List Byte} (works : s.dev.bstat ≠ 1) (request : readVa s 0 a.toNat 64 = some l)
    (written : writeVa (s.modDev fun d => { d with attest := a }) 0 (leAt l 32 8) (attestReport s (l.take 32)) = some u) :
    exec (.attestRequest a) s = .next (u.modDev fun d => { d with attest := 0 }) := by
  change execAttestRequest a s = _
  simp [execAttestRequest, request, written, serving_works works]

/-! ## Ports (R297) -/

section

variable {s : State} {g : Nat}

theorem State.port_setPort (within : g < 12) (p : Port) : (s.setPort g p).port g = p := by
  simp [State.port, State.setPort, State.modDev, within]

theorem State.port_setPort_other {r : Nat} (other : r ≠ g) (p : Port) : (s.setPort g p).port r = s.port r := by
  simp only [State.port, State.setPort, State.modDev]
  split
  · split
    · exact Vector.getElem_set_ne ‹_› ‹_› (Ne.symm other)
    · rfl
  · rfl

/-- What of the device no port and no training concerns. -/
def apartFromPorts {α : Type} (h : Device → α) : Prop := ∀ d ports training, h { d with ports := ports, training := training } = h d

theorem State.setPort_dev {α : Type} {h : Device → α} (apart : apartFromPorts h) (s : State) (g : Nat) (p : Port) : h (s.setPort g p).dev = h s.dev := by
  simp only [State.setPort, State.modDev]
  split
  · exact apart s.dev _ _
  · rfl

theorem enterPort_dev {α : Type} {h : Device → α} (apart : apartFromPorts h) (s : State) (g : Nat) (x : PortState) :
    h (enterPort s g x).dev = h s.dev := by
  cases x
  case reset => exact (State.setPort_dev apart _ g _).trans ((State.setPort_dev apart _ g _).trans (apart s.dev _ _))
  case active => exact (State.setPort_dev apart _ g _).trans (apart s.dev _ _)
  all_goals exact State.setPort_dev apart _ g _

/-- What of the state no port concerns. -/
def State.apartFromDevice {α : Type} (f : State → α) : Prop := ∀ s agenda dev free, f { s with agenda := agenda, dev := dev, free := free } = f s

section

variable {α : Type} {f : State → α} (apart : State.apartFromDevice f)

include apart

theorem State.apartFromDevice.sched (s : State) (n : Nat) (i : Instr) : f (Machine.sched s n i) = f s := apart s _ s.dev s.free

theorem State.apartFromDevice.schedFree (s : State) (i : Instr) : f (Machine.schedFree s i) = f s := apart s _ s.dev _

theorem State.apartFromDevice.modDev (s : State) (h : Device → Device) : f (s.modDev h) = f s := apart s s.agenda _ s.free

theorem State.apartFromDevice.quietPort (s : State) (g : Nat) : f (Machine.quietPort s g) = f s := apart s _ s.dev s.free

theorem enterPort_rest (s : State) (g : Nat) (x : PortState) : f (enterPort s g x) = f s := by
  have entered : ∀ t p, f t = f s → f ((quietPort t g).setPort g p) = f s := fun t p h => (apart.modDev ..).trans ((apart.quietPort t g).trans h)
  have other : ∀ p, f ((quietPort s g).setPort g p) = f s := fun p => entered s p rfl
  have ready : ∀ p, f ((quietPort (trained s g) g).setPort g p) = f s := fun p => entered (trained s g) p (apart.modDev ..)
  cases x
  case reset => exact (apart.sched ..).trans ((apart.modDev ..).trans (ready _))
  case rate => exact (apart.schedFree ..).trans (other _)
  case active => exact ready _
  case down => exact other _
  all_goals exact (apart.sched ..).trans (other _)

end

theorem enterPort_port (within : g < 12) (x : PortState) : (enterPort s g x).port g =
    if x = .reset then { Port.reset with removed := (s.port g).removed, barred := (s.port g).barred } else { s.port g with state := x } := by
  cases x <;> exact State.port_setPort within _

theorem enterPort_port_other {r : Nat} (other : r ≠ g) (x : PortState) : (enterPort s g x).port r = s.port r := by
  cases x
  case reset => exact (State.port_setPort_other other _).trans (State.port_setPort_other other _)
  all_goals exact State.port_setPort_other other _

theorem pendingEvent_enterPort_reset : pendingEvent (enterPort s g .reset) (.linkResetExpiry g) = true := (pendingEvent_sched ..).2 (.inl rfl)

theorem pendingEvent_enterPort_other {r : Nat} (other : r ≠ g) (h : pendingEvent s (.linkResetExpiry r) = true) :
    pendingEvent (enterPort s g .reset) (.linkResetExpiry r) = true := by
  refine (pendingEvent_sched ..).2 (.inr ?_)
  have quiet : pendingEvent (quietPort (trained s g) g) (.linkResetExpiry r) = true := by
    simp only [pendingEvent, List.any_eq_true, decide_eq_true_eq] at h ⊢
    obtain ⟨e, mem, event⟩ := h
    exact ⟨e, List.mem_filter.2 ⟨mem, by simp [event, other]⟩, event⟩
  exact quiet

end

/-! ## Module reset (R296) -/

/-- All ports in RESET. -/
def portsReset (s : State) : State := forN 12 s fun g t => enterPort t g .reset

theorem portsReset_eq (s : State) : portsReset s = (List.range 12).foldl (fun t g => enterPort t g .reset) s := rfl

theorem portsReset_rest {α : Type} {f : State → α} (apart : State.apartFromDevice f) (s : State) : f (portsReset s) = f s := by
  rw [portsReset_eq]
  exact foldl_kept (Q := fun t => f t = f s) (fun t g _ h => (enterPort_rest apart t g .reset).trans h) rfl

theorem portsReset_dev {α : Type} {h : Device → α} (apart : apartFromPorts h) (s : State) : h (portsReset s).dev = h s.dev := by
  rw [portsReset_eq]
  exact foldl_kept (Q := fun t : State => h t.dev = h s.dev) (fun t g _ e => (enterPort_dev apart t g .reset).trans e) rfl

/-- A port in RESET, which ends. -/
def inReset (g : Nat) (t : State) : Prop := (t.port g).state = .reset ∧ pendingEvent t (.linkResetExpiry g) = true

theorem inReset_enterPort {g : Nat} (within : g < 12) (t : State) : inReset g (enterPort t g .reset) :=
  ⟨congrArg Port.state (enterPort_port within .reset), pendingEvent_enterPort_reset⟩

theorem inReset_training {g : Nat} {t : State} (h : inReset g t) (ports : Option (List Nat)) :
    inReset g (t.modDev fun d => { d with training := ports }) := h

theorem portsReset_inReset (s : State) {g : Nat} (within : g < 12) : inReset g (portsReset s) := by
  rw [portsReset_eq]
  refine foldl_made (Q := inReset g) (b := g) (fun t r _ h => ?_) (inReset_enterPort within) (List.mem_range.2 within) s
  by_cases same : g = r
  · subst same
    exact inReset_enterPort within t
  · exact ⟨(congrArg Port.state (enterPort_port_other same .reset)).trans h.1, pendingEvent_enterPort_other same h.2⟩

/-- The state that a module reset begins with: its firmware is known. -/
def coldState (s : State) : State := (resetKeep s).modDev fun d => { d with digest := Config.shake256 Config.firmware }

/-- Firmware and memory are sound: the ports train. -/
def warmState (s : State) : State :=
  (portsReset ((coldState s).modDev fun d => { configured d with hostUp := Vector.ofFn fun l => Config.hostTrains l.val })).modDev fun d =>
    { d with training := some (List.range 12) }

/-- Is the firmware the one that was signed? -/
def signed : Bool := Config.ed448Verify (Config.shake256 Config.firmware) Config.firmwareSignature

theorem exec_moduleReset (s : State) : exec .moduleReset s = .next (
    if !signed then (coldState s).modDev fun d => { d with bstat := 1 }
    else if !Config.memoryTrains then (coldState s).modDev fun d => { d with bstat := 2 } else warmState s) := rfl

theorem exec_moduleReset_unsigned (h : signed = false) (s : State) :
    exec .moduleReset s = .next ((coldState s).modDev fun d => { d with bstat := 1 }) := by
  rw [exec_moduleReset, h]
  rfl

theorem exec_moduleReset_untrained (h : signed = true) (lost : Config.memoryTrains = false) (s : State) :
    exec .moduleReset s = .next ((coldState s).modDev fun d => { d with bstat := 2 }) := by
  rw [exec_moduleReset, h, lost]
  rfl

theorem exec_moduleReset_sound (h : signed = true) (trains : Config.memoryTrains = true) (s : State) :
    exec .moduleReset s = .next (warmState s) := by
  rw [exec_moduleReset, h, trains]
  rfl

/-- Memory stays, all else is as at reset. -/
structure Cleared (s t : State) : Prop where
  parts : t.parts = []
  agents : t.agents = []
  cells : t.cells = []
  pcbs : t.pcbs = []
  ctxs : t.ctxs = []
  ringers : t.ringers = []
  presence : t.presence = s.presence
  mem : t.mem = s.mem
  published : t.dev.published = false

/-- The device that the ports of a sound module train with. -/
def warmDevice (s : State) : Device := { configured (coldState s).dev with hostUp := Vector.ofFn fun l => Config.hostTrains l.val }

theorem warmState_rest {α : Type} {f : State → α} (apart : State.apartFromDevice f) (s : State) : f (warmState s) = f (resetKeep s) :=
  (apart.modDev ..).trans ((portsReset_rest apart _).trans ((apart.modDev ..).trans (apart.modDev ..)))

theorem warmState_dev {α : Type} {h : Device → α} (apart : apartFromPorts h) (s : State) : h (warmState s).dev = h (warmDevice s) :=
  (apart _ _ _).trans (portsReset_dev apart _)

theorem warmState_cleared (s : State) : Cleared s (warmState s) where
  parts := warmState_rest (f := State.parts) (fun _ _ _ _ => rfl) s
  agents := warmState_rest (f := State.agents) (fun _ _ _ _ => rfl) s
  cells := warmState_rest (f := State.cells) (fun _ _ _ _ => rfl) s
  pcbs := warmState_rest (f := State.pcbs) (fun _ _ _ _ => rfl) s
  ctxs := warmState_rest (f := State.ctxs) (fun _ _ _ _ => rfl) s
  ringers := warmState_rest (f := State.ringers) (fun _ _ _ _ => rfl) s
  presence := warmState_rest (f := State.presence) (fun _ _ _ _ => rfl) s
  mem := warmState_rest (f := State.mem) (fun _ _ _ _ => rfl) s
  published := (warmState_dev (h := Device.published) (fun _ _ _ => rfl) s).trans rfl

/-- Every port of a sound module trains. -/
theorem warmState_trains (s : State) : (warmState s).dev.bstat = 0 ∧ (warmState s).dev.devid = Config.deviceId ∧ (warmState s).dev.elog = Config.logBase
    ∧ (warmState s).dev.training = some (List.range 12) ∧ ∀ g < 12, inReset g (warmState s) :=
  ⟨(warmState_dev (h := Device.bstat) (fun _ _ _ => rfl) s).trans rfl, (warmState_dev (h := Device.devid) (fun _ _ _ => rfl) s).trans rfl,
    (warmState_dev (h := Device.elog) (fun _ _ _ => rfl) s).trans rfl, rfl, fun _ within => inReset_training (portsReset_inReset _ within) _⟩

theorem coldState_cleared (s : State) (n : Nat) : Cleared s ((coldState s).modDev fun d => { d with bstat := n }) :=
  ⟨rfl, rfl, rfl, rfl, rfl, rfl, rfl, rfl, rfl⟩

/-! ## The end of bring-up (R296) -/

/-- What of the device a cycle begins with: is the capability block published, how far came bring-up, is the fault map loaded, and which
ports does bring-up wait for. -/
def Device.life (d : Device) : Bool × Nat × Bool × Option (List Nat) := (d.published, d.bstat, d.mapLoaded, d.training)

theorem setPort_life (s : State) (g : Nat) (p : Port) : (s.setPort g p).dev.life = s.dev.life := by
  simp only [State.setPort, State.modDev]
  split <;> rfl

theorem startTest_life (s : State) (u : W32) (n : Nat) (f : Option Bool) : (startTest s u n f).dev.life = s.dev.life := by
  simp only [startTest]
  split <;> rfl

theorem blame_life (s : State) (u : W32) (e : Event) : (blame s u e).1.dev.life = s.dev.life := by
  have logged : ∀ k b, ((wr s k b).modDev fun d => { d with eidx := d.eidx + 1 }).dev.life = s.dev.life := fun _ _ => rfl
  unfold blame
  exact (startTest_life _ _ _ _).trans (logged _ _)

theorem transit_life (s : State) (us : List W32) (e : Event) : (transit s us e).1.dev.life = s.dev.life := by
  simp only [transit]
  split
  · exact blame_life ..
  · split
    · rfl
    · split
      · rfl
      · exact blame_life ..

theorem loadMicro_life (s : State) (n : Nat) (p : Part) (c o at_ : Nat) : (loadMicro s n p c o at_).dev.life = s.dev.life := by
  unfold loadMicro
  split
  · rfl
  · exact transit_life ..

theorem beginLoad_life (s : State) (n : Nat) (p : Part) (cs : List Nat) (o : Nat) : (beginLoad s n p cs o).1.dev.life = s.dev.life := by
  simp only [beginLoad]
  split
  · rfl
  · split
    · rfl
    · exact foldl_inv (fun t : State => t.dev.life = s.dev.life) _ (fun t c h => (loadMicro_life ..).trans h) _ _ rfl

theorem reloadCode_life (s : State) (n : Nat) : (reloadCode s n).dev.life = s.dev.life := by
  refine foldl_inv (fun t : State => t.dev.life = s.dev.life) _ (fun t g h => ?_) _ _ rfl
  split
  · split
    · exact (beginLoad_life ..).trans h
    · exact h
  · exact h

theorem tickPart_life (s : State) (e : Nat × Part) : (tickPart s e).dev.life = s.dev.life := by
  simp only [tickPart]
  split
  · simp
  · rw [watchTable_dev, reloadCode_life]
    split <;> simp

/-- A tick leaves it, unless bring-up ends with it. -/
theorem tick_life (s : State) : (tick s).dev.life = (if s.dev.training = some [] then bringUp s else s).dev.life := by
  generalize hu : (if s.dev.training = some [] then bringUp s else s) = u
  simp only [tick, hu]
  have begun := (tickTime_dev (stretch { u with cycle := u.cycle + 1 })).trans (stretch_dev _)
  generalize tickTime (stretch { u with cycle := u.cycle + 1 }) = v at begun
  have skipped : ∀ f : Device → Device, (∀ d, (f d).life = d.life) → (v.modDev f).dev.life = u.dev.life := fun f hf =>
    (hf _).trans (congrArg Device.life begun)
  refine (congrArg Device.life (watchQueues_dev _)).trans ?_
  refine foldl_inv (fun t : State => t.dev.life = u.dev.life) _ (fun t e h => (tickPart_life t e).trans h) _ _ ?_
  refine foldl_inv (fun t : State => t.dev.life = u.dev.life) _ (fun t k h => (congrArg Device.life (tickAgent_dev t k)).trans h) _ _ ?_
  refine foldl_inv (fun t : State => t.dev.life = u.dev.life) _ (fun t k h => (congrArg Device.life (tickCore_dev t k)).trans h) _ _ ?_
  exact skipped _ fun _ => rfl

theorem portLost_life (s : State) (port : Nat) : (portLost s port).dev.life = s.dev.life := by
  obtain ⟨_, _, _, e⟩ := portLost_dev s port
  rw [e]
  rfl

theorem removePort_life (s : State) (port : Nat) : (removePort s port).dev.life = s.dev.life := by
  simp only [removePort, setPort_life]
  have lost : (if (s.port port).state = .active then portLost s port else s).dev.life = s.dev.life := by
    split
    · exact portLost_life ..
    · rfl
  generalize (if (s.port port).state = .active then portLost s port else s) = t at lost
  split
  · exact lost
  · exact (congrArg Device.life (endRinger_dev ..)).trans lost

theorem applyRemovals_life (s : State) : (applyRemovals s).dev.life = s.dev.life :=
  foldl_inv (fun t : State => t.dev.life = s.dev.life) removeCore (fun t c h => by
    unfold removeCore
    split
    · exact h
    · exact h) _ s rfl

/-- Self-test and fault map done, the capability block is published; without a fault map bring-up ends at its status 6. -/
theorem bringUp_life (s : State) : (bringUp s).dev.life =
    if Config.faultMapLoads then (true, s.dev.bstat, true, none) else (s.dev.published, 6, s.dev.mapLoaded, none) := by
  have kept : ∀ (u : State) (l : List Nat), (l.foldl (fun t g => removePort t g) (applyRemovals u)).dev.life = u.dev.life := fun u l =>
    foldl_inv (fun t : State => t.dev.life = u.dev.life) _ (fun t g h => (removePort_life t g).trans h) l _ (applyRemovals_life u)
  unfold bringUp
  cases Config.faultMapLoads
  case false => rfl
  case true =>
    simp only [Bool.not_true, Bool.false_eq_true, if_false, if_true]
    generalize ports : List.foldl (fun t g => removePort t g) (applyRemovals _) _ = t
    have life : t.dev.life = (s.dev.published, s.dev.bstat, true, none) := by
      rw [← ports, kept]
      rfl
    change (true, t.dev.life.2) = _
    rw [life]

/-! ## Writes that reach BAR0, from either side -/

section

variable {s : State} {from_ : Nat → RegTarget}

theorem exec_write_command (works : s.dev.bstat ≠ 1) (reaches : writesBar0 s from_) {n : Nat} (block : n < 4096) {v : Word} {c : Nat} {e : Instr}
    (ready : (s.pcb n).cmd = 0) (code : v.toNat % 256 = c) (known : commandOf n c e) :
    ∃ t, exec (.registerWrite (from_ (0x100000 + 256 * n)) v) s = .next t
      ∧ t.pcb n = { s.pcb n with cmd := c, arg := BitVec.ofNat 32 (v.toNat / 2 ^ 32) } ∧ (s.cycle + 1, e) ∈ t.agenda ∧ t.parts = s.parts := by
  obtain ⟨m, writes⟩ := exec_writesBar0 works reaches
  refine ⟨_, (writes _ v).trans (congrArg _ ((writeBar0_pcb (off := 0) block (by decide) rfl m v).trans (writeCmd_takes ready code known))), ?_, ?_, rfl⟩
  · rw [sched_home_pcb, State.pcb_setPcb]
  · exact (mem_insertEvent ..).2 (.inl rfl)

theorem exec_write_busy (works : s.dev.bstat ≠ 1) (reaches : writesBar0 s from_) {n : Nat} (block : n < 4096) (v : Word) (busy : (s.pcb n).cmd ≠ 0) :
    exec (.registerWrite (from_ (0x100000 + 256 * n)) v) s = .next s := by
  obtain ⟨m, writes⟩ := exec_writesBar0 works reaches
  exact (writes _ v).trans (congrArg _ ((writeBar0_pcb (off := 0) block (by decide) rfl m v).trans (writeCmd_busy busy v)))

theorem exec_write_live (works : s.dev.bstat ≠ 1) (reaches : writesBar0 s from_) {n : Nat} (block : n < 4096) (v : Word) (live : (s.pcb n).live)
    {k : Nat} (low : 0 < k) (high : k < 32) : exec (.registerWrite (from_ (0x100000 + 256 * n + 8 * k)) v) s = .next s := by
  obtain ⟨m, writes⟩ := exec_writesBar0 works reaches
  exact (writes _ v).trans (congrArg _ ((writeBar0_pcb block (by omega) (by omega) m v).trans (writePcb_live live (by omega) v)))

theorem exec_write_free (works : s.dev.bstat ≠ 1) (reaches : writesBar0 s from_) {n : Nat} (block : n < 4096) (v : Word) (free : ¬ (s.pcb n).live) :
    exec (.registerWrite (from_ (0x100000 + 256 * n + 40)) v) s = .next (s.setPcb n { s.pcb n with trapq := v })
    ∧ exec (.registerWrite (from_ (0x100000 + 256 * n + 48)) v) s = .next (s.setPcb n { s.pcb n with save := v })
    ∧ exec (.registerWrite (from_ (0x100000 + 256 * n + 96)) v) s = .next (s.setPcb n { s.pcb n with seed := v }) := by
  obtain ⟨m, writes⟩ := exec_writesBar0 works reaches
  obtain ⟨trapq, save, seed⟩ := writePcb_free free v
  have put : ∀ off < 256, off % 8 = 0 → exec (.registerWrite (from_ (0x100000 + 256 * n + off)) v) s = .next (writePcb s n off v) :=
    fun off within aligned => (writes _ v).trans (congrArg _ (writeBar0_pcb block within aligned m v))
  exact ⟨(put 40 (by decide) rfl).trans (congrArg _ trapq), (put 48 (by decide) rfl).trans (congrArg _ save),
    (put 96 (by decide) rfl).trans (congrArg _ seed)⟩

/-- The host reaches neither the leader's register nor the route table. -/
theorem exec_host_keeps (works : s.dev.bstat ≠ 1) (l : Fin 2) {off : Nat} (v : Word)
    (not : s.dev.hostUp[l] = false ∨ off % 8 ≠ 0 ∨ off = 0x1038 ∨ 0x20000 ≤ off ∧ off < 0x30000) :
    exec (.registerWrite (.host l off) v) s = .next s := by
  cases up : s.dev.hostUp[l]
  case false => exact exec_host_down works l off v up
  case true =>
    refine (exec_host_up works off v up).trans (congrArg _ ?_)
    by_cases aligned : off % 8 = 0
    · rcases not with down | odd | rfl | ⟨low, high⟩
      · exact absurd (up.symm.trans down) (by decide)
      · exact absurd aligned odd
      · exact writeBar0_noLeader v
      · exact writeBar0_routes aligned low high false v
    · exact writeBar0_misaligned aligned false v

end

end Sys2Proof.Machine

section

open Sys2Proof Sys2Proof.Machine

/-- Settles O52: the registers one by one, BAR2 by its outcomes, the report by its bytes, module reset and the end of bring-up by what
no port concerns. -/
theorem hostInterface : Obligations.HostInterface := by
  unfold Obligations.HostInterface
  refine ⟨fun s => ⟨fun failed => ?_, fun works => ⟨fun v => ⟨fun ok => exec_idtabWrite_takes works ok.1 ok.2, exec_idtabWrite_keeps works⟩,
    fun v => ⟨exec_apertureBaseWrite_takes works (l := 0), exec_apertureBaseWrite_takes works (l := 1), fun l => exec_apertureBaseWrite_keeps works⟩,
    serving_works works _, fun k v => ⟨exec_peerSlotWrite_takes works k v, exec_peerSlotWrite_keeps works k v⟩,
    fun k v => ⟨exec_arbitrationWrite_takes works v, exec_arbitrationWrite_keeps works v⟩, fun n v => serving_works works _,
    fun h v => ⟨exec_inject_takes works, exec_inject_keeps works⟩, fun l v => ⟨exec_resize_takes works l, exec_resize_keeps works l⟩,
    fun l off v => exec_host_keeps works l v, fun v => ⟨exec_management works 0x1038 v, fun off aligned low high => ?_⟩, fun from_ reaches v => ?_⟩⟩,
    fun s => ⟨fun k off n => ?_, fun k off l => ?_, fun a l u => ?_, ?_⟩, fun s => ?_⟩
  · exact ⟨fun v => ⟨serving_failed failed _, serving_failed failed _, fun l => serving_failed failed _⟩, serving_failed failed _,
      fun k v => serving_failed failed _, fun k v => serving_failed failed _, fun d v => serving_failed failed _⟩
  · have table := writeBar0_routes (s := s) aligned low high true v
    refine ⟨_, (exec_management works off v).trans (congrArg _ table), writeRoutes_parts .., fun k within => ?_, fun i => writeRoutes_others _ v⟩
    exact (writeRoutes_routes _ v within).trans (congrArg some (routeByte_eq v k))
  · obtain ⟨m, writes⟩ := exec_writesBar0 works reaches
    obtain ⟨idtab, ap0, ap1, fcnt, attest⟩ := writeBar0_dcb works m v
    exact ⟨(writes _ v).trans idtab, (writes _ v).trans ap0, (writes _ v).trans ap1, (writes _ v).trans fcnt, (writes _ v).trans attest,
      fun n block => ⟨fun live k => exec_write_live works reaches block v live, exec_write_free works reaches block v,
        exec_write_busy works reaches block v, fun c e => exec_write_command works reaches block⟩⟩
  · refine ⟨exec_bar2Read_outside, exec_bar2Read_unpublished, fun reaches published va place => ⟨fun l => exec_bar2Read_reads reaches published place,
      fun fails => exec_bar2Read_fails reaches published ?_⟩, fun reaches published nowhere => exec_bar2Read_fails reaches published ?_⟩
    · rw [place]; exact fails
    · rw [nowhere]; rfl
  · refine ⟨exec_bar2Write_lost, fun reaches published => ⟨fun nowhere => exec_bar2Write_fails reaches published ?_,
      fun va place => ⟨fun u => exec_bar2Write_writes reaches published place, fun fails => exec_bar2Write_fails reaches published ?_⟩⟩⟩
    · rw [nowhere]; rfl
    · rw [place]; exact fails
  · intro report works request written length
    obtain ⟨size, nonce, device⟩ := attestReport_facts s (nonce := l.take 32) (by rw [List.length_take, length]; rfl)
    exact ⟨exec_attestRequest works request written, size, nonce, device⟩
  · rw [← signed]
    cases h : signed
    case false =>
      obtain ⟨parts, agents, cells, pcbs, ctxs, ringers, presence, mem, published⟩ := coldState_cleared s 1
      exact ⟨_, exec_moduleReset_unsigned h s, parts, agents, cells, pcbs, ctxs, ringers, presence, mem, published, fun _ => rfl,
        fun h => absurd h (by decide), fun h => absurd h (by decide)⟩
    case true =>
      cases m : Config.memoryTrains
      case false =>
        obtain ⟨parts, agents, cells, pcbs, ctxs, ringers, presence, mem, published⟩ := coldState_cleared s 2
        exact ⟨_, exec_moduleReset_untrained h m s, parts, agents, cells, pcbs, ctxs, ringers, presence, mem, published,
          fun h => absurd h (by decide), fun _ _ => rfl, fun _ h => absurd h (by decide)⟩
      case true =>
        obtain ⟨parts, agents, cells, pcbs, ctxs, ringers, presence, mem, published⟩ := warmState_cleared s
        exact ⟨_, exec_moduleReset_sound h m s, parts, agents, cells, pcbs, ctxs, ringers, presence, mem, published,
          fun h => absurd h (by decide), fun _ h => absurd h (by decide), fun _ _ => warmState_trains s⟩
  · have life := tick_life s
    refine ⟨fun other => ?_, fun ends => ?_⟩
    · rw [if_neg other] at life
      exact ⟨congrArg Prod.fst life, congrArg (fun x => x.2.1) life⟩
    · rw [if_pos ends, bringUp_life] at life
      refine ⟨(congrArg (fun x => x.2.2.2) life).trans ?_, fun loads => ?_, fun lost => ?_⟩
      · split <;> rfl
      · rw [if_pos loads] at life
        exact ⟨congrArg Prod.fst life, congrArg (fun x => x.2.2.1) life, congrArg (fun x => x.2.1) life⟩
      · rw [if_neg (Bool.eq_false_iff.1 lost)] at life
        exact ⟨congrArg Prod.fst life, congrArg (fun x => x.2.1) life⟩

end

/-! PROOF. O53: training of a port, a link that goes down, the timebase, accesses of peers. -/

namespace Sys2Proof.Machine

open Sys2Proof

/-! ## Training of a port (R297) -/

/-- A port becomes something else; the other ports, the partitions and the agents stay. -/
structure PortBecomes (s t : State) (g : Nat) (q : Port) : Prop where
  port : t.port g = q
  others : ∀ r, r ≠ g → t.port r = s.port r
  parts : t.parts = s.parts
  agents : t.agents = s.agents

section

variable {s : State} {g : Nat}

theorem partsApart : State.apartFromDevice State.parts := fun _ _ _ _ => rfl

theorem agentsApart : State.apartFromDevice State.agents := fun _ _ _ _ => rfl

theorem PortBecomes.set (within : g < 12) (q : Port) : PortBecomes s (s.setPort g q) g q where
  port := State.port_setPort within q
  others _ other := State.port_setPort_other other q
  parts := rfl
  agents := rfl

theorem PortBecomes.trans {t u : State} {q r : Port} (h : PortBecomes s t g q) (k : PortBecomes t u g r) : PortBecomes s u g r where
  port := k.port
  others j other := (k.others j other).trans (h.others j other)
  parts := k.parts.trans h.parts
  agents := k.agents.trans h.agents

theorem PortBecomes.enter (within : g < 12) (x : PortState) : PortBecomes s (enterPort s g x) g
    (if x = .reset then { Port.reset with removed := (s.port g).removed, barred := (s.port g).barred } else { s.port g with state := x }) where
  port := enterPort_port within x
  others _ other := enterPort_port_other other x
  parts := enterPort_rest partsApart s g x
  agents := enterPort_rest agentsApart s g x

theorem PortBecomes.enterOther (within : g < 12) {x : PortState} (x_ne : x ≠ .reset) :
    PortBecomes s (enterPort s g x) g { s.port g with state := x } := by
  simpa only [if_neg x_ne] using PortBecomes.enter (s := s) within x

/-- A port takes values and enters a state. -/
theorem PortBecomes.setEnter (within : g < 12) (q : Port) {x : PortState} (x_ne : x ≠ .reset) :
    PortBecomes s (enterPort (s.setPort g q) g x) g { q with state := x } := by
  have entered := PortBecomes.enterOther (s := s.setPort g q) within x_ne
  rw [State.port_setPort within] at entered
  exact (PortBecomes.set within q).trans entered

theorem PortBecomes.retryLater (s : State) (g : Nat) : PortBecomes s (retryLater s g) g (s.port g) := ⟨rfl, fun _ _ => rfl, rfl, rfl⟩

theorem PortBecomes.write {t : State} {q : Port} (h : PortBecomes s t g q) (k : Nat) (l : List Byte) : PortBecomes s (wr t k l) g q :=
  ⟨h.port, h.others, h.parts, h.agents⟩

theorem PortBecomes.count {t : State} {q : Port} (h : PortBecomes s t g q) : PortBecomes s (t.modDev fun d => { d with eidx := d.eidx + 1 }) g q :=
  ⟨h.port, h.others, h.parts, h.agents⟩

/-- The log of errors is no matter of a port. -/
theorem PortBecomes.log {t : State} {q : Port} (h : PortBecomes s t g q) (c : Nat) (u : W32) (n : Nat) : PortBecomes s (logOnly t c u n) g q :=
  (h.write ..).count

theorem PortBecomes.bar (within : g < 12) : PortBecomes s (barPort s g) g { s.port g with state := .down, barred := true } := by
  have quiet : PortBecomes s (quietPort (trained s g) g) g (s.port g) := ⟨rfl, fun _ _ => rfl, rfl, rfl⟩
  exact (quiet.trans (.set within _)).log ..

theorem pendingEvent_retryLater (s : State) (g : Nat) : pendingEvent (retryLater s g) (.linkRetryWaitExpiry g) = true :=
  pendingEvent_sched_self ..

/-- A port that an event finds in its state. -/
theorem inState_iff {x : PortState} : inState s g x = true ↔ g < 12 ∧ (s.port g).state = x ∧ pendingEvent s (.linkRetryWaitExpiry g) = false
    ∧ (s.port g).removed = false ∧ (s.port g).barred = false := by
  simp [inState, and_assoc]

section

variable {x : PortState}

theorem exec_linkResetExpiry (at_ : inState s g .reset = true) : exec (.linkResetExpiry g) s = .next (enterPort s g .detect) :=
  congrArg _ (if_pos at_)

theorem exec_partnerDetect {n : Nat} (at_ : inState s g .detect = true) (enough : 2 ≤ n) : exec (.partnerDetect g n) s =
    .next (enterPort (s.setPort g { s.port g with usable := min n 8 }) g .align) := congrArg _ (if_pos ⟨at_, enough⟩)

theorem exec_partnerDetect_few {n : Nat} (few : n < 2) : exec (.partnerDetect g n) s = .next s :=
  congrArg _ (if_neg fun both => Nat.not_le.2 few both.2)

theorem exec_laneAlign (at_ : inState s g .align = true) : exec (.laneAlign g) s = .next (enterPort s g .equalize) := congrArg _ (if_pos at_)

theorem exec_equalizeAgree (at_ : inState s g .equalize = true) : exec (.equalizeAgree g) s = .next (enterPort s g .rate) :=
  congrArg _ (if_pos at_)

theorem exec_rateSelect_some (at_ : inState s g .rate = true) {r w k : Nat} (rate : nextRate (s.port g).usable (s.port g).rateIdx = some (r, w, k)) :
    exec (.rateSelect g) s = .next (enterPort (s.setPort g { s.port g with rate := r, width := w, rateIdx := k }) g .verify) := by
  change execRateSelect g s = _
  simp only [execRateSelect, if_pos at_, rate]

theorem exec_rateSelect_none (at_ : inState s g .rate = true) (rate : nextRate (s.port g).usable (s.port g).rateIdx = none) :
    exec (.rateSelect g) s = .next (retryLater s g) := by
  change execRateSelect g s = _
  simp only [execRateSelect, if_pos at_, rate]

theorem exec_verifyDone (at_ : inState s g .verify = true) (n : Nat) :
    exec (.verifyDone g n) s = .next (enterPort s g (if n < 8 then .identity else .rate)) := congrArg _ (if_pos at_)

theorem exec_identityExchange_agrees (at_ : inState s g .identity = true) {dev : BitVec 16} {hash : Word} (agrees : hash = Config.encodingHash ∧ dev ≠ s.dev.devid) :
    exec (.identityExchange g dev hash) s = .next (nameSlot (enterPort (s.setPort g { s.port g with partner := dev }) g .active) g dev) :=
  congrArg _ ((if_pos at_).trans (if_pos agrees))

theorem exec_identityExchange_differs (at_ : inState s g .identity = true) {dev : BitVec 16} {hash : Word} (differs : hash ≠ Config.encodingHash ∨ dev = s.dev.devid) :
    exec (.identityExchange g dev hash) s = .next (barPort s g) :=
  congrArg _ ((if_pos at_).trans (if_neg fun agrees => differs.elim (· agrees.1) agrees.2))

/-- What a timeout leads to. -/
theorem exec_linkTrainingTimeout (at_ : inState s g x = true) : exec (.linkTrainingTimeout g) s = .next (match x with
    | .detect => retryLater s g
    | .align | .equalize => enterPort s g .reset
    | .verify => enterPort s g .rate
    | .identity => barPort s g
    | _ => s) := by
  have state := (inState_iff.1 at_).2.1
  change execLinkTrainingTimeout g s = _
  simp only [execLinkTrainingTimeout, state]
  cases x <;> simp only [at_, if_true]

theorem exec_linkRetryWaitExpiry (within : g < 12) (waits : (s.port g).state = .detect ∨ (s.port g).state = .rate) :
    exec (.linkRetryWaitExpiry g) s = .next (enterPort s g .reset) := congrArg _ (if_pos ⟨within, waits⟩)

theorem exec_linkDown (within : g < 12) (active : (s.port g).state = .active) :
    exec (.linkDown g) s = .next (enterPort (portLost s g) g .reset) := congrArg _ (if_pos ⟨within, active⟩)

end

theorem PortBecomes.nameSlot {t : State} {p q : Nat} {r : Port} (h : PortBecomes s t p r) (dev : BitVec 16) :
    PortBecomes s (nameSlot t q dev) p r := by
  have ports : ∀ j, (Machine.nameSlot t q dev).port j = t.port j := fun j => by
    by_cases within : q < 16
    · simp only [Machine.nameSlot, State.port, State.modDev, within, dite_true]
    · simp only [Machine.nameSlot, State.port, State.modDev, within, dite_false]
  exact ⟨(ports p).trans h.port, fun j other => (ports j).trans (h.others j other), h.parts, h.agents⟩

end

/-! ## A link that goes down (R252) -/

section

variable (s : State) (port : Nat)

/-- What waits at a peer is no matter of the partitions, but for a claim, which faults at its SQPUT. -/
theorem dropWaiting_parts (t : State) (e : Nat × Agent) (unclaimed : e.2.claim = none) : (dropWaiting s port t e).parts = t.parts := by
  simp only [dropWaiting, unclaimed]
  refine foldl_inv (fun u : State => u.parts = t.parts) _ ?_ _ _ rfl
  intro u a kept
  split
  · exact kept
  · split
    · simpa using kept
    · split
      · simpa using kept
      · exact kept

theorem dropPromises_parts (t : State) (e : Nat × Part) : (dropPromises s port t e).parts = t.parts := by
  refine foldl_inv (fun u : State => u.parts = t.parts) _ (fun u r kept => ?_) _ _ rfl
  refine foldl_inv (fun v : State => v.parts = t.parts) _ (fun v i kept => ?_) _ _ kept
  dsimp only
  split
  · split
    · exact kept
    · exact kept
  · exact kept

theorem dropPosted_parts (t : State) : (dropPosted s port t).parts = t.parts := by
  refine foldl_inv (fun u : State => u.parts = t.parts) _ (fun u p kept => ?_) _ _ rfl
  split
  · split
    · exact kept
    · exact kept
  · exact kept

theorem portDropped_parts (unclaimed : ∀ e ∈ s.agents, e.2.claim = none) : (portDropped s port).parts = s.parts := by
  have waiting : (s.agents.foldl (dropWaiting s port) s).parts = s.parts :=
    foldl_kept (Q := fun t : State => t.parts = s.parts) (fun t e he kept => (dropWaiting_parts s port t e (unclaimed e he)).trans kept) rfl
  refine foldl_inv (fun t : State => t.parts = s.parts) _ (fun t e kept => (dropPromises_parts s port t e).trans kept) _ _ ?_
  exact (dropPosted_parts s port _).trans waiting

theorem portLost_parts (unclaimed : ∀ e ∈ s.agents, e.2.claim = none) : (portLost s port).parts = s.parts :=
  (show (portLost s port).parts = (portDropped s port).parts from rfl).trans (portDropped_parts s port unclaimed)

theorem portLost_port (r : Nat) : (portLost s port).port r = s.port r := by
  obtain ⟨synced, path, peers, dev⟩ := portLost_dev s port
  simp only [State.port, dev]

theorem portLost_eidx : (portLost s port).dev.eidx = s.dev.eidx + 1 := by
  obtain ⟨synced, path, peers, dev⟩ := portLost_dev s port
  rw [dev]

end

/-! ## The timebase (R253) -/

section

variable {s : State}

theorem exec_timebaseSyncGain_first (v : Word) (first : s.dev.gained = false) (idle : s.parts = []) : exec (.timebaseSyncGain v) s =
    .next (({ s with time := v, timeFrac := 0, timeOff := 0 } : State).modDev fun d => { d with gained := true, path := true, synced := true }) :=
  congrArg _ (if_pos (by simp [first, idle]))

/-- The way to the leader's value that is caught up with. -/
def timeBehind (s : State) (v : Word) : Int := ((v.toNat : Int) - s.time.toNat) * 21 - s.timeFrac

theorem exec_timebaseSyncGain_later (v : Word) (later : s.dev.gained = true ∨ s.parts ≠ []) : ∃ t, exec (.timebaseSyncGain v) s = .next t
    ∧ t.time = s.time ∧ t.dev.synced = false ∧ t.timeOff = timeBehind s v := by
  refine ⟨_, congrArg Host.Outcome.next (if_neg fun first => ?_), ?_⟩
  · simp only [Bool.not_eq_true', List.isEmpty_iff] at first
    rcases later with gained | live
    · simp [first.1] at gained
    · exact live first.2
  · dsimp only
    split
    · unfold schedOnce
      split
      · exact ⟨rfl, rfl, rfl⟩
      · exact ⟨rfl, rfl, rfl⟩
    · exact ⟨rfl, rfl, rfl⟩

theorem exec_timebaseWithinTolerance_noPath (noPath : s.dev.path = false) : exec .timebaseWithinTolerance s = .next s :=
  congrArg _ (if_neg (by simp [noPath]))

theorem exec_timebaseWithinTolerance_within (near : s.timeOff.natAbs ≤ 420) (path : s.dev.path = true) :
    exec .timebaseWithinTolerance s = .next (s.modDev fun d => { d with synced := true }) := congrArg _ (if_pos ⟨near, path⟩)

end

/-! ## Accesses of peers (R251) -/

section

variable {s : State} {port id pa k : Nat}

theorem exec_peerAccessArrival_inactive (inactive : portActive s port = false) (a : PeerAcc) :
    exec (.peerAccessArrival port id a) s = .next s := congrArg _ (if_neg (by simp [inactive]))

theorem exec_peerAccessArrival_active (active : portActive s port = true) (a : PeerAcc) :
    exec (.peerAccessArrival port id a) s = .next (peerHome s port id a) := congrArg _ (if_pos active)

variable (home : homeKey pa = some k)

include home

theorem peerHome_performs {a : PeerAcc} {write : Bool} (quiet : s.quietUnits) (sound : failingPlace s (.here k) = false)
    (target : peerTarget a = some (pa, write)) (inHbm : presenceAcc a = true → pa < Config.hbmBytes) :
    peerHome s port id a = peerPerform s port id k a := by
  have genuine : ∀ us, transit s us { genuine s (Config.freeWord (s.free + 1)) 0 0 with key := k } = (s, none) :=
    fun us => transit_quiet s us _ quiet.2 rfl
  have there : ¬ ((failingPlace s (.here k) = true) ∨ (presenceAcc a = true ∧ Config.hbmBytes ≤ pa)) := by
    rintro (bad | ⟨presence, beyond⟩)
    · simp [sound] at bad
    · exact Nat.not_le.2 (inHbm presence) beyond
  unfold peerHome
  split
  · cases target
  next none_ => simp [target] at none_
  next pa' write' _ some_ =>
    obtain ⟨rfl, rfl⟩ : pa = pa' ∧ write = write' := by simpa [target] using some_
    simp only [home, if_neg there, fencedOn_quiet _ _ quiet, Bool.false_eq_true, if_false, genuine]

theorem peerHome_refuses {a : PeerAcc} {write : Bool} (target : peerTarget a = some (pa, write))
    (not : failingPlace s (.here k) = true ∨ (presenceAcc a = true ∧ Config.hbmBytes ≤ pa)) :
    peerHome s port id a = answerPeer s port id [] := by
  unfold peerHome
  split
  · cases target
  next none_ => simp [target] at none_
  next pa' write' _ some_ =>
    obtain ⟨rfl, rfl⟩ : pa = pa' ∧ write = write' := by simpa [target] using some_
    simp only [home, if_pos not]

omit home in
theorem Mem.readN_eq_map (m : Mem) (n : Nat) : ∀ a, Mem.readN m a n = (List.range n).map fun i => m.get (a + i) := by
  induction n with
  | zero => exact fun _ => rfl
  | succ n ih =>
    intro a
    have later : ∀ i, a + 1 + i = a + (i + 1) := fun i => by omega
    simp [Mem.readN, ih, List.range_succ_eq_map, later, Function.comp_def]

omit home in
/-- A read without single assignment, or of words that are there, finds the bytes. -/
theorem readLoc_here {n : Nat} {sa : Bool} (there : sa = false ∨ ∀ i < n, (s.presenceOf ((k + i) / 8 * 8)).isSome = true) :
    readLoc s ⟨.here k, sa⟩ n = rd s k n := by
  cases sa
  case false => rfl
  case true =>
    have there : ∀ i < n, (s.presenceOf ((k + i) / 8 * 8)).isSome = true := by simpa using there
    rw [rd, Mem.readN_eq_map]
    exact List.map_congr_left fun i small => if_pos (there i (List.mem_range.1 small))

omit home in
/-- A word of single assignment that is EMPTY reads 0. -/
theorem readLoc_empty (aligned : k % 8 = 0) (empty : s.presenceOf k = none) : readLoc s ⟨.here k, true⟩ 8 = List.replicate 8 0 := by
  refine List.eq_replicate_iff.2 ⟨by simp [readLoc], fun b hb => ?_⟩
  obtain ⟨i, small, rfl⟩ := List.mem_map.1 hb
  have word : (k + i) / 8 * 8 = k := by have := List.mem_range.1 small; omega
  simp [word, empty]

omit home in
theorem atomNew_add (n old b c : Nat) : atomNew .add n old b c = some ((old + b) % 2 ^ (8 * n)) := by simp [atomNew, Nat.add_mod]

end

end Sys2Proof.Machine

section

open Sys2Proof Sys2Proof.Machine

/-- Settles O53: a port's training event by event, a link that goes down, the timebase, and what a peer's access does at its home. -/
theorem links : Obligations.Links := by
  refine ⟨?_, ?_, ?_⟩
  · intro s g within p goes at_ fresh
    have moves : ∀ {i t q}, exec i s = .next t → PortBecomes s t g q → goes i q :=
      fun e h => ⟨_, e, h.port, h.others, h.parts, h.agents⟩
    have toReset : PortBecomes s (enterPort s g .reset) g fresh := PortBecomes.enter within .reset
    refine ⟨fun h => moves (exec_linkResetExpiry h) (.enterOther within (by decide)), fun n h => ⟨fun enough => ?_, exec_partnerDetect_few⟩,
      fun h => moves (exec_laneAlign h) (.enterOther within (by decide)), fun h => moves (exec_equalizeAgree h) (.enterOther within (by decide)),
      fun r w k h rate => moves (exec_rateSelect_some h rate) (.setEnter within _ (by decide)), fun h rate => ?_, fun n h => ?_,
      fun dev hash h => ⟨fun agrees => ?_, fun differs => ?_⟩, ?_, fun h => moves (exec_linkTrainingTimeout h) (.enterOther within (by decide)),
      fun h => moves (exec_linkTrainingTimeout h) (.bar within), fun h => ?_,
      fun waits => moves (exec_linkRetryWaitExpiry within waits) toReset, fun active => ?_⟩
    · exact moves (exec_partnerDetect h enough) (.setEnter within _ (by decide))
    · exact ⟨_, exec_rateSelect_none h rate, (PortBecomes.retryLater s g).port, pendingEvent_retryLater s g⟩
    · exact moves (exec_verifyDone h n) (.enterOther within (by split <;> decide))
    · exact moves (exec_identityExchange_agrees h agrees) ((PortBecomes.setEnter within _ (by decide)).nameSlot dev)
    · exact moves (exec_identityExchange_differs h differs) (.bar within)
    · rintro (h | h)
      · exact moves (exec_linkTrainingTimeout h) toReset
      · exact moves (exec_linkTrainingTimeout h) toReset
    · exact ⟨_, exec_linkTrainingTimeout h, (PortBecomes.retryLater s g).port, pendingEvent_retryLater s g⟩
    · have down := PortBecomes.enter (s := portLost s g) within .reset
      rw [portLost_port] at down
      exact ⟨_, exec_linkDown within active, down.port, fun r other => (down.others r other).trans (portLost_port s g r),
        (enterPort_dev (h := Device.eidx) (fun _ _ _ => rfl) _ g .reset).trans (portLost_eidx s g),
        fun unclaimed => down.parts.trans (portLost_parts s g unclaimed), pendingEvent_enterPort_reset⟩
  · exact fun s v => ⟨exec_timebaseSyncGain_first v, exec_timebaseSyncGain_later v, exec_timebaseWithinTolerance_noPath,
      exec_timebaseWithinTolerance_within⟩
  · intro s port id pa k home
    refine ⟨exec_peerAccessArrival_inactive, fun active quiet sound => ?_, fun active bad n sa => ?_⟩
    · intro put
      have performs : ∀ {a write}, peerTarget a = some (pa, write) → (presenceAcc a = true → pa < Config.hbmBytes) →
          exec (.peerAccessArrival port id a) s = .next (peerPerform s port id k a) := fun target inHbm =>
        (exec_peerAccessArrival_active active _).trans (congrArg _ (peerHome_performs home quiet sound target inHbm))
      have plain : ∀ {a write}, peerTarget a = some (pa, write) → presenceAcc a = false →
          exec (.peerAccessArrival port id a) s = .next (peerPerform s port id k a) := fun target apart =>
        performs target fun presence => by simp [apart] at presence
      refine ⟨fun n sa there => ?_, fun aligned empty => ?_, fun l => plain rfl rfl, fun v => plain rfl rfl, fun b c => ?_,
        fun v => ⟨fun inHbm full => ?_, fun beyond => ?_⟩, fun v => plain rfl rfl⟩
      · exact (plain rfl rfl).trans (congrArg (fun l => Host.Outcome.next (put s l)) (readLoc_here there))
      · exact (plain rfl rfl).trans (congrArg (fun l => Host.Outcome.next (put s l)) (readLoc_empty aligned empty))
      · refine (plain rfl rfl).trans ?_
        simp [peerPerform, atomNew_add, atomBytes, answerPeer, put]
      · refine (performs rfl fun _ => inHbm).trans ?_
        simp [peerPerform, presenceByte, full, answerPeer, put]
      · exact (exec_peerAccessArrival_active active _).trans (congrArg _ (peerHome_refuses home rfl (.inr ⟨rfl, beyond⟩)))
    · exact (exec_peerAccessArrival_active active _).trans (congrArg _ (peerHome_refuses home rfl (.inl bad)))

end

/-! PROOF. O54: a droop record of an issue that names five loop indices, which no table gives an instruction, is longer than the 64 bytes
kept of it, and its voltage domain is not where the record has it. -/

namespace Sys2Proof.Machine

open Sys2Proof

/-! ## Records appended to a buffer (R301) -/

section

variable {s : State} {k : Nat} {r : List Byte}

/-- A buffer at a key with room for records: its capacity and its write position. -/
structure State.buffer (s : State) (k cap pos : Nat) : Prop where
  ok : s.memOk
  capacity : rdNat s k 8 = cap
  position : rdNat s (k + 8) 8 = pos

theorem Mem.readN_writeL_apart {m : Mem} (ok : Mem.wf m = true) {a b n : Nat} {l : List Byte} (apart : a + n ≤ b ∨ b + l.length ≤ a) :
    Mem.readN (Mem.writeL m b l) a n = Mem.readN m a n := by
  simp only [Mem.readN_eq_map]
  refine List.map_congr_left fun i small => ?_
  rw [Mem.get_writeL _ _ _ _ ok, if_neg]
  have := List.mem_range.1 small
  omega

theorem Mem.readN_writeL_same {m : Mem} (ok : Mem.wf m = true) (a : Nat) (l : List Byte) : Mem.readN (Mem.writeL m a l) a l.length = l := by
  rw [Mem.readN_eq_map]
  refine List.ext_getElem (by simp) fun i small _ => ?_
  have small : i < l.length := by simpa using small
  simp [Mem.get_writeL _ _ _ _ ok, small]

/-- The memory behind a record that a buffer has room for. -/
theorem appendRecord_mem {b : Word} {cap pos : Nat} (h : s.buffer (hbmKey b.toNat) cap pos) (room : cap ≠ 0) (r : List Byte) :
    (appendRecord s b r).mem = Mem.writeL (Mem.writeL s.mem (hbmKey b.toNat + 64 + 64 * (pos % cap)) (r.take 64)) (hbmKey b.toNat + 8)
      (toLe 8 (pos + 1)) := by
  obtain ⟨_, rfl, rfl⟩ := h
  simp only [appendRecord, if_neg room]
  rfl

theorem State.buffer.append {b : Word} {cap pos : Nat} (h : s.buffer (hbmKey b.toNat) cap pos) (room : cap ≠ 0) (r : List Byte) :
    (appendRecord s b r).buffer (hbmKey b.toNat) cap ((pos + 1) % 2 ^ 64) := by
  have written := Mem.wf_writeL (r.take 64) s.mem (hbmKey b.toNat + 64 + 64 * (pos % cap)) h.ok
  refine ⟨appendRecord_memOk _ _ _ h.ok, ?_, ?_⟩
  · rw [rdNat, rd, appendRecord_mem h room, Mem.readN_writeL_apart written (.inl (Nat.le_refl _)),
      Mem.readN_writeL_apart h.ok (.inl (by omega))]
    exact h.capacity
  · have same := Mem.readN_writeL_same written (hbmKey b.toNat + 8) (toLe 8 (pos + 1))
    rw [length_toLe] at same
    rw [rdNat, rd, appendRecord_mem h room, same, leNat_toLe]

/-- A byte of the record that has been appended. -/
theorem get_appendRecord {b : Word} {cap pos : Nat} (h : s.buffer (hbmKey b.toNat) cap pos) (room : cap ≠ 0) {j : Nat} (within : j < 64)
    (long : 64 ≤ r.length) :
    Mem.get (appendRecord s b r).mem (hbmKey b.toNat + 64 + 64 * (pos % cap) + j) = r.getD j unlisted := by
  have written := Mem.wf_writeL (r.take 64) s.mem (hbmKey b.toNat + 64 + 64 * (pos % cap)) h.ok
  have length : (r.take 64).length = 64 := by simp [long]
  rw [appendRecord_mem h room, Mem.get_writeL _ _ _ _ written, length_toLe, if_neg (by omega), Mem.get_writeL _ _ _ _ h.ok, length,
    if_pos (by omega), Nat.add_sub_cancel_left]
  simp [List.getD_eq_getElem?_getD, within]

end

/-! ## The records of a droop (R313) -/

theorem wrQuiet_cores (s : State) (k : Nat) (l : List Byte) : (wrQuiet s k l).cores = s.cores := rfl

theorem appendRecord_core (s : State) (b : Word) (r : List Byte) (c : Nat) : (appendRecord s b r).core c = s.core c := by
  have cores : (appendRecord s b r).cores = s.cores := by
    simp only [appendRecord]
    split
    · rfl
    · rw [wrQuiet_cores, wrQuiet_cores]
  rw [State.core, State.core, cores]

/-- A core with an issue names it in its record. -/
theorem droopRecord_of_issued {s : State} {c : Nat} {x : Issued} (issued : (s.core c).issued.head? = some x) (v : Nat) :
    ∃ tag d, droopRecord s v c = appendRecord s s.dev.trace (traceRecord s 5 0 tag x.rid x.node x.pc x.li c d) := by
  simp only [droopRecord, issued]
  exact ⟨_, _, rfl⟩

theorem droopRecord_appends (s : State) (v c : Nat) : ∃ r, droopRecord s v c = appendRecord s s.dev.trace r := by
  simp only [droopRecord]
  exact ⟨_, rfl⟩

/-- A core of a droop keeps its clock and what it has issued, and the buffer goes on, round by round. -/
structure Drooped (s : State) (c cap n : Nat) (t : State) : Prop where
  dev : t.dev = s.dev
  core : t.core c = s.core c
  cycle : t.cycle = s.cycle
  buffer : t.buffer (hbmKey s.dev.trace.toNat) cap n

theorem Drooped.next {s t : State} {c cap n : Nat} (h : Drooped s c cap n t) (room : cap ≠ 0) (v i : Nat) :
    Drooped s c cap ((n + 1) % 2 ^ 64) (droopRecord t v i) := by
  obtain ⟨r, appends⟩ := droopRecord_appends t v i
  obtain ⟨dev, core, cycle, buffer⟩ := h
  rw [appends]
  refine ⟨(appendRecord_dev ..).trans dev, (appendRecord_core ..).trans core, (kept_appendRecord ..).cycle.trans cycle, ?_⟩
  rw [← dev] at buffer ⊢
  exact buffer.append room r

theorem Drooped.rounds {s : State} {c cap pos : Nat} (h : s.buffer (hbmKey s.dev.trace.toNat) cap pos) (room : cap ≠ 0) (v first : Nat) (n : Nat)
    (fits : pos + n < 2 ^ 64) : Drooped s c cap (pos + n) ((List.range n).foldl (fun t i => droopRecord t v (first + i)) s) := by
  induction n with
  | zero => exact ⟨rfl, rfl, rfl, h⟩
  | succ n ih =>
    have small : (pos + n + 1) % 2 ^ 64 = pos + (n + 1) := Nat.mod_eq_of_lt fits
    rw [List.range_succ, List.foldl_append, List.foldl_cons, List.foldl_nil, ← small]
    exact (ih (by omega)).next room v (first + n)

/-! ## An issue with five loop indices -/

/-- An issue that reports five loop indices, of an agent in no partition. -/
def fiveIndices : Issued := ⟨0, 0, 0, 0, 0, 0, List.replicate 5 0⟩

/-- A trace buffer of 64 records, and such an issue in the last core of domain 1. -/
def droopS : State :=
  ({ State.reset with mem := Mem.writeL [] 0 (toLe 8 64) } : State).setCore 127 { Core.reset with issued := [fiveIndices] }

theorem droopS_core : (droopS.core 127).issued = [fiveIndices] := by rw [droopS, State.core_setCore]

theorem droopS_cycle : droopS.cycle = 0 := rfl

theorem droopS_buffer : droopS.buffer (hbmKey droopS.dev.trace.toNat) 64 0 := by
  refine ⟨show Mem.wf _ = true from ?_, ?_, ?_⟩ <;> decide +kernel

/-- The place of the domain's number holds a byte of the core's clock. -/
theorem getD_fiveIndices (s : State) (tag : Nat) (d : List Byte) (clock : s.coreCycle 127 = 0) :
    (traceRecord s 5 0 tag 0 0 0 (List.replicate 5 0) 127 d).getD 48 unlisted = 0 := by
  rw [traceRecord, clock]
  rfl

theorem length_traceRecord (s : State) (kind flags tag rid node pc core : Nat) (li : List W32) (d : List Byte) :
    64 ≤ (traceRecord s kind flags tag rid node pc li core d).length := by
  have ofs : ∀ l : List W32, (l.flatMap of32).length = 4 * l.length := fun l => by
    simp [List.length_flatMap, of32, length_toLe, Nat.mul_comm]
  simp [traceRecord, length_toLe, ofs, ofWord, zerosB]
  omega

/-- The records of a droop. -/
def droopRecords (s : State) (v : Nat) : State := (List.range 64).foldl (fun t i => droopRecord t v (64 * v + i)) s

/-- The last core of the domain writes its record behind the 63 others. -/
theorem droopRecords_last {s : State} {v cap : Nat} (h : s.buffer (hbmKey s.dev.trace.toNat) cap 0) (room : cap ≠ 0) :
    ∃ t, Drooped s (64 * v + 63) cap 63 t ∧ droopRecords s v = droopRecord t v (64 * v + 63) := by
  refine ⟨(List.range 63).foldl (fun t i => droopRecord t v (64 * v + i)) s, ?_, ?_⟩
  · have rounds := Drooped.rounds (c := 64 * v + 63) h room v (64 * v) 63 (by decide)
    rwa [Nat.zero_add] at rounds
  · rw [droopRecords, List.range_succ, List.foldl_append, List.foldl_cons, List.foldl_nil]

theorem exec_droopDetect (s : State) {v : Nat} (h : v < 64) :
    exec (.droopDetect v) s = .next ((droopRecords s v).setDomain v { s.dev.domains[v] with stretching := true }) := by
  change execDroopDetect v s = _
  rw [execDroopDetect, dif_pos h, droopRecords]

theorem rdNat_one (s : State) (k : Nat) : rdNat s k 1 = (Mem.get s.mem k).toNat := by simp [rdNat, Mem.readN, leNat]

theorem rdNat_setDomain (s : State) (v : Nat) (d : Domain) (k n : Nat) : rdNat (s.setDomain v d) k n = rdNat s k n := rfl

/-- The last record of the droop does not name its domain. -/
theorem droopS_domain : rdNat (droopRecords droopS 1) (hbmKey droopS.dev.trace.toNat + 64 + 64 * 63 + 48) 1 = 0 := by
  obtain ⟨t, ⟨dev, core, cycle, buffer⟩, last⟩ := droopRecords_last (v := 1) droopS_buffer (by decide)
  have issued : (t.core 127).issued = [fiveIndices] := by rw [core, droopS_core]
  have clock : t.coreCycle 127 = 0 := by rw [State.coreCycle, cycle, droopS_cycle, Nat.zero_sub]
  obtain ⟨tag, d, appends⟩ := droopRecord_of_issued (congrArg List.head? issued) 1
  rw [last, appends, rdNat_one, ← dev]
  rw [← dev] at buffer
  have byte := (get_appendRecord (pos := 63) buffer (by decide) (by decide) (length_traceRecord ..)).trans (getD_fiveIndices t tag d clock)
  exact congrArg BitVec.toNat byte

end Sys2Proof.Machine

section

open Sys2Proof Sys2Proof.Machine

/-- What the statement says of a domain's records in a buffer that they fit: each names the domain. -/
theorem droopRecords_domain (h : Obligations.Debugging) {s : State} {v cap pos : Nat} (domain : v < 64)
    (buffer : s.buffer (hbmKey s.dev.trace.toNat) cap pos) (room : 64 ≤ cap) (fits : pos + 64 ≤ 2 ^ 64) {i : Nat} (small : i < 64) :
    rdNat (droopRecords s v) (hbmKey s.dev.trace.toNat + 64 + 64 * ((pos + i) % cap) + 48) 1 = v := by
  obtain ⟨_, _, droops⟩ := h
  obtain ⟨⟨t, runs, _, _, _, _, _, records⟩, _⟩ := droops s v domain
  obtain ⟨ok, rfl, rfl⟩ := buffer
  obtain ⟨_, named, _⟩ := records ok room fits i small
  obtain rfl := Host.Outcome.next.inj ((exec_droopDetect s domain).symm.trans runs)
  exact (rdNat_setDomain ..).symm.trans named

/-- Refutes O54: where a core has issued for an agent with five loop indices, its droop record is longer than 64 bytes and does not name its
domain where R313 has it. -/
theorem not_debugging : ¬ Obligations.Debugging := by
  intro h
  have named := droopRecords_domain h (by decide : 1 < 64) droopS_buffer (by decide) (by decide) (by decide : 63 < 64)
  rw [show (0 + 63) % 64 = 63 from rfl, droopS_domain] at named
  exact absurd named (by decide)

end
